-- ==== Sys2Proof/Word.lean ====
section
/-! DEFINITION. The word types of R4 and R93: bytes, halfwords, words and dwords. -/

namespace Sys2Proof

/-- 8 bits (R4). -/
abbrev Byte := BitVec 8
/-- A halfword, 16 bits (R4). -/
abbrev Half := BitVec 16
/-- A word, 32 bits (R4). -/
abbrev Word := BitVec 32
/-- A dword, 64 bits (R4). -/
abbrev DWord := BitVec 64

end Sys2Proof
end

