-- ==== Sys2Proof/Syntax.lean ====
section
/-! DEFINITION. Syntax: operand forms (R55 to R74, R79) and Instr, one constructor per row of the opcode table.
The first 192 rows and the four relay immediate forms are kernel instructions, the T_ rows are task records,
and the remaining rows are the moves of the device's units and of the outside world. -/

namespace Sys2Proof

/-- Width codes of R59. -/
inductive Width where
  | w1 | w2 | w4 | w8
deriving DecidableEq, Repr

/-- Scopes of R197; `dflt` is the instruction's own default (SCOPE 000 of R74). -/
inductive Scope where
  | dflt | thread | core | cluster | chip | system
deriving DecidableEq, Repr

/-- FENCE kinds of R74; `dflt` is code 00. -/
inductive FenceKind where
  | dflt | acq | rel | ar
deriving DecidableEq, Repr

/-- Rounding selection of the modifier prefix (R74): as MODE, or one of the four modes of R96. -/
inductive RmSel where
  | mode | rn | rz | ru | rd
deriving DecidableEq, Repr

/-- Flush selection of the modifier prefix (R74). -/
inductive FtzSel where
  | mode | flush | keep
deriving DecidableEq, Repr

/-- The fields of a modifier prefix (R74). The bundle carries the prefix when some field is not at its default. -/
structure Mods where
  negc  : Bool := false
  fence : FenceKind := .dflt
  scope : Scope := .dflt
  kb    : Bool := false
  ka    : Bool := false
  ftz   : FtzSel := .mode
  absb  : Bool := false
  absa  : Bool := false
  negb  : Bool := false
  nega  : Bool := false
  sat   : Bool := false
  rm    : RmSel := .mode
deriving DecidableEq, Repr

/-- 16-bit form (R55): vb and vd are v0 to v31. -/
structure R16 where
  vb : BitVec 5
  vd : BitVec 5
deriving DecidableEq, Repr

/-- 16-bit movi (R55): a 5-bit signed immediate. -/
structure Movi16 where
  imm : BitVec 5
  vd  : BitVec 5
deriving DecidableEq, Repr

/-- The common layout of A3a and A3b (R60). -/
structure A3 where
  pred  : BitVec 3
  width : Width
  vb    : BitVec 6
  va    : BitVec 6
  vd    : BitVec 6
  m     : Mods
deriving DecidableEq, Repr

/-- icmp and fcmp with registers (R60, R63). -/
structure Cmp where
  pred  : BitVec 3
  width : Width
  vb    : BitVec 6
  va    : BitVec 6
  cond  : BitVec 3
  pd    : BitVec 3
  m     : Mods
deriving DecidableEq, Repr

/-- cvt (R103): the vb field holds the conversion code. -/
structure Cvt where
  pred  : BitVec 3
  width : Width
  code  : BitVec 6
  va    : BitVec 6
  vd    : BitVec 6
  m     : Mods
deriving DecidableEq, Repr

/-- The SFU forms (R60, R125): lookahead in [24:21]. -/
structure Sfu where
  pred  : BitVec 3
  width : Width
  la    : BitVec 4
  va    : BitVec 6
  vd    : BitVec 6
  m     : Mods
deriving DecidableEq, Repr

/-- rand (R126): the va field names the k register of the seed. -/
structure RandOp where
  pred  : BitVec 3
  width : Width
  la    : BitVec 4
  ka    : BitVec 6
  vd    : BitVec 6
deriving DecidableEq, Repr

/-- The immediate of an AI instruction (R64): imm8 alone, or imm8[5:0] below a prefix of 26 bits. -/
inductive Imm where
  | short (imm8 : BitVec 8)
  | long (hi : BitVec 26) (lo : BitVec 6)
deriving DecidableEq, Repr

/-- AI class (R64). -/
structure AiOp where
  pred : BitVec 3
  imm  : Imm
  va   : BitVec 6
  vd   : BitVec 6
  m    : Mods
deriving DecidableEq, Repr

/-- AI icmp and fcmp (R64). -/
structure CmpImm where
  pred : BitVec 3
  imm  : Imm
  va   : BitVec 6
  cond : BitVec 3
  pd   : BitVec 3
  m    : Mods
deriving DecidableEq, Repr

/-- Loads and stores (R66, R67): `size` is the width field, or the sub-word size code. -/
structure Mem where
  pred : BitVec 3
  hint : BitVec 2
  size : BitVec 2
  la   : BitVec 4
  va   : BitVec 6
  vd   : BitVec 6
  off  : BitVec 26
  m    : Mods
deriving DecidableEq, Repr

/-- Atomics and reductions (R66, R219). -/
structure Atom where
  pred : BitVec 3
  kind : BitVec 4
  la   : BitVec 4
  va   : BitVec 6
  vd   : BitVec 6
  off  : BitVec 26
  m    : Mods
deriving DecidableEq, Repr

/-- fence.r (R221): `space` is the hint field. -/
structure FenceR where
  pred  : BitVec 3
  space : BitVec 2
  va    : BitVec 6
  vlen  : BitVec 6
  m     : Mods
deriving DecidableEq, Repr

/-- phase (R222). -/
structure PhaseOp where
  pred : BitVec 3
  m    : Mods
deriving DecidableEq, Repr

/-- prefetch.g (R223). -/
structure Prefetch where
  pred : BitVec 3
  hint : BitVec 2
  va   : BitVec 6
  m    : Mods
deriving DecidableEq, Repr

/-- X class (R68). -/
structure XOp where
  la : BitVec 4
  b  : BitVec 6
  a  : BitVec 6
  d  : BitVec 6
deriving DecidableEq, Repr

/-- bra and call (R70). -/
structure BraOp where
  off  : BitVec 20
  pred : BitVec 3
deriving DecidableEq, Repr

/-- ret and exit (R70). -/
structure GuardOp where
  pred : BitVec 3
deriving DecidableEq, Repr

/-- jmp (R70). -/
structure JmpOp where
  k    : BitVec 6
  pred : BitVec 3
deriving DecidableEq, Repr

/-- brx (R70). -/
structure BrxOp where
  n    : BitVec 14
  k    : BitVec 6
  pred : BitVec 3
deriving DecidableEq, Repr

/-- loop (R70). -/
structure LoopOp where
  off  : BitVec 14
  k    : BitVec 6
  pred : BitVec 3
deriving DecidableEq, Repr

/-- S class without prefix (R71). -/
structure SOp where
  la : BitVec 4
  b  : BitVec 6
  a  : BitVec 6
  d  : BitVec 6
deriving DecidableEq, Repr

/-- barinit and expect (R227, R229): `imm` is the immediate prefix's 26 bits, 0 without one. -/
structure SImm where
  b   : BitVec 6
  a   : BitVec 6
  d   : BitVec 6
  imm : BitVec 26
deriving DecidableEq, Repr

/-- arrive, wait and bartest (R228, R230): SCOPE and FENCE come from a modifier prefix. -/
structure SMod where
  b : BitVec 6
  a : BitVec 6
  d : BitVec 6
  m : Mods
deriving DecidableEq, Repr

/-- The relay forms with an immediate prefix (R133). -/
structure RelayImm where
  seg : BitVec 3
  val : BitVec 6
  a   : BitVec 6
  d   : BitVec 6
deriving DecidableEq, Repr

/-- texld (R366): `pre` is the immediate prefix's 26 bits, 0 without one. -/
structure TexLd where
  la  : BitVec 4
  b   : BitVec 6
  a   : BitVec 6
  d   : BitVec 6
  pre : BitVec 26
deriving DecidableEq, Repr

/-- A task record (R79) without its opcode byte; `resv` is W0[15:13]. -/
structure TaskRec where
  region : Half
  resv   : BitVec 3
  det    : Bool
  xov    : Bool
  opq    : Bool
  eff    : Bool
  shed   : Bool
  opcode : Byte
  bufs   : Word
  w2     : Word
  imm    : Word
  pa     : DWord
  pb     : DWord
deriving DecidableEq, Repr

/-- Detail codes of the illegal-instruction fault (R78). -/
inductive Detail where
  | unassignedOp | reservedField | width | align | vregs | prefixCase | agent | code
deriving DecidableEq, Repr

/-- What an Announce message says of its grandmaster (R253), in the order in which the default best master clock
algorithm compares it. -/
structure GmData where
  priority1    : Byte
  clockClass   : Byte
  accuracy     : Byte
  variance     : Half
  priority2    : Byte
  identity     : DWord
  stepsRemoved : Half
deriving DecidableEq, Repr

/-- A PTP timestamp of seconds and nanoseconds (R106). -/
structure PtpTime where
  sec : BitVec 48
  ns  : Word
deriving DecidableEq, Repr

/-- A media packet as it reaches the engine of a stream (R262, R263, R266): its addresses, RTP payload type, synchronisation
source, sequence number and timestamp, the line it belongs to, the byte offset of its payload in the line, the payload, whether
it is the last packet of its band, and the port. -/
structure RtpPacket where
  stream : Nat
  srcIp  : Word
  dstIp  : Word
  dstPort : Half
  ptype  : Byte
  ssrc   : Word
  seq    : Half
  ts     : Word
  line   : Nat
  off    : Nat
  data   : List Byte
  last   : Bool
  port   : BitVec 2
deriving DecidableEq, Repr

/-- The sensors of R440. -/
inductive Sensor where
  | temperature | power | operatingPoint | ptpState
deriving DecidableEq, Repr

/-- ROOT's verdict in an announcement (R373, R376). -/
inductive Verdict where
  | ok | mismatch | late
deriving DecidableEq, Repr

/-- The operands of a move that is no kernel instruction and no task record: what the host, the network, the link, a test
bench or a device engine hands over with it. The move itself is a constructor of Instr; `State.arg` carries these. -/
inductive Arg where
  | none
  | idx (a : Nat)
  | idx2 (a b : Nat)
  | idx3 (a b c : Nat)
  | half (v : Half)
  | word (v : Word)
  | flag (b : Bool)
  | regWrite (off : BitVec 24) (n : Nat) (v : DWord)
  | aperture (off n : Nat) (bytes : List Byte)
  | cxl (isWrite : Bool) (off n : Nat) (bytes : List Byte)
  | certificate (slot off n : Nat)
  | challenge (slot : Nat) (nonce : BitVec 256)
  | measurements (index : Nat) (sign : Bool) (nonce : BitVec 256)
  | sensor (x : Sensor)
  | sync (port : BitVec 2) (domain : Nat) (twoStep : Bool) (t1 : PtpTime)
  | portTime (port : BitVec 2) (domain : Nat) (t : PtpTime)
  | announce (port : BitVec 2) (domain : Nat) (gm : GmData)
  | rtp (p : RtpPacket)
  | egress (f line off n : Nat)
  | scrub (core : Nat) (bank : Option Nat) (again : Bool)
  | arrival (g : Nat) (tag : Word) (rank : Nat) (digest : DWord) (fresh : Bool)
  | announcement (g : Nat) (tag : Word) (c : DWord) (verdict : Verdict)
  | chunk (g : Nat) (tag : Word) (dst rank off : Nat) (bytes : List Byte)
  | group (g : Nat) (tag : Word)
  | report (g : Nat) (tag : Word) (rank : Nat) (egress : DWord) (locked : Bool)
  | links (up : BitVec 6)
deriving DecidableEq, Repr

/-- One constructor per row of the opcode table. -/
inductive Instr where
  /-- MOV_16 (R56). 16-bit mov: copies v[vb] to v[vd], for v0 to v31. -/
  | mov16 (o : R16)
  /-- IADD_16 (R56). 16-bit iadd: vd := vd + vb. -/
  | iadd16 (o : R16)
  /-- ISUB_16 (R56). 16-bit isub: vd := vd - vb. -/
  | isub16 (o : R16)
  /-- AND_16 (R56). 16-bit and: vd := vd & vb. -/
  | and16 (o : R16)
  /-- OR_16 (R56). 16-bit or: vd := vd | vb. -/
  | or16 (o : R16)
  /-- XOR_16 (R56). 16-bit xor: vd := vd ^ vb. -/
  | xor16 (o : R16)
  /-- SHL_16 (R56). 16-bit shl: vd := vd shifted left by vb. -/
  | shl16 (o : R16)
  /-- SHR_16 (R56). 16-bit shr: vd := vd shifted right logically by vb. -/
  | shr16 (o : R16)
  /-- IMIN_16 (R56). 16-bit imin: vd := the signed minimum of vd and vb. -/
  | imin16 (o : R16)
  /-- IMAX_16 (R56). 16-bit imax: vd := the signed maximum of vd and vb. -/
  | imax16 (o : R16)
  /-- FADD_16 (R56). 16-bit fadd: vd := vd + vb in f32 under MODE. -/
  | fadd16 (o : R16)
  /-- FSUB_16 (R56). 16-bit fsub: vd := vd - vb in f32 under MODE. -/
  | fsub16 (o : R16)
  /-- FMUL_16 (R56). 16-bit fmul: vd := vd × vb in f32 under MODE. -/
  | fmul16 (o : R16)
  /-- FMAX_16 (R56). 16-bit fmax of vd and vb. -/
  | fmax16 (o : R16)
  /-- FMIN_16 (R56). 16-bit fmin of vd and vb. -/
  | fmin16 (o : R16)
  /-- MOVI_16 (R56). 16-bit movi: vd := the sign-extended 5-bit immediate. -/
  | movi16 (o : Movi16)
  /-- IADD (R111). A3a integer add, with optional saturation, per element. -/
  | iadd (o : A3)
  /-- ISUB (R111). A3a integer subtract, with optional saturation. -/
  | isub (o : A3)
  /-- IMUL (R111). A3a low 32 bits of the product, with optional saturation. -/
  | imul (o : A3)
  /-- IMULHI (R111). A3a high 32 bits of the signed 64-bit product. -/
  | imulhi (o : A3)
  /-- IMAC (R111). A3a multiply-accumulate into vd. -/
  | imac (o : A3)
  /-- IMIN (R111). A3a signed minimum. -/
  | imin (o : A3)
  /-- IMAX (R111). A3a signed maximum. -/
  | imax (o : A3)
  /-- IMINU (R111). A3a unsigned minimum. -/
  | iminu (o : A3)
  /-- IMAXU (R111). A3a unsigned maximum. -/
  | imaxu (o : A3)
  /-- AND (R111). A3a bitwise and. -/
  | and (o : A3)
  /-- OR (R111). A3a bitwise or. -/
  | or (o : A3)
  /-- XOR (R111). A3a bitwise xor. -/
  | xor (o : A3)
  /-- ANDN (R111). A3a a & ~b. -/
  | andn (o : A3)
  /-- SHL (R111). A3a left shift by the whole 32-bit amount. -/
  | shl (o : A3)
  /-- SHR (R111). A3a logical right shift. -/
  | shr (o : A3)
  /-- SAR (R111). A3a arithmetic right shift. -/
  | sar (o : A3)
  /-- ROT (R111). A3a rotate left by b[4:0]. -/
  | rot (o : A3)
  /-- BFE (R112). Extracts a bit field, optionally sign-extended. -/
  | bfe (o : A3)
  /-- BFI (R112). Inserts a bit field into vd. -/
  | bfi (o : A3)
  /-- POPC (R113). Counts the 1 bits of a. -/
  | popc (o : A3)
  /-- CLZ (R113). Counts the leading zero bits of a. -/
  | clz (o : A3)
  /-- BREV (R113). Reverses the bits of a. -/
  | brev (o : A3)
  /-- BSEL (R114). Assembles a word from bytes of (b:a) under the selector in vd. -/
  | bsel (o : A3)
  /-- SEL (R115). Unguarded select of a or b by a predicate, in every lane of the group. -/
  | sel (o : A3)
  /-- ICMP (R116). Integer comparison that writes a predicate. -/
  | icmp (o : Cmp)
  /-- IADDC (R117). Unguarded add with a carry chain through a carry predicate. -/
  | iaddc (o : A3)
  /-- LEA (R118). Forms a 64-bit address: pair plus sign-extended register. -/
  | lea (o : A3)
  /-- MOV (R119). A3a register copy, for widths 1 to 8. -/
  | mov (o : A3)
  /-- FADD (R120). f32 add with one rounding. -/
  | fadd (o : A3)
  /-- FSUB (R120). f32 subtract. -/
  | fsub (o : A3)
  /-- FMUL (R120). f32 multiply. -/
  | fmul (o : A3)
  /-- FFMA (R120). f32 fused multiply-add into vd. -/
  | ffma (o : A3)
  /-- FMIN (R121). f32 minimum, choosing an operand. -/
  | fmin (o : A3)
  /-- FMAX (R121). f32 maximum, choosing an operand. -/
  | fmax (o : A3)
  /-- FCMP (R122). Floating-point comparison that writes a predicate. -/
  | fcmp (o : Cmp)
  /-- FCLASS (R123). Writes a one-hot class mask of a. -/
  | fclass (o : A3)
  /-- HADD2 (R124). Packed f16 add. -/
  | hadd2 (o : A3)
  /-- HMUL2 (R124). Packed f16 multiply. -/
  | hmul2 (o : A3)
  /-- HFMA2 (R124). Packed f16 fused multiply-add. -/
  | hfma2 (o : A3)
  /-- BFMA2 (R124). Packed bf16 fused multiply-add. -/
  | bfma2 (o : A3)
  /-- CVT (R103). Converts a register under the conversion code. -/
  | cvt (o : Cvt)
  /-- FDIV (R120). Correctly rounded f32 division, interlocked. -/
  | fdiv (o : A3)
  /-- FRCP (R125). SFU reciprocal, with a lookahead. -/
  | frcp (o : Sfu)
  /-- FRSQ (R125). SFU reciprocal square root. -/
  | frsq (o : Sfu)
  /-- FSQRT (R125). SFU square root. -/
  | fsqrt (o : Sfu)
  /-- FEXP2 (R125). SFU 2^x. -/
  | fexp2 (o : Sfu)
  /-- FLOG2 (R125). SFU log2 x. -/
  | flog2 (o : Sfu)
  /-- FSINP (R125). SFU sin 2πx. -/
  | fsinp (o : Sfu)
  /-- FCOSP (R125). SFU cos 2πx. -/
  | fcosp (o : Sfu)
  /-- RAND (R127). Counter-based random number from the seed and gidx; advances the thread's counter. -/
  | rand (o : RandOp)
  /-- IADD_IMM (R111). AI integer add of an immediate. -/
  | iaddImm (o : AiOp)
  /-- IMUL_IMM (R111). AI integer multiply by an immediate. -/
  | imulImm (o : AiOp)
  /-- IMIN_IMM (R111). AI signed minimum with an immediate. -/
  | iminImm (o : AiOp)
  /-- IMAX_IMM (R111). AI signed maximum with an immediate. -/
  | imaxImm (o : AiOp)
  /-- IMINU_IMM (R111). AI unsigned minimum with an immediate. -/
  | iminuImm (o : AiOp)
  /-- IMAXU_IMM (R111). AI unsigned maximum with an immediate. -/
  | imaxuImm (o : AiOp)
  /-- AND_IMM (R111). AI bitwise and with an immediate. -/
  | andImm (o : AiOp)
  /-- OR_IMM (R111). AI bitwise or with an immediate. -/
  | orImm (o : AiOp)
  /-- XOR_IMM (R111). AI bitwise xor with an immediate. -/
  | xorImm (o : AiOp)
  /-- SHL_IMM (R111). AI left shift by an immediate. -/
  | shlImm (o : AiOp)
  /-- SHR_IMM (R111). AI logical right shift by an immediate. -/
  | shrImm (o : AiOp)
  /-- SAR_IMM (R111). AI arithmetic right shift by an immediate. -/
  | sarImm (o : AiOp)
  /-- ROT_IMM (R111). AI rotate by an immediate. -/
  | rotImm (o : AiOp)
  /-- ICMP_IMM (R116). AI integer comparison with an immediate, writing a predicate. -/
  | icmpImm (o : CmpImm)
  /-- MOV_IMM (R119). AI move of an immediate. -/
  | movImm (o : AiOp)
  /-- FADD_IMM (R120). AI f32 add of an immediate. -/
  | faddImm (o : AiOp)
  /-- FMUL_IMM (R120). AI f32 multiply by an immediate. -/
  | fmulImm (o : AiOp)
  /-- FMIN_IMM (R121). AI f32 minimum with an immediate. -/
  | fminImm (o : AiOp)
  /-- FMAX_IMM (R121). AI f32 maximum with an immediate. -/
  | fmaxImm (o : AiOp)
  /-- FFMA_IMM (R120). AI ffma: vd := va × imm + vd. -/
  | ffmaImm (o : AiOp)
  /-- FCMP_IMM (R122). AI floating-point comparison with an immediate. -/
  | fcmpImm (o : CmpImm)
  /-- LEA_IMM (R118). AI 64-bit address of a pair plus an immediate. -/
  | leaImm (o : AiOp)
  /-- LD_G (R218). Global load through the thread's view, with an optional acquire. -/
  | ldG (o : Mem)
  /-- LD_S (R218). Core scratchpad load. -/
  | ldS (o : Mem)
  /-- LD_C (R218). Cluster-shared load. -/
  | ldC (o : Mem)
  /-- LD_X (R218). Chip scratchpad load. -/
  | ldX (o : Mem)
  /-- LD_L (R218). Lane-private slice load. -/
  | ldL (o : Mem)
  /-- LD_K (R193). Constant-space load relative to the grid's argument pointer. -/
  | ldK (o : Mem)
  /-- ST_G (R218). Global store, with an optional release. -/
  | stG (o : Mem)
  /-- ST_S (R218). Core scratchpad store. -/
  | stS (o : Mem)
  /-- ST_C (R218). Cluster-shared store. -/
  | stC (o : Mem)
  /-- ST_X (R218). Chip scratchpad store. -/
  | stX (o : Mem)
  /-- ST_L (R218). Lane-private slice store. -/
  | stL (o : Mem)
  /-- LD_G_SUBWORD (R218). Global byte or halfword load, zero- or sign-extended. -/
  | ldGSubword (o : Mem)
  /-- LD_S_SUBWORD (R218). Scratchpad byte or halfword load. -/
  | ldSSubword (o : Mem)
  /-- LD_X_SUBWORD (R218). Chip scratchpad byte or halfword load. -/
  | ldXSubword (o : Mem)
  /-- ST_G_SUBWORD (R218). Global byte or halfword store. -/
  | stGSubword (o : Mem)
  /-- ST_S_SUBWORD (R218). Scratchpad byte or halfword store. -/
  | stSSubword (o : Mem)
  /-- ST_X_SUBWORD (R218). Chip scratchpad byte or halfword store. -/
  | stXSubword (o : Mem)
  /-- ATOM_S (R220). Returning atomic on core scratchpad, performed at the home. -/
  | atomS (o : Atom)
  /-- ATOM_C (R220). Returning atomic on cluster-shared memory. -/
  | atomC (o : Atom)
  /-- ATOM_G (R220). Returning atomic on global memory at the home L2 slice. -/
  | atomG (o : Atom)
  /-- ATOM_X (R220). Returning atomic on chip scratchpad. -/
  | atomX (o : Atom)
  /-- RED_S (R220). Non-returning reduction on core scratchpad. -/
  | redS (o : Atom)
  /-- RED_G (R220). Non-returning reduction on global memory. -/
  | redG (o : Atom)
  /-- RED_X (R220). Non-returning reduction on chip scratchpad. -/
  | redX (o : Atom)
  /-- FENCE_R (R221). Range fence: release and/or acquire over one interval of one space. -/
  | fenceR (o : FenceR)
  /-- PHASE (R222). Unlimited release and/or acquire over every space. -/
  | phase (o : PhaseOp)
  /-- PREFETCH_G (R223). Hints a line fetch; never faults and never stalls. -/
  | prefetchG (o : Prefetch)
  /-- CPY (R235). Checks a copy descriptor and enters the copy command into queue N. -/
  | cpy (o : XOp)
  /-- CPY_MC (R237). Enqueues a multicast copy to the scratchpads of gang members. -/
  | cpyMc (o : XOp)
  /-- CPY_MM (R238). Enqueues a copy into the Cask with a follow-on matrix command. -/
  | cpyMm (o : XOp)
  /-- QFENCE (R240). Orders later commands after earlier ones in the masked copy queues. -/
  | qfence (o : XOp)
  /-- OSUB (R243). Subscribes to an operand stream, or returns credits. -/
  | osub (o : XOp)
  /-- OPUB (R242). Publishes an operand stream from a stream record. -/
  | opub (o : XOp)
  /-- CASKRES (R155). Reads and checks a reservation record and installs it in range d. -/
  | caskres (o : XOp)
  /-- CASKREL (R156). Matrix-queue command that frees a reservation once earlier commands are done. -/
  | caskrel (o : XOp)
  /-- MGATHER (R158). Starts the gather unit filling rows of a range from indexed global rows. -/
  | mgather (o : XOp)
  /-- MMA (R164). Checks and enqueues D := D + A × B^T on the matrix engine. -/
  | mma (o : XOp)
  /-- MMA_G (R164). Enqueues a matrix multiply with rows of A chosen by an index list. -/
  | mmaG (o : XOp)
  /-- GMMA (R166). Enqueues a gang multiply over four tiles from stream windows. -/
  | gmma (o : XOp)
  /-- TZERO (R167). Zeroes a tile. -/
  | tzero (o : XOp)
  /-- TMOV_R (R168). Copies a tile row into a vector register across the group. -/
  | tmovR (o : XOp)
  /-- TMOV_C (R168). Copies a tile column into a vector register. -/
  | tmovC (o : XOp)
  /-- TLD (R169). Loads a tile from memory. -/
  | tld (o : XOp)
  /-- TST (R169). Stores a tile to memory. -/
  | tst (o : XOp)
  /-- TCVT (R171). Converts every element of a tile under a conversion code. -/
  | tcvt (o : XOp)
  /-- TADD (R172). Adds two tiles element by element. -/
  | tadd (o : XOp)
  /-- TSCALE (R172). Scales a tile by a k-register f32. -/
  | tscale (o : XOp)
  /-- BRA (R138). Relative branch for threads whose guard is true. -/
  | bra (o : BraOp)
  /-- CALL (R138). Pushes the return address onto the return stack and branches. -/
  | call (o : BraOp)
  /-- RET (R138). Pops the return stack and transfers there. -/
  | ret (o : GuardOp)
  /-- JMP (R139). Jumps to the 64-bit target in a k pair. -/
  | jmp (o : JmpOp)
  /-- BRX (R139). Indexed branch into a table of n + 1 entries. -/
  | brx (o : BrxOp)
  /-- LOOP (R140). Decrements a k-register count once per group and branches while non-zero. -/
  | loop (o : LoopOp)
  /-- EXIT (R141). Ends each thread whose guard is true. -/
  | exit (o : GuardOp)
  /-- BARINIT (R227). Initialises a barrier object with an arrival count. -/
  | barinit (o : SImm)
  /-- ARRIVE (R228). One update of |G| arrivals on a barrier, with a release; returns a token. -/
  | arrive (o : SMod)
  /-- EXPECT (R229). Adds an expected byte count to a barrier's current phase. -/
  | expect (o : SImm)
  /-- WAIT (R230). Waits until the barrier's phase passes the token, then acquires. -/
  | wait (o : SMod)
  /-- BARTEST (R230). Tests without waiting whether the token's phase has completed. -/
  | bartest (o : SMod)
  /-- RELAY_AT (R133). Reads a register from the lane of G at an index within the segment. -/
  | relayAt (o : SOp)
  /-- RELAY_LO (R133). Reads from the lane at a distance below. -/
  | relayLo (o : SOp)
  /-- RELAY_HI (R133). Reads from the lane at a distance above. -/
  | relayHi (o : SOp)
  /-- RELAY_SW (R133). Reads from the lane whose number differs by an XOR mask. -/
  | relaySw (o : SOp)
  /-- RELAY_AT_IMM (R133). relay.at with index and segment from an immediate prefix. -/
  | relayAtImm (o : RelayImm)
  /-- RELAY_LO_IMM (R133). relay.lo with distance and segment from an immediate prefix. -/
  | relayLoImm (o : RelayImm)
  /-- RELAY_HI_IMM (R133). relay.hi with distance and segment from an immediate prefix. -/
  | relayHiImm (o : RelayImm)
  /-- RELAY_SW_IMM (R133). relay.sw with mask and segment from an immediate prefix. -/
  | relaySwImm (o : RelayImm)
  /-- POLL_SOME (R134). Sets a predicate in all of G if the source is true in any lane. -/
  | pollSome (o : SOp)
  /-- POLL_EACH (R134). Sets a predicate in all of G if the source is true in every lane. -/
  | pollEach (o : SOp)
  /-- POLL_MASK (R135). Writes the mask of lanes of G whose source predicate is true. -/
  | pollMask (o : SOp)
  /-- PEERS (R135). Writes the mask of lanes of G holding an equal value. -/
  | peers (o : SOp)
  /-- GRED (R136). Reduces a value over the lanes of G. -/
  | gred (o : SOp)
  /-- CONVERGE (R142). Holds participants until all arrive, then releases them as one group with core-scope ordering. -/
  | converge (o : SOp)
  /-- YIELD (R145). Defers issue by one clock and lets a pending halt take effect. -/
  | yield (o : SOp)
  /-- MOVS (R129). Reads or writes special values, or copies between vector and k registers. -/
  | movs (o : SOp)
  /-- TIME (R131). Writes the presentation clock, or the launch timestamp in deterministic mode, to a k pair. -/
  | time (o : SOp)
  /-- CYCLES (R131). Writes the core clock count, or the retired count in deterministic mode. -/
  | cycles (o : SOp)
  /-- RETIRED (R131). Writes the warp's retired count. -/
  | retired (o : SOp)
  /-- LAUNCH (R326). Reads a launch record and enters a child grid in the pending-launch queue. -/
  | launch (o : SOp)
  /-- CONT (R328). Ends the team with a continuation packet. -/
  | cont (o : SOp)
  /-- QPUSH (R248). Pushes one record per lane onto a work queue. -/
  | qpush (o : SOp)
  /-- QPOP (R249). Pops a work-queue record per lane, waiting while empty. -/
  | qpop (o : SOp)
  /-- SQBIND (R268). Binds a stream register to a received frame or a frame object. -/
  | sqbind (o : SOp)
  /-- SQRD (R269). Reads and decodes a pixel of a received frame once its band has landed. -/
  | sqrd (o : SOp)
  /-- SQWR (R270). Encodes and writes a pixel to the bound frame's image. -/
  | sqwr (o : SOp)
  /-- SQREL (R268). Unbinds a stream register. -/
  | sqrel (o : SOp)
  /-- RAYQ (R347). Starts a ray query and runs it to its first event. -/
  | rayq (o : SOp)
  /-- RAYNEXT (R348). Applies a recorded decision and runs the query to its next event. -/
  | raynext (o : SOp)
  /-- RAYACC (R349). Records acceptance of the presented candidate. -/
  | rayacc (o : SOp)
  /-- RAYIGN (R349). Records that the presented candidate is ignored. -/
  | rayign (o : SOp)
  /-- RAYEND (R349). Records commit of the candidate and the end of the query. -/
  | rayend (o : SOp)
  /-- RAYRD (R350). Reads a value of the candidate or of the committed hit. -/
  | rayrd (o : SOp)
  /-- RTINV (R351). Invalidates the region's leaf prediction entries in every cluster. -/
  | rtinv (o : SOp)
  /-- TEX (R365). Filters a texture at normalised coordinates, with residency status. -/
  | tex (o : SOp)
  /-- TEXLD (R366). Reads one texel at integer coordinates plus an offset. -/
  | texld (o : TexLd)
  /-- TEXQ (R366). Returns a texture dimension or format value. -/
  | texq (o : SOp)
  /-- TEXFB (R366). ORs the tiles a tex would touch into the feedback map. -/
  | texfb (o : SOp)
  /-- EMITV (R362). Emits a vertex and returns its warp-local index. -/
  | emitv (o : SOp)
  /-- EMITP (R362). Emits a primitive with its key. -/
  | emitp (o : SOp)
  /-- PIXOUT (R361). Resolves the lane's pixel with a colour. -/
  | pixout (o : SOp)
  /-- PIXLOCK (R363). Requests the lock on the lane's pixel position. -/
  | pixlock (o : SOp)
  /-- PIXUNLOCK (R363). Releases the pixel lock with a cluster-scope release. -/
  | pixunlock (o : SOp)
  /-- DISCARD (R362). Resolves the lane's pixel with no colour and exits the thread. -/
  | discard (o : SOp)
  /-- BRK (R146). Halts the warp with halt cause BREAK and a code. -/
  | brk (o : SOp)
  /-- AG_CLAIM (R315). Agent claims a ticket of a dispatch record and reserves resources. -/
  | agClaim (o : SOp)
  /-- AG_INST (R315). Agent instantiates a claimed team or restores a saved one. -/
  | agInst (o : SOp)
  /-- AG_END (R315). Agent frees an ended team's resources and raises ENDED. -/
  | agEnd (o : SOp)
  /-- AG_SAVE (R315). Agent saves a halted team's state and frees its resources. -/
  | agSave (o : SOp)
  /-- T_NOP (R286). Task that does nothing and completes at decode. -/
  | tNop (t : TaskRec)
  /-- T_HALT (R275). Stops decode; the stream halts when it retires. -/
  | tHalt (t : TaskRec)
  /-- T_FENCE (R298). Orders every older task before every younger one, optionally with a system release. -/
  | tFence (t : TaskRec)
  /-- T_JMP (R285). Transfers decode, unconditionally or on a buffer word once its writer completes. -/
  | tJmp (t : TaskRec)
  /-- T_CALL (R285). Pushes the next record's address and transfers decode. -/
  | tCall (t : TaskRec)
  /-- T_RET (R285). Pops the task call stack and continues decode there. -/
  | tRet (t : TaskRec)
  /-- T_SLOT (R286). Sets the current Almanac slot for later tasks. -/
  | tSlot (t : TaskRec)
  /-- T_KERN (R279). Launches a compute grid from a launch block. -/
  | tKern (t : TaskRec)
  /-- T_DRAW (R355). Runs a graphics pass from a pass block. -/
  | tDraw (t : TaskRec)
  /-- T_COPY (R279). Task-level copy from a copy descriptor. -/
  | tCopy (t : TaskRec)
  /-- T_FILL (R283). Fills rows with a 32-bit pattern. -/
  | tFill (t : TaskRec)
  /-- T_FEED (R288). Pushes records into a work queue, optionally closing it. -/
  | tFeed (t : TaskRec)
  /-- T_COLL (R373). Starts a collective instance over Barug Link. -/
  | tColl (t : TaskRec)
  /-- T_TBAR (R383). Starts a timed barrier for a frame. -/
  | tTbar (t : TaskRec)
  /-- T_FRAME (R289). Opens a frame object from a template. -/
  | tFrame (t : TaskRec)
  /-- T_PRESENT (R258). Seals a frame and makes it READY when it issues. -/
  | tPresent (t : TaskRec)
  /-- T_STREAM (R289). Installs or removes a media stream. -/
  | tStream (t : TaskRec)
  /-- T_POOL (R290). Configures physical buffer pools of size classes. -/
  | tPool (t : TaskRec)
  /-- T_BUF (R291). Sets a logical buffer's class and unbinds it. -/
  | tBuf (t : TaskRec)
  /-- T_RELEASE (R291). Unbinds a logical buffer and frees its physical buffer at retirement. -/
  | tRelease (t : TaskRec)
  /-- T_MAP (R396). Writes page-table entries and invalidates translations. -/
  | tMap (t : TaskRec)
  /-- T_BVH (R336). Builds, refits or updates an acceleration structure. -/
  | tBvh (t : TaskRec)
  /-- T_SIG (R287). Releases at system scope, writes a word and optionally interrupts the host. -/
  | tSig (t : TaskRec)
  /-- T_WAIT (R287). Polls a word until a test holds or a timeout passes. -/
  | tWait (t : TaskRec)
  /-- ILLEGAL_ENCODING (R78). A fetched bundle with a reserved opcode, a reserved prefix kind or a bad field raises the illegal-instruction fault and halts the warp. -/
  | illegalEncoding (d : Detail)
  /-- RESERVED_TASK_OPCODE (R80). Decode of a task record with a reserved opcode faults precisely with ILLEGAL_TASK. -/
  | reservedTaskOpcode (t : TaskRec)
  /-- TASK_ISSUE (R297). The window issues up to four ready tasks per sequencer clock by deadline. -/
  | taskIssue
  /-- TASK_COMPLETION (R302). A task's work completes, with or without a fault, and its dependants are decremented. -/
  | taskCompletion
  /-- TASK_RETIREMENT (R302). A completed head task retires in order, freeing buffers and writing records. -/
  | taskRetirement
  /-- T_WAIT_POLL (R287). A t.wait re-reads its word at least once every 1 µs. -/
  | tWaitPoll
  /-- WAIT_TIMEOUT (R287). A t.wait's timeout passes and the task faults. -/
  | waitTimeout
  /-- DOORBELL (R273). A host write to TS_TAIL publishes records to decode. -/
  | doorbell
  /-- STREAM_ENABLE (R275). Writing TS_CTL.ENABLE 1 starts or resumes decode. -/
  | streamEnable
  /-- STREAM_DISABLE (R275). Writing TS_CTL.ENABLE 0 stops decode and enters DRAINING. -/
  | streamDisable
  /-- STREAM_RESUME (R275). Writing TS_CTL.RESUME restarts decode from HALTED or FAULTED. -/
  | streamResume
  /-- STREAM_ABORT (R275). Writing TS_CTL.ABORT returns the stream to IDLE and frees every buffer. -/
  | streamAbort
  /-- STREAM_DRAINED (R275). The window empties in DRAINING and the stream becomes IDLE. -/
  | streamDrained
  /-- REGION_SYNC (R33). Writing REGION_SYNC.ID starts reading and checking a region control block. -/
  | regionSync
  /-- REGION_SYNC_COMPLETE (R33). A synchronisation installs or rejects the block, sets STATUS and clears BUSY. -/
  | regionSyncComplete
  /-- HALT_RESUME (R412). HALT_CMD RESUME reissues the faulting bundle of a halted warp. -/
  | haltResume
  /-- HALT_SKIP (R412). HALT_CMD SKIP continues a halted warp after the faulting bundle. -/
  | haltSkip
  /-- HALT_KILL (R412). HALT_CMD KILL kills the halted warp's fault domain. -/
  | haltKill
  /-- HALT_COMMAND_DONE (R412). A halt command completes and BUSY clears. -/
  | haltCommandDone
  /-- HALT_DATA_WRITE (R413). Writes the selected register of a halted warp. -/
  | haltDataWrite
  /-- FD_KILL (R419). Writing FD_KILL starts the kill of a fault domain. -/
  | fdKill
  /-- KILL_COMPLETE (R419). A kill finishes its steps, writes a KILL record and clears BUSY. -/
  | killComplete
  /-- OBJ_BREAK (R417). Writing OBJ_BREAK breaks a chip-scratchpad barrier object. -/
  | objBreak
  /-- COMPUTE_RESET (R428). RESET_CTL level 1 resets the compute dies and the task machinery. -/
  | computeReset
  /-- HOUSE_RESET (R428). RESET_CTL level 2 also reboots the house core and retrains the ports. -/
  | houseReset
  /-- DEVICE_RESET (R428). RESET_CTL level 3 resets everything. -/
  | deviceReset
  /-- FUNCTION_LEVEL_RESET (R428). A PCIe function level reset performs a level 2 reset. -/
  | functionLevelReset
  /-- CONVENTIONAL_RESET (R428). A conventional reset, hot reset or link down performs a level 3 reset. -/
  | conventionalReset
  /-- RECOVERY_GO (R404). REC_CTL.GO starts verification of a staged image in recovery mode. -/
  | recoveryGo
  /-- RECOVERY_VERIFY_DONE (R404). Verification ends: the image is written and the device restarts, or RECOVERY returns. -/
  | recoveryVerifyDone
  /-- PTP_ENABLE (R255). Writing PTP_CTL.ENABLE 1 starts PTP operation. -/
  | ptpEnable
  /-- PTP_DISABLE (R255). Writing PTP_CTL.ENABLE 0 returns the servo to FREERUN. -/
  | ptpDisable
  /-- QUIET_CTL_WRITE (R439). A QUIET_CTL write sets the caps and the scheduler re-evaluates its operating point. -/
  | quietCtlWrite
  /-- ALM_STATUS_READ (R317). Reading ALM_STATUS returns and clears OVERRUNS. -/
  | almStatusRead
  /-- SP_STATUS_READ (R422). Reading SP_STATUS returns and clears CORRECTED. -/
  | spStatusRead
  /-- REGISTER_WRITE (R5). A write to a register with no row of its own updates its fields by their access codes. -/
  | registerWrite
  /-- APERTURE_READ (R430). A host read through the BAR 2 device-memory aperture. -/
  | apertureRead
  /-- APERTURE_WRITE (R430). A host write through the aperture, published at system scope. -/
  | apertureWrite
  /-- CXL_MEM_ACCESS (R432). A host CXL.mem access to the device's HDM-DB range. -/
  | cxlMemAccess
  /-- GET_VERSION (R403). SPDM GET_VERSION request over DOE. -/
  | getVersion
  /-- GET_CAPABILITIES (R403). SPDM GET_CAPABILITIES request. -/
  | getCapabilities
  /-- NEGOTIATE_ALGORITHMS (R403). SPDM NEGOTIATE_ALGORITHMS request. -/
  | negotiateAlgorithms
  /-- GET_DIGESTS (R403). SPDM GET_DIGESTS request. -/
  | getDigests
  /-- GET_CERTIFICATE (R403). SPDM GET_CERTIFICATE request. -/
  | getCertificate
  /-- CHALLENGE (R403). SPDM CHALLENGE, answered with ECDSA and HSS signatures. -/
  | challenge
  /-- GET_MEASUREMENTS (R403). SPDM GET_MEASUREMENTS returning MEAS0 to MEAS7. -/
  | getMeasurements
  /-- PLDM_REQUEST (R440). An MCTP/PLDM request over SMBus for sensors. -/
  | pldmRequest
  /-- BYPASS (R441). JTAG BYPASS instruction. -/
  | bypass
  /-- IDCODE (R441). JTAG IDCODE instruction returning the part's code. -/
  | idcode
  /-- SAMPLE_PRELOAD (R441). JTAG SAMPLE/PRELOAD instruction. -/
  | samplePreload
  /-- EXTEST (R441). JTAG EXTEST, holding the device in level 3 reset. -/
  | extest
  /-- TEST_LOGIC_RESET (R441). Test logic reset ends EXTEST's hold of the device. -/
  | testLogicReset
  /-- SYNC (R254). A PTP Sync message arrives; the servo corrects and may change state. -/
  | sync
  /-- FOLLOW_UP (R253). A two-step PTP Follow_Up message arrives. -/
  | followUp
  /-- DELAY_REQ (R253). The device sends a timestamped Delay_Req at its interval. -/
  | delayReq
  /-- DELAY_RESP (R253). A PTP Delay_Resp arrives for the end-to-end delay. -/
  | delayResp
  /-- ANNOUNCE (R253). A PTP Announce arrives for the best master clock algorithm. -/
  | announce
  /-- ANNOUNCE_TIMEOUT (R254). The announce timeout expires: failover or HOLDOVER. -/
  | announceTimeout
  /-- RTP_PACKET_RECEIVE (R266). A media packet arrives, is merged by sequence number and lands its bytes. -/
  | rtpPacketReceive
  /-- RECEIVE_DEADLINE (R266). A band not complete by its deadline completes without its missing bytes. -/
  | receiveDeadline
  /-- FRAME_DEADLINE (R258). PTIME - MARGIN is reached and an unready frame goes LATE. -/
  | frameDeadline
  /-- FRAME_PTIME (R258). PTIME is reached: a READY frame is presented, a LATE one substituted. -/
  | framePtime
  /-- PACKET_EGRESS (R260). A paced packet of a frame or substitution leaves the port. -/
  | packetEgress
  /-- TRANSMISSION_END (R260). The last packet has left and the frame's DONE is set. -/
  | transmissionEnd
  /-- ALMANAC_CYCLE_START (R318). At each cycle start the Almanac latches and checks every entry. -/
  | almanacCycleStart
  /-- INSTANCE_OPEN (R319). A slot instance opens and its bound tasks may issue. -/
  | instanceOpen
  /-- INSTANCE_END (R320). A slot instance ends and its RULE applies to incomplete bound tasks. -/
  | instanceEnd
  /-- WAVE_PLACEMENT (R311). The scheduler places the most urgent wave and writes its dispatch record. -/
  | wavePlacement
  /-- AGING (R308). A no-deadline task unplaced for 10 ms gains a deadline. -/
  | aging
  /-- PRE_EMPTION (R331). The scheduler halts victim teams to free cores for an urgent wave. -/
  | preEmption
  /-- SWAP_OUT (R50). A team waiting past SWAP_WAIT is saved and its resources freed. -/
  | swapOut
  /-- RESTORE (R50). An eligible saved team is restored to a core. -/
  | restore
  /-- TEAM_END (R38). A team's last warp and commands are done; the core pushes TEAM_END. -/
  | teamEnd
  /-- GRID_END (R38). A grid's last team has ended; its writes are published and the completion fires. -/
  | gridEnd
  /-- HELD_EVENT_PUSH (R314). An event held on a full event queue is pushed once a pop frees an entry. -/
  | heldEventPush
  /-- LAUNCH_ADMISSION (R327). The scheduler admits a pending-launch queue entry as a child grid. -/
  | launchAdmission
  /-- POWER_SAMPLE (R322). Every 100 µs the power controller samples power and adjusts the power cap. -/
  | powerSample
  /-- OP_CHANGE_SETTLED (R323). An operating-point change settles, releasing held first waves. -/
  | opChangeSettled
  /-- ROUND_BOUNDARY (R183). When every warp's share has ended and landings are done, held effects are applied in slot order. -/
  | roundBoundary
  /-- QUANTUM_EXPIRY (R182). A warp's retired count rises by Q and its round share ends. -/
  | quantumExpiry
  /-- PENDING_WRITEBACK (R76). A long-latency instruction completes and writes its pending destination. -/
  | pendingWriteback
  /-- MATRIX_COMMAND_START (R149). The matrix engine starts the next accepted command and reads its Cask bytes. -/
  | matrixCommandStart
  /-- MATRIX_COMMAND_COMPLETE (R162). A matrix command writes its destination and logs its flags. -/
  | matrixCommandComplete
  /-- COPY_BURST_LANDING (R234). A copy queue's burst of up to 4 KiB lands and is counted on BAR. -/
  | copyBurstLanding
  /-- GATHER_ROW_LANDING (R158). The gather unit lands a row and its scales and counts them on BAR. -/
  | gatherRowLanding
  /-- STREAM_CHUNK_DELIVERY (R244). The distributor lands a chunk into a subscription's slot and counts it. -/
  | streamChunkDelivery
  /-- PIXEL_RESOLUTION (R361). The back end applies a pixel's resolution once earlier primitives are resolved. -/
  | pixelResolution
  /-- PIXLOCK_GRANT (R363). A pixel lock is granted in primitive order with a cluster-scope acquire. -/
  | pixlockGrant
  /-- BINNED_RASTERISATION (R356). After the geometry grid ends, owners rasterise their bins in order. -/
  | binnedRasterisation
  /-- PASS_COMPLETE (R368). A pass completes and its back-end writes are published. -/
  | passComplete
  /-- BVH_BUILD_COMPLETE (R336). t.bvh finishes the node area and writes the header. -/
  | bvhBuildComplete
  /-- PAGE_FAULT_SERVICE (R400). The paging service finishes a fault-queue entry and accesses replay. -/
  | pageFaultService
  /-- PAGE_TIMEOUT (R416). An access stalled longer than PAGE_TO halts its warp with cause PAGE. -/
  | pageTimeout
  /-- SCRUB (R422). The scrubber reads and corrects every scratchpad stripe each 100 ms. -/
  | scrub
  /-- HOUSE_DIVERGED (R19). The lock-step house cores mismatch and stop. -/
  | houseDiverged
  /-- LOG_RECORD_TIMEOUT (R409). An open log record is closed 64 µs after it opened. -/
  | logRecordTimeout
  /-- HALT_RECORD_WRITE (R411). A held halt record is written once the halt ring has room. -/
  | haltRecordWrite
  /-- JOURNAL_MOVE (R426). The house core moves staged records into the journal ring. -/
  | journalMove
  /-- COLLECTIVE_ARRIVAL (R373). A member's arrival reaches ROOT and may close the instance. -/
  | collectiveArrival
  /-- COLLECTIVE_ANNOUNCEMENT (R373). A member receives ROOT's contributor set and verdict. -/
  | collectiveAnnouncement
  /-- COLLECTIVE_CHUNK (R380). A chunk arrives from a peer into a slot or the spill area. -/
  | collectiveChunk
  /-- COLLECTIVE_DEADLINE (R375). ROOT's clock reaches DEADLINE and the instance closes. -/
  | collectiveDeadline
  /-- COLL_NOROOT (R376). No announcement by DEADLINE + 1 ms and the member fails. -/
  | collNoroot
  /-- EGRESS_REPORT (R384). A timed-barrier member's egress report arrives. -/
  | egressReport
  /-- TBAR_REPORT_TIMEOUT (R385). At PTIME + 2 ms a member writes its result record with the reports held. -/
  | tbarReportTimeout
  /-- LINK_STATE_CHANGE (R436). A Barug Link port trains or drops and LINK_STATUS.UP changes. -/
  | linkStateChange
  /-- LOST_WRITE (R421). A dirty L2 or Cellar line with an uncorrectable error is dropped, memory keeps its older contents, and a MEMERR record with CODE 2 is written. -/
  | lostWrite
  /-- PAGING_SERVICE_START (R429). The house firmware sets DEV_STATUS.PAGING once its paging service has started after boot, and then finishes the fault-queue entries written in the meantime. -/
  | pagingServiceStart
deriving DecidableEq, Repr

end Sys2Proof
end

