-- ==== Sys2Proof/Decode.lean ====
section
/-! DEFINITION. Decode: from the halfwords of a bundle to an instruction or a detail of R78, and from a task record to
its task; the static checks of R75 and R78; and AFTER them the encoder, written from the same tables. -/

namespace Sys2Proof

/-! ## Field helpers -/

/-- Bits [lo + n - 1 : lo] of a word. -/
def fld (w : Word) (lo n : Nat) : BitVec n := w.extractLsb' lo n

/-- A 1-bit field as a Bool. -/
def flag (w : Word) (i : Nat) : Bool := w.getLsbD i

/-- Registers per operand of a width code (R59). -/
def Width.n : Width → Nat
  | .w1 => 1 | .w2 => 2 | .w4 => 4 | .w8 => 8

def Width.ofBits (b : BitVec 2) : Width :=
  match b.toNat with
  | 0 => .w1 | 1 => .w2 | 2 => .w4 | _ => .w8

def Width.bits : Width → BitVec 2
  | .w1 => 0 | .w2 => 1 | .w4 => 2 | .w8 => 3

/-! ## Modifier prefixes (R74)

A prefix's bits [31:6] are kept as 26 bits; bit i of the prefix is bit i - 6 of them. -/

def FenceKind.bits : FenceKind → BitVec 2
  | .dflt => 0 | .acq => 1 | .rel => 2 | .ar => 3

def FenceKind.ofBits (b : BitVec 2) : FenceKind :=
  match b.toNat with
  | 0 => .dflt | 1 => .acq | 2 => .rel | _ => .ar

def Scope.bits : Scope → BitVec 3
  | .dflt => 0 | .thread => 1 | .core => 2 | .cluster => 3 | .chip => 4 | .system => 5

/-- SCOPE 110 and 111 are reserved. -/
def Scope.ofBits (b : BitVec 3) : Option Scope :=
  match b.toNat with
  | 0 => some .dflt | 1 => some .thread | 2 => some .core | 3 => some .cluster | 4 => some .chip | 5 => some .system
  | _ => none

def FtzSel.bits : FtzSel → BitVec 2
  | .mode => 0 | .flush => 1 | .keep => 2

/-- FTZ 11 is reserved. -/
def FtzSel.ofBits (b : BitVec 2) : Option FtzSel :=
  match b.toNat with
  | 0 => some .mode | 1 => some .flush | 2 => some .keep
  | _ => none

def RmSel.bits : RmSel → BitVec 3
  | .mode => 0 | .rn => 1 | .rz => 2 | .ru => 3 | .rd => 4

/-- RM 101 to 111 are reserved. -/
def RmSel.ofBits (b : BitVec 3) : Option RmSel :=
  match b.toNat with
  | 0 => some .mode | 1 => some .rn | 2 => some .rz | 3 => some .ru | 4 => some .rd
  | _ => none

/-- The 26 field bits of a modifier prefix (R74), reserved bits zero. -/
def Mods.bits (m : Mods) : BitVec 26 :=
  (0#7 ++ BitVec.ofBool m.negc ++ m.fence.bits ++ m.scope.bits ++ 0#1 ++ BitVec.ofBool m.kb ++ BitVec.ofBool m.ka ++
    m.ftz.bits ++ BitVec.ofBool m.absb ++ BitVec.ofBool m.absa ++ BitVec.ofBool m.negb ++ BitVec.ofBool m.nega ++
    BitVec.ofBool m.sat ++ m.rm.bits : BitVec 26)

/-- The modifier fields of R74, or none where a reserved bit is set or a field holds a reserved value. -/
def Mods.ofBits (p : BitVec 26) : Option Mods :=
  if p.extractLsb' 19 7 = 0 ∧ p.extractLsb' 12 1 = 0 then
    match Scope.ofBits (p.extractLsb' 13 3), FtzSel.ofBits (p.extractLsb' 8 2), RmSel.ofBits (p.extractLsb' 0 3) with
    | some sc, some fz, some rm =>
      some { negc := p.getLsbD 18, fence := FenceKind.ofBits (p.extractLsb' 16 2), scope := sc, kb := p.getLsbD 11,
             ka := p.getLsbD 10, ftz := fz, absb := p.getLsbD 7, absa := p.getLsbD 6, negb := p.getLsbD 5,
             nega := p.getLsbD 4, sat := p.getLsbD 3, rm := rm }
    | _, _, _ => none
  else none

/-! Masks of the modifier fields, over the same 26 bits. -/
def mkRM : BitVec 26 := 0x7#26
def mkSAT : BitVec 26 := 0x8#26
def mkNEGA : BitVec 26 := 0x10#26
def mkNEGB : BitVec 26 := 0x20#26
def mkABSA : BitVec 26 := 0x40#26
def mkABSB : BitVec 26 := 0x80#26
def mkFTZ : BitVec 26 := 0x300#26
def mkKA : BitVec 26 := 0x400#26
def mkKB : BitVec 26 := 0x800#26
def mkSCOPE : BitVec 26 := 0xE000#26
def mkFENCE : BitVec 26 := 0x30000#26
def mkNEGC : BitVec 26 := 0x40000#26
/-- Every bit that belongs to a modifier field (the others are reserved). -/
def mkFields : BitVec 26 := 0x7EFFF#26

/-- The modifier fields an instruction accepts (the table of R75, and the Prefix column of R72). SAT of fdiv is accepted: R98 gives
its effect and R120 its form, though R75's row omits it; DESIGN CHOICE, log entry 154. -/
def Instr.modMask : Instr → BitVec 26
  | .iadd _ | .isub _ | .imul _ | .imac _ => mkSAT ||| mkKA ||| mkKB
  | .imulhi _ | .imin _ | .imax _ | .iminu _ | .imaxu _ | .and _ | .or _ | .xor _ | .andn _ | .shl _ | .shr _
  | .sar _ | .rot _ | .bfe _ | .bfi _ | .bsel _ | .sel _ | .icmp _ | .iaddc _ | .lea _ => mkKA ||| mkKB
  | .popc _ | .clz _ | .brev _ | .mov _ | .iminImm _ | .imaxImm _ | .iminuImm _ | .imaxuImm _ | .andImm _
  | .orImm _ | .xorImm _ | .shlImm _ | .shrImm _ | .sarImm _ | .rotImm _ | .icmpImm _ | .leaImm _ | .ldK _
  | .prefetchG _ => mkKA
  | .fadd _ | .fsub _ | .fmul _ | .hadd2 _ | .hmul2 _ => mkRM ||| mkSAT ||| mkNEGA ||| mkNEGB ||| mkABSA ||| mkABSB ||| mkFTZ ||| mkKA ||| mkKB
  | .ffma _ | .hfma2 _ | .bfma2 _ => mkRM ||| mkSAT ||| mkNEGA ||| mkNEGB ||| mkABSA ||| mkABSB ||| mkFTZ ||| mkKA ||| mkKB ||| mkNEGC
  | .fmin _ | .fmax _ | .fcmp _ | .fclass _ => mkNEGA ||| mkNEGB ||| mkABSA ||| mkABSB ||| mkFTZ ||| mkKA ||| mkKB
  | .cvt _ => mkRM ||| mkSAT ||| mkFTZ ||| mkKA
  | .fdiv _ => mkRM ||| mkSAT ||| mkNEGA ||| mkNEGB ||| mkABSA ||| mkABSB ||| mkFTZ ||| mkKA ||| mkKB
  | .frcp _ | .frsq _ | .fsqrt _ | .fexp2 _ | .flog2 _ | .fsinp _ | .fcosp _ => mkNEGA ||| mkABSA ||| mkFTZ ||| mkKA
  | .iaddImm _ | .imulImm _ => mkSAT ||| mkKA
  | .faddImm _ | .fmulImm _ | .fminImm _ | .fmaxImm _ | .fcmpImm _ => mkRM ||| mkSAT ||| mkNEGA ||| mkABSA ||| mkFTZ ||| mkKA
  | .ffmaImm _ => mkRM ||| mkSAT ||| mkNEGA ||| mkABSA ||| mkFTZ ||| mkKA ||| mkNEGC
  | .ldG _ | .ldS _ | .ldC _ | .ldX _ | .ldL _ | .stG _ | .stS _ | .stC _ | .stX _ | .stL _ | .ldGSubword _
  | .ldSSubword _ | .ldXSubword _ | .stGSubword _ | .stSSubword _ | .stXSubword _ | .atomS _ | .atomC _
  | .atomG _ | .atomX _ | .redS _ | .redG _ | .redX _ | .fenceR _ => mkSCOPE ||| mkFENCE ||| mkKA
  | .phase _ | .arrive _ | .wait _ | .bartest _ => mkSCOPE ||| mkFENCE
  | _ => 0

/-- The instructions that accept an immediate prefix (R75, R72). -/
def Instr.takesImm : Instr → Bool
  | .iaddImm _ | .imulImm _ | .iminImm _ | .imaxImm _ | .iminuImm _ | .imaxuImm _ | .andImm _ | .orImm _
  | .xorImm _ | .shlImm _ | .shrImm _ | .sarImm _ | .rotImm _ | .icmpImm _ | .movImm _ | .faddImm _
  | .fmulImm _ | .fminImm _ | .fmaxImm _ | .ffmaImm _ | .fcmpImm _ | .leaImm _ | .ldG _ | .ldS _ | .ldC _
  | .ldX _ | .ldL _ | .ldK _ | .stG _ | .stS _ | .stC _ | .stX _ | .stL _ | .ldGSubword _ | .ldSSubword _
  | .ldXSubword _ | .stGSubword _ | .stSSubword _ | .stXSubword _ | .atomS _ | .atomC _ | .atomG _ | .atomX _
  | .redS _ | .redG _ | .redX _ | .barinit _ | .expect _ | .relayAt _ | .relayLo _ | .relayHi _ | .relaySw _
  | .relayAtImm _ | .relayLoImm _ | .relayHiImm _ | .relaySwImm _ | .texld _ => true
  | _ => false

/-! ## Static checks on the fields (R58 to R72, R78)

`mustZero`, `widthOk`, `codeOk` and `alignOk` are the RESERVED_FIELD, WIDTH, CODE and ALIGN conditions of R78 on the
fields a decoded instruction holds. -/

/-- T operands: [5:4] must be 00 (R68). -/
def isTile (x : BitVec 6) : Bool := x.extractLsb' 4 2 == 0
/-- N operands: [5:3] must be 0 (R68). -/
def isRange (x : BitVec 6) : Bool := x.extractLsb' 3 3 == 0
/-- Q operands: [5:2] must be 0 (R68). -/
def isQueue (x : BitVec 6) : Bool := x.extractLsb' 2 4 == 0
/-- A register number that is a multiple of n. -/
def multOf (n : Nat) (x : BitVec 6) : Bool := x.toNat % n == 0

/-- The movs forms and special codes of R129 and R130: b selects the form, and the special value's row must allow it. -/
def movsOk (o : SOp) : Bool :=
  let code := o.a.toNat
  let laneV (c : Nat) : Bool := c ≤ 3 || c == 22 || c == 23 || c == 24 || c == 25 || c == 26
  match o.b.toNat with
  | 0 => code ≤ 27
  | 2 => code ≤ 27 && !laneV code
  | 1 => code == 22 || code == 23 || code == 26
  | 3 => code == 21 || code == 22 || code == 23 || code == 26
  | 4 => true
  | 5 => true
  | _ => false

/-- RESERVED_FIELD: must-be-zero fields, unused fields, forbidden lookaheads and reserved kinds. -/
def Instr.mustZero : Instr → Bool
  | .popc o | .clz o | .brev o | .mov o | .fclass o => o.vb == 0
  | .movImm o => o.va == 0
  | .ldS o | .ldC o | .ldX o | .ldL o | .ldK o | .ldSSubword o | .ldXSubword o => o.hint == 0
  | .stG o | .stGSubword o | .osub o | .opub o | .relayAt o | .relayLo o | .relayHi o | .relaySw o | .qpush o
  | .emitv o | .agInst o | .agSave o => o.la == 0
  | .stS o | .stC o | .stX o | .stL o | .stSSubword o | .stXSubword o => o.hint == 0 && o.la == 0
  | .atomS o | .atomC o | .atomG o | .atomX o => o.kind.toNat < 13
  | .redS o | .redG o | .redX o => o.kind.toNat < 13 && o.la == 0 && (o.m.fence == .dflt || o.m.fence == .rel)
  | .cpy o | .cpyMc o | .cpyMm o => isQueue o.d && o.b == 0 && o.la == 0
  | .qfence o | .sqrel o => isTile o.d && o.a == 0 && o.b == 0 && o.la == 0
  | .caskres o => isRange o.d && o.b == 0 && o.la == 0
  | .caskrel o => isRange o.d && o.a == 0 && o.b == 0 && o.la == 0
  | .mgather o => isRange o.d && o.la == 0
  | .mma o | .mmaG o => isTile o.d && isRange o.a && isRange o.b
  | .gmma o | .tld o => isTile o.d
  | .tzero o => isTile o.d && o.a == 0 && o.b == 0
  | .tmovR o | .tmovC o | .sqrd o => isTile o.a
  | .tst o | .sqbind o | .sqwr o => isTile o.d && o.la == 0
  | .tcvt o | .tscale o => isTile o.d && isTile o.a
  | .tadd o => isTile o.d && isTile o.a && isTile o.b
  | .barinit o | .expect o => o.d == 0
  | .arrive o => o.b.extractLsb' 1 5 == 0
  | .wait o | .bartest o => o.m.fence == .dflt || o.m.fence == .acq
  | .relayAtImm o | .relayLoImm o | .relayHiImm o | .relaySwImm o => o.seg != 7
  | .pollSome o | .pollEach o => o.d.extractLsb' 3 3 == 0 && o.a.extractLsb' 4 2 == 0 && o.b == 0 && o.la == 0
  | .pollMask o => o.a.extractLsb' 4 2 == 0 && o.b == 0 && o.la == 0
  | .peers o | .launch o | .agClaim o => o.b == 0 && o.la == 0
  | .gred o => o.b.toNat < 11
  | .converge o => o.d.extractLsb' 1 5 == 0 && (o.d.getLsbD 0 || o.a == 0) && o.b == 0 && o.la == 0
  | .yield o | .rayacc o | .rayign o | .rayend o | .pixlock o | .pixunlock o | .discard o => o.d == 0 && o.a == 0 && o.b == 0 && o.la == 0
  | .movs o => movsOk o && o.la == 0
  | .time o | .cycles o | .retired o | .brk o => o.a == 0 && o.b == 0 && o.la == 0
  | .cont o | .rtinv o | .emitp o | .pixout o | .agEnd o => o.d == 0 && o.b == 0 && o.la == 0
  | .raynext o => o.a == 0 && o.b == 0
  | .rayrd o => o.b.extractLsb' 1 5 == 0 && o.a.toNat < 8
  | .texq o => o.a.toNat < 5
  | .texfb o => o.d == 0 && o.la == 0
  | _ => true

/-- WIDTH: the widths each row allows (R59, R61, R62, R67). -/
def Instr.widthOk : Instr → Bool
  | .bfe o | .bfi o | .bsel o | .icmp o | .fcmp o | .cvt o | .frcp o | .frsq o | .fsqrt o | .fexp2 o | .flog2 o
  | .fsinp o | .fcosp o | .rand o => o.width == .w1
  | .lea o => o.width == .w2
  | .stGSubword o | .stSSubword o | .stXSubword o => o.size.toNat < 2
  | _ => true

/-- CODE: the assigned conversion codes of R103 and R171. -/
def Instr.codeOk : Instr → Bool
  | .cvt o => o.code.toNat ≤ 0x11
  | .tcvt o => o.b.toNat ≤ 0x10
  | _ => true

/-- ALIGN: register groups, pairs and quads (R58, R59 and the entries). -/
def Instr.alignOk : Instr → Bool
  | .iadd o | .isub o | .imul o | .imulhi o | .imac o | .imin o | .imax o | .iminu o | .imaxu o | .and o
  | .or o | .xor o | .andn o | .shl o | .shr o | .sar o | .rot o | .sel o | .iaddc o | .fadd o | .fsub o
  | .fmul o | .ffma o | .fmin o | .fmax o | .hadd2 o | .hmul2 o | .hfma2 o | .bfma2 o | .fdiv o => multOf o.width.n o.vb && multOf o.width.n o.va && multOf o.width.n o.vd
  | .popc o | .clz o | .brev o | .mov o | .fclass o => multOf o.width.n o.va && multOf o.width.n o.vd
  | .lea o | .leaImm o => multOf 2 o.va && multOf 2 o.vd
  | .ldG o | .stG o => multOf 2 o.va && multOf (Width.ofBits o.size).n o.vd
  | .ldS o | .ldC o | .ldX o | .ldL o | .ldK o | .stS o | .stC o | .stX o | .stL o => multOf (Width.ofBits o.size).n o.vd
  | .ldGSubword o | .stGSubword o | .redG o | .prefetchG o => multOf 2 o.va
  | .atomS o | .atomC o | .atomX o => o.kind != 10 || multOf 2 o.vd
  | .atomG o => multOf 2 o.va && (o.kind != 10 || multOf 2 o.vd)
  | .fenceR o => o.space != 0 || multOf 2 o.va
  | .cpy o | .cpyMc o | .cpyMm o | .osub o | .opub o | .caskres o | .mgather o | .tld o | .tst o | .launch o
  | .cont o => multOf 2 o.a
  | .gmma o | .qpop o | .sqrd o => multOf 4 o.d
  | .jmp o => multOf 2 o.k
  | .time o | .cycles o | .retired o => multOf 2 o.d
  | .qpush o => multOf 4 o.b
  | .sqwr o | .emitp o | .pixout o => multOf 4 o.a
  | .rayq o => multOf 8 o.a && multOf 2 o.b
  | .tex o => multOf 4 o.d && multOf 2 o.a && multOf 2 o.b
  | .texld o => multOf 4 o.d && multOf 2 o.b
  | .texq o | .agInst o | .agSave o => multOf 2 o.b
  | .texfb o => multOf 2 o.a && multOf 2 o.b
  | .emitv o => multOf 4 o.a && multOf 4 o.b
  | _ => true

/-- The first failing static check after PREFIX, in the order of R78. -/
def Instr.staticDetail (i : Instr) : Option Detail :=
  if !i.mustZero then some .reservedField
  else if !i.widthOk then some .width
  else if !i.codeOk then some .code
  else if !i.alignOk then some .align
  else none

/-! ## Instruction words -/

/-- The immediate operand's field (R64). -/
def immOf (w : Word) (p : Option (BitVec 26)) : Imm :=
  match p with
  | none => .short (fld w 21 8)
  | some hi => .long hi (fld w 21 6)

def a3Of (w : Word) (m : Mods) : A3 :=
  { pred := fld w 29 3, width := Width.ofBits (fld w 27 2), vb := fld w 21 6, va := fld w 15 6, vd := fld w 9 6, m := m }

def cmpOf (w : Word) (m : Mods) : Cmp :=
  { pred := fld w 29 3, width := Width.ofBits (fld w 27 2), vb := fld w 21 6, va := fld w 15 6, cond := fld w 12 3,
    pd := fld w 9 3, m := m }

def cvtOf (w : Word) (m : Mods) : Cvt :=
  { pred := fld w 29 3, width := Width.ofBits (fld w 27 2), code := fld w 21 6, va := fld w 15 6, vd := fld w 9 6, m := m }

def sfuOf (w : Word) (m : Mods) : Sfu :=
  { pred := fld w 29 3, width := Width.ofBits (fld w 27 2), la := fld w 21 4, va := fld w 15 6, vd := fld w 9 6, m := m }

def randOf (w : Word) : RandOp :=
  { pred := fld w 29 3, width := Width.ofBits (fld w 27 2), la := fld w 21 4, ka := fld w 15 6, vd := fld w 9 6 }

def aiOf (w : Word) (m : Mods) (p : Option (BitVec 26)) : AiOp :=
  { pred := fld w 29 3, imm := immOf w p, va := fld w 15 6, vd := fld w 9 6, m := m }

def cmpImmOf (w : Word) (m : Mods) (p : Option (BitVec 26)) : CmpImm :=
  { pred := fld w 29 3, imm := immOf w p, va := fld w 15 6, cond := fld w 12 3, pd := fld w 9 3, m := m }

def memOf (w : Word) (m : Mods) (p : Option (BitVec 26)) : Mem :=
  { pred := fld w 29 3, hint := fld w 27 2, size := fld w 25 2, la := fld w 21 4, va := fld w 15 6, vd := fld w 9 6,
    off := p.getD 0, m := m }

def atomOf (w : Word) (m : Mods) (p : Option (BitVec 26)) : Atom :=
  { pred := fld w 29 3, kind := fld w 25 4, la := fld w 21 4, va := fld w 15 6, vd := fld w 9 6, off := p.getD 0, m := m }

def xOf (w : Word) : XOp := { la := fld w 27 4, b := fld w 21 6, a := fld w 15 6, d := fld w 9 6 }

def sOf (w : Word) : SOp := { la := fld w 28 4, b := fld w 22 6, a := fld w 16 6, d := fld w 10 6 }

def sImmOf (w : Word) (p : Option (BitVec 26)) : SImm :=
  { b := fld w 22 6, a := fld w 16 6, d := fld w 10 6, imm := p.getD 0 }

def sModOf (w : Word) (m : Mods) : SMod := { b := fld w 22 6, a := fld w 16 6, d := fld w 10 6, m := m }

def relayImmOf (w : Word) (p : BitVec 26) : RelayImm :=
  { seg := p.extractLsb' 6 3, val := p.extractLsb' 0 6, a := fld w 16 6, d := fld w 10 6 }

def texLdOf (w : Word) (p : Option (BitVec 26)) : TexLd :=
  { la := fld w 28 4, b := fld w 22 6, a := fld w 16 6, d := fld w 10 6, pre := p.getD 0 }

/-- A3a operations (R61). -/
def decodeA3a (w : Word) (m : Mods) : Option Instr :=
  match (fld w 4 5).toNat with
  | 0 => some (.iadd (a3Of w m))
  | 1 => some (.isub (a3Of w m))
  | 2 => some (.imul (a3Of w m))
  | 3 => some (.imulhi (a3Of w m))
  | 4 => some (.imac (a3Of w m))
  | 5 => some (.imin (a3Of w m))
  | 6 => some (.imax (a3Of w m))
  | 7 => some (.iminu (a3Of w m))
  | 8 => some (.imaxu (a3Of w m))
  | 9 => some (.and (a3Of w m))
  | 10 => some (.or (a3Of w m))
  | 11 => some (.xor (a3Of w m))
  | 12 => some (.andn (a3Of w m))
  | 13 => some (.shl (a3Of w m))
  | 14 => some (.shr (a3Of w m))
  | 15 => some (.sar (a3Of w m))
  | 16 => some (.rot (a3Of w m))
  | 17 => some (.bfe (a3Of w m))
  | 18 => some (.bfi (a3Of w m))
  | 19 => some (.popc (a3Of w m))
  | 20 => some (.clz (a3Of w m))
  | 21 => some (.brev (a3Of w m))
  | 22 => some (.bsel (a3Of w m))
  | 23 => some (.sel (a3Of w m))
  | 24 => some (.icmp (cmpOf w m))
  | 25 => some (.iaddc (a3Of w m))
  | 26 => some (.lea (a3Of w m))
  | 27 => some (.mov (a3Of w m))
  | _ => none

/-- A3b operations (R62). -/
def decodeA3b (w : Word) (m : Mods) : Option Instr :=
  match (fld w 4 5).toNat with
  | 0 => some (.fadd (a3Of w m))
  | 1 => some (.fsub (a3Of w m))
  | 2 => some (.fmul (a3Of w m))
  | 3 => some (.ffma (a3Of w m))
  | 4 => some (.fmin (a3Of w m))
  | 5 => some (.fmax (a3Of w m))
  | 6 => some (.fcmp (cmpOf w m))
  | 7 => some (.fclass (a3Of w m))
  | 8 => some (.hadd2 (a3Of w m))
  | 9 => some (.hmul2 (a3Of w m))
  | 10 => some (.hfma2 (a3Of w m))
  | 11 => some (.bfma2 (a3Of w m))
  | 12 => some (.cvt (cvtOf w m))
  | 13 => some (.fdiv (a3Of w m))
  | 14 => some (.frcp (sfuOf w m))
  | 15 => some (.frsq (sfuOf w m))
  | 16 => some (.fsqrt (sfuOf w m))
  | 17 => some (.fexp2 (sfuOf w m))
  | 18 => some (.flog2 (sfuOf w m))
  | 19 => some (.fsinp (sfuOf w m))
  | 20 => some (.fcosp (sfuOf w m))
  | 21 => some (.rand (randOf w))
  | _ => none

/-- AI operations (R65). -/
def decodeAi (w : Word) (m : Mods) (p : Option (BitVec 26)) : Option Instr :=
  match (fld w 4 5).toNat with
  | 0 => some (.iaddImm (aiOf w m p))
  | 1 => some (.imulImm (aiOf w m p))
  | 2 => some (.iminImm (aiOf w m p))
  | 3 => some (.imaxImm (aiOf w m p))
  | 4 => some (.iminuImm (aiOf w m p))
  | 5 => some (.imaxuImm (aiOf w m p))
  | 6 => some (.andImm (aiOf w m p))
  | 7 => some (.orImm (aiOf w m p))
  | 8 => some (.xorImm (aiOf w m p))
  | 9 => some (.shlImm (aiOf w m p))
  | 10 => some (.shrImm (aiOf w m p))
  | 11 => some (.sarImm (aiOf w m p))
  | 12 => some (.rotImm (aiOf w m p))
  | 13 => some (.icmpImm (cmpImmOf w m p))
  | 14 => some (.movImm (aiOf w m p))
  | 15 => some (.faddImm (aiOf w m p))
  | 16 => some (.fmulImm (aiOf w m p))
  | 17 => some (.fminImm (aiOf w m p))
  | 18 => some (.fmaxImm (aiOf w m p))
  | 19 => some (.ffmaImm (aiOf w m p))
  | 20 => some (.fcmpImm (cmpImmOf w m p))
  | 21 => some (.leaImm (aiOf w m p))
  | _ => none

/-- M operations (R67). exch and cas are not assigned in red (R219). -/
def decodeM (w : Word) (m : Mods) (p : Option (BitVec 26)) : Option Instr :=
  match (fld w 4 5).toNat with
  | 0 => some (.ldG (memOf w m p))
  | 1 => some (.ldS (memOf w m p))
  | 2 => some (.ldC (memOf w m p))
  | 3 => some (.ldX (memOf w m p))
  | 4 => some (.ldL (memOf w m p))
  | 5 => some (.ldK (memOf w m p))
  | 6 => some (.stG (memOf w m p))
  | 7 => some (.stS (memOf w m p))
  | 8 => some (.stC (memOf w m p))
  | 9 => some (.stX (memOf w m p))
  | 10 => some (.stL (memOf w m p))
  | 11 => some (.ldGSubword (memOf w m p))
  | 12 => some (.ldSSubword (memOf w m p))
  | 13 => some (.ldXSubword (memOf w m p))
  | 14 => some (.stGSubword (memOf w m p))
  | 15 => some (.stSSubword (memOf w m p))
  | 16 => some (.stXSubword (memOf w m p))
  | 17 => some (.atomS (atomOf w m p))
  | 18 => some (.atomC (atomOf w m p))
  | 19 => some (.atomG (atomOf w m p))
  | 20 => some (.atomX (atomOf w m p))
  | 21 => if fld w 25 4 = 9 ∨ fld w 25 4 = 10 then none else some (.redS (atomOf w m p))
  | 22 => if fld w 25 4 = 9 ∨ fld w 25 4 = 10 then none else some (.redG (atomOf w m p))
  | 23 => if fld w 25 4 = 9 ∨ fld w 25 4 = 10 then none else some (.redX (atomOf w m p))
  | 24 => some (.fenceR { pred := fld w 29 3, space := fld w 27 2, va := fld w 15 6, vlen := fld w 9 6, m := m })
  | 25 => some (.phase { pred := fld w 29 3, m := m })
  | 26 => some (.prefetchG { pred := fld w 29 3, hint := fld w 27 2, va := fld w 15 6, m := m })
  | _ => none

/-- X operations (R69). -/
def decodeX (w : Word) : Option Instr :=
  match (fld w 4 5).toNat with
  | 0 => some (.cpy (xOf w))
  | 1 => some (.cpyMc (xOf w))
  | 2 => some (.cpyMm (xOf w))
  | 3 => some (.qfence (xOf w))
  | 4 => some (.osub (xOf w))
  | 5 => some (.opub (xOf w))
  | 6 => some (.caskres (xOf w))
  | 7 => some (.caskrel (xOf w))
  | 8 => some (.mgather (xOf w))
  | 9 => some (.mma (xOf w))
  | 10 => some (.mmaG (xOf w))
  | 11 => some (.gmma (xOf w))
  | 12 => some (.tzero (xOf w))
  | 13 => some (.tmovR (xOf w))
  | 14 => some (.tmovC (xOf w))
  | 15 => some (.tld (xOf w))
  | 16 => some (.tst (xOf w))
  | 17 => some (.tcvt (xOf w))
  | 18 => some (.tadd (xOf w))
  | 19 => some (.tscale (xOf w))
  | _ => none

/-- C operations (R70). -/
def decodeC (w : Word) : Option Instr :=
  match (fld w 4 4).toNat with
  | 0 => some (.bra { off := fld w 12 20, pred := fld w 8 3 })
  | 1 => some (.call { off := fld w 12 20, pred := fld w 8 3 })
  | 2 => some (.ret { pred := fld w 8 3 })
  | 3 => some (.jmp { k := fld w 12 6, pred := fld w 8 3 })
  | 4 => some (.brx { n := fld w 18 14, k := fld w 12 6, pred := fld w 8 3 })
  | 5 => some (.loop { off := fld w 18 14, k := fld w 12 6, pred := fld w 8 3 })
  | 6 => some (.exit { pred := fld w 8 3 })
  | _ => none

/-- S operations (R72). A relay with an immediate prefix is its immediate form (R133). -/
def decodeS (w : Word) (m : Mods) (p : Option (BitVec 26)) : Option Instr :=
  match (fld w 4 6).toNat with
  | 0 => some (.barinit (sImmOf w p))
  | 1 => some (.arrive (sModOf w m))
  | 2 => some (.expect (sImmOf w p))
  | 3 => some (.wait (sModOf w m))
  | 4 => some (.bartest (sModOf w m))
  | 8 => match p with
    | none => some (.relayAt (sOf w))
    | some q => some (.relayAtImm (relayImmOf w q))
  | 9 => match p with
    | none => some (.relayLo (sOf w))
    | some q => some (.relayLoImm (relayImmOf w q))
  | 10 => match p with
    | none => some (.relayHi (sOf w))
    | some q => some (.relayHiImm (relayImmOf w q))
  | 11 => match p with
    | none => some (.relaySw (sOf w))
    | some q => some (.relaySwImm (relayImmOf w q))
  | 12 => some (.pollSome (sOf w))
  | 13 => some (.pollEach (sOf w))
  | 14 => some (.pollMask (sOf w))
  | 15 => some (.peers (sOf w))
  | 16 => some (.gred (sOf w))
  | 17 => some (.converge (sOf w))
  | 18 => some (.yield (sOf w))
  | 19 => some (.movs (sOf w))
  | 20 => some (.time (sOf w))
  | 21 => some (.cycles (sOf w))
  | 22 => some (.retired (sOf w))
  | 24 => some (.launch (sOf w))
  | 25 => some (.cont (sOf w))
  | 26 => some (.qpush (sOf w))
  | 27 => some (.qpop (sOf w))
  | 28 => some (.sqbind (sOf w))
  | 29 => some (.sqrd (sOf w))
  | 30 => some (.sqwr (sOf w))
  | 31 => some (.sqrel (sOf w))
  | 32 => some (.rayq (sOf w))
  | 33 => some (.raynext (sOf w))
  | 34 => some (.rayacc (sOf w))
  | 35 => some (.rayign (sOf w))
  | 36 => some (.rayend (sOf w))
  | 37 => some (.rayrd (sOf w))
  | 38 => some (.rtinv (sOf w))
  | 40 => some (.tex (sOf w))
  | 41 => some (.texld (texLdOf w p))
  | 42 => some (.texq (sOf w))
  | 43 => some (.texfb (sOf w))
  | 44 => some (.emitv (sOf w))
  | 45 => some (.emitp (sOf w))
  | 46 => some (.pixout (sOf w))
  | 47 => some (.pixlock (sOf w))
  | 48 => some (.pixunlock (sOf w))
  | 49 => some (.discard (sOf w))
  | 50 => some (.brk (sOf w))
  | 56 => some (.agClaim (sOf w))
  | 57 => some (.agInst (sOf w))
  | 58 => some (.agEnd (sOf w))
  | 59 => some (.agSave (sOf w))
  | _ => none

/-- A 16-bit instruction (R55, R56). -/
def decode16 (h : Half) : Instr :=
  let r : R16 := { vb := h.extractLsb' 10 5, vd := h.extractLsb' 5 5 }
  match (h.extractLsb' 1 4).toNat with
  | 0 => .mov16 r
  | 1 => .iadd16 r
  | 2 => .isub16 r
  | 3 => .and16 r
  | 4 => .or16 r
  | 5 => .xor16 r
  | 6 => .shl16 r
  | 7 => .shr16 r
  | 8 => .imin16 r
  | 9 => .imax16 r
  | 10 => .fadd16 r
  | 11 => .fsub16 r
  | 12 => .fmul16 r
  | 13 => .fmax16 r
  | 14 => .fmin16 r
  | _ => .movi16 { imm := h.extractLsb' 10 5, vd := h.extractLsb' 5 5 }

/-- The instruction word of a bundle, class by class (R57). Class P is no instruction. -/
def decode32 (w : Word) (m : Mods) (p : Option (BitVec 26)) : Option Instr :=
  match (fld w 1 3).toNat with
  | 0 => decodeA3a w m
  | 1 => decodeA3b w m
  | 2 => decodeAi w m p
  | 3 => decodeM w m p
  | 4 => decodeX w
  | 5 => decodeC w
  | 6 => decodeS w m p
  | _ => none

/-- Bits of the word that no field of the decoded instruction holds and that must be zero (R60, R66, R67, R68, R70,
R71, R133, R166 and the entries). -/
def Instr.resvBits : Instr → Word
  | .frcp _ | .frsq _ | .fsqrt _ | .fexp2 _ | .flog2 _ | .fsinp _ | .fcosp _ | .rand _ => 0x06000000
  | .fenceR _ => 0x07E00000
  | .phase _ => 0x1FFFFE00
  | .prefetchG _ => 0x07E07E00
  | .cpy _ | .cpyMc _ | .cpyMm _ | .qfence _ | .osub _ | .opub _ | .caskres _ | .caskrel _ | .mgather _ | .mma _
  | .mmaG _ | .gmma _ | .tzero _ | .tmovR _ | .tmovC _ | .tld _ | .tst _ | .tcvt _ | .tadd _ | .tscale _ => 0x80000000
  | .bra _ | .call _ | .brx _ | .loop _ => 0x00000800
  | .ret _ | .exit _ => 0xFFFFF800
  | .jmp _ => 0xFFFC0800
  | .barinit _ | .expect _ | .arrive _ | .wait _ | .bartest _ => 0xF0000000
  | .relayAtImm _ | .relayLoImm _ | .relayHiImm _ | .relaySwImm _ => 0xFFC00000
  | _ => 0

/-- Reserved bits of the immediate prefix: imm8[7:6] must be 00 in AI (R64), and prefix [31:15] 0 in the relays (R133).
The prefix of texld has its own fault (R367), raised by its meaning. -/
def Instr.immReserved (i : Instr) (w : Word) (p : Option (BitVec 26)) : Bool :=
  match p with
  | none => false
  | some q =>
    match i with
    | .relayAtImm _ | .relayLoImm _ | .relayHiImm _ | .relaySwImm _ => q.extractLsb' 9 17 != 0
    | .barinit _ | .expect _ | .texld _ => false
    | _ => (fld w 1 3 == 2) && (fld w 27 2 != 0)

/-- What a bundle's prefixes hold: the immediate prefixes and modifier prefixes met (R73), whether a prefix of kind 10
or 11 stands among them, and their number. -/
structure Prefixes where
  imms  : List (BitVec 26) := []
  mods  : List (BitVec 26) := []
  badKind : Bool := false
  count : Nat := 0
deriving DecidableEq, Repr

/-- Adds one prefix word (R73). -/
def Prefixes.add (p : Prefixes) (w : Word) : Prefixes :=
  let q : BitVec 26 := fld w 6 26
  match (fld w 4 2).toNat with
  | 0 => { p with imms := q :: p.imms, count := p.count + 1 }
  | 1 => { p with mods := q :: p.mods, count := p.count + 1 }
  | _ => { p with badKind := true, count := p.count + 1 }

/-- A word of class P (R57, R73). -/
def isPrefixWord (w : Word) : Bool := fld w 0 4 == 0xF#4

/-- The PREFIX cases of R75 for a bundle whose last word is instruction i. -/
def prefixCase (ps : Prefixes) (i : Instr) (is16 : Bool) : Bool :=
  (is16 && ps.count != 0) || decide (ps.imms.length > 1) || decide (ps.mods.length > 1) || decide (ps.count > 2) ||
  (!ps.imms.isEmpty && !i.takesImm) ||
  (match ps.mods with
   | [] => false
   | q :: _ => i.modMask == 0 || ((q &&& mkFields &&& ~~~ i.modMask) != 0))

/-- A bundle's last word as an instruction, or the detail of R78. -/
def decodeLast (ps : Prefixes) (w : Word) : Except Detail Instr :=
  if ps.badKind then .error .unassignedOp
  else
    let p := ps.imms.head?
    match decode32 w {} p with
    | none => .error .unassignedOp
    | some i0 =>
      if prefixCase ps i0 false then .error .prefixCase
      else
        match Mods.ofBits (ps.mods.headD 0) with
        | none => .error .reservedField
        | some m =>
          match decode32 w m p with
          | none => .error .unassignedOp
          | some i =>
            if (w &&& i.resvBits) != 0 || i.immReserved w p then .error .reservedField
            else
              match i.staticDetail with
              | some d => .error d
              | none => .ok i

/-- A 16-bit instruction as the last word of a bundle: bit 15 is reserved (R55), and no prefix may precede it (R75). -/
def decodeLast16 (ps : Prefixes) (h : Half) : Except Detail Instr :=
  if ps.badKind then .error .unassignedOp
  else if ps.count != 0 then .error .prefixCase
  else if h.getLsbD 15 then .error .reservedField
  else .ok (decode16 h)

/-- Reads a bundle from halfwords in fetch order (R53, R54): its instruction or detail, and the number of halfwords it
takes. Where the halfwords end inside the bundle it is unassigned. -/
def decodeFrom (ps : Prefixes) (n : Nat) : List Half → Except Detail Instr × Nat
  | [] => (.error .unassignedOp, n)
  | h :: t =>
    if !h.getLsbD 0 then (decodeLast16 ps h, n + 1)
    else
      match t with
      | [] => (.error .unassignedOp, n + 1)
      | h2 :: rest =>
        let w : Word := h2 ++ h
        if isPrefixWord w then decodeFrom (ps.add w) (n + 2) rest
        else (decodeLast ps w, n + 2)

/-- Decodes the bundle at the head of a list of halfwords. -/
def decode (hs : List Half) : Except Detail Instr × Nat := decodeFrom {} 0 hs

/-! ## Task records (R79, R80) -/

/-- The task of a record, by its opcode (R80). A reserved opcode is a move of its own, which faults the stream. -/
def taskOf (t : TaskRec) : Instr :=
  match t.opcode.toNat with
  | 0 => .tNop t
  | 1 => .tHalt t
  | 2 => .tFence t
  | 3 => .tJmp t
  | 4 => .tCall t
  | 5 => .tRet t
  | 16 => .tKern t
  | 17 => .tDraw t
  | 18 => .tCopy t
  | 19 => .tFill t
  | 20 => .tFeed t
  | 21 => .tColl t
  | 22 => .tTbar t
  | 32 => .tFrame t
  | 33 => .tPresent t
  | 34 => .tSlot t
  | 35 => .tStream t
  | 48 => .tPool t
  | 49 => .tBuf t
  | 50 => .tRelease t
  | 51 => .tMap t
  | 52 => .tBvh t
  | 56 => .tSig t
  | 57 => .tWait t
  | _ => .reservedTaskOpcode t

/-- Eight 32-bit words, lowest address first, as a task record (R79). -/
def taskRecOf (w0 w1 w2 w3 w4 w5 w6 w7 : Word) : TaskRec :=
  { region := fld w0 16 16, resv := fld w0 13 3, det := flag w0 12, xov := flag w0 11, opq := flag w0 10, eff := flag w0 9,
    shed := flag w0 8, opcode := fld w0 0 8, bufs := w1, w2 := w2, imm := w3, pa := w5 ++ w4, pb := w7 ++ w6 }

/-- W0 of a record (R79). -/
def TaskRec.w0 (t : TaskRec) : Word :=
  (t.region ++ t.resv ++ BitVec.ofBool t.det ++ BitVec.ofBool t.xov ++ BitVec.ofBool t.opq ++ BitVec.ofBool t.eff ++
    BitVec.ofBool t.shed ++ t.opcode : BitVec 32)

/-- The eight words of a record, lowest address first (R79). -/
def TaskRec.words (t : TaskRec) : List Word :=
  [t.w0, t.bufs, t.w2, t.imm, t.pa.extractLsb' 0 32, t.pa.extractLsb' 32 32, t.pb.extractLsb' 0 32,
   t.pb.extractLsb' 32 32]

/-- Decodes eight words as a task; none when there are fewer. -/
def decodeTask : List Word → Option Instr
  | w0 :: w1 :: w2 :: w3 :: w4 :: w5 :: w6 :: w7 :: _ => some (taskOf (taskRecOf w0 w1 w2 w3 w4 w5 w6 w7))
  | _ => none

/-! ## The encoder -/

/-- The halfwords of a word in fetch order (R53). -/
def halvesOf (w : Word) : List Half := [w.extractLsb' 0 16, w.extractLsb' 16 16]

/-- A prefix word (R73). -/
def prefixWord (kind : BitVec 2) (q : BitVec 26) : Word := (q ++ kind ++ 0x7#3 ++ 1#1 : BitVec 32)

def encA3 (cls : BitVec 3) (op : BitVec 5) (o : A3) : Word :=
  (o.pred ++ o.width.bits ++ o.vb ++ o.va ++ o.vd ++ op ++ cls ++ 1#1 : BitVec 32)
def encCmp (cls : BitVec 3) (op : BitVec 5) (o : Cmp) : Word :=
  (o.pred ++ o.width.bits ++ o.vb ++ o.va ++ o.cond ++ o.pd ++ op ++ cls ++ 1#1 : BitVec 32)
def encCvt (o : Cvt) : Word :=
  (o.pred ++ o.width.bits ++ o.code ++ o.va ++ o.vd ++ 12#5 ++ 1#3 ++ 1#1 : BitVec 32)
def encSfu (op : BitVec 5) (o : Sfu) : Word :=
  (o.pred ++ o.width.bits ++ 0#2 ++ o.la ++ o.va ++ o.vd ++ op ++ 1#3 ++ 1#1 : BitVec 32)
def encRand (o : RandOp) : Word :=
  (o.pred ++ o.width.bits ++ 0#2 ++ o.la ++ o.ka ++ o.vd ++ 21#5 ++ 1#3 ++ 1#1 : BitVec 32)
/-- imm8 of the word, or imm8[5:0] with [7:6] 00 when a prefix carries the rest (R64). -/
def Imm.imm8 : Imm → BitVec 8
  | .short b => b
  | .long _ lo => 0#2 ++ lo
def encAi (op : BitVec 5) (o : AiOp) : Word :=
  (o.pred ++ o.imm.imm8 ++ o.va ++ o.vd ++ op ++ 2#3 ++ 1#1 : BitVec 32)
def encCmpImm (op : BitVec 5) (o : CmpImm) : Word :=
  (o.pred ++ o.imm.imm8 ++ o.va ++ o.cond ++ o.pd ++ op ++ 2#3 ++ 1#1 : BitVec 32)
def encMem (op : BitVec 5) (o : Mem) : Word :=
  (o.pred ++ o.hint ++ o.size ++ o.la ++ o.va ++ o.vd ++ op ++ 3#3 ++ 1#1 : BitVec 32)
def encAtom (op : BitVec 5) (o : Atom) : Word :=
  (o.pred ++ o.kind ++ o.la ++ o.va ++ o.vd ++ op ++ 3#3 ++ 1#1 : BitVec 32)
def encFenceR (o : FenceR) : Word :=
  (o.pred ++ o.space ++ 0#2 ++ 0#4 ++ o.va ++ o.vlen ++ 24#5 ++ 3#3 ++ 1#1 : BitVec 32)
def encPhase (o : PhaseOp) : Word := (o.pred ++ 0#20 ++ 25#5 ++ 3#3 ++ 1#1 : BitVec 32)
def encPrefetch (o : Prefetch) : Word :=
  (o.pred ++ o.hint ++ 0#6 ++ o.va ++ 0#6 ++ 26#5 ++ 3#3 ++ 1#1 : BitVec 32)
def encX (op : BitVec 5) (o : XOp) : Word :=
  (0#1 ++ o.la ++ o.b ++ o.a ++ o.d ++ op ++ 4#3 ++ 1#1 : BitVec 32)
def encBra (op : BitVec 4) (o : BraOp) : Word := (o.off ++ 0#1 ++ o.pred ++ op ++ 5#3 ++ 1#1 : BitVec 32)
def encGuard (op : BitVec 4) (o : GuardOp) : Word := (0#20 ++ 0#1 ++ o.pred ++ op ++ 5#3 ++ 1#1 : BitVec 32)
def encJmp (o : JmpOp) : Word := (0#14 ++ o.k ++ 0#1 ++ o.pred ++ 3#4 ++ 5#3 ++ 1#1 : BitVec 32)
def encBrx (o : BrxOp) : Word := (o.n ++ o.k ++ 0#1 ++ o.pred ++ 4#4 ++ 5#3 ++ 1#1 : BitVec 32)
def encLoop (o : LoopOp) : Word := (o.off ++ o.k ++ 0#1 ++ o.pred ++ 5#4 ++ 5#3 ++ 1#1 : BitVec 32)
def encS (op : BitVec 6) (la : BitVec 4) (b a d : BitVec 6) : Word :=
  (la ++ b ++ a ++ d ++ op ++ 6#3 ++ 1#1 : BitVec 32)
def enc16 (op : BitVec 4) (o : R16) : Half := (0#1 ++ o.vb ++ o.vd ++ op ++ 0#1 : BitVec 16)

/-- The prefix words, immediate first (R84): none where the field is at its default. -/
def encPre (imm : Option (BitVec 26)) (m : Mods) : List Half :=
  (match imm with
   | none => []
   | some q => halvesOf (prefixWord 0 q)) ++
  (if m = {} then [] else halvesOf (prefixWord 1 m.bits))

def Imm.pre : Imm → Option (BitVec 26)
  | .short _ => none
  | .long hi _ => some hi

/-- An offset or count of 0 takes no prefix. -/
def offPre (q : BitVec 26) : Option (BitVec 26) := if q = 0 then none else some q

/-- The halfwords of an instruction's bundle in fetch order; no halfword for a task or a move, which are not fetched
from code. -/
def encode : Instr → List Half
  | .mov16 o => [enc16 0 o]
  | .iadd16 o => [enc16 1 o]
  | .isub16 o => [enc16 2 o]
  | .and16 o => [enc16 3 o]
  | .or16 o => [enc16 4 o]
  | .xor16 o => [enc16 5 o]
  | .shl16 o => [enc16 6 o]
  | .shr16 o => [enc16 7 o]
  | .imin16 o => [enc16 8 o]
  | .imax16 o => [enc16 9 o]
  | .fadd16 o => [enc16 10 o]
  | .fsub16 o => [enc16 11 o]
  | .fmul16 o => [enc16 12 o]
  | .fmax16 o => [enc16 13 o]
  | .fmin16 o => [enc16 14 o]
  | .movi16 o => [(0#1 ++ o.imm ++ o.vd ++ 15#4 ++ 0#1 : BitVec 16)]
  | .iadd o => encPre none o.m ++ halvesOf (encA3 0 0 o)
  | .isub o => encPre none o.m ++ halvesOf (encA3 0 1 o)
  | .imul o => encPre none o.m ++ halvesOf (encA3 0 2 o)
  | .imulhi o => encPre none o.m ++ halvesOf (encA3 0 3 o)
  | .imac o => encPre none o.m ++ halvesOf (encA3 0 4 o)
  | .imin o => encPre none o.m ++ halvesOf (encA3 0 5 o)
  | .imax o => encPre none o.m ++ halvesOf (encA3 0 6 o)
  | .iminu o => encPre none o.m ++ halvesOf (encA3 0 7 o)
  | .imaxu o => encPre none o.m ++ halvesOf (encA3 0 8 o)
  | .and o => encPre none o.m ++ halvesOf (encA3 0 9 o)
  | .or o => encPre none o.m ++ halvesOf (encA3 0 10 o)
  | .xor o => encPre none o.m ++ halvesOf (encA3 0 11 o)
  | .andn o => encPre none o.m ++ halvesOf (encA3 0 12 o)
  | .shl o => encPre none o.m ++ halvesOf (encA3 0 13 o)
  | .shr o => encPre none o.m ++ halvesOf (encA3 0 14 o)
  | .sar o => encPre none o.m ++ halvesOf (encA3 0 15 o)
  | .rot o => encPre none o.m ++ halvesOf (encA3 0 16 o)
  | .bfe o => encPre none o.m ++ halvesOf (encA3 0 17 o)
  | .bfi o => encPre none o.m ++ halvesOf (encA3 0 18 o)
  | .popc o => encPre none o.m ++ halvesOf (encA3 0 19 o)
  | .clz o => encPre none o.m ++ halvesOf (encA3 0 20 o)
  | .brev o => encPre none o.m ++ halvesOf (encA3 0 21 o)
  | .bsel o => encPre none o.m ++ halvesOf (encA3 0 22 o)
  | .sel o => encPre none o.m ++ halvesOf (encA3 0 23 o)
  | .icmp o => encPre none o.m ++ halvesOf (encCmp 0 24 o)
  | .iaddc o => encPre none o.m ++ halvesOf (encA3 0 25 o)
  | .lea o => encPre none o.m ++ halvesOf (encA3 0 26 o)
  | .mov o => encPre none o.m ++ halvesOf (encA3 0 27 o)
  | .fadd o => encPre none o.m ++ halvesOf (encA3 1 0 o)
  | .fsub o => encPre none o.m ++ halvesOf (encA3 1 1 o)
  | .fmul o => encPre none o.m ++ halvesOf (encA3 1 2 o)
  | .ffma o => encPre none o.m ++ halvesOf (encA3 1 3 o)
  | .fmin o => encPre none o.m ++ halvesOf (encA3 1 4 o)
  | .fmax o => encPre none o.m ++ halvesOf (encA3 1 5 o)
  | .fcmp o => encPre none o.m ++ halvesOf (encCmp 1 6 o)
  | .fclass o => encPre none o.m ++ halvesOf (encA3 1 7 o)
  | .hadd2 o => encPre none o.m ++ halvesOf (encA3 1 8 o)
  | .hmul2 o => encPre none o.m ++ halvesOf (encA3 1 9 o)
  | .hfma2 o => encPre none o.m ++ halvesOf (encA3 1 10 o)
  | .bfma2 o => encPre none o.m ++ halvesOf (encA3 1 11 o)
  | .cvt o => encPre none o.m ++ halvesOf (encCvt o)
  | .fdiv o => encPre none o.m ++ halvesOf (encA3 1 13 o)
  | .frcp o => encPre none o.m ++ halvesOf (encSfu 14 o)
  | .frsq o => encPre none o.m ++ halvesOf (encSfu 15 o)
  | .fsqrt o => encPre none o.m ++ halvesOf (encSfu 16 o)
  | .fexp2 o => encPre none o.m ++ halvesOf (encSfu 17 o)
  | .flog2 o => encPre none o.m ++ halvesOf (encSfu 18 o)
  | .fsinp o => encPre none o.m ++ halvesOf (encSfu 19 o)
  | .fcosp o => encPre none o.m ++ halvesOf (encSfu 20 o)
  | .rand o => halvesOf (encRand o)
  | .iaddImm o => encPre o.imm.pre o.m ++ halvesOf (encAi 0 o)
  | .imulImm o => encPre o.imm.pre o.m ++ halvesOf (encAi 1 o)
  | .iminImm o => encPre o.imm.pre o.m ++ halvesOf (encAi 2 o)
  | .imaxImm o => encPre o.imm.pre o.m ++ halvesOf (encAi 3 o)
  | .iminuImm o => encPre o.imm.pre o.m ++ halvesOf (encAi 4 o)
  | .imaxuImm o => encPre o.imm.pre o.m ++ halvesOf (encAi 5 o)
  | .andImm o => encPre o.imm.pre o.m ++ halvesOf (encAi 6 o)
  | .orImm o => encPre o.imm.pre o.m ++ halvesOf (encAi 7 o)
  | .xorImm o => encPre o.imm.pre o.m ++ halvesOf (encAi 8 o)
  | .shlImm o => encPre o.imm.pre o.m ++ halvesOf (encAi 9 o)
  | .shrImm o => encPre o.imm.pre o.m ++ halvesOf (encAi 10 o)
  | .sarImm o => encPre o.imm.pre o.m ++ halvesOf (encAi 11 o)
  | .rotImm o => encPre o.imm.pre o.m ++ halvesOf (encAi 12 o)
  | .icmpImm o => encPre o.imm.pre o.m ++ halvesOf (encCmpImm 13 o)
  | .movImm o => encPre o.imm.pre o.m ++ halvesOf (encAi 14 o)
  | .faddImm o => encPre o.imm.pre o.m ++ halvesOf (encAi 15 o)
  | .fmulImm o => encPre o.imm.pre o.m ++ halvesOf (encAi 16 o)
  | .fminImm o => encPre o.imm.pre o.m ++ halvesOf (encAi 17 o)
  | .fmaxImm o => encPre o.imm.pre o.m ++ halvesOf (encAi 18 o)
  | .ffmaImm o => encPre o.imm.pre o.m ++ halvesOf (encAi 19 o)
  | .fcmpImm o => encPre o.imm.pre o.m ++ halvesOf (encCmpImm 20 o)
  | .leaImm o => encPre o.imm.pre o.m ++ halvesOf (encAi 21 o)
  | .ldG o => encPre (offPre o.off) o.m ++ halvesOf (encMem 0 o)
  | .ldS o => encPre (offPre o.off) o.m ++ halvesOf (encMem 1 o)
  | .ldC o => encPre (offPre o.off) o.m ++ halvesOf (encMem 2 o)
  | .ldX o => encPre (offPre o.off) o.m ++ halvesOf (encMem 3 o)
  | .ldL o => encPre (offPre o.off) o.m ++ halvesOf (encMem 4 o)
  | .ldK o => encPre (offPre o.off) o.m ++ halvesOf (encMem 5 o)
  | .stG o => encPre (offPre o.off) o.m ++ halvesOf (encMem 6 o)
  | .stS o => encPre (offPre o.off) o.m ++ halvesOf (encMem 7 o)
  | .stC o => encPre (offPre o.off) o.m ++ halvesOf (encMem 8 o)
  | .stX o => encPre (offPre o.off) o.m ++ halvesOf (encMem 9 o)
  | .stL o => encPre (offPre o.off) o.m ++ halvesOf (encMem 10 o)
  | .ldGSubword o => encPre (offPre o.off) o.m ++ halvesOf (encMem 11 o)
  | .ldSSubword o => encPre (offPre o.off) o.m ++ halvesOf (encMem 12 o)
  | .ldXSubword o => encPre (offPre o.off) o.m ++ halvesOf (encMem 13 o)
  | .stGSubword o => encPre (offPre o.off) o.m ++ halvesOf (encMem 14 o)
  | .stSSubword o => encPre (offPre o.off) o.m ++ halvesOf (encMem 15 o)
  | .stXSubword o => encPre (offPre o.off) o.m ++ halvesOf (encMem 16 o)
  | .atomS o => encPre (offPre o.off) o.m ++ halvesOf (encAtom 17 o)
  | .atomC o => encPre (offPre o.off) o.m ++ halvesOf (encAtom 18 o)
  | .atomG o => encPre (offPre o.off) o.m ++ halvesOf (encAtom 19 o)
  | .atomX o => encPre (offPre o.off) o.m ++ halvesOf (encAtom 20 o)
  | .redS o => encPre (offPre o.off) o.m ++ halvesOf (encAtom 21 o)
  | .redG o => encPre (offPre o.off) o.m ++ halvesOf (encAtom 22 o)
  | .redX o => encPre (offPre o.off) o.m ++ halvesOf (encAtom 23 o)
  | .fenceR o => encPre none o.m ++ halvesOf (encFenceR o)
  | .phase o => encPre none o.m ++ halvesOf (encPhase o)
  | .prefetchG o => encPre none o.m ++ halvesOf (encPrefetch o)
  | .cpy o => halvesOf (encX 0 o)
  | .cpyMc o => halvesOf (encX 1 o)
  | .cpyMm o => halvesOf (encX 2 o)
  | .qfence o => halvesOf (encX 3 o)
  | .osub o => halvesOf (encX 4 o)
  | .opub o => halvesOf (encX 5 o)
  | .caskres o => halvesOf (encX 6 o)
  | .caskrel o => halvesOf (encX 7 o)
  | .mgather o => halvesOf (encX 8 o)
  | .mma o => halvesOf (encX 9 o)
  | .mmaG o => halvesOf (encX 10 o)
  | .gmma o => halvesOf (encX 11 o)
  | .tzero o => halvesOf (encX 12 o)
  | .tmovR o => halvesOf (encX 13 o)
  | .tmovC o => halvesOf (encX 14 o)
  | .tld o => halvesOf (encX 15 o)
  | .tst o => halvesOf (encX 16 o)
  | .tcvt o => halvesOf (encX 17 o)
  | .tadd o => halvesOf (encX 18 o)
  | .tscale o => halvesOf (encX 19 o)
  | .bra o => halvesOf (encBra 0 o)
  | .call o => halvesOf (encBra 1 o)
  | .ret o => halvesOf (encGuard 2 o)
  | .jmp o => halvesOf (encJmp o)
  | .brx o => halvesOf (encBrx o)
  | .loop o => halvesOf (encLoop o)
  | .exit o => halvesOf (encGuard 6 o)
  | .barinit o => encPre (offPre o.imm) {} ++ halvesOf (encS 0 0 o.b o.a o.d)
  | .arrive o => encPre none o.m ++ halvesOf (encS 1 0 o.b o.a o.d)
  | .expect o => encPre (offPre o.imm) {} ++ halvesOf (encS 2 0 o.b o.a o.d)
  | .wait o => encPre none o.m ++ halvesOf (encS 3 0 o.b o.a o.d)
  | .bartest o => encPre none o.m ++ halvesOf (encS 4 0 o.b o.a o.d)
  | .relayAt o => halvesOf (encS 8 o.la o.b o.a o.d)
  | .relayAtImm o => halvesOf (prefixWord 0 (0#17 ++ o.seg ++ o.val)) ++ halvesOf (encS 8 0 0 o.a o.d)
  | .relayLo o => halvesOf (encS 9 o.la o.b o.a o.d)
  | .relayLoImm o => halvesOf (prefixWord 0 (0#17 ++ o.seg ++ o.val)) ++ halvesOf (encS 9 0 0 o.a o.d)
  | .relayHi o => halvesOf (encS 10 o.la o.b o.a o.d)
  | .relayHiImm o => halvesOf (prefixWord 0 (0#17 ++ o.seg ++ o.val)) ++ halvesOf (encS 10 0 0 o.a o.d)
  | .relaySw o => halvesOf (encS 11 o.la o.b o.a o.d)
  | .relaySwImm o => halvesOf (prefixWord 0 (0#17 ++ o.seg ++ o.val)) ++ halvesOf (encS 11 0 0 o.a o.d)
  | .pollSome o => halvesOf (encS 12 o.la o.b o.a o.d)
  | .pollEach o => halvesOf (encS 13 o.la o.b o.a o.d)
  | .pollMask o => halvesOf (encS 14 o.la o.b o.a o.d)
  | .peers o => halvesOf (encS 15 o.la o.b o.a o.d)
  | .gred o => halvesOf (encS 16 o.la o.b o.a o.d)
  | .converge o => halvesOf (encS 17 o.la o.b o.a o.d)
  | .yield o => halvesOf (encS 18 o.la o.b o.a o.d)
  | .movs o => halvesOf (encS 19 o.la o.b o.a o.d)
  | .time o => halvesOf (encS 20 o.la o.b o.a o.d)
  | .cycles o => halvesOf (encS 21 o.la o.b o.a o.d)
  | .retired o => halvesOf (encS 22 o.la o.b o.a o.d)
  | .launch o => halvesOf (encS 24 o.la o.b o.a o.d)
  | .cont o => halvesOf (encS 25 o.la o.b o.a o.d)
  | .qpush o => halvesOf (encS 26 o.la o.b o.a o.d)
  | .qpop o => halvesOf (encS 27 o.la o.b o.a o.d)
  | .sqbind o => halvesOf (encS 28 o.la o.b o.a o.d)
  | .sqrd o => halvesOf (encS 29 o.la o.b o.a o.d)
  | .sqwr o => halvesOf (encS 30 o.la o.b o.a o.d)
  | .sqrel o => halvesOf (encS 31 o.la o.b o.a o.d)
  | .rayq o => halvesOf (encS 32 o.la o.b o.a o.d)
  | .raynext o => halvesOf (encS 33 o.la o.b o.a o.d)
  | .rayacc o => halvesOf (encS 34 o.la o.b o.a o.d)
  | .rayign o => halvesOf (encS 35 o.la o.b o.a o.d)
  | .rayend o => halvesOf (encS 36 o.la o.b o.a o.d)
  | .rayrd o => halvesOf (encS 37 o.la o.b o.a o.d)
  | .rtinv o => halvesOf (encS 38 o.la o.b o.a o.d)
  | .tex o => halvesOf (encS 40 o.la o.b o.a o.d)
  | .texld o => encPre (offPre o.pre) {} ++ halvesOf (encS 41 o.la o.b o.a o.d)
  | .texq o => halvesOf (encS 42 o.la o.b o.a o.d)
  | .texfb o => halvesOf (encS 43 o.la o.b o.a o.d)
  | .emitv o => halvesOf (encS 44 o.la o.b o.a o.d)
  | .emitp o => halvesOf (encS 45 o.la o.b o.a o.d)
  | .pixout o => halvesOf (encS 46 o.la o.b o.a o.d)
  | .pixlock o => halvesOf (encS 47 o.la o.b o.a o.d)
  | .pixunlock o => halvesOf (encS 48 o.la o.b o.a o.d)
  | .discard o => halvesOf (encS 49 o.la o.b o.a o.d)
  | .brk o => halvesOf (encS 50 o.la o.b o.a o.d)
  | .agClaim o => halvesOf (encS 56 o.la o.b o.a o.d)
  | .agInst o => halvesOf (encS 57 o.la o.b o.a o.d)
  | .agEnd o => halvesOf (encS 58 o.la o.b o.a o.d)
  | .agSave o => halvesOf (encS 59 o.la o.b o.a o.d)
  | _ => []

/-! ## The table's words -/

/-- n halfwords of a number, lowest first. -/
def halvesOfNat : Nat → Nat → List Half
  | 0, _ => []
  | n + 1, w => BitVec.ofNat 16 w :: halvesOfNat n (w / 65536)

/-- n words of a number, lowest first. -/
def wordsOfNat : Nat → Nat → List Word
  | 0, _ => []
  | n + 1, w => BitVec.ofNat 32 w :: wordsOfNat n (w / 4294967296)

/-- The instruction this decoder reads from an instruction whose bits are w, bit 0 the least significant bit of the
first halfword; a row of 256 bits is a task record. -/
def decodeTableWord (nbits w : Nat) : Option Instr :=
  if nbits ≥ 256 then decodeTask (wordsOfNat 8 w)
  else
    match (decode (halvesOfNat 8 w)).1 with
    | .ok i => some i
    | .error _ => none

end Sys2Proof
end

