-- ==== Sys2Proof/Config.lean ====
section
/-! DEFINITION. Config: what is fixed for the machine modelled, and the free values. Which part it is stands in the state (State.fuses). -/

namespace Sys2Proof.Config

/-- How long a reset of a level that starts at a time takes, in ns: R428 and R429 give no time. -/
opaque resetTime : Nat → Nat → Nat

/-- Free values: nothing constrains them. `State.freeCtr` counts those a run has taken, so each use has an index of its
own (log entry 2). -/
opaque freeValue : (w : Nat) → Nat → BitVec w

/-- Physical core numbers (R14): those of disabled clusters stay unused. -/
def cores : Nat := 192
/-- Clusters of the two dies (R13). -/
def clusters : Nat := 48
/-- Bytes of device memory (R20, R431): 60 GiB. -/
def memBytes : Nat := 64424509440
/-- First physical address of the host window (R431). -/
def hostBase : Nat := 0x800000000000
/-- End of the host window (R431). -/
def hostEnd : Nat := 0x1000000000000
/-- Chip scratchpad bytes (R191). -/
def chipBytes : Nat := 0x4000000

/-- Whether the view that a team's threads start with has come to a write (R196): a free choice for each instantiation, aligned
8 bytes and write, whose bytes there are taken together (R194; log entry 86). -/
opaque snapshot : Nat → Nat → Nat → Bool
/-- Whether the constant reads of a thread come to a write of aligned 8 bytes at a bundle (R193): a free choice for each thread (its
team, warp and lane), bundle, aligned 8 bytes and write (log entry 86). -/
opaque constPick : Nat × Nat × Nat → Nat → Nat → Nat → Bool

/-- The texel that a coordinate scaled past every number selects where the texture repeats, of the size and the coordinate: R365 gives
`n mod W` for integers only (log entry 15). -/
opaque texPast : Nat → BitVec 32 → Nat

/-- Which of the entries that R395 allows an access takes, 0 the newest, by the bundle, the time, the page and the entry's address
(log entry 153). -/
opaque cachePick : Nat → Nat → Nat → Nat → Nat

/-- The shape of the tree in which an instance reduces in default mode, common to its members (R378): of what they share. -/
opaque collOrder : Nat → Nat → Nat
/-- The algorithm that the engines choose for ALGO 0 (R379): of what the members share. -/
opaque collAlgo : Nat → Nat

/-- SHA-384 (R402): a function outside the spec, of the bytes digested. -/
opaque sha384 : List Byte → BitVec 384
/-- ECDSA P-384 verification of R402 over a key, a signature and a hash. -/
opaque ecdsaVerify : List Byte → List Byte → BitVec 384 → Bool
/-- HSS verification of R402. -/
opaque hssVerify : List Byte → List Byte → BitVec 384 → Bool
/-- The fused digests of the two public keys and the fused minimum security version (R402). -/
opaque fusedEcKey : BitVec 384
opaque fusedLmsKey : BitVec 384
opaque fusedSvn : Nat
/-- Signatures of the device identity keys over a transcript (R403). -/
opaque ecdsaSign : List Byte → List Byte
opaque hssSign : Nat → List Byte → List Byte
/-- Bytes of such an HSS signature, and Sernak's registry id: the registry's number and the vendor's id in it (R403). -/
opaque hssSigBytes : Nat
opaque registryId : Nat × List Byte
/-- The firmware image slot in the card's flash, as the machine finds it (R401). -/
opaque flashImage : List Byte
/-- The certificate chain of a slot (R403). -/
opaque certChain : Nat → List Byte
/-- The node area of a structure, of the bytes captured and the NODES address (R336), whose format is not architectural. -/
opaque nodeArea : List Byte → Nat → List Byte
/-- Whether issue n of a query in deterministic mode ends with CONTINUE (R348), of the ray, the flags, the structures'
values and the candidates presented so far. -/
opaque rayPause : List Word → Nat → Nat → Bool
/-- The fixed delay of a media port, in ns (R253). -/
opaque portDelay : Nat → Int
/-- The rate of a stream of audio or ancillary data in bit/s, and whether a stream of audio passes the limits of R261, by its
record, whose fields for them the spec does not give. -/
opaque audioRate : List Byte → Nat
opaque audioBeyond : List Byte → Bool

end Sys2Proof.Config
end

