-- ==== Sys2Proof/Machine/Cells.lean ====
section
/-! DEFINITION. Sparse tables: lists of key and value pairs in one canonical form (keys strictly rising, no entry equal to
what an unlisted key reads as). Memory, register files and views are such tables. -/

namespace Sys2Proof.Machine

/-- A sparse table from Nat. -/
abbrev KV (β : Type) := List (Nat × β)

namespace KV

variable {β : Type}

/-- The value at a key; `d` where none is listed. -/
def get (d : β) (a : Nat) : KV β → β
  | [] => d
  | (k, x) :: t => if k = a then x else get d a t

/-- Puts an entry before the first larger key. -/
def ins (a : Nat) (x : β) : KV β → KV β
  | [] => [(a, x)]
  | (k, y) :: t => if a < k then (a, x) :: (k, y) :: t else (k, y) :: ins a x t

/-- Drops the entries of a key. -/
def del (a : Nat) (m : KV β) : KV β := m.filter (fun e => e.1 != a)

/-- Writes a key; writing the default removes the entry. -/
def put [DecidableEq β] (d : β) (a : Nat) (x : β) (m : KV β) : KV β :=
  if x = d then del a m else ins a x (del a m)

/-- The canonical form: keys strictly rising and no default listed. -/
def wf [DecidableEq β] (d : β) (m : KV β) : Bool :=
  decide (m.Pairwise (fun x y => x.1 < y.1)) && m.all (fun e => e.2 != d)

end KV

end Sys2Proof.Machine
end

