-- ==== Sys2Proof/Machine/Num.lean ====
section
/-! DEFINITION. Exact numbers, the floating-point formats and the rounding helpers of R90 to R102. -/

namespace Sys2Proof.Machine

/-! ## Formats (R90) -/

/-- The floating-point formats of R90. -/
inductive Fmt where
  | f32 | f16 | bf16 | e4m3 | e5m2
deriving DecidableEq, Repr

/-- Fraction bits m. -/
def Fmt.frac : Fmt → Nat
  | .f32 => 23 | .f16 => 10 | .bf16 => 7 | .e4m3 => 3 | .e5m2 => 2

/-- Exponent bits. -/
def Fmt.ebits : Fmt → Nat
  | .f32 => 8 | .f16 => 5 | .bf16 => 8 | .e4m3 => 4 | .e5m2 => 5

def Fmt.bias : Fmt → Int
  | .f32 => 127 | .f16 => 15 | .bf16 => 127 | .e4m3 => 7 | .e5m2 => 15

def Fmt.emin (f : Fmt) : Int := 1 - f.bias

/-- Total bits. -/
def Fmt.bits (f : Fmt) : Nat := 1 + f.ebits + f.frac

/-- Canonical NaN (R91), sign 0. -/
def Fmt.qnan : Fmt → Nat
  | .f32 => 0x7FC00000 | .f16 => 0x7E00 | .bf16 => 0x7FC0 | .e4m3 => 0x7F | .e5m2 => 0x7E

/-- Magnitude bits of the largest finite value. -/
def Fmt.maxPat : Fmt → Nat
  | .f32 => 0x7F7FFFFF | .f16 => 0x7BFF | .bf16 => 0x7F7F | .e4m3 => 0x7E | .e5m2 => 0x7B

/-- Magnitude bits of infinity; e4m3 has none and gives its NaN (R102). -/
def Fmt.infPat : Fmt → Nat
  | .f32 => 0x7F800000 | .f16 => 0x7C00 | .bf16 => 0x7F80 | .e4m3 => 0x7F | .e5m2 => 0x7C

/-- The formats to which flushing applies (R97). -/
def Fmt.flushes : Fmt → Bool
  | .f32 | .f16 | .bf16 => true
  | .e4m3 | .e5m2 => false

/-! ## Exact values -/

/-- 2^e as a rational. -/
def pow2 (e : Int) : Rat := if e < 0 then (1 : Rat) / ((2 ^ (-e).toNat : Nat) : Rat) else ((2 ^ e.toNat : Nat) : Rat)

/-- An exact value: a NaN, an infinity, or a finite number with its sign (a zero keeps one) and its magnitude. -/
inductive Num where
  | nan (signalling : Bool)
  | inf (neg : Bool)
  | fin (neg : Bool) (mag : Rat)
deriving DecidableEq, Repr

def Num.isNan : Num → Bool
  | .nan _ => true
  | _ => false

def Num.isSnan : Num → Bool
  | .nan s => s
  | _ => false

def Num.isInf : Num → Bool
  | .inf _ => true
  | _ => false

def Num.isZero : Num → Bool
  | .fin _ m => m == 0
  | _ => false

def Num.neg? : Num → Bool
  | .nan _ => false
  | .inf n => n
  | .fin n _ => n

/-- The signed rational of a finite value; 0 for a NaN or an infinity. -/
def Num.rat : Num → Rat
  | .fin n m => if n then -m else m
  | _ => 0

/-- A rational as a value; the zero takes the sign given. -/
def Num.ofRat (x : Rat) (zeroNeg : Bool) : Num :=
  if x == 0 then .fin zeroNeg 0 else if x < 0 then .fin true (-x) else .fin false x

/-- The largest finite magnitude (R90). -/
def Fmt.maxfin : Fmt → Rat
  | .f32 => ((2 ^ 24 - 1 : Nat) : Rat) * pow2 104
  | .f16 => 65504
  | .bf16 => ((2 ^ 8 - 1 : Nat) : Rat) * pow2 120
  | .e4m3 => 448
  | .e5m2 => 57344

/-- `value(fmt, b)` (R90, R91, R102). -/
def value (f : Fmt) (b : Nat) : Num :=
  let fr := b % 2 ^ f.frac
  let e := (b / 2 ^ f.frac) % 2 ^ f.ebits
  let s := (b / 2 ^ (f.frac + f.ebits)) % 2 == 1
  let top := 2 ^ f.ebits - 1
  match f with
  | .e4m3 =>
    if e = top ∧ fr = 7 then .nan false
    else if e = 0 then .fin s ((fr : Rat) * pow2 (f.emin - f.frac))
    else .fin s (((2 ^ f.frac + fr : Nat) : Rat) * pow2 ((e : Int) - f.bias - f.frac))
  | _ =>
    if e = top then (if fr = 0 then .inf s else .nan (fr < 2 ^ (f.frac - 1)))
    else if e = 0 then .fin s ((fr : Rat) * pow2 (f.emin - f.frac))
    else .fin s (((2 ^ f.frac + fr : Nat) : Rat) * pow2 ((e : Int) - f.bias - f.frac))

/-- The value of a DS8 code (R94): code 7 is a zero term. -/
def ds8Term (s : Bool) (c : Nat) : Rat :=
  if c = 7 then 0 else if s then -(pow2 (-(c : Int))) else pow2 (-(c : Int))

/-- The value of a DS8 byte (R94); its zero is +0. -/
def ds8Value (b : Nat) : Num :=
  .ofRat (ds8Term (b / 128 % 2 == 1) (b / 16 % 8) + ds8Term (b / 8 % 2 == 1) (b % 8)) false

/-- The value of a B10 scale in the low 10 bits of a halfword (R95): zero, finite, or NaN. -/
def b10Value (h : Nat) : Num :=
  let m := h % 4
  let e := h / 4 % 256
  if e = 0 ∧ m = 0 then .fin false 0
  else if e = 255 ∧ m = 3 then .nan false
  else .fin false (pow2 ((e : Int) - 127) * (((4 + m : Nat) : Rat) / 4))

/-! ## Rounding (R96, R102) -/

/-- The rounding modes of R96. -/
inductive Rm where
  | rne | rz | ru | rd
deriving DecidableEq, Repr

/-- MODE.RM codes. -/
def Rm.ofBits (b : Nat) : Rm :=
  match b % 4 with
  | 0 => .rne | 1 => .rz | 2 => .ru | _ => .rd

/-- The largest integer not above a magnitude. -/
def floorNat (a : Rat) : Nat := (a.num / (a.den : Int)).toNat

/-- `round_int(a, rm, neg)` for a ≥ 0. -/
def roundInt (a : Rat) (rm : Rm) (neg : Bool) : Nat :=
  let fl := floorNat a
  let r := a - (fl : Rat)
  let up := if r == 0 then fl else fl + 1
  match rm with
  | .rne => if r * 2 < 1 then fl else if r * 2 == 1 then (if fl % 2 = 0 then fl else fl + 1) else fl + 1
  | .rz => fl
  | .ru => if neg then fl else up
  | .rd => if neg then up else fl

/-- floor(log2 a) for a > 0. -/
def floorLog2 (a : Rat) : Int :=
  let e : Int := (Nat.log2 a.num.toNat : Int) - (Nat.log2 a.den : Int)
  if pow2 e ≤ a then e else e - 1

/-- The five flags of R100. -/
structure FpFlags where
  nv : Bool := false
  dz : Bool := false
  of : Bool := false
  uf : Bool := false
  nx : Bool := false
deriving DecidableEq, Repr

def FpFlags.join (a b : FpFlags) : FpFlags :=
  { nv := a.nv || b.nv, dz := a.dz || b.dz, of := a.of || b.of, uf := a.uf || b.uf, nx := a.nx || b.nx }

/-- Pattern of a format with a sign. -/
def signed (f : Fmt) (s : Bool) (mag : Nat) : Nat := if s then 2 ^ (f.bits - 1) + mag else mag

/-- `encode(fmt, s, y)` of a finite magnitude that the format holds. -/
def encodeMag (f : Fmt) (s : Bool) (y : Rat) : Nat :=
  if y == 0 then signed f s 0
  else
    let e := max (floorLog2 y) f.emin
    let k := floorNat (y / pow2 (e - f.frac))
    if k < 2 ^ f.frac then signed f s k
    else signed f s (((e + f.bias).toNat) * 2 ^ f.frac + (k - 2 ^ f.frac))

/-- `round_f(x, fmt, rm, sat, ftz)` (R102). -/
def roundF (x : Num) (f : Fmt) (rm : Rm) (sat ftz : Bool) : Nat × FpFlags :=
  match x with
  | .nan sig => (f.qnan, { nv := sig })
  | .inf s => (if sat then signed f s f.maxPat else signed f s f.infPat, {})
  | .fin s a =>
    if a == 0 then (signed f s 0, {})
    else
      let e := max (floorLog2 a) f.emin
      let q := e - (f.frac : Int)
      let y : Rat := (roundInt (a / pow2 q) rm s : Rat) * pow2 q
      let nx := !(y == a)
      if f.maxfin < y then
        let toMax := sat || rm == .rz || (rm == .ru && s) || (rm == .rd && !s)
        (if toMax then signed f s f.maxPat else signed f s f.infPat, { of := true, nx := true })
      else
        let uf := decide (a < pow2 f.emin) && nx
        if ftz && !(y == 0) && decide (y < pow2 f.emin) then (signed f s 0, { uf := true, nx := true })
        else (encodeMag f s y, { uf := uf, nx := nx })

/-- `rne(x)` (R102). -/
def rne (x : Num) : Nat := (roundF x .f32 .rne false false).1

/-- `cvt_int(x, n, signed, rm)` (R102), as an integer. -/
def cvtInt (x : Num) (n : Nat) (sgn : Bool) (rm : Rm) : Int × FpFlags :=
  let lo : Int := if sgn then -(2 ^ (n - 1) : Nat) else 0
  let hi : Int := if sgn then (2 ^ (n - 1) : Nat) - 1 else (2 ^ n : Nat) - 1
  match x with
  | .nan _ => (0, { nv := true })
  | .inf s => (if s then lo else hi, { nv := true })
  | .fin s a =>
    let k := roundInt a rm s
    let y : Int := if s then -(k : Int) else k
    if y < lo then (lo, { nv := true })
    else if hi < y then (hi, { nv := true })
    else (y, { nx := !((k : Rat) == a) })

/-! ## Operand reading (R97, R109) -/

/-- A subnormal operand read as zero of its sign, where the instruction flushes. -/
def flushNum (f : Fmt) (ftz : Bool) (x : Num) : Num :=
  match x with
  | .fin s a => if ftz && f.flushes && decide (a < pow2 f.emin) then .fin s 0 else x
  | _ => x

/-- `fopnd` (R109): ABS clears the sign bit, NEG inverts it, then the pattern is read and flushed. -/
def fopnd (b : Nat) (abs neg : Bool) (f : Fmt) (ftz : Bool) : Num :=
  let half := 2 ^ (f.bits - 1)
  let m := b % half
  let s := b / half % 2 == 1
  let s1 := (s && !abs) != neg
  flushNum f ftz (value f (signed f s1 m))

/-- The exact sum of two values that are no NaN and not opposite infinities; R92 gives the sign of a zero. -/
def addZeroNeg (rm : Rm) (a b : Num) : Bool :=
  if a.isZero && b.isZero && a.neg? == b.neg? then a.neg? else rm == .rd

/-- a + b (R120, R92): the value and whether the operation is invalid. -/
def addNum (rm : Rm) (a b : Num) : Num × Bool :=
  match a, b with
  | .nan x, .nan y => (.nan (x || y), false)
  | .nan x, _ => (.nan x, false)
  | _, .nan y => (.nan y, false)
  | .inf x, .inf y => if x == y then (.inf x, false) else (.nan false, true)
  | .inf x, _ => (.inf x, false)
  | _, .inf y => (.inf y, false)
  | _, _ => (.ofRat (a.rat + b.rat) (addZeroNeg rm a b), false)

def Num.negate : Num → Num
  | .nan s => .nan s
  | .inf n => .inf (!n)
  | .fin n m => .fin (!n) m

/-- a × b. -/
def mulNum (a b : Num) : Num × Bool :=
  match a, b with
  | .nan x, .nan y => (.nan (x || y), false)
  | .nan x, _ => (.nan x, false)
  | _, .nan y => (.nan y, false)
  | .inf x, .inf y => (.inf (x != y), false)
  | .inf x, .fin n m => if m == 0 then (.nan false, true) else (.inf (x != n), false)
  | .fin n m, .inf y => if m == 0 then (.nan false, true) else (.inf (n != y), false)
  | .fin n m, .fin n2 m2 => (.fin (n != n2) (m * m2), false)

/-- a × b + c (R120): 0 × ∞ is invalid even when c is a quiet NaN. -/
def fmaNum (rm : Rm) (a b c : Num) : Num × Bool :=
  match mulNum a b with
  | (_, true) => (.nan (a.isSnan || b.isSnan || c.isSnan), true)
  | (.nan x, false) => (.nan (x || c.isSnan), false)
  | (p, false) => addNum rm p c

/-- a / b with the special cases of R108: the value, whether invalid, and whether DZ is raised. -/
def divNum (a b : Num) : Num × Bool × Bool :=
  match a, b with
  | .nan x, .nan y => (.nan (x || y), false, false)
  | .nan x, _ => (.nan x, false, false)
  | _, .nan y => (.nan y, false, false)
  | .inf _, .inf _ => (.nan false, true, false)
  | .inf x, .fin n _ => (.inf (x != n), false, false)
  | .fin n _, .inf y => (.fin (n != y) 0, false, false)
  | .fin n m, .fin n2 m2 =>
    if m2 == 0 then (if m == 0 then (.nan false, true, false) else (.inf (n != n2), false, true))
    else (.fin (n != n2) (m / m2), false, false)

/-- `satclamp` (R98, R120): NaN, -0 and values below 0 become +0.0, values above 1.0 become 1.0. -/
def satclamp (f : Fmt) (b : Nat) : Nat :=
  match value f b with
  | .nan _ => 0
  | .inf s => if s then 0 else encodeMag f false 1
  | .fin s a => if s then 0 else if 1 < a then encodeMag f false 1 else b

/-- The f32 pattern of a value after an operation of R120: signalling operands raise NV, an invalid operation gives the
canonical NaN and NV. -/
def finishOp (f : Fmt) (rm : Rm) (sat ftz : Bool) (snan : Bool) (r : Num × Bool) : Nat × FpFlags :=
  let (b, fl) := if r.2 then (f.qnan, { nv := true }) else roundF r.1 f rm false ftz
  (if sat then satclamp f b else b, { fl with nv := fl.nv || snan })

/-- Least of two values for fmin (R121): -0 is less than +0; none when both are NaN. -/
def lessNum (a b : Num) : Bool :=
  match a, b with
  | .nan _, _ => false
  | _, .nan _ => false
  | .inf true, .inf true => false
  | .inf true, _ => true
  | _, .inf true => false
  | .inf false, _ => false
  | _, .inf false => true
  | .fin _ _, .fin _ _ => decide (a.rat < b.rat) || (a.rat == b.rat && a.neg? && !b.neg?)

/-- Numeric equality, -0 = +0; false when either is a NaN. -/
def eqNum (a b : Num) : Bool :=
  match a, b with
  | .inf x, .inf y => x == y
  | .fin _ _, .fin _ _ => a.rat == b.rat
  | _, _ => false

/-- a < b by value, false when unordered. -/
def ltNum (a b : Num) : Bool := lessNum a b && !eqNum a b

/-- The exact pattern of a value the format holds; a NaN gives the canonical one. -/
def encodeNum (f : Fmt) (x : Num) : Nat :=
  match x with
  | .nan _ => f.qnan
  | .inf s => signed f s f.infPat
  | .fin s a => encodeMag f s a

/-- fmin (R121): the pattern and NV. -/
def fminNum (f : Fmt) (a b : Num) : Nat × FpFlags :=
  let fl : FpFlags := { nv := a.isSnan || b.isSnan }
  match a, b with
  | .nan _, .nan _ => (f.qnan, fl)
  | .nan _, _ => (encodeNum f b, fl)
  | _, .nan _ => (encodeNum f a, fl)
  | _, _ => (encodeNum f (if lessNum b a then b else a), fl)

/-- fmax (R121). -/
def fmaxNum (f : Fmt) (a b : Num) : Nat × FpFlags :=
  let fl : FpFlags := { nv := a.isSnan || b.isSnan }
  match a, b with
  | .nan _, .nan _ => (f.qnan, fl)
  | .nan _, _ => (encodeNum f b, fl)
  | _, .nan _ => (encodeNum f a, fl)
  | _, _ => (encodeNum f (if lessNum a b then b else a), fl)

/-- The class bit of R123; flushing has already made a subnormal a zero. -/
def classBit (f : Fmt) (x : Num) : Nat :=
  match x with
  | .nan true => 8
  | .nan false => 9
  | .inf s => if s then 0 else 7
  | .fin s a =>
    if a == 0 then (if s then 3 else 4)
    else if a < pow2 f.emin then (if s then 2 else 5)
    else (if s then 1 else 6)

/-- The exact sum of many values (R92, R136): NaN handling is the caller's; `terms` hold no NaN and no opposite
infinities. A zero sum takes the sign of R92 for sums of many terms. -/
def sumNum (rm : Rm) (terms : List Num) : Num :=
  match terms.find? Num.isInf with
  | some x => x
  | none =>
    let z :=
      if terms.all (fun t => t.isZero && !t.neg?) then false
      else if terms.all (fun t => t.isZero && t.neg?) then true
      else rm == .rd
    .ofRat (terms.foldl (fun acc t => acc + t.rat) 0) z

end Sys2Proof.Machine
end

