-- ==== Sys2Proof/Machine/State.lean ====
section
/-! DEFINITION. State: everything the spec gives the machine, as plain data, and State.reset. Addresses, counts, indexes
and times are Nat; what software sees as a word is a bit vector. -/

namespace Sys2Proof.Machine

/-! ## The memory model's record (R195 to R208) -/

/-- A party of R197: a thread or engine of a core, the rasteriser and pixel back end of a cluster, another chip-level unit, or the
host. -/
inductive Party where
  | core (c : Nat) | raster (cluster : Nat) | unit | host
deriving DecidableEq, Repr

/-- A command of a copy queue as the maker of what it lands: its team and warp, its queue, and when it issued. -/
structure LandedBy where
  team : Nat
  warp : Nat
  q    : Nat
  at_  : Nat
deriving DecidableEq, Repr

/-- Who makes a write: the party, and the grid, the task-level command or the copy command that it belongs to. `op` tells the
writes apart: the bytes of one have its first serial number. -/
structure Maker where
  party : Party := .unit
  grid  : Option Nat := none
  task  : Option Nat := none
  copy  : Option LandedBy := none
  op    : Nat := 0
deriving DecidableEq, Repr

/-- A write in coherence order: its serial number, location, the byte before and after, and its maker. -/
structure HWrite where
  ser  : Nat
  loc  : Nat
  old  : Byte
  new  : Byte
  by_  : Maker := {}
deriving DecidableEq, Repr

/-- One published write (R199): who published it at what scope, which write of which byte, and whose write it is. -/
structure Publ where
  scope  : Scope
  party  : Party
  loc    : Nat
  ser    : Nat
  writer : Party := .unit
deriving DecidableEq, Repr

/-- What the phases of a barrier object carry to their waiters (R207): publications of counted arrivals and, with `engine`,
bytes an engine counted. -/
structure BarEntry where
  engine : Bool
  p      : Publ
deriving DecidableEq, Repr

/-- The record of one barrier object: what its current phase has counted, what each completed phase counted, and the STAMP
that its last completion wrote (R212). -/
structure BarRec where
  loc  : Nat
  stamp : Nat := 0
  cur  : List BarEntry := []
  done : List (Nat × List BarEntry) := []
deriving DecidableEq, Repr

/-! ## Kernels, tasks and the units of work (R38 to R52, R87) -/

/-- A kernel descriptor as read (R87). `entry` is the address of the first instruction. -/
structure KDesc where
  base     : Nat := 0
  entry    : Nat := 0
  warp     : Nat := 32
  vregs    : Nat := 1
  tiles    : Nat := 0
  barriers : Nat := 0
  persist  : Bool := false
  kind     : Nat := 0
  lslice   : Nat := 0
  scratch  : Nat := 0
  cluster  : Nat := 0
  cask     : Nat := 0
  tx       : Nat := 1
  ty       : Nat := 1
  tz       : Nat := 1
  gangX    : Nat := 0
  gangY    : Nat := 0
  codeSize : Nat := 0
deriving DecidableEq, Repr

/-- A buffer that a task names (R291 to R293): logical number, class, physical base, and whether a write slot names it. -/
structure BufBind where
  n     : Nat := 0
  cls   : Nat := 0
  base  : Nat := 0
  write : Bool := false
deriving DecidableEq, Repr

/-- A used declaration of a task (R281). -/
structure Decl where
  base  : Nat := 0
  len   : Nat := 0
  dense : Bool := false
  r     : Bool := false
  w     : Bool := false
deriving DecidableEq, Repr

/-- What the work of a task carries with it: its sequence number, region, fault domain at issue, deterministic mode
(R178), purity (R295, R296), named buffers, the presentation clock at issue (R131), deadline (R307) and frame; at issue also
the next write's serial number (R193) and the number of publications made (R196). -/
structure TaskCtx where
  seq      : Nat := 0
  region   : Nat := 0
  det      : Bool := false
  pure     : Bool := false
  bufs     : List BufBind := []
  launch   : Nat := 0
  deadline : Option Nat := none
  frame    : Option Nat := none
  opcode   : Nat := 0
  flags    : Nat := 0
  issueSer : Nat := 0
  issuePubs : Nat := 0
deriving DecidableEq, Repr

/-- A register a thread can name (R76): vector, warp-level, tile, or predicate. -/
inductive Reg where
  | v (n : Nat) | k (n : Nat) | t (n : Nat) | p (n : Nat)
deriving DecidableEq, Repr

/-- One pending instruction of a warp (R76, R77): its destinations, the issuing lanes with what is left of each one's
window, the values to write lane by lane, whether they are known yet, the engine command it belongs to, and whether it has
completed (its open windows are still counted, R77). -/
structure Pend where
  regs   : List Reg := []
  lanes  : List (Nat × Nat) := []
  writes : List (Nat × List (Reg × Word)) := []
  ready  : Bool := true
  cmd    : Option Nat := none
  done   : Bool := false
deriving DecidableEq, Repr

/-- An entry of a team's pending-launch queue (R326): what the launch read, the location of its counter, its call index and
the child's wave size and window. -/
structure LaunchRec where
  desc : KDesc := {}
  args : Nat := 0
  gx   : Nat := 0
  gy   : Nat := 0
  gz   : Nat := 0
  ctr  : Option Nat := none
  ci   : Nat := 0
  waveSize : Nat := 0
  wd   : Nat := 0
deriving DecidableEq, Repr

/-- What a thread waits on (R49): the phase of the object at a location; the demand entries that its group's lanes met, each with
the lane and the address accessed, which are not finished yet (R215); a full pending-launch queue with the entry that is to enter
it; or a pixel lock. -/
inductive WaitOn where
  | bar (loc phase : Nat)
  | page (needs : List (Nat × Nat × Nat))
  | launchQ (team : Nat) (r : LaunchRec)
  | pixel (x y : Nat)
  | yield
deriving DecidableEq, Repr

/-- A wait record: what on, since when, and how it ended (`some true`: completed; `some false`: broken). In deterministic
mode an ended wait is held to the round boundary (R183, R230). `carry` is what the phase that ended it carries to it (R207, R226). -/
structure WaitRec where
  on    : WaitOn
  since : Nat := 0
  woken : Option Bool := none
  held  : Bool := false
  carry : List BarEntry := []
deriving DecidableEq, Repr

/-- A ray candidate or committed hit (R340, R350). -/
structure RayHit where
  t        : Word := 0x7F800000
  b1       : Word := 0
  b2       : Word := 0
  instance_ : Word := 0xFFFFFFFF
  geom     : Word := 0xFFFFFFFF
  prim     : Word := 0xFFFFFFFF
  front    : Bool := false
  opaque_  : Bool := false
deriving DecidableEq, Repr

/-- Ray query states (R346). -/
inductive RayState where
  | idle | run | ask | told | done
deriving DecidableEq, Repr

/-- The ray query of a thread (R346). `gens` holds each header it has used, by virtual address, with its GEN (R347); `todo`
the candidates not yet decided, in ascending key; `issues` counts the bundles that ran it. -/
structure RayQuery where
  st        : RayState := .idle
  flags     : Word := 0
  ray       : List Word := []
  gens      : List (Nat × Nat) := []
  issues    : Nat := 0
  tests     : Nat := 0
  todo      : List RayHit := []
  cand      : Option RayHit := none
  hit       : Option RayHit := none
  decision  : Nat := 0
  presented : Nat := 0
deriving DecidableEq, Repr

/-- A thread (R46, R52). A lane with no thread has `live` false and counts as exited. `last` keeps, while the thread waits on a page,
the ended wait of the instruction that it is to issue again. -/
structure Thread where
  live    : Bool := false
  exited  : Bool := true
  pc      : DWord := 0
  v       : KV Word := []
  p       : BitVec 7 := 0
  rstack  : List DWord := []
  rctr    : DWord := 0
  slice   : KV Byte := []
  wait    : Option WaitRec := none
  last    : Option WaitRec := none
  conv    : Option (Nat × Option DWord) := none
  ready   : Nat := 0
  issued  : Nat := 0
  view    : KV Nat := []
  seen    : Nat := 0
  rq      : RayQuery := {}
  pixDone : Bool := false
  pixLock : Bool := false
deriving DecidableEq, Repr

/-- The halt of a warp (R410, R411). `boundary` marks a halt of R455; `group` is the faulting group. -/
structure Halt where
  cause    : Nat
  detail   : Nat := 0
  lane     : Nat := 0xFF
  code     : Nat := 0
  pc       : DWord := 0
  words    : List Half := []
  faddr    : Nat := 0
  stamp    : Nat := 0
  group    : List Nat := []
  boundary : Bool := false
  id       : Half := 0
deriving DecidableEq, Repr

/-- An open log record of a warp (R409). -/
structure OpenLog where
  kind   : Nat
  cause  : Nat
  count  : Nat
  pc     : DWord
  lane   : Nat
  opened : Nat
deriving DecidableEq, Repr

/-- A stream-register binding (R267, R268): the stream, and a frame sequence number or a frame index. -/
structure SqBind where
  stream : Nat
  key    : Nat
deriving DecidableEq, Repr

/-- The parts of an event of R198 that a release or acquire names: its scope and the bytes it covers, as half-open intervals
of locations (none: every byte). -/
structure Cover where
  scope : Scope
  spans : Option (List (Nat × Nat)) := none
deriving DecidableEq, Repr

/-- One read-modify-write on a word (R220): kind, location, operand, new value of cas, lane. -/
structure AtomOp where
  kind : Nat
  loc  : Nat
  x    : Word
  new  : Word := 0
  lane : Nat := 0
deriving DecidableEq, Repr

/-- An effect held back to a deterministic boundary (R183 to R187, R455). `flush` is what a release covers for the held
reductions (R185). -/
inductive HeldFx where
  | store (lane : Nat) (bytes : List (Nat × Byte))
  | atoms (ops : List AtomOp) (lanes : List Nat) (dst : Nat) (scope : Scope)
  | reds (ops : List AtomOp) (scope : Scope) (space : Nat)
  | release (lanes : List Nat) (cov : Cover) (flush : Option (List (Nat × Nat)))
  | barinit (loc count : Nat)
  | arrive (loc : Nat) (lanes : List Nat) (drop : Bool) (rel : Option Scope) (dst : Nat)
  | expect (loc bytes : Nat)
  | landed (loc bytes unit : Nat) (ents : List BarEntry)
  | qpush (hdr : Nat) (lanes : List (Nat × List Word)) (dst : Nat)
  | qpop (hdr : Nat) (lanes : List Nat) (quad dst : Nat)
  | sqwr (lane : Nat) (bits : List (Nat × Byte × Byte))
  | pixel (lane : Nat) (colour : Option (List Word))
  | unlock (lane : Nat)
deriving DecidableEq, Repr

/-- A held effect with the bundle that made it; `at_` is when that bundle issued, by the count of bundles, and `part` which of
the bundle's commands it belongs to. -/
structure Held where
  fx    : HeldFx
  at_   : Nat := 0
  part  : Nat := 0
  pc    : DWord := 0
  words : List Half := []
deriving DecidableEq, Repr

/-- A vertex emitted by a warp (R357). -/
structure Vertex where
  pos  : List Word := []
  attr : List Word := []
deriving DecidableEq, Repr

/-- A warp (R52): k registers, MODE, stream bindings, retired count, pending instructions, halt and log records; in deterministic
mode also the round's share and held effects, and its qfences (their masks, and when they issued). -/
structure Warp where
  idx      : Nat := 0
  width    : Nat := 32
  quad     : Nat := 0
  slot     : Nat := 0
  half     : Nat := 0
  threads  : List Thread := []
  k        : KV Word := []
  mode     : Word := 0x1800
  sq       : KV (Option SqBind) := []
  retired  : DWord := 0
  pend     : List Pend := []
  halt     : Option Halt := none
  log      : Option OpenLog := none
  lastTime : Nat := 0
  verts    : List Vertex := []
  prims    : Nat := 0
  roundBase : DWord := 0
  shareEnd : Bool := false
  held     : List Held := []
  qfences  : List (Nat × Nat) := []
deriving DecidableEq, Repr

/-- A Cask range record as captured (R152), with its duplication map (R154) and its number. -/
structure CaskRec where
  n       : Nat := 0
  base    : Nat := 0
  rows    : Nat := 0
  klen    : Nat := 0
  rstride : Nat := 0
  fmt     : Nat := 0
  blk     : Nat := 0
  scale   : Nat := 0
  hasMap  : Bool := false
  dmap    : List Nat := []
  index   : Nat := 0xFFFFFFFF
deriving DecidableEq, Repr

/-- Where a team is (R41, R50, R51, R315): its resources reserved; instantiated or restored, but not every member of its gang
yet; resident; about to halt, with commands in flight; paused until its commands in flight have finished, where its core halts for
others; halted for pre-emption or swap-out; saved off its core; ended, its event
not yet answered; or ended and waiting for its continuation's resources (R328). -/
inductive TeamSt where
  | claimed | formed | resident | halting | pausing | halted | saved | ended | contWait
deriving DecidableEq, Repr

/-- The primitive and pixels a pixel team works on (R359). -/
structure PixelJob where
  pass   : Nat
  bin    : Nat
  key    : List Nat
  pixels : List (Nat × Nat)
deriving DecidableEq, Repr

/-- A team (R43, R46, R52). `id` is the model's handle for the team, kept across a continuation, a save and a restore; `area` is where it is
saved (R315); `due` is set once the boundary of the round has passed in which a deterministic team with a continuation
ended (R187); `cont`
is its continuation: the packet's address, the new descriptor and argument pointer (R328). `told` is set once ag.claim has named
the reserved member of a gang (R315). -/
structure Team where
  id       : Nat := 0
  grid     : Nat := 0
  wave     : Nat := 0
  index    : Nat := 0
  pos      : Nat := 0
  core     : Nat := 0
  handle   : Nat := 0
  st       : TeamSt := .resident
  agent    : Bool := false
  desc     : KDesc := {}
  args     : Nat := 0
  warps    : List Warp := []
  tiles    : KV Word := []
  cask     : KV Byte := []
  ranges   : List (Option CaskRec) := []
  launchQ  : List LaunchRec := []
  callIdx  : Word := 0
  cont     : Option (Nat × KDesc × Nat) := none
  due      : Bool := false
  told     : Bool := false
  area     : Nat := 0
  job      : Option PixelJob := none
deriving DecidableEq, Repr

/-- A grid (R39, R309, R327), with its deterministic window (R180 to R183): slots hold sequence numbers, held reductions
carry (team sequence number, warp, issue order) and their space's code. A counter `ctr` is a barrier object's location; `mark`
the serial number of the first write after the last boundary. `waveRuns` holds of each wave of a deterministic grid the time of
its first placement and how many of its teams have ended (R316). -/
structure Grid where
  id        : Nat := 0
  task      : TaskCtx := {}
  desc      : KDesc := {}
  args      : Nat := 0
  gx        : Nat := 1
  gy        : Nat := 1
  gz        : Nat := 1
  root      : Nat := 0
  parent    : Option Nat := none
  parentSeq : Nat := 0
  callIdx   : Nat := 0
  ctr       : Option Nat := none
  waveSize  : Nat := 0
  nWaves    : Nat := 0
  placed    : Nat := 0
  dropped   : Nat := 0
  maxDur    : Nat := 0
  anyEnded  : Bool := false
  readySince : Option Nat := none
  stopped   : Bool := false
  started   : Nat := 0
  wd        : Nat := 0
  round     : Nat := 0
  slots     : List (Option Nat) := []
  nextSeq   : Nat := 0
  reds      : List (List Nat × AtomOp × Scope × Nat) := []
  pass      : Option Nat := none
  admitted  : Nat := 0
  ended     : Bool := false
  mark      : Nat := 0
  waveRuns  : KV (Nat × Nat) := []
deriving DecidableEq, Repr

/-- A placed wave (R42, R311, R312): its dispatch record's index, its teams, chosen cores and cluster shares (R44). -/
structure Wave where
  id       : Nat := 0
  grid     : Nat := 0
  num      : Nat := 0
  first    : Nat := 0
  count    : Nat := 0
  recIdx   : Nat := 0
  cores    : List Nat := []
  clusters : List Nat := []
  placedAt : Nat := 0
  taken    : List Nat := []
deriving DecidableEq, Repr

/-! ## Engines -/

/-- A copy descriptor as captured (R233). -/
structure CopyDesc where
  src    : Nat := 0
  dst    : Nat := 0
  sspace : Nat := 0
  dspace : Nat := 0
  ssize  : Nat := 1
  dsize  : Nat := 1
  ndim   : Nat := 1
  conv   : Nat := 0xFF
  ext    : List Nat := []
  sstr   : List Int := []
  dstr   : List Int := []
  bar    : Option Nat := none
  members : Nat := 0
deriving DecidableEq, Repr

/-- A matrix operation with its captured records (R164 to R172); tld holds of each element the bytes it loads, by location, and tst
the locations of each element's bytes. -/
inductive MatOp where
  | mma (d : Nat) (a b : CaskRec) (gather : Bool)
  | gmma (d : Nat) (a b : CaskRec) (c sa sb : Nat) (release : Bool)
  | tzero (d : Nat)
  | tmov (row : Bool) (v t s x : Nat)
  | tld (d : Nat) (cells : List (List (Nat × Byte)))
  | tst (d : Nat) (locs : List (List Nat))
  | tcvt (d a code : Nat)
  | tadd (d a b : Nat)
  | tscale (d a : Nat) (k : Word)
  | caskrel (n : Nat)
deriving DecidableEq, Repr

/-- A command in a core's matrix queue (R149), with its captured MODE and, once it has started, the Cask bytes it uses as
they read then (R157): offset and byte. -/
structure MatCmd where
  id      : Nat := 0
  core    : Nat := 0
  team    : Nat := 0
  warp    : Nat := 0
  lanes   : List Nat := []
  pc      : DWord := 0
  mode    : Word := 0
  op      : MatOp
  started : Bool := false
  bytes   : KV Byte := []
  at_     : Nat := 0
deriving DecidableEq, Repr

/-- A command in a copy queue (R235, R239): `next` counts the elements done, `after` the commands a qfence makes it wait
for. `landed` is set once its last byte has landed and only its follow-on is still to be handed over (R238); `off` while its team is
saved off its core (R239). -/
structure CopyCmd where
  id     : Nat := 0
  core   : Nat := 0
  q      : Nat := 0
  team   : Nat := 0
  warp   : Nat := 0
  lane   : Nat := 0
  kind   : Nat := 0
  pc     : DWord := 0
  mode   : Word := 0
  d      : CopyDesc := {}
  next   : Nat := 0
  flags  : FpFlags := {}
  after  : List Nat := []
  follow : Option (MatOp × Nat) := none
  round  : Nat := 0
  at_    : Nat := 0
  landed : Bool := false
  off    : Bool := false
deriving DecidableEq, Repr

/-- A gather in progress (R158). -/
structure GatherCmd where
  id      : Nat := 0
  core    : Nat := 0
  team    : Nat := 0
  warp    : Nat := 0
  pc      : DWord := 0
  range   : CaskRec := {}
  rowBase : Nat := 0
  pitch   : Nat := 0
  index   : List Nat := []
  first   : Nat := 0
  bar     : Nat := 0
  scOff   : Option Int := none
  done    : List Nat := []
  round   : Nat := 0
  at_     : Nat := 0
deriving DecidableEq, Repr

/-- A publication of an operand stream (R242, R244). -/
structure StreamPub where
  id       : Nat := 0
  grid     : Nat := 0
  name     : Nat := 0
  team     : Nat := 0
  warp     : Nat := 0
  core     : Nat := 0
  pc       : DWord := 0
  src      : Nat := 0
  cpitch   : Nat := 0
  rpitch   : Nat := 0
  rows     : Nat := 0
  rowBytes : Nat := 0
  count    : Nat := 0
  pbar     : Option Nat := none
  ctx      : TaskCtx := {}
  index    : Nat := 0
  subs     : Nat := 0
  served   : List Nat := []
  counted  : Nat := 0
  at_      : Nat := 0
deriving DecidableEq, Repr

/-- A subscription (R243, R244). -/
structure StreamSub where
  id      : Nat := 0
  grid    : Nat := 0
  name    : Nat := 0
  team    : Nat := 0
  warp    : Nat := 0
  pc      : DWord := 0
  w       : Nat := 0
  credits : Nat := 0
  cask    : Option CaskRec := none
  base    : Nat := 0
  bar     : Nat := 0
  first   : Nat := 0
  next    : Nat := 0
  pub     : Option Nat := none
  at_     : Nat := 0
deriving DecidableEq, Repr

/-! ## Regions (R31 to R37) -/

/-- An installed region control block (R34); `ov` is OVERRIDE. -/
structure Region where
  id       : Nat := 0
  parent   : Nat := 0
  depth    : Nat := 0
  det      : Bool := false
  ov       : Half := 0
  cores    : Nat := 0
  opCeil   : Nat := 0
  prio     : Nat := 0
  dclass   : Nat := 0
  leaf     : Nat := 0
  fdom     : Nat := 0
  mem      : Nat := 0
  root     : Nat := 0
  share    : List Nat := [0, 0, 0, 0, 0, 0]
  slack    : Nat := 0
  quantum  : Nat := 0
  swapWait : Nat := 0
  almMask  : DWord := 0
deriving DecidableEq, Repr

/-! ## The task window (R272 to R304) -/

/-- States of the stream (R274). -/
inductive StreamSt where
  | idle | running | draining | halted | faulted
deriving DecidableEq, Repr

/-- The Almanac binding of a task (R319): slot, and its instance's opening time, length and rule once known. -/
structure SlotBind where
  slot : Nat
  inst : Option (Nat × Nat × Nat) := none
deriving DecidableEq, Repr

/-- What decode changed, for R303: map, writer and class of each logical buffer touched (the values before), the call
stack, the current slot, and the pools. -/
structure Undo where
  bufs  : List (Nat × Option Nat × Option Nat × Option Nat) := []
  stack : Option (List Nat) := none
  slot  : Option (Option Nat) := none
  pools : Option (List (Nat × Nat) × List (List Nat)) := none
deriving DecidableEq, Repr

/-- An entry of the window (R276): `sound` is set when decode found no fault, `cut` when a slot's rule dropped it before it
issued (R320). `flags` are those of a t.copy so far, `taken` the physical buffers it
took, and `frees` those that its retirement frees. `placeable` is the time since which its next wave could be placed, and
`agedDl` the deadline that aging gave it (R308). -/
structure Entry where
  seq      : Nat := 0
  addr     : Nat := 0
  task     : TaskRec
  ctx      : TaskCtx := {}
  fault    : Option (Nat × Word) := none
  issued   : Bool := false
  done     : Bool := false
  effectful : Bool := false
  direct   : Bool := false
  decls    : List Decl := []
  root     : Nat := 0
  deps     : List Nat := []
  taken    : List (Nat × Nat) := []
  frees    : List (Nat × Nat) := []
  undo     : Undo := {}
  slot     : Option SlotBind := none
  placeable : Option Nat := none
  agedDl   : Option Nat := none
  grid     : Option Nat := none
  pass     : Option Nat := none
  recAddr  : Nat := 0
  waves    : Nat := 0
  wavesRun : Nat := 0
  shed     : Bool := false
  tdone    : Nat := 0
  issuedAt : Nat := 0
  pushed   : Nat := 0
  block    : List Byte := []
  marked   : Bool := false
  killed   : Bool := false
  arrived  : Bool := false
  ports    : Option (List Nat) := none
  inst     : Option Nat := none
  sound    : Bool := false
  cut      : Bool := false
  flags    : FpFlags := {}
deriving DecidableEq, Repr

/-- The task stream's state. Physical buffers are numbered (class, index); pools hold (base, count) per class. `tbarGone` are the records
(address and frame) of discarded t.tbars whose arrival stands (R383). -/
structure Window where
  st       : StreamSt := .idle
  base     : Nat := 0
  dpc      : Nat := 0
  log2     : Nat := 6
  tail     : Nat := 0
  enable   : Bool := false
  fault    : Nat := 0
  finfo    : Word := 0
  stalls   : BitVec 5 := 0
  decoded  : Nat := 0
  retired  : Nat := 0
  entries  : List Entry := []
  stack    : List Nat := []
  slot     : Option Nat := none
  cls      : KV (Option Nat) := []
  map      : KV (Option Nat) := []
  writer   : KV (Option Nat) := []
  pools    : List (Nat × Nat) := [(0, 0), (0, 0), (0, 0), (0, 0), (0, 0), (0, 0)]
  free     : List (List Nat) := [[], [], [], [], [], []]
  owner    : KV (Option Nat) := []
  stopped  : Bool := false
  epoch    : Nat := 0
  tbarGone : List (Nat × Nat) := []
deriving DecidableEq, Repr

/-! ## Almanac, operating points and power (R317 to R323, R438) -/

/-- A slot entry of the Almanac (R317): its 32 bytes as eight words. -/
structure Slot where
  offset  : Word := 0
  periodN : Word := 0
  periodM : Half := 0
  length  : Word := 0
  ctl     : Word := 0
  resv    : List Word := [0, 0, 0, 0]
deriving DecidableEq, Repr

/-- The Almanac (R317, R318): registers and slots as written, what the last cycle start latched with that cycle's start, and
of each slot the last instance that opened (opening time, length, rule). -/
structure Almanac where
  epoch    : DWord := 0
  cycle    : Nat := 0x3B9ACA00
  overruns : Half := 0
  bad      : Bool := false
  badSlot  : Nat := 0
  slots    : KV Slot := []
  latched  : KV Slot := []
  lEpoch   : Nat := 0
  lCycle   : Nat := 0x3B9ACA00
  cycleAt  : Option Nat := none
  opened   : KV (Nat × Nat × Nat) := []
deriving DecidableEq, Repr

/-- Operating point, its target and change, caps, and samples below 95% of the limit in a row (R321, R322, R438). -/
structure Power where
  op       : Nat := 15
  target   : Nat := 15
  settling : Option Nat := none
  pcap     : Nat := 15
  watts    : Nat := 0
  low      : Nat := 0
  qEnable  : Bool := false
  opCap    : Nat := 15
  limit    : Nat := 560
deriving DecidableEq, Repr

/-! ## Presentation clock, media and frames (R252 to R266) -/

/-- Servo states (R254). -/
inductive ServoSt where
  | freerun | acquiring | locked | holdover
deriving DecidableEq, Repr

/-- The servo's registers and measurements (R253 to R255). -/
structure Servo where
  st       : ServoSt := .freerun
  enable   : Bool := false
  domain   : Nat := 0x7F
  failover : Bool := true
  port     : Nat := 0
  actPort  : Nat := 0
  offset   : Int := 0
  gm       : Option GmData := none
  gmid     : DWord := 0
  inRange  : Nat := 0
  pending  : Option Int := none
  freq     : Int := 0
  frac     : Int := 0
  t1       : Option Nat := none
  t2       : Nat := 0
  t3       : Option Nat := none
  t4       : Option Nat := none
  delay    : Int := 0
deriving DecidableEq, Repr

/-- A band of a received frame (R266): its bytes landed and the pieces of lines they fill (line, from, to); whether its
expect has been made, and whether its last packet has landed. -/
structure RxBand where
  frame  : Nat
  band   : Nat
  landed : Nat := 0
  pieces : List (Nat × Nat × Nat) := []
  counted : Bool := false
  last   : Bool := false
deriving DecidableEq, Repr

/-- An installed media stream (R263, R289): the region that t.stream captured, and the task, each received frame's first packet's time, of
each band the frames completed, the bands arriving, and the packets merged by R262; for transmission the end of the last
one (R260) and the region of the last image (R259). -/
structure MediaStream where
  id     : Nat
  region : Nat := 0
  seq    : Nat := 0
  first  : KV Nat := []
  next   : KV Nat := []
  bands  : List RxBand := []
  seqs   : List Half := []
  rtpRef : Option (Word × Nat) := none
  txSeq  : Half := 0
  stop   : Option Nat := none
  lastRegion : Nat := 0
deriving DecidableEq, Repr

/-- A transmission in progress (R259, R260, R266): the image sent (none: black) and its region, its end, the line and byte of
the next packet, whether a byte was sent as 0, and whether its first packet has left. -/
structure Tx where
  frame  : Nat
  stream : Nat
  image  : Option Nat
  stop   : Nat
  region : Nat := 0
  line   : Nat := 0
  off    : Nat := 0
  zeroed : Bool := false
  sent   : Bool := false
deriving DecidableEq, Repr

/-! ## Collectives (R369 to R386) -/

/-- A collective instance this member takes part in; `live` is false for one that found its group absent or its tag in use
and only has its outcome to report. Arrivals hold (rank, digest, fresh) with `dup` for a rank that arrived twice; `status`
is the STATUS of R381 once known; `wrote` is set once DST is written, with the writes; `data` is what peers sent (rank, offset, bytes), `slots` and `spilled` the chunks not yet
consumed (slot or position, rank, offset), `relay` those on their way to another member that came before the announcement
(receiver, rank, offset, bytes); `reports` and `myEgress` are those of a timed barrier. -/
structure Coll where
  id       : Nat
  seq      : Nat
  live     : Bool := true
  group    : Nat
  tag      : Word
  ctx      : TaskCtx
  op       : Nat := 0
  dtype    : Nat := 0
  rop      : Nat := 0
  rank     : Nat := 0
  size     : Nat := 0
  root     : Nat := 0
  chunk    : Nat := 4096
  count    : Nat := 0
  src      : Nat := 0
  dst      : Nat := 0
  deadline : Option Nat := none
  spill    : Nat := 0
  spillSize : Nat := 0
  result   : Nat := 0
  bar      : Option Nat := none
  digest   : DWord := 0
  ports    : List Nat := []
  sentArr  : Bool := false
  arrivals : List (Nat × DWord × Bool) := []
  dup      : Bool := false
  closed   : Bool := false
  c        : DWord := 0
  status   : Option Nat := none
  wrote    : Option (List (Nat × Nat)) := none
  algo     : Nat := 0
  sentData : Bool := false
  data     : List (Nat × Nat × List Byte) := []
  slots    : List (Nat × Nat × Nat) := []
  spilled  : List (Nat × Nat × Nat) := []
  relay    : List (Nat × Nat × Nat × List Byte) := []
  frame    : Option Nat := none
  ptime    : Nat := 0
  reports  : List (Nat × DWord × Bool) := []
  myEgress : Option DWord := none
  subst    : Bool := false
deriving DecidableEq, Repr

/-- The outcome that ROOT keeps of a closed instance (R376), newest first, with its digest and whether it had a deadline. `aged`
is one that the 16 newest of its group have pushed out. A member that is not ROOT keeps what it needs to tell a message of an
instance that has ended from one of the next (the model's own; `root` is false). `told` are the ranks that ROOT has answered LATE, and
`of` the instance, whose blocks on their way to other members still pass here (R379). -/
structure CollKept where
  group : Nat
  tag   : Word
  c     : DWord
  digest : DWord := 0
  timed : Bool := false
  aged  : Bool := false
  root  : Bool := true
  told  : List Nat := []
  of    : Option Coll := none
deriving DecidableEq, Repr

/-- A message of a peer for an instance that this member has not started: an arrival (its digest, fresh) or a report (its
egress, locked). -/
structure CollMsg where
  group  : Nat
  tag    : Word
  rank   : Nat
  value  : DWord
  flag   : Bool
  report : Bool
deriving DecidableEq, Repr

/-! ## Rays and raster -/

/-- An entry of a leaf prediction table (R345). -/
structure LeafEntry where
  cluster : Nat
  set     : Nat
  way     : Nat
  tag     : Nat
  region  : Nat
  asid    : Nat
  top     : Nat
  bottom  : Nat
  tgen    : Nat
  bgen    : Nat
  leaf    : Nat
  used    : Nat
deriving DecidableEq, Repr

/-- A geometry as a bottom structure captured it: OPAQUE and the vertices of each triangle. -/
structure BvhGeom where
  isOpaque : Bool
  idx      : List (List Byte)
  tris     : List (List Word)
deriving DecidableEq, Repr

/-- An instance as a top structure captured it. -/
structure BvhInst where
  m      : List Word
  bottom : Nat
  mask   : Nat
  iflags : Nat
  bounds : List Word
deriving DecidableEq, Repr

/-- What t.bvh captured for generation `gen` of the structure whose header lies at physical address `header` (R336). While
`mapped`, the `size` bytes at virtual address `nodes` of the translation at `root` are its read-only node area. -/
structure Bvh where
  header : Nat
  gen    : Nat := 0
  geoms  : List BvhGeom := []
  insts  : List BvhInst := []
  root   : Nat := 0
  nodes  : Nat := 0
  size   : Nat := 0
  mapped : Bool := false
deriving DecidableEq, Repr

/-- A primitive of a pass (R357): its key, vertices and user word. -/
structure Prim where
  key  : List Nat
  v    : List Vertex
  pid  : Word
  done : Bool := false
deriving DecidableEq, Repr

/-- One covered pixel of one primitive and its state (R361, R363). -/
structure PixRes where
  key    : List Nat
  x      : Nat
  y      : Nat
  z      : Word
  colour : Option (Option (List Word)) := none
  applied : Bool := false
  wanted : Bool := false
  holder : Option (Nat × Nat × Nat) := none
deriving DecidableEq, Repr

/-- A pass in progress (R355, R356, R368). -/
structure Pass where
  id       : Nat
  seq      : Nat
  ctx      : TaskCtx
  pixel    : KDesc := {}
  args     : Nat := 0
  width    : Nat := 1
  height   : Nat := 1
  color    : Nat := 0
  ds       : Nat := 0
  cpitch   : Nat := 0
  dpitch   : Nat := 0
  state    : Word := 0
  clusters : List Nat := []
  prims    : List Prim := []
  pixels   : List PixRes := []
  jobs     : List PixelJob := []
  grid     : Nat := 0
  geomEnded : Bool := false
  pairs    : Nat := 0
  lockPubs : List (Nat × Nat × Publ) := []
deriving DecidableEq, Repr

/-! ## Recovery (R405 to R429) -/

/-- A record in the journal's staging buffer (R424, R426): kind, code, and its fields. -/
structure JRec where
  kind  : Nat
  code  : Nat := 0
  region : Nat := 0
  fdom  : Nat := 0
  opcode : Nat := 0
  flags : Nat := 0
  tseq  : Nat := 0
  addr  : Nat := 0
  stamp : Nat := 0
  info  : Nat := 0
  epoch : Nat := 0
  jseq  : Nat := 0
deriving DecidableEq, Repr

/-- SP_STATUS of a core (R422): the failed bank, whether a second failed, corrections since the last read, and the corrected
banks of late with their times. -/
structure BankSt where
  failed    : Option Nat := none
  offline   : Bool := false
  corrected : Nat := 0
  recent    : List (Nat × Nat) := []
deriving DecidableEq, Repr

/-- The recovery unit's registers and records. `kills` are the kills in progress: the domain, who started it (the KILL record's
CODE), and the tasks that it has completed (R419, R424); `resetEnd` when the last reset ends or ended (R429); `resets` the levels of resets that have no RESET record yet
(R428); `merrs` of each unit with an error code the time of its last MEMERR record of CODE 0, by one more, and the corrections
since (R420). -/
structure Recovery where
  logTable  : DWord := 0
  jrBase    : DWord := 0x0C
  jseq      : Nat := 0
  staging   : List JRec := []
  lost      : Nat := 0
  haltBase  : DWord := 0
  haltHead  : Word := 0
  haltTail  : Word := 0
  haltOp    : Nat := 0
  haltBusy  : Bool := false
  haltStatus : Nat := 0
  haltId    : Half := 0
  haltAcc   : Word := 0
  heldHalts : List (List Byte) := []
  pageTo    : Nat := 0
  fdKill    : Half := 0
  kills    : List (Nat × Nat × Nat) := []
  diverged  : Bool := false
  agentHalted : Bool := false
  agentCores : List Nat := []
  paging    : Bool := false
  resets    : List Nat := []
  resetEnd  : Nat := 0
  banks     : KV BankSt := []
  merrs     : KV (Nat × Nat) := []
  logged    : KV (Nat × Nat) := []
deriving DecidableEq, Repr

/-- Trust registers, the firmware image slot, and the requester's session (R401 to R404): how far version negotiation has gone,
the messages of negotiation, of certificates and of measurements so far, and the HSS signatures made. -/
structure Trust where
  state   : Nat := 0
  reason  : Nat := 0
  len     : Word := 0
  meas    : List (BitVec 384) := [0, 0, 0, 0, 0, 0, 0, 0]
  slot    : List Byte := []
  hssUsed : Nat := 0
  phase   : Nat := 0
  msgsA   : List Byte := []
  msgsB   : List Byte := []
  msgsL   : List Byte := []
deriving DecidableEq, Repr

/-- The fault queue and paging registers (R398, R400). -/
structure FaultQ where
  base : DWord := 0
  head : Word := 0
  tail : Word := 0
  next : DWord := 0
  lim  : DWord := 0
deriving DecidableEq, Repr

/-- A media packet as a port sends it (R260 to R263): the port, addresses and RTP fields, and the bytes of a line of a frame. -/
structure RtpOut where
  port    : Nat
  dstIp   : Nat
  dstPort : Nat
  ptype   : Nat
  seq     : Half
  ts      : Word
  ssrc    : Nat
  stream  : Nat
  frame   : Nat
  line    : Nat
  off     : Nat
  data    : List Byte
deriving DecidableEq, Repr

/-- What leaves the device: interrupts' messages aside, the answers and messages it sends, oldest first. -/
inductive OutMsg where
  | read (bytes : List Byte)
  | unsupported
  | spdm (name : String) (payload : List Byte)
  | pldm (x : Sensor) (value : Option Nat)
  | nack
  | jtag (value : Word)
  | delayReq (port domain : Nat) (t3 : Nat)
  | rtp (p : RtpOut)
  | join (stream : Nat)
  | leave (stream : Nat)
  | arrival (group : Nat) (tag : Word) (dst rank : Nat) (digest : DWord) (fresh : Bool)
  | announce (group : Nat) (tag : Word) (dst : Nat) (c : DWord) (verdict : Verdict)
  | chunk (group : Nat) (tag : Word) (hop dst rank off : Nat) (bytes : List Byte)
  | report (group : Nat) (tag : Word) (dst rank : Nat) (egress : DWord) (locked : Bool)
deriving DecidableEq, Repr

/-! ## The model's own fields -/

/-- The group that is issuing (R47): its team, warp, lanes in ascending order, address, and its bundle's halfwords. -/
structure Ctx where
  team  : Nat
  warp  : Nat
  lanes : List Nat
  pc    : DWord
  words : List Half
deriving DecidableEq, Repr

/-- A hart of the house core (R18): the registers that RV64GC gives it for user programs. -/
structure Hart where
  pc   : DWord := 0
  x    : KV DWord := []
  f    : KV DWord := []
  fcsr : Word := 0
deriving DecidableEq, Repr

/-- What an instruction that a house core retires gives (R19): the next address, the x and the f register it writes, fcsr, and
the bytes it stores in the house SRAM. -/
structure Retired where
  pc    : DWord
  x     : Option (Fin 32 × DWord) := none
  f     : Option (Fin 32 × DWord) := none
  fcsr  : Option Word := none
  sram  : List (BitVec 22 × Byte) := []
deriving DecidableEq, Repr

/-- The house core (R18): the state of its two harts, which are equal for as long as it runs, and their 4 MiB of SRAM, which no
other unit addresses. -/
structure House where
  a    : Hart := {}
  b    : Hart := {}
  sram : KV Byte := []
deriving DecidableEq, Repr

/-- What moves next: a move of the opcode table with its operands; a core's agent, which answers its
next event (R313); a group of a quad; the next task record; an upset of
a stored byte that the codes of R420 cannot correct; an error in a unit other than a core's scratchpad that its code corrects; the boot of the house core, with whether the flash could be read and the
tables' addresses that its firmware chooses (R402); a measurement that the firmware extends (R402); bytes that the host
writes to its own memory; or the failure of the route to a member of an instance, whose card no longer answers or whose part in
it was killed (R382, R437); or an instruction that the two harts of the house core retire, with what each of them makes of it (R19). -/
inductive What where
  | event (i : Instr) (a : Arg)
  | agent (core : Nat)
  | issue (core quad : Nat)
  | task
  | upset (l : Nat)
  | corrected (unit : Nat)
  | boot (flashOk : Bool) (region frame stream fq : DWord)
  | extend (i : Nat) (d : BitVec 384)
  | hostWrite (a : Nat) (bytes : List Byte)
  | routeDown (g : Nat) (tag : Word) (rank : Nat)
  | house (a b : Retired)
deriving DecidableEq, Repr

/-- A move of the schedule: the nanoseconds since the one before it, and what moves. -/
structure Move where
  dt   : Nat := 0
  what : What
deriving DecidableEq, Repr

/-- A completed invalidation of the translation caches (R395, R396): the root (none: of every root), the range of virtual
addresses, and the serial number of the next write at its completion. -/
structure Inval where
  root : Option Nat
  lo   : Nat
  hi   : Nat
  ser  : Nat
deriving DecidableEq, Repr

/-- The state of the machine. -/
structure State where
  /-- The issuing group; the model's own. -/
  cur      : Option Ctx := none
  /-- Operands of the move being made; the model's own. -/
  arg      : Arg := .none
  /-- The moves to come, next first; the model's own (host interface, order of agents). -/
  inbox    : List Move := []
  /-- The core and quad whose groups issue when the inbox is empty; the model's own. -/
  focus    : Option (Nat × Nat) := none
  /-- Free values taken so far; the model's own. -/
  freeCtr  : Nat := 0
  /-- Bundles issued so far, the arithmetic clock by which ready times are compared (R47); the model's own. -/
  tick     : Nat := 0
  /-- Nanoseconds since reset by the moves' own account; the model's own. -/
  now      : Nat := 0
  /-- The last arithmetic clock count read on each core (R131); the model's own. -/
  clocks   : KV Nat := []
  /-- Next identifiers of teams, grids, waves and commands; the model's own. -/
  nextId   : Nat := 1
  /-- CLUSTER_EN (R28, R29), fixed at manufacture: the enabled clusters. -/
  fuses    : DWord := 0x0000FFFFFFFFFFFF
  /-- Bytes of every space (R191, R431), by location. -/
  mem      : List Host.Cell := []
  /-- Coherence order, newest first (R195). -/
  hist     : List HWrite := []
  /-- Serial number of the next write. -/
  nextSer  : Nat := 1
  /-- Publications, newest first (R199, R200). -/
  publs    : List Publ := []
  /-- Barrier objects' phases (R207). -/
  bars     : List BarRec := []
  /-- Blocks of 64 bytes whose error cannot be corrected (R420, R421), by physical address. -/
  bad      : List Nat := []
  /-- Teams with their warps and threads (R38, R46, R52). -/
  teams    : List Team := []
  /-- Grids that run (R39, R309), and placed waves (R42, R311). -/
  grids    : List Grid := []
  waves    : List Wave := []
  /-- Commands of the copy queues (R235), the gather units (R158) and the matrix queues (R149). -/
  copies   : List CopyCmd := []
  gathers  : List GatherCmd := []
  matq     : List MatCmd := []
  /-- Publications and subscriptions of the operand stream distributor (R241 to R244). -/
  spubs    : List StreamPub := []
  ssubs    : List StreamSub := []
  /-- REGION_BASE, REGION_SYNC (R32) and the installed blocks (R33). -/
  regionBase : DWord := 0
  syncId   : Half := 0
  syncBusy : Bool := false
  syncStat : Nat := 0
  regions  : List Region := []
  /-- Bytes mapped to each region (R397). -/
  mapped   : KV Nat := []
  /-- Invalidations of the translation caches, newest first (R395): what a cache may hold of an older entry lies after them. -/
  invals   : List Inval := []
  /-- XOWN of the granules that do not hold 0xFFFF (R390). -/
  xown     : KV Half := []
  /-- The task window (R272 to R304), the Almanac (R317) and the power controller (R321, R322, R438). -/
  win      : Window := {}
  alm      : Almanac := {}
  power    : Power := {}
  /-- The presentation clock (R106, R252), below 2^64, and its servo (R253 to R255). -/
  ptime    : Nat := 0
  servo    : Servo := {}
  /-- FRAME_BASE and STREAM_BASE (R256). -/
  frameBase : DWord := 0
  streamBase : DWord := 0
  /-- Whether the house firmware has written its tables since the last reset of level 3 (R256). -/
  tables   : Bool := false
  /-- Installed streams (R263, R289) and transmissions (R259, R260). -/
  streams  : List MediaStream := []
  txs      : List Tx := []
  /-- Of each frame the region and the sequence number of its t.frame (R257). -/
  frameReg : KV (Nat × Nat) := []
  /-- Of each frame whose first packet has left, or that was MISSED: EGRESS, whether the servo was LOCKED then, and whether it was
  the substitution (R384). -/
  firstOut : KV (Option (Nat × Bool × Bool)) := []
  /-- Collective instances and the outcomes kept of ended ones (R373, R376). -/
  colls    : List Coll := []
  collKept : List CollKept := []
  /-- Arrivals and reports for instances not started here (R373, R376). -/
  collEarly : List CollMsg := []
  /-- LINK_CTL, LINK_STATUS and GRP_BASE (R436). -/
  linkCard : Half := 0
  linkUp   : BitVec 6 := 0
  grpBase  : DWord := 0
  /-- Leaf prediction tables (R345), built structures (R336) and passes (R355). -/
  leaves   : List LeafEntry := []
  bvhs     : List Bvh := []
  passes   : List Pass := []
  /-- The fault queue (R398), and the trust registers and sessions (R401 to R404). -/
  fq       : FaultQ := {}
  trust    : Trust := {}
  /-- The house core's own state (R18). -/
  house    : House := {}
  /-- The recovery registers (R406 to R429). -/
  rcv      : Recovery := {}
  /-- Engine commands stalled on a demand entry (R236, R399), by identifier. -/
  stalled  : KV Nat := []
  /-- Events held for a full event queue (R314): core and the four words. -/
  heldEv   : List (Nat × List Word) := []
  /-- Interrupt vectors raised (R433), oldest first. -/
  irqs     : List Nat := []
  /-- What the device has sent, oldest first. -/
  out      : List OutMsg := []
  /-- Whether EXTEST holds the device in reset (R441). -/
  extest   : Bool := false
deriving DecidableEq, Repr

/-- Reasons for which the machine stops with a fault: none. Every fault of the spec is an effect that it describes (a halted warp,
a task that completes with a code, a broken object, a record), so a meaning takes it and answers a next state. -/
inductive Fault
deriving DecidableEq, Repr

/-- Reasons for which the machine refuses. -/
inductive Refusal where
  /-- The instruction has no meaning yet; raised by its arm of `exec`. Safe: nothing follows from a refusal. -/
  | notModelled (mnemonic : String)
deriving DecidableEq, Repr

/-- One step's outcome. -/
abbrev Out := Host.Outcome State Fault Refusal

/-- The root region as the model has it after boot (R32, R33; log entry 8): every override in force, all cores, all of
device memory, every Almanac slot, and no page table. -/
def Region.boot : Region :=
  { id := 0, cores := Config.cores, opCeil := 15, mem := Config.memBytes, almMask := 0xFFFFFFFFFFFFFFFF,
    share := [4096, 4096, 4096, 4096, 4096, 4096] }

/-- XOWN after reset (R390): granules 960 to 991 and 1022, 1023 read 0xFFFE; the table lists what differs from 0xFFFF. -/
def xownReset : KV Half :=
  (List.range 32).map (fun i => (960 + i, 0xFFFE#16)) ++ [(1022, 0xFFFE#16), (1023, 0xFFFE#16)]

/-- The machine right after a level 3 reset (R428), of a part with the given fuses: registers at their Reset values, region 0
installed, nothing placed, memory with nothing listed. -/
def State.resetOf (fuses : DWord) : State :=
  { fuses := fuses, regions := [Region.boot], xown := xownReset, trust := { slot := Config.flashImage }, rcv := { resets := [3] } }

/-- CLUSTER_EN of FLK940-A (R29): every cluster of both dies. -/
def fusesAll : DWord := 0x0000FFFFFFFFFFFF

/-- The reset of FLK940-A. FLK920-A resets to `State.resetOf` of its own fuses (log entry 5). -/
def State.reset : State := State.resetOf fusesAll

end Sys2Proof.Machine
end

