-- ==== Sys2Proof/Machine/Mem.lean ====
section
/-! DEFINITION. Lookup and update of the units of work, the location space, and the memory model's operations: coherence
order, views, publications, releases and acquires (R190 to R211). -/

namespace Sys2Proof.Machine

/-! ## Units of work -/

def State.team? (s : State) (id : Nat) : Option Team := s.teams.find? (fun t => t.id == id)
def State.grid? (s : State) (id : Nat) : Option Grid := s.grids.find? (fun g => g.id == id)
def State.wave? (s : State) (id : Nat) : Option Wave := s.waves.find? (fun w => w.id == id)
def State.pass? (s : State) (id : Nat) : Option Pass := s.passes.find? (fun p => p.id == id)

def State.updTeam (s : State) (id : Nat) (f : Team → Team) : State :=
  { s with teams := s.teams.map (fun t => if t.id == id then f t else t) }
def State.updGrid (s : State) (id : Nat) (f : Grid → Grid) : State :=
  { s with grids := s.grids.map (fun g => if g.id == id then f g else g) }
def State.updWave (s : State) (id : Nat) (f : Wave → Wave) : State :=
  { s with waves := s.waves.map (fun w => if w.id == id then f w else w) }
def State.updPass (s : State) (id : Nat) (f : Pass → Pass) : State :=
  { s with passes := s.passes.map (fun p => if p.id == id then f p else p) }

/-- Lexicographic order of keys. -/
def lexLt : List Nat → List Nat → Bool
  | [], [] => false
  | [], _ => true
  | _, [] => false
  | a :: s, b :: t => decide (a < b) || (decide (a = b) && lexLt s t)

/-- The element function applied at one index. -/
def updAt {α : Type} (f : α → α) : Nat → List α → List α
  | _, [] => []
  | 0, x :: t => f x :: t
  | n + 1, x :: t => x :: updAt f n t

/-- The element function applied at every index, which it is given. -/
def mapIx {α : Type} (f : Nat → α → α) : Nat → List α → List α
  | _, [] => []
  | i, x :: t => f i x :: mapIx f (i + 1) t

def Team.updWarp (t : Team) (w : Nat) (f : Warp → Warp) : Team := { t with warps := updAt f w t.warps }
def State.updWarp (s : State) (t w : Nat) (f : Warp → Warp) : State := s.updTeam t (fun x => x.updWarp w f)
def Warp.updThr (w : Warp) (l : Nat) (f : Thread → Thread) : Warp := { w with threads := updAt f l w.threads }
def State.updThr (s : State) (t w l : Nat) (f : Thread → Thread) : State := s.updWarp t w (fun x => x.updThr l f)
def Warp.mapThr (w : Warp) (f : Nat → Thread → Thread) : Warp := { w with threads := mapIx f 0 w.threads }
def State.mapThr (s : State) (t w : Nat) (f : Nat → Thread → Thread) : State := s.updWarp t w (fun x => x.mapThr f)

def State.warp? (s : State) (t w : Nat) : Option Warp := (s.team? t).bind (fun x => x.warps[w]?)
def Warp.thr (w : Warp) (l : Nat) : Thread := w.threads.getD l {}
def State.thr? (s : State) (t w l : Nat) : Option Thread := (s.warp? t w).bind (fun x => x.threads[l]?)

/-! ## Registers -/

/-- v[n] of a thread. -/
def Thread.rv (th : Thread) (n : Nat) : Word := KV.get 0 n th.v
def Thread.setV (th : Thread) (n : Nat) (x : Word) : Thread := { th with v := KV.put 0 n x th.v }
/-- Writes a group of registers from n up. -/
def Thread.setVs (th : Thread) : Nat → List Word → Thread
  | _, [] => th
  | n, x :: t => (th.setV n x).setVs (n + 1) t
/-- k[n] of a warp. -/
def Warp.rk (w : Warp) (n : Nat) : Word := KV.get 0 n w.k
def Warp.setK (w : Warp) (n : Nat) (x : Word) : Warp := { w with k := KV.put 0 n x w.k }
/-- p[n] of a thread: p7 reads true (R128). -/
def Thread.rp (th : Thread) (n : Nat) : Bool := if n = 7 then true else th.p.getLsbD n
/-- A write of p7 is discarded (R128). -/
def Thread.setP (th : Thread) (n : Nat) (b : Bool) : Thread :=
  if n = 7 then th
  else { th with p := (th.p &&& ~~~(1#7 <<< n)) ||| (if b then 1#7 <<< n else 0) }
/-- A u64 of a pair: the second register is the high half. -/
def Warp.rkPair (w : Warp) (n : Nat) : DWord := w.rk (n + 1) ++ w.rk n
def Thread.rvPair (th : Thread) (n : Nat) : DWord := th.rv (n + 1) ++ th.rv n
def Warp.setKPair (w : Warp) (n : Nat) (x : DWord) : Warp :=
  (w.setK n (x.extractLsb' 0 32)).setK (n + 1) (x.extractLsb' 32 32)

/-! ## Locations

Every byte of every space has one location (R191): physical memory at its own address, and each other space above, by tag
and instance. -/

def locOf (tag inst a : Nat) : Nat := (inst * 8 + tag) * 18446744073709551616 + a
/-- A physical address. -/
def locPhys (pa : Nat) : Nat := pa
def locChip (a : Nat) : Nat := locOf 1 0 a
/-- The core scratchpad of a team. -/
def locScr (team a : Nat) : Nat := locOf 2 team a
/-- The cluster-shared allocation of a wave on a cluster. -/
def locClus (wave cluster a : Nat) : Nat := locOf 3 (wave * 64 + cluster) a
/-- The tag of a location. -/
def locTag (l : Nat) : Nat := l / 18446744073709551616 % 8

/-- Reads of physical addresses that reach something (R431). -/
def physOk (pa : Nat) : Bool := pa < Config.memBytes || (Config.hostBase ≤ pa && pa < Config.hostEnd)

/-- The window of host memory (R431). -/
def hostLoc (l : Nat) : Bool := decide (Config.hostBase ≤ l) && decide (l < Config.hostEnd)

/-! ## Bytes and words -/

/-- A byte of an event queue's header as the scheduler builds it when the compute dies leave reset (R314): EXP and LEFT of
the embedded object 1, RING, and CAP 16. -/
def eventHdrByte (core o : Nat) : Byte :=
  if o = 4 ∨ o = 8 then 1
  else if o = 0x30 then 16
  else if 0x20 ≤ o ∧ o < 0x28 then BitVec.ofNat 8 ((0x3FF4000 + 256 * core) / 256 ^ (o - 0x20))
  else 0

/-- What a location reads as when nothing has written it: the event queues' headers (R314), and 0 elsewhere (log
entry 4). -/
def initByte (l : Nat) : Byte :=
  if locChip 0x3FE0000 ≤ l ∧ l < locChip (0x3FE0000 + 64 * 192) then
    eventHdrByte ((l - locChip 0x3FE0000) / 64) ((l - locChip 0x3FE0000) % 64)
  else 0

/-- The byte of a location. -/
def memGet (m : List Host.Cell) (l : Nat) : Byte := KV.get (initByte l) l m

/-- A byte written; one equal to what the location reads as of itself is not listed. -/
def memPut (l : Nat) (b : Byte) (m : List Host.Cell) : List Host.Cell :=
  if b = initByte l then KV.del l m else KV.ins l b (KV.del l m)

/-- Bytes written in order. -/
def memPuts (m : List Host.Cell) : List (Nat × Byte) → List Host.Cell
  | [] => m
  | p :: t => memPuts (memPut p.1 p.2 m) t

/-- The newest byte at a location. -/
def State.rdNew (s : State) (l : Nat) : Byte := memGet s.mem l


/-- Little-endian value of bytes, lowest address first. -/
def leNat : List Byte → Nat
  | [] => 0
  | b :: t => b.toNat + 256 * leNat t

/-- n bytes of a number, lowest first. -/
def leBytes : Nat → Nat → List Byte
  | 0, _ => []
  | n + 1, x => BitVec.ofNat 8 x :: leBytes n (x / 256)

def wordBytes (w : Word) : List Byte := leBytes 4 w.toNat
def dwordBytes (d : DWord) : List Byte := leBytes 8 d.toNat
def wordOfBytes (bs : List Byte) : Word := BitVec.ofNat 32 (leNat bs)

/-- n consecutive locations. -/
def locRange (l n : Nat) : List Nat := (List.range n).map (fun i => l + i)

def State.rdNewNat (s : State) (l n : Nat) : Nat := leNat ((locRange l n).map s.rdNew)

/-- One write of one byte takes the next place in coherence order (R195). -/
def State.wr1 (s : State) (m : Maker) (l : Nat) (b : Byte) : State :=
  { s with mem := memPut l b s.mem, nextSer := s.nextSer + 1,
           hist := { ser := s.nextSer, loc := l, old := s.rdNew l, new := b, by_ := m } :: s.hist }

/-- Writes of several bytes, in order. -/
def State.wrAll (s : State) (m : Maker) : List (Nat × Byte) → State
  | [] => s
  | (l, b) :: t => (s.wr1 m l b).wrAll m t

/-- One write of several bytes, in order. -/
def State.wr (s : State) (m : Maker) (ws : List (Nat × Byte)) : State := s.wrAll { m with op := s.nextSer } ws

/-- The bytes of a list at consecutive locations. -/
def atLoc (l : Nat) : List Byte → List (Nat × Byte)
  | [] => []
  | b :: t => (l, b) :: atLoc (l + 1) t

/-- The serial numbers that `wr` gives to the bytes it writes. -/
def serials : Nat → List (Nat × Byte) → List (Nat × Nat)
  | _, [] => []
  | n, (l, _) :: t => (l, n) :: serials (n + 1) t

/-- The write of a location with a serial number; 0 names the initial contents. -/
def State.valAt (s : State) (l ser : Nat) : Byte :=
  match s.hist.filter (fun h => h.loc == l) with
  | [] => s.rdNew l
  | hs =>
    match hs.find? (fun h => h.ser == ser) with
    | some h => h.new
    | none => (hs.getLast?.map HWrite.old).getD (s.rdNew l)

/-- The newest write of a location with a serial number below n. -/
def State.newestBelow (s : State) (l n : Nat) : Nat :=
  match s.hist.find? (fun h => h.loc == l && h.ser < n) with
  | some h => h.ser
  | none => 0

/-- The write that a thread's view names at a location (R196). -/
def State.viewSer (s : State) (th : Thread) (l : Nat) : Nat := max (KV.get 0 l th.view) (s.newestBelow l th.seen)

/-- What a load of the thread reads at a location (R196). -/
def State.rdView (s : State) (th : Thread) (l : Nat) : Byte := s.valAt l (s.viewSer th l)

/-- The view moved forward to the given writes, never back (R196). -/
def moveView (v : KV Nat) : List (Nat × Nat) → KV Nat
  | [] => v
  | (l, n) :: t => moveView (if KV.get 0 l v < n then KV.put 0 l n v else v) t

/-- The difference of two presentation times: modulo 2^64, read as i64 (R106). -/
def timeDiff (a b : Nat) : Int := (BitVec.ofNat 64 a - BitVec.ofNat 64 b).toInt

/-! ## Scopes (R197) -/

/-- The cluster that a party belongs to. -/
def Party.cluster : Party → Option Nat
  | .core c => some (c / 4)
  | .raster n => some n
  | _ => none

/-- Whether the instance of scope S that holds party p holds party q. -/
def scopeHas (S : Scope) (p q : Party) : Bool :=
  match S with
  | .dflt | .thread => false
  | .core => match p, q with
    | .core a, .core b => a == b
    | _, _ => false
  | .cluster => match p.cluster, q.cluster with
    | some a, some b => a == b
    | _, _ => false
  | .chip => p != .host && q != .host
  | .system => true

/-- A release at S1 by P and an acquire at S2 by Q can synchronise (R197). -/
def canSync (S1 : Scope) (P : Party) (S2 : Scope) (Q : Party) : Bool := scopeHas S1 P Q && scopeHas S2 Q P

/-- The scopes narrower than a scope. -/
def narrower : Scope → List Scope
  | .system => [.core, .cluster, .chip]
  | .chip => [.core, .cluster]
  | .cluster => [.core]
  | _ => []

/-- Whether a publication can synchronise with an acquire by Q at scope S (R197): by who published it, or as a write published
at the narrower scopes that hold its writer (R199). -/
def Publ.reaches (p : Publ) (S : Scope) (Q : Party) : Bool :=
  canSync p.scope p.party S Q || (narrower p.scope).any (fun n => canSync n p.writer S Q)

/-- Whether a location is covered (R202). -/
def Cover.has (c : Cover) (l : Nat) : Bool :=
  match c.spans with
  | none => true
  | some ss => ss.any (fun p => p.1 ≤ l && l < p.2)

/-- The writes a thread's view names (R199). -/
def State.named (s : State) (th : Thread) : List (Nat × Nat) :=
  th.view ++ (s.hist.filter (fun h => h.ser < th.seen)).map (fun h => (h.loc, h.ser))

/-- Whose write a serial number is. -/
def State.writerOf (s : State) (ser : Nat) : Party := ((s.hist.find? (fun h => h.ser == ser)).map (fun h => h.by_.party)).getD .unit

/-- A write as a release at scope S by P publishes it. -/
def State.publOf (s : State) (S : Scope) (P : Party) (w : Nat × Nat) : Publ :=
  { scope := S, party := P, loc := w.1, ser := w.2, writer := s.writerOf w.2 }

/-- Publishes writes (R199). -/
def State.publish (s : State) (S : Scope) (P : Party) (ws : List (Nat × Nat)) : State :=
  { s with publs := ws.map (s.publOf S P) ++ s.publs }

/-- What a release by a thread publishes. -/
def State.relWrites (s : State) (th : Thread) (c : Cover) : List (Nat × Nat) :=
  (s.named th).filter (fun w => c.has w.1)

/-- A release event by a thread of party P (R199). -/
def State.release (s : State) (P : Party) (th : Thread) (c : Cover) : State :=
  s.publish c.scope P (s.relWrites th c)

/-- The publications an acquire by Q takes in (R200). -/
def State.acqWrites (s : State) (Q : Party) (c : Cover) : List (Nat × Nat) :=
  (s.publs.filter (fun p => p.reaches c.scope Q && c.has p.loc)).map (fun p => (p.loc, p.ser))

/-- An acquire event (R200): the view moves to what was published. -/
def State.acquire (s : State) (Q : Party) (c : Cover) (th : Thread) : Thread :=
  { th with view := moveView th.view (s.acqWrites Q c) }

/-- Every write published so far at chip or system scope: what a task's issue takes in (R196, R208). -/
def State.issueView (s : State) : KV Nat := moveView [] (s.acqWrites .unit { scope := .system })

/-- The view that a team's threads start with (R196, R208): for each byte a write no older than those published at chip or system
scope before the task issued; which of the later ones the core's snapshot holds is a free value (log entry 86). -/
def State.snapView (s : State) (k : TaskCtx) : KV Nat :=
  moveView (moveView [] (((s.publs.drop (s.publs.length - k.issuePubs)).filter (fun p => p.reaches .system .unit)).map (fun p => (p.loc, p.ser))))
    ((s.hist.filter (fun h => Config.snapshot s.freeCtr (h.loc / 8) h.by_.op)).map (fun h => (h.loc, h.ser)))

/-- A task's context as it issues: its launch timestamp (R131), and what R193 and R196 refer to. -/
def TaskCtx.atIssue (k : TaskCtx) (s : State) : TaskCtx :=
  { k with launch := s.ptime, issueSer := s.nextSer, issuePubs := s.publs.length }

/-! ## Constant space (R193) -/

/-- The writes since the task issued that a constant read of a location may give beside the one that stood then: none before a thread
or an engine has written the byte, and every one after. -/
def State.constSince (s : State) (k : TaskCtx) (l : Nat) : List HWrite :=
  let since := s.hist.filter (fun h => h.loc == l && decide (k.issueSer ≤ h.ser))
  if since.any (fun h => h.by_.party != .host) then since else []

/-- The newest of the allowed writes that meet p, or the one that stood when the task issued. -/
def State.constSer (s : State) (k : TaskCtx) (l : Nat) (p : HWrite → Bool) : Nat :=
  ((s.constSince k l).filter p).foldl (fun m h => max m h.ser) (s.newestBelow l k.issueSer)

/-- Whether a thread's constant reads have come to a write by now: once they have they never go back (R195), and they come to all of
its bytes in aligned 8 bytes at once (R194). -/
def constCome (rd : Nat × Nat × Nat) (tick : Nat) (h : HWrite) : Bool :=
  (List.range (tick + 1)).any (fun i => Config.constPick rd i (h.loc / 8) h.by_.op)

/-- The byte that a constant read of a thread gives in default mode, one of those, whichever (log entry 86). -/
def State.rdConst (s : State) (k : TaskCtx) (rd : Nat × Nat × Nat) (l : Nat) : Byte :=
  s.valAt l (s.constSer k l (constCome rd s.tick))

/-- In deterministic mode the newest of them that the thread's view names (R183). -/
def State.rdConstDet (s : State) (k : TaskCtx) (th : Thread) (l : Nat) : Byte :=
  s.valAt l (s.constSer k l (fun h => decide (h.ser ≤ s.viewSer th l)))

/-- The byte that an acquire by a party at scope S reads. -/
def State.rdAs (s : State) (S : Scope) (P : Party) (l : Nat) : Byte :=
  if s.hist.any (fun h => h.loc == l) then
    s.valAt l ((s.publs.filter (fun p => p.loc == l && p.reaches S P)).foldl (fun m p => max m p.ser) 0)
  else s.rdNew l

/-- The byte that an acquire by a chip-level unit at scope S reads (R279, R393); of host memory, at system scope (R208, R432). -/
def State.rdUnit (s : State) (S : Scope) (l : Nat) : Byte := s.rdAs (if hostLoc l then .system else S) .unit l

/-- The byte that a read of the host gives (R208). -/
def State.rdHost (s : State) (l : Nat) : Byte := s.rdAs .system .host l

def State.rdUnitNat (s : State) (S : Scope) (l n : Nat) : Nat := leNat ((locRange l n).map (s.rdUnit S))

/-- A write by a device unit or the host, or an atomic's, published as it is made (R203, R208, R257): in host memory at system scope
(R208, R432). -/
def State.wrPub (s : State) (S : Scope) (P : Party) (grid : Option Nat) (ws : List (Nat × Byte)) : State :=
  let qs := serials s.nextSer ws
  ((s.wr { party := P, grid := grid } ws).publish S P (qs.filter (fun q => !hostLoc q.1))).publish .system P (qs.filter (fun q => hostLoc q.1))

/-- A write of the device's own records, published at system scope (R409, R411, R425). -/
def State.wrDev (s : State) (pa : Nat) (bs : List Byte) : State := s.wrPub .system .unit none (atLoc (locPhys pa) bs)

/-! ## Free values and identifiers -/

/-- The next free value of w bits (log entry 2). -/
def State.free (s : State) (w : Nat) : BitVec w × State := (Config.freeValue w s.freeCtr, { s with freeCtr := s.freeCtr + 1 })

def State.fresh (s : State) : Nat × State := (s.nextId, { s with nextId := s.nextId + 1 })

end Sys2Proof.Machine
end

