-- ==== Sys2Proof/Machine/Region.lean ====
section
/-! DEFINITION. Regions' effective fields and budgets (R31 to R37), translation and its checks (R390 to R394), the buffer
aperture (R293), purity (R296), and the resolution of an access to locations. -/

namespace Sys2Proof.Machine

/-! ## The part (R14, R28, R29) -/

/-- Whether a cluster is enabled (R28, R29). -/
def State.clusterOn (s : State) (q : Nat) : Bool := decide (q < Config.clusters) && s.fuses.getLsbD q

/-- Enabled clusters. -/
def State.clusterCount (s : State) : Nat := (List.range Config.clusters).countP s.clusterOn

/-- Enabled cores (R14, R35): four to an enabled cluster. -/
def State.enabledCores (s : State) : Nat := 4 * s.clusterCount

/-- Whether a core exists for software (R28). -/
def State.coreExists (s : State) (c : Nat) : Bool := s.clusterOn (c / 4)

/-- The two digits of a part's number: 0x40 with every cluster enabled, else 0x20 (R28, R29). -/
def State.part (s : State) : Nat := if s.clusterCount = Config.clusters then 0x40 else 0x20

/-- DEV_IDENT (R29), stepping 1. -/
def State.devIdent (s : State) : Word := BitVec.ofNat 32 (s.part * 2 ^ 24 + 2 ^ 16 + s.clusterCount * 2 ^ 8)

/-- The JTAG identification (R441). -/
def State.idcode (s : State) : Word := BitVec.ofNat 32 (2 ^ 28 + (0x900 + s.part) * 2 ^ 12 + 0x537 * 2 + 1)

/-! ## Effective fields (R35) -/

def State.region? (s : State) (id : Nat) : Option Region := s.regions.find? (fun r => r.id == id)

/-- Override bit i of a block; block 0 has every bit set (R34). -/
def Region.own (r : Region) (i : Nat) : Bool := r.id == 0 || r.ov.getLsbD i

def zipMin : List Nat → List Nat → List Nat
  | a :: s, b :: t => min a b :: zipMin s t
  | _, _ => []

/-- A block's effective fields over its parent's (R35). -/
def Region.over (r p : Region) : Region :=
  { r with
    cores := if r.own 0 then min r.cores p.cores else p.cores
    mem := if r.own 1 then min r.mem p.mem else p.mem
    share := if r.own 2 then zipMin r.share p.share else p.share
    leaf := if r.own 3 then r.leaf else p.leaf
    opCeil := if r.own 4 then min r.opCeil p.opCeil else p.opCeil
    prio := if r.own 5 then r.prio else p.prio
    dclass := if r.own 6 then r.dclass else p.dclass
    fdom := if r.own 7 then r.fdom else p.fdom
    root := if r.own 8 then r.root else p.root
    slack := if r.own 9 then r.slack else p.slack
    det := if r.own 10 then r.det || p.det else p.det
    quantum := if r.own 10 then r.quantum else p.quantum
    swapWait := if r.own 11 then r.swapWait else p.swapWait
    almMask := if r.own 12 then r.almMask &&& p.almMask else p.almMask }

def State.effAux (s : State) : Nat → Nat → Option Region
  | 0, _ => none
  | n + 1, id =>
    match s.region? id with
    | none => none
    | some r =>
      if id = 0 then some { r with cores := min r.cores s.enabledCores }
      else (s.effAux n r.parent).map (fun p => r.over p)

/-- The effective fields of an installed region; a path holds at most 8 regions (R31). -/
def State.eff (s : State) (id : Nat) : Option Region := s.effAux 8 id

/-- The regions on the path to the root, the region first. -/
def State.pathAux (s : State) : Nat → Nat → List Nat
  | 0, _ => []
  | n + 1, id =>
    if id = 0 then [0]
    else
      match s.region? id with
      | none => [id]
      | some r => id :: s.pathAux n r.parent

def State.path (s : State) (id : Nat) : List Nat := s.pathAux 8 id

/-- Whether region a is b or lies above it. -/
def State.above (s : State) (a b : Nat) : Bool := (s.path b).contains a

def State.fdomOf (s : State) (id : Nat) : Nat := ((s.eff id).map Region.fdom).getD 0
def State.rootOf (s : State) (id : Nat) : Nat := ((s.eff id).map Region.root).getD 0
/-- The quantum Q (R178): 0 means 1,024. -/
def State.quantumOf (s : State) (id : Nat) : Nat :=
  match s.eff id with
  | none => 1024
  | some r => if r.quantum = 0 then 1024 else r.quantum

/-- Bytes mapped to a region and those below it (R36). -/
def State.mappedSub (s : State) (a : Nat) : Nat :=
  (s.mapped.filter (fun e => s.above a e.1)).foldl (fun n e => n + e.2) 0

/-- The first region on the path that `n` more bytes would take past its effective MEM_BYTES (R36). -/
def State.memRefuses (s : State) (id n : Nat) : Option Nat :=
  (s.path id).find? (fun a => ((s.eff a).map Region.mem).getD 0 < s.mappedSub a + n)

/-- Physical buffers of a class held by a region and those below it (R36). Keys of `owner` are class × 4096 + index. -/
def State.heldSub (s : State) (a c : Nat) : Nat :=
  s.win.owner.countP (fun e => e.1 / 4096 == c && ((e.2).map (fun r => s.above a r)).getD false)

/-- The first region on the path that one more buffer of class c would take past its POOL_SHARE (R294). -/
def State.poolRefuses (s : State) (id c : Nat) : Option Nat :=
  (s.path id).find? (fun a => ((s.eff a).map (fun r => r.share.getD c 0)).getD 0 ≤ s.heldSub a c)

/-- Teams that hold resources of a core. -/
def Team.holds (t : Team) (core : Nat) : Bool := t.core == core && !t.agent && t.st != .saved

/-- Whether a wave has teams that no agent has claimed yet (R312). -/
def Wave.open_ (w : Wave) : Bool := decide (w.taken.length < w.count)

/-- The cores that count against a region (R36): those which teams of its tasks, or of a region below, hold, and those of a
placed wave whose teams are still to be claimed there. -/
def State.coresSub (s : State) (a : Nat) : List Nat :=
  let mine (g : Nat) : Bool := ((s.grid? g).map (fun g => s.above a g.task.region)).getD false
  (List.range Config.cores).filter (fun c =>
    s.teams.any (fun t => t.holds c && mine t.grid) || s.waves.any (fun w => w.open_ && w.cores.contains c && mine w.grid))

/-- Whether a core may be taken for a region (R36, R37, R311): with it every region on the path is within its effective CORES. A core
that counts already adds nothing, but where a lowered budget is passed it waits as every other. -/
def State.coreAllowed (s : State) (id c : Nat) (taken : List Nat) : Bool :=
  (s.path id).all (fun a =>
    let used := s.coresSub a
    let all := (c :: taken).foldl (fun m x => if m.contains x then m else x :: m) used
    decide (all.length ≤ ((s.eff a).map Region.cores).getD 0))

/-! ## Translation (R391 to R394) -/

/-- What an access needs of its page. -/
inductive Acc where
  | read | write | fetch
deriving DecidableEq, Repr

/-- A translation: a physical address, a demand entry (its address, level and value), or a protection detail of R394. -/
inductive Tr where
  | ok (pa : Nat)
  | page (entry lvl : Nat) (e : DWord)
  | bad (detail : Nat)
  | err (l : Nat)
deriving DecidableEq, Repr

def canonical (va : Nat) : Bool :=
  let hi := va / 2 ^ 48 % 65536
  if va / 2 ^ 47 % 2 = 1 then hi == 0xFFFF else hi == 0

/-- Bits [hi:lo] of an entry. -/
def ebits (e : DWord) (hi lo : Nat) : Nat := e.toNat / 2 ^ lo % 2 ^ (hi - lo + 1)

/-- A leaf found by a walk: its base, size and permissions; or what ends the walk, among it an entry lost to an error that cannot
be corrected (R405, R421). -/
inductive Leaf where
  | leaf (pa : Nat) (w x : Bool)
  | page (entry lvl : Nat) (e : DWord)
  | bad (detail : Nat)
  | err (l : Nat)
deriving DecidableEq, Repr

/-- The first write that no completed invalidation of an address has put behind it (R395). -/
def State.invalSer (s : State) (root va : Nat) : Nat :=
  ((s.invals.find? (fun i => (i.root == none || i.root == some root) && decide (i.lo ≤ va) && decide (va < i.hi))).map Inval.ser).getD 0

/-- A page-table entry as the writes below a serial number leave it. -/
def State.entryBelow (s : State) (ea n : Nat) : DWord :=
  BitVec.ofNat 64 (leNat ((locRange (locPhys ea) 8).map (fun l => s.valAt l (s.newestBelow l n))))

/-- The older valid values of an entry that a translation cache may still hold (R395): the one at the last invalidation, and what
each store since has left. -/
def State.oldEntries (s : State) (root va ea : Nat) (new : DWord) : List DWord :=
  let from_ := s.invalSer root va
  let here (h : HWrite) : Bool := decide (locPhys ea ≤ h.loc) && decide (h.loc < locPhys ea + 8) && decide (from_ ≤ h.ser)
  let hs := s.hist.filter here
  let cuts := from_ :: (hs.filter (fun h => !hs.any (fun x => x.ser == h.ser + 1))).map (fun h => h.ser + 1)
  if hs.isEmpty then [] else (cuts.map (s.entryBelow ea)).filter (fun e => e.getLsbD 0 && e != new)

/-- The entry that an access takes: the newest, or an older one that a cache may hold, whichever (R395, log entry 153). -/
def State.entryOf (s : State) (root va ea : Nat) : DWord :=
  let new : DWord := BitVec.ofNat 64 (s.rdUnitNat .chip (locPhys ea) 8)
  match s.oldEntries root va ea new with
  | [] => new
  | olds => (new :: olds).getD (Config.cachePick s.tick s.now (va / 4096) ea % (olds.length + 1)) new

/-- Levels lvl down to 0 of the walk of R393 from a root. -/
def State.walkAux (s : State) (root va : Nat) : Nat → Nat → Leaf
  | 0, _ => .bad 4
  | n + 1, t =>
    let lvl := n
    let ea := t + 8 * (va / 2 ^ (12 + 9 * lvl) % 512)
    if !physOk ea then .bad 1
    else if s.bad.contains (locPhys ea / 64 * 64) then .err (locPhys ea)
    else
      let e := s.entryOf root va ea
      if ebits e 62 52 ≠ 0 ∨ ebits e 11 8 ≠ 0 ∨ ebits e 5 4 ≠ 0 then .bad 4
      else if ebits e 0 0 = 0 then
        if ebits e 63 63 = 0 then .bad 1
        else if ebits e 1 1 ≠ 0 ∨ lvl = 3 then .bad 4
        else .page ea lvl e
      else if ebits e 1 1 = 0 then
        if lvl = 0 ∨ ebits e 7 2 ≠ 0 then .bad 4 else s.walkAux root va n (ebits e 51 12 * 4096)
      else if lvl = 3 then .bad 4
      else
        let size := 2 ^ (12 + 9 * lvl) * 4 ^ ebits e 7 6
        let base := ebits e 51 12 * 4096
        if base % size ≠ 0 then .bad 4
        else .leaf (base + va % size) (ebits e 2 2 == 1) (ebits e 3 3 == 1)

/-- `translate` (R393). -/
def State.walk (s : State) (root va : Nat) : Leaf :=
  if !canonical va || root = 0 then .bad 1 else s.walkAux root va 4 root

/-- Bytes of a buffer class (R290). -/
def classSize (c : Nat) : Nat := 65536 * 4 ^ c

def apBase : Nat := 0xFFFFC00000000000
def apEnd : Nat := 0xFFFFC003FC000000
/-- Whether a virtual address lies in the buffer aperture (R293). -/
def inAperture (va : Nat) : Bool := apBase ≤ va && va < apEnd

/-- Whether an address lies in a node area that t.bvh has mapped read-only in a translation (R336). -/
def State.nodeArea (s : State) (root va : Nat) : Bool :=
  s.bvhs.any (fun b => b.mapped && b.root == root && decide (b.nodes ≤ va) && decide (va < b.nodes + b.size))

/-- A virtual address through a region's translation alone, with the checks of R394 in their order. -/
def State.trRegion (s : State) (region va : Nat) (a : Acc) : Tr :=
  match s.walk (s.rootOf region) va with
  | .bad d => .bad d
  | .page e l x => .page e l x
  | .err l => .err l
  | .leaf pa w x =>
    if !physOk pa then .bad 1
    else if a = .write ∧ (!w || s.nodeArea (s.rootOf region) va) then .bad 2
    else if a = .fetch ∧ !x then .bad 3
    else .ok pa

/-- A virtual address for a task's teams and engines (R293, R296, R391, R394); a buffer's byte that reaches nothing is forbidden
(R431). -/
def State.tr (s : State) (k : TaskCtx) (va : Nat) (a : Acc) : Tr :=
  if inAperture va then
    if a = .fetch then .bad 7
    else
      let n := (va - apBase) / 0x4000000
      let off := (va - apBase) % 0x4000000
      match k.bufs.find? (fun b => b.n == n && (b.write || a != .write)) with
      | none => .bad 7
      | some b => if classSize b.cls ≤ off then .bad 7 else if !physOk (b.base + off) then .bad 1 else .ok (b.base + off)
  else
    match s.trRegion k.region va a with
    | .ok pa => if a = .write ∧ k.pure then .bad 8 else .ok pa
    | r => r

/-! ## Chip scratchpad (R312, R379, R390, R296) -/

def State.xownOf (s : State) (g : Nat) : Nat := (KV.get 0xFFFF#16 g s.xown).toNat

/-- The protection detail of an access to chip-scratchpad address a by a thread or an engine acting for it, or none. -/
def State.chipProt (s : State) (k : TaskCtx) (agent : Bool) (a : Nat) (w : Acc) : Option Nat :=
  let g := a / 65536
  if 0x3FE0000 ≤ a then (if agent then none else some 6)
  else if 0x3C00000 ≤ a ∧ a < 0x3E00000 then some 6
  else if s.xownOf g ≠ 0xFFFF ∧ s.xownOf g ≠ s.fdomOf k.region then some 5
  else if w = .write ∧ k.pure then some 8
  else none

/-! ## Spaces (R191) -/

inductive Space where
  | g | s | c | x | l | k
deriving DecidableEq, Repr

/-- The default scope of a space (R191). -/
def Space.scope : Space → Scope
  | .g => .chip | .s => .core | .c => .cluster | .x => .chip | .l => .thread | .k => .chip

/-- Bytes of the space's range (R191): a team's scratchpad includes its barrier objects. -/
def Space.range (t : Team) : Space → Nat
  | .s => t.desc.scratch + 32 * t.desc.barriers
  | .c => t.desc.cluster
  | .x => Config.chipBytes
  | .l => t.desc.lslice
  | .k => 65536
  | .g => 0

/-- Location of a scratchpad-space address of a team. -/
def Team.locOf (t : Team) (sp : Space) (a : Nat) : Nat :=
  match sp with
  | .s => locScr t.id a
  | .c => locClus t.wave (t.core / 4) a
  | .x => locChip a
  | .g | .l | .k => locPhys a

/-- The task context of a team's grid. -/
def State.ctxOf (s : State) (t : Team) : TaskCtx := ((s.grid? t.grid).map Grid.task).getD {}

/-! ## Barrier addresses (R225) -/

/-- A barrier address's space; none for 11. -/
def barSpace (b : Word) : Option Space :=
  match b.toNat / 2 ^ 30 with
  | 0 => some .s | 1 => some .c | 2 => some .x | _ => none

def barOff (b : Word) : Nat := b.toNat % 2 ^ 30

end Sys2Proof.Machine
end

