-- ==== Sys2Proof/Machine/Operands.lean ====
section
/-! DEFINITION. Operands: the registers that each instruction names (R76, R78), the checks that depend on the warp's width,
and how classes A3a, A3b and AI read their operands (R109). -/

namespace Sys2Proof.Machine

/-! ## Reading operands (R109) -/

/-- The lanes in which a guarded instruction takes effect (R9, R57). -/
def active (w : Warp) (lanes : List Nat) (p : BitVec 3) : List Nat := lanes.filter (fun l => (w.thr l).rp p.toNat)

/-- `opnd` (R109): v[f + j] of the lane, or k[f + j]. -/
def opnd (w : Warp) (l : Nat) (kx : Bool) (f : BitVec 6) (j : Nat) : Word :=
  if kx then w.rk (f.toNat + j) else (w.thr l).rv (f.toNat + j)

/-- A 64-bit pair of v or k registers (R58, R118, R213). -/
def opndPair (w : Warp) (l : Nat) (kx : Bool) (f : BitVec 6) : DWord :=
  if kx then w.rkPair f.toNat else (w.thr l).rvPair f.toNat

/-! ## Registers named -/

/-- n vector registers from f up. -/
def vGrp (f : BitVec 6) (n : Nat) : List Reg := (List.range n).map (fun j => .v (f.toNat + j))
/-- n k registers from f up. -/
def kGrp (f : BitVec 6) (n : Nat) : List Reg := (List.range n).map (fun j => .k (f.toNat + j))
/-- A field that KA or KB may turn to k registers (R58, R74). -/
def srcGrp (kx : Bool) (f : BitVec 6) (n : Nat) : List Reg := if kx then kGrp f n else vGrp f n

/-- Four tile registers from a field up. -/
def tGrp (f : BitVec 6) (n : Nat) : List Reg := (List.range n).map (fun j => .t (f.toNat + j))

end Sys2Proof.Machine

namespace Sys2Proof

open Machine

def R16.uses (o : R16) : List Reg := [.v o.vb.toNat, .v o.vd.toNat]
def A3.uses3 (o : A3) : List Reg :=
  srcGrp o.m.kb o.vb o.width.n ++ srcGrp o.m.ka o.va o.width.n ++ vGrp o.vd o.width.n
def A3.uses2 (o : A3) : List Reg := srcGrp o.m.ka o.va o.width.n ++ vGrp o.vd o.width.n
def Sfu.uses (o : Sfu) : List Reg := srcGrp o.m.ka o.va 1 ++ vGrp o.vd 1
def AiOp.uses (o : AiOp) : List Reg := srcGrp o.m.ka o.va 1 ++ vGrp o.vd 1
/-- Registers of a word group of M (R59, R67). -/
def Mem.n (o : Mem) : Nat := (Width.ofBits o.size).n
def Mem.uses (pair sub : Bool) (o : Mem) : List Reg :=
  srcGrp o.m.ka o.va (if pair then 2 else 1) ++ vGrp o.vd (if sub then 1 else o.n)
def Atom.uses (pair : Bool) (o : Atom) : List Reg :=
  srcGrp o.m.ka o.va (if pair then 2 else 1) ++ vGrp o.vd (if o.kind = 10 then 2 else 1)
/-- The operands of an A3 instruction in a lane, element j (R109). -/
def A3.a (o : A3) (w : Warp) (l j : Nat) : Word := opnd w l o.m.ka o.va j
def A3.b (o : A3) (w : Warp) (l j : Nat) : Word := opnd w l o.m.kb o.vb j
def A3.d (o : A3) (w : Warp) (l j : Nat) : Word := (w.thr l).rv (o.vd.toNat + j)

/-- The integer immediate of R64: imm8 sign-extended, or the 32-bit value that a prefix and imm8[5:0] form. -/
def Imm.int : Imm → Word
  | .short b => b.signExtend 32
  | .long hi lo => hi ++ lo

/-- The pattern of a floating-point immediate (R64): the f32 of the signed imm8, or the prefix's 32 bits. -/
def Imm.flt : Imm → Word
  | .short b => BitVec.ofNat 32 (rne (.ofRat (b.toInt : Rat) false))
  | .long hi lo => hi ++ lo

end Sys2Proof

namespace Sys2Proof.Machine

/-- Registers of the movs forms (R129). -/
def movsUses (o : SOp) : List Reg :=
  match o.b.toNat with
  | 0 => vGrp o.d 1
  | 1 => vGrp o.d 1
  | 2 => kGrp o.d 1
  | 3 => kGrp o.d 1
  | 4 => kGrp o.d 1 ++ vGrp o.a 1
  | _ => kGrp o.d 1 ++ kGrp o.a 1

/-- Every register in a field that the instruction uses (R76), for a warp of the given width. -/
def uses (width : Nat) : Instr → List Reg
  | .mov16 o | .iadd16 o | .isub16 o | .and16 o | .or16 o | .xor16 o | .shl16 o | .shr16 o | .imin16 o | .imax16 o
  | .fadd16 o | .fsub16 o | .fmul16 o | .fmax16 o | .fmin16 o => o.uses
  | .movi16 o => [.v o.vd.toNat]
  | .iadd o | .isub o | .imul o | .imulhi o | .imac o | .imin o | .imax o | .iminu o | .imaxu o | .and o | .or o
  | .xor o | .andn o | .shl o | .shr o | .sar o | .rot o | .bfe o | .bfi o | .bsel o | .sel o | .iaddc o | .fadd o
  | .fsub o | .fmul o | .ffma o | .fmin o | .fmax o | .hadd2 o | .hmul2 o | .hfma2 o | .bfma2 o | .fdiv o => o.uses3
  | .popc o | .clz o | .brev o | .mov o | .fclass o => o.uses2
  | .lea o => srcGrp o.m.kb o.vb 1 ++ srcGrp o.m.ka o.va 2 ++ vGrp o.vd 2
  | .icmp o | .fcmp o => srcGrp o.m.kb o.vb 1 ++ srcGrp o.m.ka o.va 1
  | .cvt o => srcGrp o.m.ka o.va 1 ++ vGrp o.vd 1
  | .frcp o | .frsq o | .fsqrt o | .fexp2 o | .flog2 o | .fsinp o | .fcosp o => o.uses
  | .rand o => kGrp o.ka 1 ++ vGrp o.vd 1
  | .iaddImm o | .imulImm o | .iminImm o | .imaxImm o | .iminuImm o | .imaxuImm o | .andImm o | .orImm o | .xorImm o
  | .shlImm o | .shrImm o | .sarImm o | .rotImm o | .faddImm o | .fmulImm o | .fminImm o | .fmaxImm o | .ffmaImm o => o.uses
  | .movImm o => vGrp o.vd 1
  | .icmpImm o | .fcmpImm o => srcGrp o.m.ka o.va 1
  | .leaImm o => srcGrp o.m.ka o.va 2 ++ vGrp o.vd 2
  | .ldG o | .stG o => o.uses true false
  | .ldS o | .ldC o | .ldX o | .ldL o | .ldK o | .stS o | .stC o | .stX o | .stL o => o.uses false false
  | .ldGSubword o | .stGSubword o => o.uses true true
  | .ldSSubword o | .ldXSubword o | .stSSubword o | .stXSubword o => o.uses false true
  | .atomS o | .atomC o | .atomX o | .redS o | .redX o => o.uses false
  | .atomG o | .redG o => o.uses true
  | .fenceR o => srcGrp o.m.ka o.va (if o.space = 0 then 2 else 1) ++ vGrp o.vlen 1
  | .phase _ => []
  | .prefetchG o => srcGrp o.m.ka o.va 2
  | .cpy o | .cpyMc o | .cpyMm o | .caskres o => kGrp o.a 2
  | .qfence _ | .caskrel _ => []
  | .mma o | .mmaG o => tGrp o.d 1
  | .osub o | .opub o => kGrp o.d 1 ++ kGrp o.a 2 ++ kGrp o.b 1
  | .mgather o => kGrp o.a 2 ++ kGrp o.b 1
  | .gmma o => tGrp o.d 4 ++ kGrp o.a 1 ++ kGrp o.b 1
  | .tzero o => tGrp o.d 1
  | .tmovR o | .tmovC o => vGrp o.d 1 ++ tGrp o.a 1 ++ kGrp o.b 1
  | .tld o | .tst o => tGrp o.d 1 ++ kGrp o.a 2 ++ kGrp o.b 1
  | .tcvt o => tGrp o.d 1 ++ tGrp o.a 1
  | .tadd o => tGrp o.d 1 ++ tGrp o.a 1 ++ tGrp o.b 1
  | .tscale o => tGrp o.d 1 ++ tGrp o.a 1 ++ kGrp o.b 1
  | .bra _ | .call _ | .ret _ | .exit _ => []
  | .jmp o => kGrp o.k 2
  | .brx o => kGrp o.k 1
  | .loop o => kGrp o.k 1
  | .barinit o | .expect o => kGrp o.a 1 ++ (if o.b = 0 then [] else kGrp o.b 1)
  | .arrive o => vGrp o.d 1 ++ kGrp o.a 1
  | .wait o | .bartest o => vGrp o.d 1 ++ kGrp o.a 1 ++ vGrp o.b 1
  | .relayAt o | .relayLo o | .relayHi o | .relaySw o => vGrp o.d 1 ++ vGrp o.a 1 ++ vGrp o.b 1
  | .relayAtImm o | .relayLoImm o | .relayHiImm o | .relaySwImm o => vGrp o.d 1 ++ vGrp o.a 1
  | .pollSome _ | .pollEach _ => []
  | .pollMask o => vGrp o.d (if width = 64 then 2 else 1)
  | .peers o => vGrp o.d (if width = 64 then 2 else 1) ++ vGrp o.a 1
  | .gred o => vGrp o.d 1 ++ vGrp o.a 1
  | .converge o => if o.d.getLsbD 0 then kGrp o.a (if width = 64 then 2 else 1) else []
  | .yield _ => []
  | .movs o => movsUses o
  | .time o | .cycles o | .retired o => kGrp o.d 2
  | .launch o => vGrp o.d 1 ++ kGrp o.a 2
  | .cont o => kGrp o.a 2
  | .qpush o => vGrp o.d 1 ++ kGrp o.a 1 ++ vGrp o.b 4
  | .qpop o => vGrp o.d 4 ++ vGrp o.b 1 ++ kGrp o.a 1
  | .sqbind o => kGrp o.a 1 ++ kGrp o.b 1
  | .sqrd o => vGrp o.d 4 ++ vGrp o.b 1
  | .sqwr o => vGrp o.a 4 ++ vGrp o.b 1
  | .sqrel _ => []
  | .rayq o => vGrp o.d 1 ++ vGrp o.a 8 ++ kGrp o.b 2
  | .raynext o | .rayrd o => vGrp o.d 1
  | .rayacc _ | .rayign _ | .rayend _ => []
  | .rtinv o => kGrp o.a 1
  | .tex o => vGrp o.d 5 ++ vGrp o.a 2 ++ kGrp o.b 2
  | .texld o => vGrp o.d 5 ++ vGrp o.a 1 ++ kGrp o.b 2
  | .texq o => vGrp o.d 1 ++ kGrp o.b 2
  | .texfb o => vGrp o.a 2 ++ kGrp o.b 2
  | .emitv o => vGrp o.d 1 ++ vGrp o.a 4 ++ vGrp o.b 4
  | .emitp o | .pixout o => vGrp o.a 4
  | .pixlock _ | .pixunlock _ | .discard _ | .brk _ => []
  | .agClaim o => kGrp o.d 1 ++ kGrp o.a 1
  | .agInst o | .agSave o => kGrp o.d 1 ++ kGrp o.a 1 ++ kGrp o.b 2
  | .agEnd o => kGrp o.a 1
  | _ => []

/-- The agent-only forms (R72, R315). -/
def agentOnly : Instr → Bool
  | .agClaim _ | .agInst _ | .agEnd _ | .agSave _ => true
  | _ => false

/-- log2 of a warp width (R133). -/
def log2Width (width : Nat) : Nat := if width = 16 then 4 else if width = 32 then 5 else 6

/-- The checks of R78 that depend on the warp's width, the kernel's .vregs and the slot, in their order: RESERVED_FIELD
(R133), ALIGN (R135, R142), VREGS (R45, R58), AGENT. -/
def dynDetail (width vregs : Nat) (agent : Bool) (i : Instr) : Option Nat :=
  let reserved :=
    match i with
    | .relayAtImm o | .relayLoImm o | .relayHiImm o | .relaySwImm o => decide (log2Width width < o.seg.toNat)
    | _ => false
  let align :=
    match i with
    | .pollMask o | .peers o => width == 64 && !multOf 2 o.d
    | .converge o => width == 64 && o.d.getLsbD 0 && !multOf 2 o.a
    | _ => false
  let high := (uses width i).any (fun r => match r with
    | .v n => decide (vregs ≤ n)
    | _ => false)
  if reserved then some 2
  else if align then some 4
  else if high then some 5
  else if agentOnly i && !agent then some 7
  else none

/-- imm26 as a signed offset (R213). -/
def offInt (o : BitVec 26) : Int := o.toInt

end Sys2Proof.Machine
end

