-- ==== Sys2Proof/Machine/Ready.lean ====
section
/-! DEFINITION. Readiness: the halfwords of a bundle (R53), lookahead (R76, R77), when a warp's share of a round is over
(R182), and what keeps a group from being ready although its operands are (R149, R170, R206, R235, R241). -/

namespace Sys2Proof.Machine

/-- What an access needs of a page that is not resident: its address, the demand entry with its level and value, the
KIND of R399, and the lane whose access it is (none: the group's). -/
structure PageNeed where
  va    : Nat
  entry : Nat
  lvl   : Nat
  e     : DWord
  kind  : Nat
  lane  : Option Nat := none
deriving DecidableEq, Repr

/-! ## Bundles -/

/-- What stops a fetch: a forbidden page, a page that is not resident, or an error that cannot be corrected. -/
inductive FetchStop where
  | bad (detail va : Nat)
  | page (p : PageNeed)
  | err (va loc : Nat)
deriving DecidableEq, Repr

/-- One halfword at a virtual address (R53): the newest bytes (log entry 12). -/
def State.fetchHalf (s : State) (k : TaskCtx) (a : DWord) : Except FetchStop Half :=
  match s.tr k a.toNat .fetch with
  | .bad d => .error (.bad d a.toNat)
  | .err l => .error (.err a.toNat l)
  | .page e lvl x => .error (.page { va := a.toNat, entry := e, lvl := lvl, e := x, kind := 0 })
  | .ok pa =>
    if s.bad.contains (locPhys pa / 64 * 64) then .error (.err a.toNat (locPhys pa))
    else .ok (BitVec.ofNat 16 (s.rdNewNat (locPhys pa) 2))

/-- The halfwords of the bundle at an address: prefix words, then the word or halfword that is none (R54). `n` bounds the
prefix words (log entry 12). -/
def State.fetchFrom (s : State) (k : TaskCtx) : Nat → DWord → Except FetchStop (List Half)
  | 0, _ => .ok []
  | n + 1, a =>
    match s.fetchHalf k a with
    | .error e => .error e
    | .ok h =>
      if !h.getLsbD 0 then .ok [h]
      else
        match s.fetchHalf k (a + 2) with
        | .error e => .error e
        | .ok h2 =>
          if isPrefixWord (h2 ++ h) then
            match s.fetchFrom k n (a + 4) with
            | .error e => .error e
            | .ok t => .ok (h :: h2 :: t)
          else .ok [h, h2]

/-- More prefix words than the address space holds: the fetch ends before. -/
def fetchFuel : Nat := 4611686018427387904

/-- The bundle at an address: its halfwords and instruction (R78), or what stops the fetch. -/
def State.bundle (s : State) (k : TaskCtx) (pc : DWord) : Except FetchStop (List Half × Instr) :=
  match s.fetchFrom k fetchFuel pc with
  | .error e => .error e
  | .ok hs =>
    match (decode hs).1 with
    | .ok i => .ok (hs, i)
    | .error d => .ok (hs, .illegalEncoding d)

/-- Waits on a page are made before the instruction issues (R215). -/
def WaitOn.isPage : WaitOn → Bool
  | .page _ => true
  | _ => false

/-- Whether a thread is in no wait and may stand in a group. -/
def Thread.canIssue (th : Thread) : Bool :=
  th.live && !th.exited && th.conv.isNone &&
    (match th.wait with
     | none => true
     | some x => x.woken.isSome && !x.held)

/-! ## Lookahead (R76, R77) -/

/-- Whether lists of registers meet. -/
def meets (a b : List Reg) : Bool := a.any (fun r => b.contains r)

/-- k and tile registers are warp state (R77). -/
def Reg.warpLevel : Reg → Bool
  | .k _ | .t _ => true
  | _ => false

/-- The window left of a pending instruction in a lane; none in a lane that did not issue it. -/
def Pend.left (p : Pend) (l : Nat) : Option Nat := (p.lanes.find? (fun x => x.1 == l)).map (fun x => x.2)

/-- Whether lane l may not name these registers yet, and waits (R76, R77). -/
def Warp.blocked (w : Warp) (l : Nat) (us : List Reg) : Bool :=
  w.pend.any (fun p => !p.done &&
    match p.left l with
    | some n => n == 0 && meets p.regs us
    | none => meets (p.regs.filter Reg.warpLevel) us)

/-- Whether lane l names a pending register inside its window: the lookahead-violation fault (R76). -/
def Warp.violates (w : Warp) (l : Nat) (us : List Reg) : Bool :=
  w.pend.any (fun p =>
    match p.left l with
    | some n => decide (0 < n) && meets p.regs us
    | none => false)

/-- Whether a lane has a pending instruction whose result is not yet known. -/
def Warp.unready (w : Warp) (l : Nat) : Bool := w.pend.any (fun p => !p.done && !p.ready && (p.left l).isSome)

/-! ## Shares of a round (R182) -/

/-- The lanes of a group whose threads the instruction ends (R141, R328, R362). -/
def endsIn (w : Warp) (lanes : List Nat) : Instr → List Nat
  | .exit o => active w lanes o.pred
  | .discard _ | .cont _ => lanes
  | _ => []

/-- Whether a lane at an instruction waits on a register that the round's boundary writes (R184, R455): one that the
instruction names, or any, where the instruction ends the thread (R77). -/
def Warp.heldReg (w : Warp) (l : Nat) (i : Instr) : Bool :=
  w.pend.any (fun p => !p.done && !p.ready && p.cmd.isNone && (p.left l).isSome &&
    ((endsIn w [l] i).contains l || meets p.regs (uses w.width i)))

/-- Whether the bundle at a thread's program counter names such a register. -/
def State.namesHeld (s : State) (k : TaskCtx) (w : Warp) (l : Nat) : Bool :=
  match s.bundle k (w.thr l).pc with
  | .ok (_, i) => w.heldReg l i
  | .error _ => false

/-- Whether a thread is a member of its address's group in deterministic mode (R186): neither waiting, held at a converge, nor
exited. A thread stalled on a page is one, so that which groups form does not depend on the page, and its group is not ready
(DEDUCED from R175, R182; log entry 140). -/
def Thread.member (th : Thread) : Bool :=
  th.live && !th.exited && th.conv.isNone &&
    (match th.wait with
     | none => true
     | some x => x.on.isPage || (x.woken.isSome && !x.held))

/-- The members of the group at an address (R186). -/
def Warp.groupOf (w : Warp) (pc : DWord) : List Nat :=
  (List.range w.width).filter (fun l => (w.thr l).member && (w.thr l).pc == pc)

/-- Whether the group at an address stands still until the boundary (R182, R186): a member waits on a register that the boundary
writes, and the group issues only when all its members' operands are ready. A member that names no such register counts with the
others as unable to issue (DESIGN CHOICE; log entry 163). -/
def State.groupHeld (s : State) (k : TaskCtx) (w : Warp) (pc : DWord) : Bool := (w.groupOf pc).any (s.namesHeld k w)

/-- Whether a thread is stalled on a page. -/
def Thread.paged (th : Thread) : Bool :=
  match th.wait with
  | some x => x.on.isPage && x.woken.isNone
  | none => false

/-- Whether a thread stands still until the boundary: exited, held at a converge, waiting (not on a page), or in a group that does. -/
def State.stoodStill (s : State) (k : TaskCtx) (w : Warp) (l : Nat) : Bool :=
  !(w.thr l).member || (!(w.thr l).paged && s.groupHeld k w (w.thr l).pc)

/-- Whether a warp's share of the round is over (R182). -/
def State.shareOver (s : State) (k : TaskCtx) (w : Warp) : Bool :=
  w.shareEnd || decide (s.quantumOf k.region ≤ (w.retired - w.roundBase).toNat) ||
    (w.halt.isNone && (List.range w.width).all (s.stoodStill k w))

/-! ## Readiness beyond operands -/

/-- The commands of R149. -/
def matrixCommand : Instr → Bool
  | .mma _ | .mmaG _ | .gmma _ | .tzero _ | .tmovR _ | .tmovC _ | .tld _ | .tst _ | .tcvt _ | .tadd _ | .tscale _
  | .caskrel _ => true
  | _ => false

/-- What waits for an earlier tst of its warp: the accesses that R170 names, and what else reads memory for the warp or raises a
release, which covers the tst's bytes (R199; DEDUCED, log entry 143). A tld has the engine's order instead (R149). -/
def afterTst : Instr → Bool
  | .pixunlock _ | .discard _ | .phase _ | .arrive _ | .converge _ | .qpush _ | .qpop _ | .launch _ | .cont _ | .exit _ | .cpy _ | .cpyMc _ | .cpyMm _
  | .caskres _ | .mgather _ | .osub _ | .opub _ | .sqrd _ | .sqwr _ | .rayq _ | .raynext _ | .tex _ | .texld _ | .texfb _ => true
  | .ldG _ | .ldS _ | .ldC _ | .ldX _ | .ldL _ | .ldK _ | .stG _ | .stS _ | .stC _ | .stX _ | .stL _ | .ldGSubword _
  | .ldSSubword _ | .ldXSubword _ | .stGSubword _ | .stSSubword _ | .stXSubword _ | .atomS _ | .atomC _ | .atomG _
  | .atomX _ | .redS _ | .redG _ | .redX _ | .fenceR _ => true
  | _ => false

/-- The copy queue that a command enters (R235). -/
def copyQueue : Instr → Option Nat
  | .cpy o | .cpyMc o | .cpyMm o => some (o.d.toNat % 4)
  | _ => none

/-- Whether a command is a tst. -/
def MatOp.isTst : MatOp → Bool
  | .tst _ _ => true
  | _ => false

/-- Distributor slots in use: pairs of grid and name (R241). -/
def State.streamSlots (s : State) : List (Nat × Nat) :=
  (s.spubs.map (fun p => (p.grid, p.name)) ++ s.ssubs.map (fun p => (p.grid, p.name))).foldl
    (fun acc x => if acc.contains x then acc else acc ++ [x]) []

/-- The name that opub, or a subscribing osub, uses: k[d][7:0]. -/
def streamName : Instr → Warp → Option Nat
  | .osub o, w => if (w.rk o.d.toNat).getLsbD 31 then none else some ((w.rk o.d.toNat).toNat % 256)
  | .opub o, w => some ((w.rk o.d.toNat).toNat % 256)
  | _, _ => none

/-- Whether in deterministic mode a matrix command of a warp, issued by the bundle after which the count of bundles is `at_`, may be
accepted (R174): the lower warps' shares are over, and no follow-on of a bundle before it is still to come. -/
def State.matTurn (s : State) (t : Team) (k : TaskCtx) (w : Warp) (at_ : Nat) : Bool :=
  t.warps.all (fun v => decide (w.idx ≤ v.idx) || s.shareOver k v) &&
    s.copies.all (fun x => x.team != t.id || x.follow.isNone || decide (w.idx < x.warp) ||
      (x.warp == w.idx && decide (at_ ≤ x.at_)))

/-- Whether a group whose operands are ready is not ready all the same: a matrix command that finds the engine's two
entries taken, or in deterministic mode that must come after others (R149, R174); a copy that finds its queue full
(R235); an access behind a tst (R170); a stream with no slot (R241); the end of a thread with results to come (R77). -/
def State.holdsBack (s : State) (t : Team) (w : Warp) (lanes : List Nat) (i : Instr) : Bool :=
  let k := s.ctxOf t
  (matrixCommand i &&
    (decide (2 ≤ (s.matq.filter (fun m => m.core == t.core)).length) ||
      (k.det && !s.matTurn t k w (s.tick + 1)))) ||
  (match copyQueue i with
   | some q => decide (16 ≤ (s.copies.filter (fun x => x.core == t.core && x.q == q && x.kind != 3 && !x.landed && !x.off)).length)
   | none => false) ||
  (afterTst i && s.matq.any (fun m => m.team == t.id && m.warp == w.idx && m.op.isTst)) ||
  (match streamName i w with
   | some n => !s.streamSlots.contains (t.grid, n) && decide (512 ≤ s.streamSlots.length)
   | none => false) ||
  (endsIn w lanes i).any w.unready

end Sys2Proof.Machine
end

