-- ==== Sys2Proof/Machine/Ops.lean ====
section
/-! DEFINITION. Shared operations: interrupts, the journal, the log, halts and resumption of warps (R405 to R416, R424),
barrier objects (R224 to R232), the fault queue (R399), lookahead (R76, R77), and the issue of one bundle. -/

namespace Sys2Proof.Machine

/-! ## Interrupts and device records -/

/-- Raises an MSI-X vector (R433). -/
def State.irq (s : State) (v : Nat) : State := { s with irqs := s.irqs ++ [v] }

/-- Bytes that the device writes to a table or ring of its own, published at system scope; what reaches nothing (R431) is
not stored (log entry 9). -/
def State.wrRec (s : State) (pa : Nat) (bs : List Byte) : State :=
  s.wrPub .system .unit none ((atLoc (locPhys pa) bs).filter (fun p => physOk p.1))

/-- A number of n bytes at a physical address, the newest bytes. -/
def State.rdPhys (s : State) (pa n : Nat) : Nat := s.rdNewNat (locPhys pa) n

/-- Difference of two counters modulo 2^32. -/
def ctrDiff (a b : Nat) : Nat := (a + 4294967296 - b % 4294967296) % 4294967296

/-! ## The journal (R424 to R426) -/

/-- Whether the house core has not stopped (R19, R402). -/
def State.houseRuns (s : State) : Bool := !s.rcv.diverged && decide (s.trust.state < 2)

/-- Whether the house core runs its firmware: it has booted and has not stopped (R402). -/
def State.houseUp (s : State) : Bool := s.houseRuns && s.trust.state == 1

/-- Recovery mode, in which the registers other than R404's ignore writes. -/
def State.recovering (s : State) : Bool := decide (2 ≤ s.trust.state)

/-- RESET_CTL.BUSY: a reset is in progress (R429). -/
def State.resetBusy (s : State) : Bool := decide (s.now < s.rcv.resetEnd)

/-- A write to a register, which recovery mode ignores (R404). -/
def State.regWr (s : State) (f : State → State) : Out := .next (if s.recovering then s else f s)

/-- Whether the journal accepts a record: the house core has not stopped, and the staging buffer has room (R19, R426). -/
def State.journalOn (s : State) : Bool := s.houseRuns && decide (s.rcv.staging.length < 256)

/-- Stages a record, which takes the next JSEQ; one that finds the staging buffer full is lost, and the first record after
it is a GAP record that counts the losses (R426). -/
def State.stage (s : State) (r : JRec) : State :=
  if s.journalOn then
    { s with rcv := { s.rcv with
        staging := s.rcv.staging ++ [{ r with jseq := s.rcv.jseq, stamp := s.ptime, epoch := s.win.epoch }]
        jseq := s.rcv.jseq + 1 } }
  else { s with rcv := { s.rcv with lost := s.rcv.lost + 1 } }

def State.journal (s : State) (r : JRec) : State :=
  if s.rcv.lost ≠ 0 ∧ s.journalOn then
    ({ s with rcv := { s.rcv with lost := 0 } }.stage { kind := 10, info := s.rcv.lost }).stage r
  else s.stage r

/-- The bytes of a journal record (R424). -/
def JRec.bytes (r : JRec) : List Byte :=
  leBytes 8 r.jseq ++ leBytes 1 r.kind ++ leBytes 1 r.code ++ leBytes 2 r.region ++ leBytes 2 r.fdom ++
    leBytes 1 r.opcode ++ leBytes 1 r.flags ++ leBytes 8 r.tseq ++ leBytes 8 r.addr ++ leBytes 8 r.stamp ++
    leBytes 8 r.info ++ leBytes 4 r.epoch ++ leBytes 4 0 ++ leBytes 8 r.jseq

/-! ## The fault domain's log (R407 to R409) -/

/-- A log record (R408). -/
structure LogRec where
  kind   : Nat
  cause  : Nat := 0
  count  : Nat := 1
  region : Nat := 0
  warp   : Nat := 0xFFFF
  pc     : Nat := 0
  tseq   : Nat := 0
  team   : Nat := 0
  unit   : Nat := 0
  lane   : Nat := 0
deriving DecidableEq, Repr

def LogRec.bytes (r : LogRec) : List Byte :=
  leBytes 1 r.kind ++ leBytes 1 r.cause ++ leBytes 2 r.count ++ leBytes 2 r.region ++ leBytes 2 r.warp ++
    leBytes 8 r.pc ++ leBytes 8 r.tseq ++ leBytes 4 r.team ++ leBytes 1 r.unit ++ leBytes 1 r.lane ++ leBytes 2 0

/-- The address of a domain's table entry (R407). -/
def State.logEntry (s : State) (fdom : Nat) : Nat := s.rcv.logTable.toNat / 2097152 * 2097152 + 32 * fdom

/-- What the device reads of a domain's entry when a task of the domain issues: RING and LOG2, or 0 for a discarded log
(R407). -/
def State.logRing (s : State) (fdom : Nat) : Nat × Nat :=
  let e := s.logEntry fdom
  let ring := s.rdPhys e 8
  let log2 := s.rdPhys (e + 8) 1
  if s.rcv.logTable.toNat / 2097152 = 0 ∨ ring % 4096 ≠ 0 ∨ log2 < 7 ∨ 16 < log2 ∨ s.rdPhys (e + 9) 3 ≠ 0 ∨
      s.rdPhys (e + 0x18) 8 ≠ 0 then (0, 0)
  else (ring, log2)

/-- Writes one record to a domain's log (R409): dropped and counted when the ring is full. -/
def State.logWrite (s : State) (fdom : Nat) (r : LogRec) : State :=
  let g := KV.get (0, 0) fdom s.rcv.logged
  if g.1 = 0 then s
  else
    let e := s.logEntry fdom
    let head := s.rdPhys (e + 0xC) 4
    let tail := s.rdPhys (e + 0x10) 4
    if ctrDiff tail head = 2 ^ g.2 then
      s.wrRec (e + 0x14) (leBytes 4 (min (s.rdPhys (e + 0x14) 4 + 1) 0xFFFFFFFF))
    else (s.wrRec (g.1 + 32 * (tail % 2 ^ g.2)) r.bytes).wrRec (e + 0x10) (leBytes 4 ((tail + 1) % 4294967296))

/-- An ENGINE record (R408): one per event. -/
def State.engineErr (s : State) (k : TaskCtx) (cause unit : Nat) (warp team : Nat) (pc : Nat) (lane : Nat := 0) : State :=
  s.logWrite (s.fdomOf k.region)
    { kind := 3, cause := cause, region := k.region, warp := warp, pc := pc, tseq := k.seq, team := team, unit := unit, lane := lane }

/-- Closes a warp's open record, which is then written (R409). -/
def State.closeLog (s : State) (team warp : Nat) : State :=
  match s.team? team, s.warp? team warp with
  | some t, some w =>
    match w.log with
    | none => s
    | some o =>
      let k := s.ctxOf t
      (s.updWarp team warp (fun x => { x with log := none })).logWrite (s.fdomOf k.region)
        { kind := o.kind, cause := o.cause, count := o.count, region := k.region, warp := w.idx, pc := o.pc.toNat,
          tseq := k.seq, team := t.index, lane := o.lane }
  | _, _ => s

/-- One ARITH or RAND_WRAP event of a warp (R409): merged into the open record where KIND, CAUSE and PC agree. -/
def State.logEvent (s : State) (c : Ctx) (kind cause lane : Nat) : State :=
  match s.warp? c.team c.warp with
  | none => s
  | some w =>
    let o' : OpenLog := { kind := kind, cause := cause, count := 1, pc := c.pc, lane := lane, opened := s.now }
    match w.log with
    | some o =>
      if o.kind = kind ∧ o.cause = cause ∧ o.pc = c.pc then
        s.updWarp c.team c.warp (fun x => { x with log := some { o with count := min (o.count + 1) 65535 } })
      else (s.closeLog c.team c.warp).updWarp c.team c.warp (fun x => { x with log := some o' })
    | none => s.updWarp c.team c.warp (fun x => { x with log := some o' })

/-! ## Halts (R410 to R412) -/

/-- What a fault says of itself (R410): cause, detail, lowest faulting lane, address and brk code. -/
structure HaltInfo where
  cause  : Nat
  detail : Nat := 0
  lane   : Nat := 0xFF
  faddr  : Nat := 0
  code   : Nat := 0
deriving DecidableEq, Repr

/-- The ID of a halt record (R411). -/
def haltId (t : Team) (w : Warp) : Half :=
  BitVec.ofNat 16 ((if t.agent then 32768 else 0) + t.core * 128 + (if t.agent then 0 else w.quad * 32 + w.slot))

/-- The 64 bytes of a halt record (R411). -/
def haltBytes (s : State) (t : Team) (w : Warp) (h : Halt) : List Byte :=
  let k := s.ctxOf t
  leBytes 2 h.id.toNat ++ leBytes 1 h.cause ++ leBytes 1 h.detail ++ leBytes 1 h.lane ++ leBytes 1 h.code ++
    leBytes 2 k.region ++ leBytes 8 h.pc.toNat ++
    ((h.words ++ List.replicate 6 (0 : Half)).take 6).flatMap (fun x => leBytes 2 x.toNat) ++
    leBytes 2 (s.fdomOf k.region) ++ leBytes 2 w.idx ++ leBytes 8 k.seq ++ leBytes 4 t.index ++ leBytes 4 0 ++
    leBytes 8 h.faddr ++ leBytes 8 h.stamp

/-- Writes the oldest held halt record once the ring has room (R411). -/
def State.haltRecWrite (s : State) : State :=
  let base := s.rcv.haltBase.toNat / 65536 * 65536
  match s.rcv.heldHalts with
  | [] => s
  | r :: rest =>
    if base = 0 ∨ 1024 ≤ ctrDiff s.rcv.haltTail.toNat s.rcv.haltHead.toNat then s
    else
      let first := s.rcv.haltTail == s.rcv.haltHead
      let s1 := s.wrRec (base + 64 * (s.rcv.haltTail.toNat % 1024)) r
      let s2 := { s1 with rcv := { s1.rcv with haltTail := s1.rcv.haltTail + 1, heldHalts := rest } }
      if first then s2.irq 1 else s2

/-- Hands a halt record to the ring; a core holds one that finds no room or an earlier one held (R411). -/
def State.pushHalt (s : State) (r : List Byte) : State :=
  let s1 := { s with rcv := { s.rcv with heldHalts := s.rcv.heldHalts ++ [r] } }
  if s.rcv.heldHalts.isEmpty then s1.haltRecWrite else s1

/-- Halts a warp (R410, R411, R415): its record is made, its open log record closed, and the journal told. -/
def State.haltWarp (s : State) (c : Ctx) (h : HaltInfo) (boundary : Bool) : State :=
  match s.team? c.team, s.warp? c.team c.warp with
  | some t, some w =>
    let k := s.ctxOf t
    let x : Halt := { cause := h.cause, detail := h.detail, lane := h.lane, code := h.code, pc := c.pc, words := c.words,
                      faddr := h.faddr, stamp := s.ptime, group := c.lanes, boundary := boundary, id := haltId t w }
    let s1 := (s.closeLog c.team c.warp).updWarp c.team c.warp (fun v => { v with halt := some x })
    let s2 := s1.pushHalt (haltBytes s t w x)
    let s3 := s2.journal { kind := 5, code := h.cause, region := k.region, fdom := s.fdomOf k.region, opcode := k.opcode, flags := k.flags,
                           tseq := k.seq, addr := c.pc.toNat, info := x.id.toNat }
    if t.agent then { s3 with rcv := { s3.rcv with agentHalted := true,
                                                   agentCores := t.core :: s3.rcv.agentCores } } else s3
  | _, _ => s

/-- Where the faulting group goes on (R146, R412): a brk and SKIP continue after the bundle, RESUME issues it again; a halt
made at a deterministic boundary continues where it stood. A thread that HALT_DATA moved keeps its program counter. -/
def resumeThread (h : Halt) (skip : Bool) (l : Nat) (th : Thread) : Thread :=
  if !h.boundary && (skip || h.cause == 14) && h.group.contains l && th.pc == h.pc then
    { th with pc := h.pc + BitVec.ofNat 64 (2 * h.words.length) }
  else th

/-- Ends a halt (R412). A program counter written odd raises the misalignment fault at once (R413). -/
def State.resumeWarp (s : State) (team warp : Nat) (skip : Bool) : State :=
  match s.warp? team warp with
  | none => s
  | some w =>
    match w.halt with
    | none => s
    | some h =>
      let s1 := s.updWarp team warp (fun v => { v with halt := none, threads := mapIx (resumeThread h skip) 0 v.threads })
      let odd := (List.range w.width).filter (fun l => (w.thr l).live && !(w.thr l).exited && (w.thr l).pc.getLsbD 0)
      match odd with
      | [] => s1
      | l :: _ =>
        s1.haltWarp { team := team, warp := warp, lanes := odd, pc := (w.thr l).pc, words := [] }
          { cause := 3, lane := l, faddr := (w.thr l).pc.toNat } false

/-! ## Waits (R49) -/

/-- A thread's wait ends where it meets p: `true` for a completion, `false` for a break. `carry` is what the completion carries. -/
def Thread.wake (th : Thread) (now : Nat) (det : Bool) (p : WaitOn → Bool) (r : Bool) (carry : List BarEntry := []) : Thread :=
  match th.wait with
  | some x =>
    if p x.on && x.woken.isNone then
      { th with wait := some { x with woken := some r, held := det && !x.on.isPage, carry := carry }, ready := now }
    else th
  | none => th

/-- A wait for pages is over: the thread stands where it stood before it. -/
def Thread.pageOver (th : Thread) (now : Nat) : Thread :=
  match th.wait with
  | some x =>
    if x.on.isPage && x.woken.isNone then
      { th with wait := some (th.last.getD { x with woken := some true }), last := none, ready := now }
    else th
  | none => th

/-- A demand entry is finished: a wait for pages ends with the last entry of the group's (R215). -/
def Thread.paged1 (th : Thread) (now entry : Nat) : Thread :=
  match th.wait with
  | some x =>
    match x.on with
    | .page needs =>
      let rest := needs.filter (fun n => n.2.1 != entry)
      if rest.isEmpty then th.pageOver now
      else if x.woken.isSome then th
      else { th with wait := some { x with on := .page rest } }
    | _ => th
  | none => th

/-- The function applied to every thread. -/
def Team.mapAll (t : Team) (f : Thread → Thread) : Team :=
  { t with warps := t.warps.map (fun w => { w with threads := w.threads.map f }) }

/-- Ends the waits that meet p; those of a deterministic grid's threads are held to its next boundary (R183). -/
def State.wake (s : State) (p : WaitOn → Bool) (r : Bool) (carry : List BarEntry := []) : State :=
  { s with teams := s.teams.map (fun t => t.mapAll (fun th => th.wake s.tick (s.ctxOf t).det p r carry)) }

/-- Whether some thread waits on what meets p; the threads of a halted warp are neither waiting nor ready (R414). -/
def State.waiting (s : State) (p : WaitOn → Bool) : Bool :=
  s.teams.any (fun t => t.warps.any (fun w => w.halt.isNone && w.threads.any (fun th =>
    match th.wait with
    | some x => p x.on && x.woken.isNone
    | none => false)))

/-- Puts lanes to wait at the bundle they issued, which they issue again when the wait ends (R49). -/
def State.park (s : State) (c : Ctx) (lanes : List Nat) (on : WaitOn) : State :=
  s.mapThr c.team c.warp (fun l th =>
    if lanes.contains l then { th with pc := c.pc, wait := some { on := on, since := s.now } } else th)

/-! ## Barrier objects (R224 to R232) -/

/-- The fields of a barrier object (R224). -/
structure BarObj where
  broken : Bool
  phase  : Nat
  exp    : Nat
  left   : Nat
  resv   : Nat
  bytes  : Int
  stamp  : Nat
deriving DecidableEq, Repr

/-- A 64-bit pattern as an i64. -/
def i64 (x : Nat) : Int := (BitVec.ofNat 64 x).toInt

def State.barRead (s : State) (l : Nat) : BarObj :=
  let st := s.rdNewNat l 4
  { broken := decide (2147483648 ≤ st), phase := st % 2147483648, exp := s.rdNewNat (l + 4) 4,
    left := s.rdNewNat (l + 8) 4, resv := s.rdNewNat (l + 12) 4, bytes := i64 (s.rdNewNat (l + 16) 8),
    stamp := s.rdNewNat (l + 24) 8 }

/-- The BAR_STATE test of R231. -/
def BarObj.bad (o : BarObj) : Bool :=
  decide (o.resv ≠ 0) || decide (o.exp < o.left) || decide (o.exp < 1) || decide (16777215 < o.exp)

/-- The fields of an object that an update writes (R226). -/
inductive BarField where
  | state | exp | left | resv | bytes | stamp
deriving DecidableEq, Repr

/-- A field's place and bytes. -/
def BarObj.field (o : BarObj) : BarField → Nat × List Byte
  | .state => (0, leBytes 4 ((if o.broken then 2147483648 else 0) + o.phase))
  | .exp => (4, leBytes 4 o.exp)
  | .left => (8, leBytes 4 o.left)
  | .resv => (12, leBytes 4 o.resv)
  | .bytes => (16, dwordBytes (BitVec.ofInt 64 o.bytes))
  | .stamp => (24, leBytes 8 o.stamp)

/-- The bytes that an update writes in an object at l. -/
def BarObj.puts (o : BarObj) (l : Nat) (fs : List BarField) : List (Nat × Byte) :=
  fs.flatMap (fun f => atLoc (l + (o.field f).1) (o.field f).2)

/-- One indivisible write of the fields that an update changes, published at the default scope of the object's space
(R226). -/
def State.barWrite (s : State) (sp : Space) (P : Party) (grid : Option Nat) (l : Nat) (o : BarObj) (fs : List BarField) : State :=
  s.wrPub sp.scope P grid (o.puts l fs)

/-- An update of R226: the fields it changes, and their new values. -/
structure BarUpd where
  fields : List BarField
  f      : BarObj → BarObj

/-- n threads arrive. -/
def BarUpd.arrive (n : Nat) (drop : Bool) : BarUpd :=
  { fields := if drop then [.exp, .left] else [.left],
    f := fun o => { o with left := o.left - n, exp := if drop then o.exp - n else o.exp } }

/-- expect. -/
def BarUpd.expect (n : Nat) : BarUpd := { fields := [.bytes], f := fun o => { o with bytes := o.bytes + n } }

/-- An engine's landing. -/
def BarUpd.land (n : Nat) : BarUpd := { fields := [.bytes], f := fun o => { o with bytes := o.bytes - n } }

def State.barRec (s : State) (l : Nat) : BarRec := (s.bars.find? (fun b => b.loc == l)).getD { loc := l }
def State.setBarRec (s : State) (b : BarRec) : State :=
  { s with bars := b :: s.bars.filter (fun x => x.loc != b.loc) }

/-- What the phase p of the object at l carries to its waiters (R207). -/
def State.phaseCarries (s : State) (l p : Nat) : List BarEntry :=
  (((s.barRec l).done.find? (fun d => d.1 == p)).map (fun d => d.2)).getD []

/-- STAMP as the update that completes a phase writes it, which every waiter reads or a later one (R212); `ws` are the serial
numbers of the update's bytes. -/
def stampEntries (P : Party) (l : Nat) (ws : List (Nat × Nat)) : List BarEntry :=
  (ws.filter (fun w => decide (l + 24 ≤ w.1))).map (fun w =>
    { engine := true, p := { scope := .core, party := P, loc := w.1, ser := w.2, writer := P } })

/-- The fields of an update that completes its phase. -/
def BarUpd.done (u : BarUpd) : List BarField := [.state, .left, .stamp] ++ u.fields.filter (fun f => f != .left)

/-- An object whose phase has completed at a time (R226). -/
def BarObj.complete (o : BarObj) (stamp : Nat) : BarObj :=
  { o with phase := (o.phase + 1) % 2147483648, left := o.exp, stamp := stamp }

/-- An update of R226 to an unbroken object, with the test for completion. `stamp` is the completion time, and STAMP holds
where the object's last completion wrote a later one (R212); `ents` is what the update brings to the phase, which carries it to
the waiters it wakes. -/
def State.barUpdate (s : State) (sp : Space) (P : Party) (grid : Option Nat) (l stamp : Nat) (u : BarUpd)
    (ents : List BarEntry) : State :=
  let o := s.barRead l
  if o.broken then s
  else
    let o1 := u.f o
    let r := s.barRec l
    if o1.left = 0 ∧ o1.bytes = 0 then
      let x := o1.complete (max r.stamp stamp)
      let s1 := s.barWrite sp P grid l x u.done
      let carried := stampEntries P l (serials s.nextSer (x.puts l u.done)) ++ ents ++ r.cur
      let s2 := s1.setBarRec { r with stamp := x.stamp, cur := [], done := (o.phase, carried) :: r.done.filter (fun d => d.1 != o.phase) }
      s2.wake (fun w => match w with
        | .bar a p => a == l && p == o.phase
        | _ => false) true carried
    else (s.barWrite sp P grid l o1 u.fields).setBarRec { r with cur := ents ++ r.cur }

/-- The barinit update (R226). -/
def State.barInit (s : State) (sp : Space) (P : Party) (grid : Option Nat) (l count : Nat) : State :=
  (s.barWrite sp P grid l { broken := false, phase := 0, exp := count, left := count, resv := 0, bytes := 0, stamp := 0 }
    [.state, .exp, .left, .resv, .bytes, .stamp]).setBarRec { loc := l }

/-- Breaks the object at l (R226, R417, R418): its waiters wake with BROKEN. -/
def State.barBreak (s : State) (sp : Space) (P : Party) (l : Nat) : State :=
  let o := s.barRead l
  if o.broken then s
  else
    (s.barWrite sp P none l { o with broken := true } [.state]).wake (fun w => match w with
      | .bar a _ => a == l
      | _ => false) false

/-- The completion time that a task's effect writes (R212): the clock, or the launch timestamp in deterministic mode. -/
def State.stampFor (s : State) (k : TaskCtx) : Nat := if k.det then k.launch else s.ptime

/-- An engine's landing of n counted bytes on an object (R226, R231): an object found bad is broken; the answer says
whether it was sound. -/
def State.barLand (s : State) (sp : Space) (P : Party) (grid : Option Nat) (k : TaskCtx) (l n : Nat)
    (ents : List BarEntry) : State × Bool :=
  let o := s.barRead l
  if o.broken then (s, true)
  else if o.bad then (s.barBreak sp P l, false)
  else (s.barUpdate sp P grid l (s.stampFor k) (.land n) ents, true)

/-- The check of a barrier address (R225): its space and location, or the fault. `w` is what the access needs of the
chip scratchpad's owner table. -/
def State.barAddr (s : State) (t : Team) (k : TaskCtx) (b : Word) (w : Acc) : Except HaltInfo (Space × Nat) :=
  match barSpace b with
  | none => .error { cause := 6, detail := 3 }
  | some sp =>
    let a := barOff b
    if a % 32 ≠ 0 then .error { cause := 3, faddr := b.toNat }
    else if sp.range t < a + 32 then .error { cause := 5, faddr := b.toNat }
    else
      match (if sp = .x then s.chipProt k t.agent a w else none) with
      | some d => .error { cause := 4, detail := d, faddr := b.toNat }
      | none => .ok (sp, t.locOf sp a)

/-! ## The fault queue (R398 to R400) -/

def State.fqAddr (s : State) (n : Nat) : Nat := s.fq.base.toNat / 131072 * 131072 + 32 * (n % 4096)

/-- Sequence numbers of the unfinished entries, oldest first. -/
def State.fqPending (s : State) : List Nat :=
  (List.range (ctrDiff s.fq.tail.toNat s.fq.head.toNat)).map (fun i => (s.fq.head.toNat + i) % 4294967296)

/-- A walk that meets a demand entry (R399): an unfinished entry is raised, else a new one is written; none when the queue
has no room. -/
def State.demand (s : State) (region : Nat) (p : PageNeed) : Option State :=
  match s.fqPending.find? (fun n => s.rdPhys (s.fqAddr n + 8) 8 == p.entry) with
  | some n =>
    some (s.wrRec (s.fqAddr n + 0x16) (leBytes 2 (min (s.rdPhys (s.fqAddr n + 0x16) 2 + 1) 65535)))
  | none =>
    if 4096 ≤ ctrDiff s.fq.tail.toNat s.fq.head.toNat then none
    else
      let s1 := s.wrRec (s.fqAddr s.fq.tail.toNat)
        (leBytes 8 (p.va / 4096 * 4096) ++ leBytes 8 p.entry ++ leBytes 2 region ++ leBytes 2 (s.fdomOf region) ++
          leBytes 1 p.kind ++ leBytes 1 (p.lvl + 4 * ebits p.e 7 6) ++ leBytes 2 0 ++ leBytes 4 s.fq.tail.toNat ++
          leBytes 2 0 ++ leBytes 2 0)
      some { s1 with fq := { s1.fq with tail := s1.fq.tail + 1 } }

/-- The demand entries of an access that are not among `seen`, in order; each is raised once. -/
def State.demandsNew (s : State) (region : Nat) (seen : List Nat) : List PageNeed → Option State
  | [] => some s
  | p :: t =>
    if seen.contains p.entry then s.demandsNew region seen t
    else (s.demand region p).bind (fun s1 => s1.demandsNew region (p.entry :: seen) t)

/-- The demand entries of an access, in order; each is raised once. -/
def State.demands (s : State) (region : Nat) (ps : List PageNeed) : Option State := s.demandsNew region [] ps

/-- Raises an engine command's demand entry once, and marks the command stalled on it (R236, R399). -/
def State.stall (s : State) (cmd region : Nat) (p : PageNeed) : State :=
  if KV.get 0 cmd s.stalled = p.entry + 1 then s
  else
    match s.demand region p with
    | none => s
    | some s1 => { s1 with stalled := KV.put 0 cmd (p.entry + 1) s1.stalled }

/-! ## Pending registers (R76, R77) -/

/-- One more instruction in the windows of the lanes that issue. -/
def Pend.tick (p : Pend) (lanes : List Nat) : Pend :=
  { p with lanes := p.lanes.map (fun x => if lanes.contains x.1 then (x.1, x.2 - 1) else x) }

/-- A completed instruction with no window left is no longer kept. -/
def Pend.over (p : Pend) : Bool := p.done && p.lanes.all (fun x => x.2 == 0)

/-- Counts an issued bundle in the open windows (R76). -/
def Warp.count (w : Warp) (lanes : List Nat) : Warp :=
  { w with pend := (w.pend.map (fun p => p.tick lanes)).filter (fun p => !p.over) }

/-- Writes one register of a lane. Tiles are the team's and are written by the matrix engine. -/
def Warp.wrReg (w : Warp) (l : Nat) (r : Reg) (x : Word) : Warp :=
  match r with
  | .v n => w.updThr l (fun th => th.setV n x)
  | .p n => w.updThr l (fun th => th.setP n (x != 0))
  | .k n => w.setK n x
  | .t _ => w

def Warp.wrRegs (w : Warp) (l : Nat) : List (Reg × Word) → Warp
  | [] => w
  | (r, x) :: t => (w.wrReg l r x).wrRegs l t

/-- Writes the results of an instruction, lane by lane. -/
def Warp.wrLanes (w : Warp) : List (Nat × List (Reg × Word)) → Warp
  | [] => w
  | (l, rs) :: t => (w.wrRegs l rs).wrLanes t

/-- A pending instruction marked complete, where its result is known and it meets p. -/
def Pend.finish (x : Pend) (p : Pend → Bool) : Pend :=
  if !x.done && x.ready && p x then { x with done := true, writes := [] } else x

/-- Completes the pending instructions that meet p and whose results are known (R76). -/
def Warp.complete (w : Warp) (p : Pend → Bool) : Warp :=
  let now := w.pend.filter (fun x => !x.done && x.ready && p x)
  let w1 := now.foldl (fun a x => a.wrLanes x.writes) w
  { w1 with pend := (w1.pend.map (fun x => x.finish p)).filter (fun x => !x.over) }

/-- Hands an instruction's results over (R76): written at once with lookahead 0, pending with a window otherwise. -/
def Warp.commit (w : Warp) (lanes : List Nat) (la : Nat) (regs : List Reg) (ws : List (Nat × List (Reg × Word))) : Warp :=
  if la = 0 then w.wrLanes ws
  else { w with pend := w.pend ++ [{ regs := regs, lanes := lanes.map (fun l => (l, la)), writes := ws }] }

def State.commit (s : State) (c : Ctx) (la : Nat) (regs : List Reg) (ws : List (Nat × List (Reg × Word))) : State :=
  s.updWarp c.team c.warp (fun w => w.commit c.lanes la regs ws)

/-- Results written when the instruction completes at issue. -/
def State.writeLanes (s : State) (c : Ctx) (ws : List (Nat × List (Reg × Word))) : State :=
  s.updWarp c.team c.warp (fun w => w.wrLanes ws)

/-- A destination that stays pending until an engine or a round boundary writes it (R76, R149, R184). -/
def State.pendOn (s : State) (c : Ctx) (la : Nat) (regs : List Reg) (cmd : Option Nat) : State :=
  s.updWarp c.team c.warp (fun w => { w with pend := w.pend ++
    [{ regs := regs, lanes := c.lanes.map (fun l => (l, la)), ready := false, cmd := cmd }] })

/-! ## The issue of one bundle (R47, R54, R78) -/

/-- What a meaning answers: its next state; a fault, which halts the warp before the bundle has any effect; or pages that
are not resident. -/
inductive KOut where
  | ok (s : State)
  | halt (h : HaltInfo)
  | page (ps : List PageNeed)
  | memErr (h : HaltInfo) (l : Nat)

/-- Whether the context's lanes are threads of the warp that can issue at its address (R47). -/
def issuable (w : Warp) (c : Ctx) : Bool :=
  !c.lanes.isEmpty && c.lanes.all (fun l =>
    let th := w.thr l
    th.live && !th.exited && th.pc == c.pc && th.conv.isNone &&
      (match th.wait with
       | none => true
       | some x => x.woken.isSome && !x.held))

/-- What the issue of an instruction meets. -/
inductive Issue where
  | stutter
  | halt (c : Ctx) (h : HaltInfo)
  | go (c : Ctx) (t : Team) (w : Warp)

/-- The checks made before a bundle's own: the group stands there and may issue, the checks of R78 that depend on the warp,
and lookahead (R76). -/
def State.issue (s : State) (i : Instr) : Issue :=
  match s.cur with
  | none => .stutter
  | some c =>
    match s.team? c.team, s.warp? c.team c.warp with
    | some t, some w =>
      if t.st ≠ .resident ∨ w.halt.isSome ∨ !issuable w c then .stutter
      else
        match dynDetail w.width t.desc.vregs t.agent i with
        | some d => .halt c { cause := 1, detail := d }
        | none =>
          let us := uses w.width i
          if c.lanes.any (fun l => w.violates l us) then .halt c { cause := 2 }
          else if c.lanes.any (fun l => w.blocked l us) || s.holdsBack t w c.lanes i then .stutter
          else .go c t w
    | _, _ => .stutter

/-- Whether a thread tests again an instruction that it issued before it waited in it (R230). -/
def Thread.again (th : Thread) : Bool :=
  match th.wait with
  | some x => !x.on.isPage
  | none => false

/-- A group issues its bundle: its threads stand after it, and their waits end. Where threads of the group issue it for the
first time, and not again after a wait in it, the retired count rises and their windows are counted (R47, R76, R131). -/
def State.advance (s : State) (c : Ctx) (w : Warp) : State :=
  let new := c.lanes.filter (fun l => !(w.thr l).again)
  let s1 := s.updWarp c.team c.warp (fun v =>
    let v1 := if new.isEmpty then v else { v.count new with retired := v.retired + 1 }
    v1.mapThr (fun l th =>
      if c.lanes.contains l then
        { th with pc := c.pc + BitVec.ofNat 64 (2 * c.words.length), ready := s.tick + 1,
                  issued := if new.contains l then th.issued + 1 else th.issued, wait := none }
      else th))
  { s1 with tick := s.tick + 1 }

/-- What a group's lanes wait for: lane, demand entry and address; a need that is no lane's is the lowest lane's. -/
def needsOf (lanes : List Nat) (ps : List PageNeed) : List (Nat × Nat × Nat) :=
  ps.map (fun p => (p.lane.getD (lanes.headD 0), p.entry, p.va))

/-- The whole group waits until the pages of all its lanes are resident (R215, R399). -/
def State.pageWait (s : State) (c : Ctx) (t : Team) (ps : List PageNeed) : State :=
  if ps.isEmpty then s
  else
    match s.demands (s.ctxOf t).region ps with
    | none => s
    | some s1 => s1.mapThr c.team c.warp (fun l th =>
        if c.lanes.contains l then
          { th with wait := some { on := .page (needsOf c.lanes ps), since := s.now },
                    last := th.wait.filter (fun x => !x.on.isPage) }
        else th)

/-- An uncorrectable error met by a consumer (R421): a MEMERR record with CODE 1, and the consumer's task marked. -/
def State.memErr (s : State) (seq l : Nat) : State :=
  let s1 := s.journal { kind := 7, code := 1, addr := l }
  { s1 with win := { s1.win with entries := s1.win.entries.map (fun e => if e.seq == seq then { e with marked := true } else e) } }

/-- Whether an object's bytes are lost to an error that cannot be corrected: its reader meets the error (R405, R421). -/
def State.objErr (s : State) (l : Nat) : Bool := s.bad.contains (l / 64 * 64)

/-- Issues one bundle: the shared checks, then the instruction's own effect over the state after the issue. -/
def kernelOp (i : Instr) (body : Ctx → Team → Warp → State → KOut) (s : State) : Out :=
  match s.issue i with
  | .stutter => .next s
  | .halt c h => .next (s.haltWarp c h false)
  | .go c t w =>
    match body c t w (s.advance c w) with
    | .ok s1 => .next s1
    | .halt h => .next (s.haltWarp c h false)
    | .page ps => .next (s.pageWait c t ps)
    | .memErr h l => .next ((s.memErr (s.ctxOf t).seq l).haltWarp c h false)

end Sys2Proof.Machine
end

