-- ==== Sys2Proof/Machine/Access.lean ====
section
/-! DEFINITION. Data accesses of kernel instructions: addresses, the checks of R213 to R216, loads through the thread's view
and stores (R196, R218), and the release and acquire events they raise (R198). -/

namespace Sys2Proof.Machine

/-! ## Addresses (R213) -/

def gAddr (w : Warp) (l : Nat) (kx : Bool) (va : BitVec 6) (off : BitVec 26) : Nat :=
  (opndPair w l kx va + off.signExtend 64).toNat

def sAddr (w : Warp) (l : Nat) (kx : Bool) (va : BitVec 6) (off : BitVec 26) : Nat :=
  (opnd w l kx va 0 + off.signExtend 32).toNat

def spAddr (sp : Space) (w : Warp) (l : Nat) (kx : Bool) (va : BitVec 6) (off : BitVec 26) : Nat :=
  match sp with
  | .g => gAddr w l kx va off
  | _ => sAddr w l kx va off

/-! ## Checks (R214, R215) -/

/-- The outcome of the checks: the location of each lane's access, or what stops the bundle. -/
inductive Chk where
  | ok (ls : List (Nat × Nat))
  | halt (h : HaltInfo)
  | page (ps : List PageNeed)
  | memErr (h : HaltInfo) (l : Nat)

/-- KIND of R399 for a thread's access. -/
def accKind (a : Acc) : Nat := if a = .write then 1 else 0

/-- Translates one lane's access: a location, or what it meets. -/
def transLane (s : State) (k : TaskCtx) (acc : Acc) (l va : Nat) : Chk :=
  match s.tr k va acc with
  | .ok pa => .ok [(l, locPhys pa)]
  | .bad d => .halt { cause := 4, detail := d, lane := l, faddr := va }
  | .page e lvl x => .page [{ va := va, entry := e, lvl := lvl, e := x, kind := accKind acc, lane := some l }]
  | .err a => .memErr { cause := 15, lane := l, faddr := va } a

/-- One page need for each lane's demand entry. -/
def addNeed (ps : List PageNeed) (p : PageNeed) : List PageNeed :=
  if ps.any (fun q => q.entry == p.entry && q.lane == p.lane) then ps else ps ++ [p]

/-- Joins the lanes' outcomes in ascending lane order: a fault of the lowest lane first, then pages, then locations. -/
def Chk.join : Chk → Chk → Chk
  | .halt h, _ => .halt h
  | _, .halt h => .halt h
  | .memErr h l, _ => .memErr h l
  | _, .memErr h l => .memErr h l
  | .page a, .page b => .page (b.foldl addNeed a)
  | .page a, _ => .page a
  | _, .page b => .page b
  | .ok a, .ok b => .ok (a ++ b)

def Chk.joinAll (xs : List Chk) : Chk := xs.foldl Chk.join (.ok [])

/-- Locations whose block has an error that cannot be corrected stop the access (R421). -/
def State.eccCheck (s : State) (addrs : List (Nat × Nat)) (x : Chk) : Chk :=
  match x with
  | .ok ls =>
    match ls.find? (fun p => s.bad.contains (p.2 / 64 * 64)) with
    | none => .ok ls
    | some p => .memErr { cause := 15, lane := p.1, faddr := ((addrs.find? (fun q => q.1 == p.1)).map (fun q => q.2)).getD 0 } p.2
  | y => y

/-- The checks of R215 for accesses of n bytes, given as (lane, address) in ascending lane order. A constant access is checked
at its first and its last byte, which may lie on two pages, and is located by its virtual address (R193). Of a continuation's team too the grid's argument pointer is the
base (DESIGN CHOICE; log entry 164). -/
def State.check (s : State) (t : Team) (k : TaskCtx) (sp : Space) (acc : Acc) (n : Nat) (las : List (Nat × Nat)) : Chk :=
  match las.find? (fun p => p.2 % n != 0) with
  | some p => .halt { cause := 3, lane := p.1, faddr := p.2 }
  | none =>
    match sp with
    | .g => s.eccCheck las (Chk.joinAll (las.map (fun p => transLane s k acc p.1 p.2)))
    | _ =>
      match las.find? (fun p => decide (sp.range t < p.2 + n)) with
      | some p => .halt { cause := 5, lane := p.1, faddr := p.2 }
      | none =>
        match sp with
        | .k =>
          let base := ((s.grid? t.grid).map Grid.args).getD 0
          let ends := las.flatMap (fun p => [(p.1, base + p.2), (p.1, base + p.2 + n - 1)])
          match s.eccCheck las (Chk.joinAll (ends.map (fun p => transLane s k acc p.1 (p.2 % 18446744073709551616)))) with
          | .ok _ => .ok (las.map (fun p => (p.1, (base + p.2) % 18446744073709551616)))
          | x => x
        | .x =>
          match las.find? (fun p => (s.chipProt k t.agent p.2 acc).isSome) with
          | some p => .halt { cause := 4, detail := (s.chipProt k t.agent p.2 acc).getD 0, lane := p.1, faddr := p.2 }
          | none => s.eccCheck las (.ok (las.map (fun p => (p.1, locChip p.2))))
        | .l => .ok las
        | _ => s.eccCheck las (.ok (las.map (fun p => (p.1, t.locOf sp p.2))))

/-! ## Held effects (R183) -/

/-- Holds an effect of the bundle to the round boundary. -/
def State.hold (s : State) (c : Ctx) (fx : HeldFx) : State :=
  s.updWarp c.team c.warp (fun w => { w with held := w.held ++ [{ fx := fx, at_ := s.tick, pc := c.pc, words := c.words }] })

/-- A held effect put where the bundle that issued at a given count stands among a warp's (R183). -/
def insertHeld (h : Held) : List Held → List Held
  | [] => [h]
  | x :: t => if h.at_ < x.at_ then h :: x :: t else x :: insertHeld h t

/-- What one held effect makes of a byte that its own warp reads (R183). -/
def HeldFx.overlay (l : Nat) (b : Byte) : HeldFx → Byte
  | .store _ bs => ((bs.reverse.find? (fun p => p.1 == l)).map (fun p => p.2)).getD b
  | .sqwr _ bs =>
    match bs.reverse.find? (fun p => p.1 == l) with
    | none => b
    | some p => (b &&& ~~~ p.2.1) ||| (p.2.2 &&& p.2.1)
  | _ => b

/-! ## Reading -/

/-- The byte that a load of the thread reads (R183, R196). -/
def State.rdThr (s : State) (w : Warp) (th : Thread) (l : Nat) : Byte :=
  w.held.foldl (fun b h => h.fx.overlay l b) (s.rdView th l)

/-- n bytes read by the thread `rd` (team, warp, lane) at a location of a space (R196, R218), or in constant space at a virtual
address (R193). -/
def State.rdBytes (s : State) (k : TaskCtx) (sp : Space) (rd : Nat × Nat × Nat) (w : Warp) (th : Thread) (l n : Nat) : List Byte :=
  match sp with
  | .l => (locRange l n).map (fun a => KV.get 0 a th.slice)
  | .k => (List.range n).map (fun i =>
    match s.tr k ((l + i) % 18446744073709551616) .read with
    | .ok pa =>
      let a := locPhys pa
      if k.det then w.held.foldl (fun b h => h.fx.overlay a b) (s.rdConstDet k th a) else s.rdConst k rd a
    | _ => 0)
  | _ => (locRange l n).map (s.rdThr w th)

/-- A list of bytes as little-endian words. -/
def wordsOfBytes : Nat → List Byte → List Word
  | 0, _ => []
  | n + 1, bs => wordOfBytes (bs.take 4) :: wordsOfBytes n (bs.drop 4)

/-! ## Writing -/

/-- A thread of the issuing group as the maker of a write. -/
def State.maker (s : State) (c : Ctx) (grid : Nat) : Maker :=
  { party := .core (((s.team? c.team).map Team.core).getD 0), grid := some grid }

/-- One lane's store (R195, R196): it takes places in coherence order and the thread's view moves to it. -/
def State.store (s : State) (c : Ctx) (grid lane : Nat) (ws : List (Nat × Byte)) : State :=
  (s.wr (s.maker c grid) ws).updThr c.team c.warp lane (fun th => { th with view := moveView th.view (serials s.nextSer ws) })

/-- A lane's store of bytes at a location of a space, held to the boundary in deterministic mode (R183); the slice is the
thread's alone. -/
def State.storeLane (s : State) (c : Ctx) (k : TaskCtx) (sp : Space) (grid lane l : Nat) (bs : List Byte) : State :=
  match sp with
  | .l => s.updThr c.team c.warp lane (fun th => { th with slice := (atLoc l bs).foldl (fun m p => KV.put 0 p.1 p.2 m) th.slice })
  | _ => if k.det then s.hold c (.store lane (atLoc l bs)) else s.store c grid lane (atLoc l bs)

/-- The lanes' stores, in ascending lane order (R216). -/
def State.storeLanes (s : State) (c : Ctx) (k : TaskCtx) (sp : Space) (grid : Nat) : List (Nat × Nat × List Byte) → State
  | [] => s
  | (lane, l, bs) :: rest => (s.storeLane c k sp grid lane l bs).storeLanes c k sp grid rest

/-! ## Events (R197 to R200) -/

/-- The scope of an access's events (R198): the prefix's, else the space's; thread for .l, and at most chip for .s and .c. -/
def accScope (m : Scope) (sp : Space) : Scope :=
  match sp with
  | .l => .thread
  | .s | .c => if m = .dflt then sp.scope else if m = .system then .chip else m
  | _ => if m = .dflt then sp.scope else m

/-- The locations of a space of a team: what a FENCE on an access covers for the held reductions (R185). -/
def spaceSpan (t : Team) (sp : Space) : Nat × Nat :=
  match sp with
  | .g | .k | .l => (0, 18446744073709551616)
  | _ => (t.locOf sp 0, t.locOf sp 0 + 4294967296)

/-- A release by each of the lanes (R199); held to the boundary in deterministic mode. -/
def State.evRelease (s : State) (c : Ctx) (t : Team) (k : TaskCtx) (lanes : List Nat) (cov : Cover)
    (flush : Option (List (Nat × Nat))) : State :=
  if lanes.isEmpty then s
  else if k.det then s.hold c (.release lanes cov flush)
  else lanes.foldl (fun a l =>
    match a.thr? c.team c.warp l with
    | none => a
    | some th => a.release (.core t.core) th cov) s

/-- An acquire by each of the lanes (R200). In deterministic mode the boundary gives every view (R183, R211). -/
def State.evAcquire (s : State) (c : Ctx) (t : Team) (k : TaskCtx) (lanes : List Nat) (cov : Cover) : State :=
  if k.det then s
  else lanes.foldl (fun a l => a.updThr c.team c.warp l (fun th => a.acquire (.core t.core) cov th)) s

/-- The kinds of event that a FENCE code names. -/
def isRel : FenceKind → Bool
  | .rel | .ar => true
  | _ => false
def isAcq : FenceKind → Bool
  | .acq | .ar => true
  | _ => false

end Sys2Proof.Machine
end

