-- ==== Sys2Proof/Machine/Barrier.lean ====
section
/-! DEFINITION. The barrier instructions (R224 to R232, R455). -/

namespace Sys2Proof.Machine

/-- The barrier object that k[a] names, with its checks (R225); an error of its bytes that cannot be corrected halts (R421). -/
def withBar (s : State) (t : Team) (k : TaskCtx) (b : Word) (acc : Acc) (f : Space → Nat → KOut) : KOut :=
  match s.barAddr t k b acc with
  | .error h => .halt h
  | .ok (sp, l) =>
    if s.bad.contains (l / 64 * 64) then .memErr { cause := 15, faddr := b.toNat } l else f sp l

/-- The BAR_STATE check of a barrier instruction (R231); a broken object is not checked (R226). -/
def soundBar (s : State) (l : Nat) (f : KOut) : KOut :=
  if !(s.barRead l).broken && (s.barRead l).bad then .halt { cause := 6, detail := 7 } else f

/-- Whether a thread waits on the object (R227). -/
def State.barBusy (s : State) (l : Nat) : Bool :=
  s.waiting (fun w => match w with
    | .bar a _ => a == l
    | _ => false)

/-- The count of barinit and expect: k[b], or with b = 0 the immediate (R227, R229). -/
def simmCount (o : SImm) (w : Warp) : Nat := if o.b = 0 then o.imm.toNat else (w.rk o.b.toNat).toNat

/-- barinit (R227): once for the group. -/
def execBarinit (o : SImm) : State → Out :=
  kernelOp (.barinit o) (fun c t w s =>
    let k := s.ctxOf t
    let n := simmCount o w
    withBar s t k (w.rk o.a.toNat) .write (fun sp l =>
      if n = 0 ∨ 16777215 < n then .halt { cause := 6, detail := 4 }
      else if k.det then .ok (s.hold c (.barinit l n))
      else if s.barBusy l then .halt { cause := 6, detail := 6 }
      else .ok (s.barInit sp (.core t.core) (some t.grid) l n)))

/-- The publications of a release by lanes of a warp, as the phase carries them to its waiters (R207). -/
def State.arrivalEntries (s : State) (c : Ctx) (t : Team) (lanes : List Nat) (cov : Cover) : List BarEntry :=
  lanes.flatMap (fun l =>
    match s.thr? c.team c.warp l with
    | none => []
    | some th => (s.relWrites th cov).map (fun p => { engine := false, p := s.publOf cov.scope (.core t.core) p }))

/-- What an arrival of n threads meets (R228, R231): the detail of bad-barrier-use, or none. -/
def BarObj.arriveBad (o : BarObj) (n : Nat) (drop : Bool) : Option Nat :=
  if o.broken then none
  else if o.bad then some 7
  else if o.left < n then some 5
  else if drop ∧ o.exp ≤ n then some 4
  else none

/-- The token of an arrival: PHASE before the update, with bit 31 set on a broken object (R228). -/
def BarObj.token (o : BarObj) : Word := BitVec.ofNat 32 (o.phase + if o.broken then 2147483648 else 0)

/-- arrive (R228): one update for the group, its release before and its acquire after. -/
def execArrive (o : SMod) : State → Out :=
  kernelOp (.arrive o) (fun c t w s =>
    let k := s.ctxOf t
    let drop := o.b.getLsbD 0
    let rel := o.m.fence != .acq
    withBar s t k (w.rk o.a.toNat) .write (fun sp l =>
      let cov : Cover := { scope := accScope o.m.scope sp }
      if k.det then
        .ok ((s.hold c (.arrive l c.lanes drop (if rel then some cov.scope else none) o.d.toNat)).pendOn c 0 [.v o.d.toNat] none)
      else
        let obj := s.barRead l
        match obj.arriveBad c.lanes.length drop with
        | some d => .halt { cause := 6, detail := d }
        | none =>
          let s1 := if rel && !obj.broken then s.evRelease c t k c.lanes cov none else s
          let ents := if rel then s.arrivalEntries c t c.lanes cov else []
          let s2 := s1.barUpdate sp (.core t.core) (some t.grid) l (s.stampFor k) (.arrive c.lanes.length drop) ents
          let s3 := if o.m.fence = .ar && !obj.broken then s2.evAcquire c t k c.lanes cov else s2
          .ok (s3.writeLanes c (c.lanes.map (fun x => (x, [(Reg.v o.d.toNat, obj.token)])))))) 

/-- expect (R229): once for the group. -/
def execExpect (o : SImm) : State → Out :=
  kernelOp (.expect o) (fun c t w s =>
    let k := s.ctxOf t
    withBar s t k (w.rk o.a.toNat) .write (fun sp l =>
      if k.det then .ok (s.hold c (.expect l (simmCount o w)))
      else soundBar s l
        (.ok (s.barUpdate sp (.core t.core) (some t.grid) l (s.stampFor k) (.expect (simmCount o w)) []))))

/-! ## wait and bartest (R230) -/

/-- What a lane's test finds: a status with what the phase it acquires carries, or that it must wait. -/
inductive BarTest where
  | status (n : Nat) (acq : List BarEntry)
  | wait

/-- How a thread's wait on a barrier object ended, if it is waking from one (R418). -/
def Thread.barWoken (th : Thread) : Option Bool :=
  match th.wait with
  | some x => (match x.on with
    | .bar _ _ => x.woken
    | _ => none)
  | none => none

/-- What the completion of a phase of the object at l carried to a thread that it woke. -/
def Thread.barDone (th : Thread) (l phase : Nat) : Option (List BarEntry) :=
  match th.wait with
  | some x => if x.on = .bar l phase ∧ x.woken = some true then some x.carry else none
  | none => none

/-- A lane's test of its token. A thread that woke on a broken object receives that status, and one that a completion woke is
completed, with what that completion carried, whatever has become of the object since (R49, R226, R418). -/
def State.barTest (s : State) (l : Nat) (test : Bool) (th : Thread) (token : Word) : BarTest :=
  let o := s.barRead l
  let phase := token.toNat % 2147483648
  match th.barDone l phase with
  | some es => .status (if test then 2 else 0) es
  | none =>
    if token.getLsbD 31 ∨ o.broken ∨ th.barWoken = some false then .status 1 []
    else if o.phase ≠ phase then .status (if test then 2 else 0) (s.phaseCarries l phase)
    else if test then .status 0 []
    else .wait

/-- The acquire that a completed phase gives its waiter (R207): the counted arrivals' publications that can synchronise at
the scope, and the bytes that engines counted; an acquire of thread scope takes in nothing of another party (R197). -/
def barAcquire (Q : Party) (scope : Scope) (es : List BarEntry) (th : Thread) : Thread :=
  { th with view := moveView th.view ((es.filter (fun e =>
      decide (scope ≠ .thread) && (e.engine || e.p.reaches scope Q))).map (fun e => (e.p.loc, e.p.ser))) }

/-- wait and bartest: each lane is decided on its own; lanes that must wait leave the group (R49). -/
def barWaitOp (i : Instr) (test : Bool) (o : SMod) : State → Out :=
  kernelOp i (fun c t w s =>
    let k := s.ctxOf t
    withBar s t k (w.rk o.a.toNat) .read (fun sp l =>
      soundBar s l (
        .ok (c.lanes.foldl (fun a x =>
          match s.barTest l test (w.thr x) ((w.thr x).rv o.b.toNat) with
          | .status n es =>
            let a1 := if k.det then a else a.updThr c.team c.warp x (barAcquire (.core t.core) (accScope o.m.scope sp) es)
            a1.writeLanes c [(x, [(Reg.v o.d.toNat, BitVec.ofNat 32 n)])]
          | .wait => a.park c [x] (.bar l (s.barRead l).phase)) s))))

/-- wait (R230). -/
def execWait (o : SMod) : State → Out := barWaitOp (.wait o) false o

/-- bartest (R230). -/
def execBartest (o : SMod) : State → Out := barWaitOp (.bartest o) true o

end Sys2Proof.Machine
end

