-- ==== Sys2Proof/Machine/Special.lean ====
section
/-! DEFINITION. The special functions of R108, computed in fixed point far beyond the precision that an f32 result and its
rounding need. An irrational value is handed to `roundF` as the middle of the fixed-point cell it lies in, so that it is
neither representable nor a tie (UNVERIFIED: log entry 20 says what this rests on). -/

namespace Sys2Proof.Machine

/-- Fraction bits of the fixed-point numbers. -/
def fxBits : Nat := 440
/-- One. -/
def fxOne : Nat := 2 ^ fxBits
/-- floor(pi * 2^440). -/
def fxPi : Nat := 0x3243f6a8885a308d313198a2e03707344a4093822299f31d0082efa98ec4e6c89452821e638d01377be5466cf34e90c6cc0ac29b7c97c50
/-- floor(ln 2 * 2^440). -/
def fxLn2 : Nat := 0xb17217f7d1cf79abc9e3b39803f2f6af40f343267298b62d8a0d175b8baafa2be7b876206debac98559552fb4afa1b10ed2eae35c13821

/-- The middle of the cell of a fixed-point floor. -/
def fxMid (k : Nat) : Rat := ((2 * k + 1 : Nat) : Rat) / ((2 ^ (fxBits + 1) : Nat) : Rat)

/-- floor of a non-negative rational in fixed point. -/
def fxOf (a : Rat) : Nat := floorNat (a * (fxOne : Rat))

/-- Terms of e^x: t is the current term, k its index. -/
def expLoop (x : Nat) : Nat → Nat → Nat → Nat
  | 0, _, _ => 0
  | fuel + 1, k, t => t + expLoop x fuel (k + 1) (t * x / fxOne / (k + 1))

/-- e^x for x in [0, 1). -/
def fxExp (x : Nat) : Nat := expLoop x 100 0 fxOne

/-- Alternating terms of sin or cos: every step multiplies by x^2 / ((k+1)(k+2)). -/
def trigLoop (x2 : Nat) : Nat → Nat → Nat → Bool → Int
  | 0, _, _, _ => 0
  | fuel + 1, k, t, neg =>
    (if neg then -(t : Int) else (t : Int)) + trigLoop x2 fuel (k + 2) (t * x2 / fxOne / ((k + 1) * (k + 2))) (!neg)

/-- sin x for x in [0, 1). -/
def fxSin (x : Nat) : Nat := (trigLoop (x * x / fxOne) 60 1 x false).toNat

/-- cos x for x in [0, 1). -/
def fxCos (x : Nat) : Nat := (trigLoop (x * x / fxOne) 60 0 fxOne false).toNat

/-- Terms of artanh z. -/
def atanhLoop (z2 : Nat) : Nat → Nat → Nat → Nat
  | 0, _, _ => 0
  | fuel + 1, k, t => t / k + atanhLoop z2 fuel (k + 2) (t * z2 / fxOne)

/-- ln m for m in [1, 2), by 2 artanh ((m - 1) / (m + 1)). -/
def fxLn (m : Nat) : Nat :=
  let z := (m - fxOne) * fxOne / (m + fxOne)
  2 * atanhLoop (z * z / fxOne) 150 1 z

/-- Integer square root by digits: `bit` runs down from the top, n is the radicand. -/
def isqrtLoop (n : Nat) : Nat → Nat → Nat
  | 0, r => r
  | b + 1, r =>
    let c := r + 2 ^ b
    isqrtLoop n b (if c * c ≤ n then c else r)

/-- floor(sqrt n) for n < 2^1200. -/
def isqrt (n : Nat) : Nat := isqrtLoop n 600 0

/-- The square root of a positive rational: exact where it is rational with a power-of-two scale, else a cell's middle. -/
def sqrtRat (a : Rat) : Rat :=
  let sc : Nat := 2 ^ 600
  let n := floorNat (a * (sc : Rat))
  let r := isqrt n
  if ((r * r : Nat) : Rat) == a * (sc : Rat) then (r : Rat) / ((2 ^ 300 : Nat) : Rat)
  else ((2 * r + 1 : Nat) : Rat) / ((2 ^ 301 : Nat) : Rat)

/-- The reciprocal square root of a positive rational. -/
def rsqrtRat (a : Rat) : Rat := sqrtRat (1 / a)

/-- 2^x. Far outside the range of f32 any value of the same rounding serves. -/
def exp2Rat (x : Rat) : Rat :=
  if 200 < x then pow2 200
  else if x < -300 then pow2 (-300)
  else
    let n := x.floor
    let f := x - (n : Rat)
    if f == 0 then pow2 n else pow2 n * fxMid (fxExp (fxOf f * fxLn2 / fxOne))

/-- log2 of a positive rational. -/
def log2Num (a : Rat) : Num :=
  let e := floorLog2 a
  let m := a / pow2 e
  if m == 1 then .ofRat (e : Rat) false
  else .ofRat ((e : Rat) + fxMid (fxLn (fxOf m) * fxOne / fxLn2)) false

/-- sin and cos of 2 pi t for t in [0, 1/8], as fixed-point floors. -/
def fxSin2pi (t : Rat) : Nat := fxSin (2 * fxPi * fxOf t / fxOne)
def fxCos2pi (t : Rat) : Nat := fxCos (2 * fxPi * fxOf t / fxOne)

/-- sin 2 pi r for r in [0, 1/4]; exact at 0, 1/4. -/
def sinQuarter (r : Rat) : Rat :=
  if r == 0 then 0
  else if r == 1 / 4 then 1
  else if r ≤ 1 / 8 then fxMid (fxSin2pi r)
  else fxMid (fxCos2pi (1 / 4 - r))

/-- sin 2 pi x for x in [0, 1): sign and magnitude. -/
def sinTurn (r : Rat) : Bool × Rat :=
  if r ≤ 1 / 4 then (false, sinQuarter r)
  else if r ≤ 1 / 2 then (false, sinQuarter (1 / 2 - r))
  else if r ≤ 3 / 4 then (true, sinQuarter (r - 1 / 2))
  else (true, sinQuarter (1 - r))

/-- The SFU functions of R108. -/
inductive SfuFn where
  | rcp | rsq | sqrt | exp2 | log2 | sinp | cosp
deriving DecidableEq, Repr

/-- The exact result of a special function, whether the operation is invalid, and whether DZ is raised (R108). -/
def sfuExact (fn : SfuFn) (x : Num) : Num × Bool × Bool :=
  match fn, x with
  | _, .nan s => (.nan s, false, false)
  | .rcp, .inf s => (.fin s 0, false, false)
  | .rcp, .fin s a => if a == 0 then (.inf s, false, true) else (.fin s (1 / a), false, false)
  | .sqrt, .inf s => if s then (.nan false, true, false) else (.inf false, false, false)
  | .sqrt, .fin s a =>
    if a == 0 then (.fin s 0, false, false)
    else if s then (.nan false, true, false) else (.fin false (sqrtRat a), false, false)
  | .rsq, .inf s => if s then (.nan false, true, false) else (.fin false 0, false, false)
  | .rsq, .fin s a =>
    if a == 0 then (.inf s, false, true)
    else if s then (.nan false, true, false) else (.fin false (rsqrtRat a), false, false)
  | .exp2, .inf s => if s then (.fin false 0, false, false) else (.inf false, false, false)
  | .exp2, .fin s a => (.fin false (exp2Rat (if s then -a else a)), false, false)
  | .log2, .inf s => if s then (.nan false, true, false) else (.inf false, false, false)
  | .log2, .fin s a =>
    if a == 0 then (.inf true, false, true)
    else if s then (.nan false, true, false) else (log2Num a, false, false)
  | .sinp, .inf _ => (.nan false, true, false)
  | .sinp, .fin s a =>
    let t := sinTurn (a - (floorNat a : Rat))
    (.fin (if t.2 == 0 then s else t.1 != s) t.2, false, false)
  | .cosp, .inf _ => (.nan false, true, false)
  | .cosp, .fin _ a =>
    let n := floorNat a
    let r := a - (n : Rat)
    if r == 0 then (.fin (n % 2 == 1) 1, false, false)
    else
      let t := sinTurn (if r < 3 / 4 then r + 1 / 4 else r - 3 / 4)
      (.fin (if t.2 == 0 then false else t.1) t.2, false, false)

/-- A special function of an f32 operand that has been read and flushed: the result pattern and flags (R108, R125). -/
def sfuResult (fn : SfuFn) (rm : Rm) (ftz : Bool) (x : Num) : Nat × FpFlags :=
  let (r, inv, dz) := sfuExact fn x
  let (b, fl) := if inv then (Fmt.f32.qnan, { nv := true }) else roundF r .f32 rm false ftz
  (b, { fl with dz := fl.dz || dz, nv := fl.nv || x.isSnan })

end Sys2Proof.Machine
end

