-- ==== Sys2Proof/Machine/Alu.lean ====
section
/-! DEFINITION. The element functions of the arithmetic instructions (R111 to R127): pure functions of operand words. -/

namespace Sys2Proof.Machine

/-! ## Integers (R111 to R118) -/

/-- `sat_s(x, 32)` as a word (R102). -/
def satS32 (x : Int) : Word :=
  if x < -2147483648 then 0x80000000#32 else if 2147483647 < x then 0x7FFFFFFF#32 else BitVec.ofInt 32 x

def iaddW (sat : Bool) (a b : Word) : Word := if sat then satS32 (a.toInt + b.toInt) else a + b
def isubW (sat : Bool) (a b : Word) : Word := if sat then satS32 (a.toInt - b.toInt) else a - b
def imulW (sat : Bool) (a b : Word) : Word := if sat then satS32 (a.toInt * b.toInt) else a * b
def imulhiW (a b : Word) : Word := BitVec.ofInt 32 ((a.toInt * b.toInt) / 4294967296)
def imacW (sat : Bool) (a b d : Word) : Word := if sat then satS32 (a.toInt * b.toInt + d.toInt) else a * b + d
def iminW (a b : Word) : Word := if b.toInt < a.toInt then b else a
def imaxW (a b : Word) : Word := if a.toInt < b.toInt then b else a
def iminuW (a b : Word) : Word := if b.toNat < a.toNat then b else a
def imaxuW (a b : Word) : Word := if a.toNat < b.toNat then b else a
def shlW (a b : Word) : Word := if b.toNat < 32 then a <<< b.toNat else 0
def shrW (a b : Word) : Word := if b.toNat < 32 then a >>> b.toNat else 0
def sarW (a b : Word) : Word := if b.toNat < 32 then a.sshiftRight b.toNat else if a.msb then 0xFFFFFFFF#32 else 0
def rotW (a b : Word) : Word := a.rotateLeft (b.toNat % 32)

/-- 1 << len less 1, all ones for 32. -/
def maskW (len : Nat) : Word := BitVec.ofNat 32 (2 ^ len - 1)

/-- Field position and length of bfe and bfi (R112). -/
def bfPos (c : Word) : Nat := (c.extractLsb' 0 5).toNat
def bfLen (c : Word) : Nat := min (c.extractLsb' 8 6).toNat (32 - bfPos c)

def bfeW (a c : Word) : Word :=
  let len := bfLen c
  let f := (a >>> bfPos c) &&& maskW len
  if c.getLsbD 16 && decide (0 < len) && f.getLsbD (len - 1) then f ||| ~~~ maskW len else f

def bfiW (a c d : Word) : Word :=
  let m := maskW (bfLen c)
  (d &&& ~~~ (m <<< bfPos c)) ||| ((a &&& m) <<< bfPos c)

/-- The number of 1 bits. -/
def popcW (a : Word) : Word := BitVec.ofNat 32 ((List.range 32).countP a.getLsbD)

/-- The number of 0 bits above the highest 1 bit. -/
def clzW (a : Word) : Word := if a = 0 then 32 else BitVec.ofNat 32 (31 - Nat.log2 a.toNat)

def brevW (a : Word) : Word := a.reverse

/-- Byte i of the dword {b : a} (R114). -/
def bselByte (a b : Word) (i : Nat) : Byte := (b ++ a : DWord).extractLsb' (8 * i) 8

/-- One result byte of bsel, by its selector nibble. -/
def bselNibble (a b : Word) (n : BitVec 4) : Byte :=
  let x := bselByte a b (n.extractLsb' 0 3).toNat
  if n.getLsbD 3 then (if x.msb then 0xFF else 0) else x

def bselW (a b sel : Word) : Word :=
  bselNibble a b (sel.extractLsb' 12 4) ++ bselNibble a b (sel.extractLsb' 8 4) ++ bselNibble a b (sel.extractLsb' 4 4) ++
    bselNibble a b (sel.extractLsb' 0 4)

/-- The conditions of R63 for icmp (R116). -/
def icmpW (cond : BitVec 3) (a b : Word) : Bool :=
  match cond.toNat with
  | 0 => a == b
  | 1 => a != b
  | 2 => decide (a.toInt < b.toInt)
  | 3 => decide (a.toInt ≤ b.toInt)
  | 4 => decide (b.toInt < a.toInt)
  | 5 => decide (b.toInt ≤ a.toInt)
  | 6 => decide (a.toNat < b.toNat)
  | _ => decide (a.toNat ≤ b.toNat)

/-- The elements of iaddc from the first up, and the last carry out (R117). -/
def iaddcList : Bool → List (Word × Word) → List Word × Bool
  | c, [] => ([], c)
  | c, (a, b) :: t =>
    let s : Nat := a.toNat + b.toNat + c.toNat
    let r := iaddcList (decide (4294967296 ≤ s)) t
    (BitVec.ofNat 32 s :: r.1, r.2)

/-- lea (R118): a 64-bit base plus a sign-extended word. -/
def leaW (base : DWord) (b : Word) : DWord := base + b.signExtend 64

/-! ## Floating point (R120 to R125) -/

/-- The captured controls of one floating-point instruction (R101): rounding, saturation and flushing, and the sign
modifiers of its operands (R74). -/
structure FpCtl where
  rm   : Rm
  sat  : Bool
  ftz  : Bool
  absa : Bool
  nega : Bool
  absb : Bool
  negb : Bool
  negc : Bool
deriving DecidableEq, Repr

/-- The operand values of a pattern triple. -/
def fpA (c : FpCtl) (f : Fmt) (a : Nat) : Num := fopnd a c.absa c.nega f c.ftz
def fpB (c : FpCtl) (f : Fmt) (b : Nat) : Num := fopnd b c.absb c.negb f c.ftz
def fpC (c : FpCtl) (f : Fmt) (d : Nat) : Num := fopnd d false c.negc f c.ftz

def faddP (f : Fmt) (c : FpCtl) (a b : Nat) : Nat × FpFlags :=
  let x := fpA c f a; let y := fpB c f b
  finishOp f c.rm c.sat c.ftz (x.isSnan || y.isSnan) (addNum c.rm x y)

def fsubP (f : Fmt) (c : FpCtl) (a b : Nat) : Nat × FpFlags :=
  let x := fpA c f a; let y := fpB c f b
  finishOp f c.rm c.sat c.ftz (x.isSnan || y.isSnan) (addNum c.rm x y.negate)

def fmulP (f : Fmt) (c : FpCtl) (a b : Nat) : Nat × FpFlags :=
  let x := fpA c f a; let y := fpB c f b
  finishOp f c.rm c.sat c.ftz (x.isSnan || y.isSnan) (mulNum x y)

def ffmaP (f : Fmt) (c : FpCtl) (a b d : Nat) : Nat × FpFlags :=
  let x := fpA c f a; let y := fpB c f b; let z := fpC c f d
  finishOp f c.rm c.sat c.ftz (x.isSnan || y.isSnan || z.isSnan) (fmaNum c.rm x y z)

def fdivP (f : Fmt) (c : FpCtl) (a b : Nat) : Nat × FpFlags :=
  let x := fpA c f a; let y := fpB c f b
  let r := divNum x y
  let (p, fl) := finishOp f c.rm c.sat c.ftz (x.isSnan || y.isSnan) (r.1, r.2.1)
  (p, { fl with dz := fl.dz || r.2.2 })

def fminP (c : FpCtl) (a b : Nat) : Nat × FpFlags := fminNum .f32 (fpA c .f32 a) (fpB c .f32 b)
def fmaxP (c : FpCtl) (a b : Nat) : Nat × FpFlags := fmaxNum .f32 (fpA c .f32 a) (fpB c .f32 b)

/-- fclass (R123). -/
def fclassP (c : FpCtl) (a : Nat) : Nat := 2 ^ classBit .f32 (fpA c .f32 a)

/-- fcmp (R122): the outcome and NV. -/
def fcmpP (cond : BitVec 3) (c : FpCtl) (a b : Nat) : Bool × FpFlags :=
  let x := fpA c .f32 a; let y := fpB c .f32 b
  let uno := x.isNan || y.isNan
  let s : FpFlags := { nv := x.isSnan || y.isSnan }
  let q : FpFlags := { nv := uno }
  match cond.toNat with
  | 0 => (!uno && eqNum x y, s)
  | 1 => (uno || !eqNum x y, s)
  | 2 => (!uno && ltNum x y, q)
  | 3 => (!uno && (ltNum x y || eqNum x y), q)
  | 4 => (!uno && ltNum y x, q)
  | 5 => (!uno && (ltNum y x || eqNum x y), q)
  | 6 => (!uno, s)
  | _ => (uno, s)

/-- A packed operation on both halves; the flags are joined (R124). -/
def packed (g : Nat → Nat → Nat → Nat × FpFlags) (a b d : Word) : Word × FpFlags :=
  let lo := g (a.extractLsb' 0 16).toNat (b.extractLsb' 0 16).toNat (d.extractLsb' 0 16).toNat
  let hi := g (a.extractLsb' 16 16).toNat (b.extractLsb' 16 16).toNat (d.extractLsb' 16 16).toNat
  (BitVec.ofNat 16 hi.1 ++ BitVec.ofNat 16 lo.1, lo.2.join hi.2)

def hadd2P (c : FpCtl) (a b : Word) : Word × FpFlags := packed (fun x y _ => faddP .f16 c x y) a b 0
def hmul2P (c : FpCtl) (a b : Word) : Word × FpFlags := packed (fun x y _ => fmulP .f16 c x y) a b 0
def hfma2P (c : FpCtl) (a b d : Word) : Word × FpFlags := packed (ffmaP .f16 c) a b d
def bfma2P (c : FpCtl) (a b d : Word) : Word × FpFlags := packed (ffmaP .bf16 c) a b d

/-! ## Conversions (R103) -/

/-- Sign- or zero-extension of an n-bit integer result into a register (R93, R103). -/
def intReg (x : Int) : Word := BitVec.ofInt 32 x

/-- An f32 operand flushed when ftz (R103). -/
def cvtSrc (f : Fmt) (ftz : Bool) (b : Nat) : Num := flushNum f ftz (value f b)

/-- cvt (R103): the result word and the flags of one conversion code; tcvt uses the same codes (R171). -/
def cvtCode (code : Nat) (rm : Rm) (sat ftz : Bool) (w : Word) : Word × FpFlags :=
  let x := cvtSrc .f32 ftz w.toNat
  let toF (f : Fmt) : Word × FpFlags :=
    let r := roundF x f rm sat (ftz && f.flushes)
    (BitVec.ofNat 32 r.1, r.2)
  let exact (f : Fmt) (b : Nat) : Word × FpFlags :=
    let y := cvtSrc f ftz b
    (BitVec.ofNat 32 (encodeNum .f32 y), { nv := y.isSnan })
  let toI (n : Nat) (s : Bool) : Word × FpFlags :=
    let r := cvtInt x n s rm
    (intReg r.1, r.2)
  match code with
  | 0 => toF .f16
  | 1 => toF .bf16
  | 2 => toF .e4m3
  | 3 => toF .e5m2
  | 4 => exact .f16 (w.toNat % 65536)
  | 5 => exact .bf16 (w.toNat % 65536)
  | 6 => exact .e4m3 (w.toNat % 256)
  | 7 => exact .e5m2 (w.toNat % 256)
  | 8 => toI 32 true
  | 9 => toI 32 false
  | 10 => let r := roundF (.ofRat (w.toInt : Rat) false) .f32 rm false ftz; (BitVec.ofNat 32 r.1, r.2)
  | 11 => let r := roundF (.ofRat (w.toNat : Rat) false) .f32 rm false ftz; (BitVec.ofNat 32 r.1, r.2)
  | 12 => toI 16 true
  | 13 => toI 16 false
  | 14 => toI 8 true
  | 15 => toI 8 false
  | 16 =>
    match x with
    | .nan s => (BitVec.ofNat 32 Fmt.f32.qnan, { nv := s })
    | .inf s => (BitVec.ofNat 32 (encodeNum .f32 (.inf s)), {})
    | .fin s a =>
      let k : Rat := (roundInt a rm s : Rat)
      (BitVec.ofNat 32 (encodeMag .f32 s k), { nx := !(k == a) })
  | _ => (BitVec.ofNat 32 (encodeNum .f32 (ds8Value (w.toNat % 256))), {})

/-! ## rand (R127) -/

def randG : DWord := 0xA5F0C3E9174B6D2B
def randM1 : DWord := 0xD36A1C8F5B04E2B7
def randM2 : DWord := 0x8AC4F91E3D276B59

def mix64 (z0 : DWord) : DWord :=
  let z1 := z0 ^^^ (z0 >>> 29)
  let z2 := z1 * randM1
  let z3 := z2 ^^^ (z2 >>> 32)
  let z4 := z3 * randM2
  z4 ^^^ (z4 >>> 29)

/-- The value of rand for a global index, a seed and a counter. -/
def randValue (gidx : DWord) (seed : Word) (ctr : DWord) : Word :=
  (mix64 (((gidx ^^^ seed.setWidth 64) * randG) ^^^ ctr)).extractLsb' 32 32

end Sys2Proof.Machine
end

