-- ==== Sys2Proof/Machine/Flags.lean ====
section
/-! DEFINITION. The floating-point controls that an instruction captures (R96 to R101) and the flags it raises (R100, R408). -/

namespace Sys2Proof.Machine

/-! ## MODE (R99) -/

def modeRm (m : Word) : Rm := Rm.ofBits (m.toNat % 4)
def modeFtz (m : Word) : Bool := m.getLsbD 2
def modeSat (m : Word) : Bool := m.getLsbD 4
/-- The bits of MODE that a write sets; the reserved ones read 0 (R99). -/
def modeMask : Word := 0xF817

/-- The rounding mode of an instruction: the prefix's, else MODE's (R74, R96, R120). -/
def selRm (m : Word) : RmSel → Rm
  | .mode => modeRm m
  | .rn => .rne
  | .rz => .rz
  | .ru => .ru
  | .rd => .rd

/-- Whether subnormals are flushed (R97, R120). -/
def selFtz (m : Word) : FtzSel → Bool
  | .mode => modeFtz m
  | .flush => true
  | .keep => false

/-- The controls captured by a floating-point instruction with a prefix (R101). -/
def fpCtl (mode : Word) (m : Mods) : FpCtl :=
  { rm := selRm mode m.rm, sat := m.sat, ftz := selFtz mode m.ftz, absa := m.absa, nega := m.nega, absb := m.absb,
    negb := m.negb, negc := m.negc }

/-- CAUSE of an ARITH record: the flags whose LOG bit is set (R100, R408). -/
def logCause (mode : Word) (f : FpFlags) : Nat :=
  (if f.nv && mode.getLsbD 11 then 16 else 0) + (if f.dz && mode.getLsbD 12 then 8 else 0) +
    (if f.of && mode.getLsbD 13 then 4 else 0) + (if f.uf && mode.getLsbD 14 then 2 else 0) +
    (if f.nx && mode.getLsbD 15 then 1 else 0)

/-- The union of lanes' flags. -/
def joinFlags (fs : List FpFlags) : FpFlags := fs.foldl FpFlags.join {}

/-- One ARITH event for an instruction, in the lowest lane that raised a logged flag (R408). -/
def State.logArith (s : State) (c : Ctx) (mode : Word) (fs : List (Nat × FpFlags)) : State :=
  let cause := logCause mode (joinFlags (fs.map (fun p => p.2)))
  if cause = 0 then s
  else s.logEvent c 1 cause (((fs.find? (fun p => logCause mode p.2 != 0)).map (fun p => p.1)).getD 0)

end Sys2Proof.Machine
end

