-- ==== Sys2Proof/Machine/Engine.lean ====
section
/-! DEFINITION. What the engines that act for teams share: where their bytes lie, reading, landing and counting, and how
they stop (R204, R205, R236, R421). -/

namespace Sys2Proof.Machine

/-- Where n bytes of an engine's access lie, in the space codes of R233: a location, an offset in the Cask, or what stops
the engine. -/
inductive EngAt where
  | loc (l : Nat)
  | cask (o : Nat)
  | page (p : PageNeed)
  | bad
  | err (l : Nat)

/-- The space of a location. -/
def locSpace (l : Nat) : Space :=
  match locTag l with
  | 1 => .x | 2 => .s | 3 => .c | _ => .g

/-- Codes of R233 as spaces; the Cask has none. -/
def engSpace (sp : Nat) : Space :=
  match sp with
  | 0 => .g | 1 => .s | 2 => .c | _ => .x

/-- Finds the bytes [a, a + n), which lie in one page, for a read or a write. -/
def State.engAt (s : State) (t : Team) (k : TaskCtx) (sp a n : Nat) (w : Acc) : EngAt :=
  let ecc (l : Nat) : EngAt := if w = .read ∧ s.bad.contains (l / 64 * 64) then .err l else .loc l
  match sp with
  | 0 =>
    match s.tr k a w with
    | .ok pa => ecc (locPhys pa)
    | .page e lvl x => .page { va := a, entry := e, lvl := lvl, e := x, kind := if w = .write then 3 else 2 }
    | .bad _ => .bad
    | .err l => .err l
  | 4 => if t.desc.cask < a + n then .bad else .cask a
  | _ =>
    let spc := engSpace sp
    if spc.range t < a + n then .bad
    else if spc = .x ∧ (s.chipProt k t.agent a w).isSome then .bad
    else ecc (t.locOf spc a)

/-- For whom an engine reads: the team and its warp, the copy queue of the command, and when the command issued. -/
structure EngFor where
  team : Nat
  grid : Nat
  warp : Nat
  w    : Option Warp
  q    : Option Nat
  at_  : Nat

/-- Whether a qfence of the warp orders a command of one queue, issued at a count of bundles, before one of another (R206). -/
def Warp.fenced (w : Warp) (q1 at1 q2 at2 : Nat) : Bool :=
  w.qfences.any (fun f => decide (at1 < f.2) && decide (f.2 < at2) && f.1.testBit q1 && f.1.testBit q2)

/-- Whether a write is the landing of a command of the same warp that comes before the command by R206. -/
def EngFor.after (x : EngFor) (h : HWrite) : Bool :=
  match h.by_.copy, x.q with
  | some y, some q => y.team == x.team && y.warp == x.warp && decide (y.at_ < x.at_) &&
      (y.q == q || (x.w.map (fun w => w.fenced y.q y.at_ q x.at_)).getD false)
  | _, _ => false

/-- The byte that an engine reads in deterministic mode: what the last boundary left or an earlier command of the warp has landed
since, and over it the warp's own stores before the command issued (R183, R206, R211). That it reads no later one is the
model's choice among those that R205 allows (DESIGN CHOICE; log entry 169). -/
def State.rdEngDet (s : State) (x : EngFor) (l : Nat) : Byte :=
  let mark := ((s.grid? x.grid).map Grid.mark).getD 0
  let ser := ((s.hist.find? (fun h => h.loc == l && (decide (h.ser < mark) || x.after h))).map HWrite.ser).getD 0
  ((x.w.map Warp.held).getD []).foldl (fun b h => if h.at_ ≤ x.at_ then h.fx.overlay l b else b) (s.valAt l ser)

/-- The bytes that an engine reads for a warp: in default mode the newest ones (R205). -/
def State.rdEng (s : State) (k : TaskCtx) (x : EngFor) (l n : Nat) : List Byte :=
  (locRange l n).map (fun a => if k.det then s.rdEngDet x a else s.rdNew a)

/-- What a barrier's phase carries of bytes that an engine wrote (R207). -/
def engEntries (core ser : Nat) (ws : List (Nat × Byte)) : List BarEntry :=
  (serials ser ws).map (fun p =>
    { engine := true, p := { scope := .chip, party := .core core, loc := p.1, ser := p.2, writer := .core core } })

/-- A command as its engine's acts are told of it: the team and warp that issued it, its address, the unit of R408, when it
issued, and which command of its bundle, or which landing of its own, it is. -/
structure EngCtx where
  team : Nat
  warp : Nat
  pc   : DWord
  unit : Nat
  at_  : Nat := 0
  part : Nat := 0
deriving DecidableEq, Repr

/-- A landing put among a warp's held effects where its command issued (R183); what one command has landed on one object is
one landing. -/
def insertLanding (l n unit : Nat) (ents : List BarEntry) (x : EngCtx) (hs : List Held) : List Held :=
  let same (h : Held) : Bool :=
    match h.fx with
    | .landed l1 _ _ _ => h.at_ == x.at_ && h.part == x.part && l1 == l
    | _ => false
  if hs.any same then
    hs.map (fun h => if same h then
      (match h.fx with
       | .landed _ n1 _ e1 => { h with fx := .landed l (n1 + n) unit (ents ++ e1) }
       | _ => h) else h)
  else
    let before (h : Held) : Bool := !lexLt [x.at_, x.part] [h.at_, h.part]
    hs.filter before ++ { fx := .landed l n unit ents, at_ := x.at_, part := x.part, pc := x.pc } :: hs.filter (fun h => !before h)

/-- An ENGINE record of a team's command (R408). -/
def State.engRecord (s : State) (x : EngCtx) (cause : Nat) : State :=
  match s.team? x.team with
  | none => s
  | some t => s.engineErr (s.ctxOf t) cause x.unit x.warp t.index x.pc.toNat

/-- The fault of a barrier address that names an object of the team's core scratchpad (R158, R191): the checks of R225. -/
def scratchBar (t : Team) (b : Nat) : Option HaltInfo :=
  if b % 32 ≠ 0 then some { cause := 3, faddr := b }
  else if Space.s.range t < b + 32 then some { cause := 5, faddr := b }
  else none

/-- Counts n landed bytes on the object at l for a command of a grid's team of an index (R226); held in deterministic mode to the
boundary (R183) while the team lives. An object that fails R231 is broken and recorded. -/
def State.countAt (s : State) (x : EngCtx) (k : TaskCtx) (core grid index l n : Nat) (ents : List BarEntry) : State :=
  if n = 0 then s
  else if s.objErr l then ((s.memErr k.seq l).barBreak (locSpace l) (.core core) l).engineErr k 4 x.unit x.warp index x.pc.toNat
  else if k.det && (s.warp? x.team x.warp).isSome then
    s.updWarp x.team x.warp (fun w => { w with held := insertLanding l n x.unit ents x w.held })
  else
    let r := s.barLand (locSpace l) (.core core) (some grid) k l n ents
    if r.2 then r.1 else r.1.engineErr k 2 x.unit x.warp index x.pc.toNat

/-- Counts n landed bytes on the barrier that a team's address names. -/
def State.countOn (s : State) (x : EngCtx) (t : Team) (b : Word) (n : Nat) (ents : List BarEntry) : State :=
  let k := s.ctxOf t
  match s.barAddr t k b .write with
  | .error _ => s.engRecord x 1
  | .ok (_, l) => s.countAt x k t.core t.grid t.index l n ents

/-- Whether an engine that acts for a task finds the object at l on a forbidden page (R236, R390). -/
def State.objBarred (s : State) (k : TaskCtx) (l : Nat) : Bool :=
  locSpace l == .x && (s.chipProt k false (l - locChip 0) .write).isSome

/-- Breaks the barrier that a team's address names (R236). -/
def State.breakOn (s : State) (t : Team) (b : Word) : State :=
  match s.barAddr t (s.ctxOf t) b .write with
  | .error _ => s
  | .ok (sp, l) => s.barBreak sp (.core t.core) l

/-- A write of all 64 bytes of a bad block replaces it (R421). -/
def State.heal (s : State) (ws : List (Nat × Byte)) : State :=
  { s with bad := s.bad.filter (fun b => !(locRange b 64).all (fun l => ws.any (fun p => p.1 == l))) }

/-- A write into a team's Cask. -/
def Team.putCask (t : Team) (o : Nat) (bs : List Byte) : Team :=
  { t with cask := (atLoc o bs).foldl (fun m p => KV.put 0 p.1 p.2 m) t.cask }

/-- Bytes of a team's Cask. Those that nothing has landed in since instantiation read 0: R46 and R151 give no value (DESIGN CHOICE,
log entry 157). -/
def Team.rdCask (t : Team) (o n : Nat) : List Byte := (locRange o n).map (fun a => KV.get 0 a t.cask)

/-- The release that issuing an engine's command is, by each thread of the group at chip scope over the bytes the command
reads (R205). -/
def State.issueRelease (s : State) (c : Ctx) (t : Team) (spans : List (Nat × Nat)) : State :=
  s.evRelease c t (s.ctxOf t) c.lanes { scope := .chip, spans := some spans } (some spans)

/-- The locations of an interval of virtual addresses, page by page; a page with no translation gives none. -/
def State.gSpans (s : State) (k : TaskCtx) : Nat → Nat → Nat → List (Nat × Nat)
  | 0, _, _ => []
  | fuel + 1, va, len =>
    if len = 0 then []
    else
      let n := min len (4096 - va % 4096)
      let rest := s.gSpans k fuel (va + n) (len - n)
      match s.tr k (va % 18446744073709551616) .read with
      | .ok pa => (locPhys pa, locPhys pa + n) :: rest
      | _ => rest

/-- A record that an instruction reads from global memory at issue: n bytes that do not cross a page, aligned to `al`. The
answer is their location, or what stops the bundle. -/
inductive RecAt where
  | loc (l : Nat)
  | stop (o : KOut)

def State.recAt (s : State) (k : TaskCtx) (va al : Nat) : RecAt :=
  if va % al ≠ 0 then .stop (.halt { cause := 3, faddr := va })
  else
    match s.tr k va .read with
    | .bad d => .stop (.halt { cause := 4, detail := d, faddr := va })
    | .page e lvl x => .stop (.page [{ va := va, entry := e, lvl := lvl, e := x, kind := 2 }])
    | .err l => .stop (.memErr { cause := 15, faddr := va } l)
    | .ok pa =>
      if s.bad.contains (locPhys pa / 64 * 64) then .stop (.memErr { cause := 15, faddr := va } (locPhys pa))
      else .loc (locPhys pa)

/-- A field of a record's bytes. -/
def fieldOf (bs : List Byte) (o n : Nat) : Nat := leNat ((bs.drop o).take n)

/-- A signed field. -/
def ifieldOf (bs : List Byte) (o n : Nat) : Int := (BitVec.ofNat (8 * n) (fieldOf bs o n)).toInt

/-- Logs an ARITH event of a warp's engine command (R408); a warp that has retired holds no open record. -/
def State.logEngine (s : State) (x : EngCtx) (lane : Nat) (mode : Word) (f : FpFlags) : State :=
  let s1 := s.logArith { team := x.team, warp := x.warp, lanes := [], pc := x.pc, words := [] } mode [(lane, f)]
  match s1.warp? x.team x.warp with
  | none => s1
  | some w => if w.threads.all (fun th => !th.live || th.exited) then s1.closeLog x.team x.warp else s1

end Sys2Proof.Machine
end

