-- ==== Sys2Proof/Machine/Memory.lean ====
section
/-! DEFINITION. Class M: loads, stores, atomics, reductions, fences and prefetch (R213 to R223). -/

namespace Sys2Proof.Machine

/-! ## Loads and stores (R217, R218) -/

/-- Turns a failed check into the bundle's outcome; k goes on with the lanes' locations. -/
def Chk.bind (x : Chk) (k : List (Nat × Nat) → KOut) : KOut :=
  match x with
  | .ok ls => k ls
  | .halt h => .halt h
  | .page ps => .page ps
  | .memErr h l => .memErr h l

/-- The lanes and addresses of an access (R213). -/
def laneAddrs (sp : Space) (w : Warp) (lanes : List Nat) (kx : Bool) (va : BitVec 6) (off : BitVec 26) : List (Nat × Nat) :=
  lanes.map (fun l => (l, spAddr sp w l kx va off))

/-- The release and acquire events of an access with a FENCE (R198): a release first, then an acquire. -/
def State.accEvents (s : State) (c : Ctx) (t : Team) (k : TaskCtx) (sp : Space) (m : Mods) (lanes : List Nat) : State :=
  let cov : Cover := { scope := accScope m.scope sp }
  let s1 := if isRel m.fence then s.evRelease c t k lanes cov (some [spaceSpan t sp]) else s
  if isAcq m.fence then s1.evAcquire c t k lanes cov else s1

/-- Bytes of a load's access, and the registers it makes of them. -/
structure LoadForm where
  bytes : Nat
  regs  : Nat
  conv  : List Byte → List Word

/-- A word group (R218). -/
def wordForm (o : Mem) : LoadForm := { bytes := 4 * o.n, regs := o.n, conv := wordsOfBytes o.n }

/-- The sub-word loads of R67: .zb, .sb, .zh, .sh. -/
def subForm (o : Mem) : LoadForm :=
  match o.size.toNat with
  | 0 => { bytes := 1, regs := 1, conv := fun bs => [BitVec.ofNat 32 (leNat bs)] }
  | 1 => { bytes := 1, regs := 1, conv := fun bs => [(BitVec.ofNat 8 (leNat bs)).signExtend 32] }
  | 2 => { bytes := 2, regs := 1, conv := fun bs => [BitVec.ofNat 32 (leNat bs)] }
  | _ => { bytes := 2, regs := 1, conv := fun bs => [(BitVec.ofNat 16 (leNat bs)).signExtend 32] }

/-- The registers that a load writes in a lane. -/
def loadRegs (vd : BitVec 6) (xs : List Word) : List (Reg × Word) := xs.mapIdx (fun j x => (Reg.v (vd.toNat + j), x))

/-- A load (R218): after its events each active lane reads through its view. -/
def loadOp (i : Instr) (sp : Space) (o : Mem) (f : LoadForm) : State → Out :=
  kernelOp i (fun c t w s =>
    let k := s.ctxOf t
    let act := active w c.lanes o.pred
    (s.check t k sp .read f.bytes (laneAddrs sp w act o.m.ka o.va o.off)).bind (fun ls =>
      let s1 := s.accEvents c t k sp o.m act
      match s1.warp? c.team c.warp with
      | none => .ok s1
      | some w1 =>
        .ok (s1.commit c o.la.toNat (vGrp o.vd f.regs)
          (ls.map (fun p => (p.1, loadRegs o.vd (f.conv (s1.rdBytes k sp (c.team, c.warp, p.1) w1 (w1.thr p.1) p.2 f.bytes))))))))

/-- The bytes of a store in a lane: a word group, or the low byte or halfword (R218). -/
def storeWords (w : Warp) (l : Nat) (o : Mem) : List Byte :=
  (List.range o.n).flatMap (fun j => wordBytes ((w.thr l).rv (o.vd.toNat + j)))
def storeSub (w : Warp) (l : Nat) (o : Mem) : List Byte :=
  leBytes (if o.size = 0 then 1 else 2) ((w.thr l).rv o.vd.toNat).toNat

/-- A store (R218): a release of the instruction covers this store too (R198); with acquire and release the acquire
follows. -/
def storeOp (i : Instr) (sp : Space) (o : Mem) (n : Nat) (bs : Warp → Nat → List Byte) : State → Out :=
  kernelOp i (fun c t w s =>
    let k := s.ctxOf t
    let act := active w c.lanes o.pred
    (s.check t k sp .write n (laneAddrs sp w act o.m.ka o.va o.off)).bind (fun ls =>
      .ok ((s.storeLanes c k sp t.grid (ls.map (fun p => (p.1, p.2, bs w p.1)))).accEvents c t k sp o.m act)))

/-- ld.g (R218). -/
def execLdG (o : Mem) : State → Out := loadOp (.ldG o) .g o (wordForm o)

/-- ld.s (R218). -/
def execLdS (o : Mem) : State → Out := loadOp (.ldS o) .s o (wordForm o)

/-- ld.c (R218). -/
def execLdC (o : Mem) : State → Out := loadOp (.ldC o) .c o (wordForm o)

/-- ld.x (R218). -/
def execLdX (o : Mem) : State → Out := loadOp (.ldX o) .x o (wordForm o)

/-- ld.l (R218). -/
def execLdL (o : Mem) : State → Out := loadOp (.ldL o) .l o (wordForm o)

/-- ld.k (R193, R218). -/
def execLdK (o : Mem) : State → Out := loadOp (.ldK o) .k o (wordForm o)

/-- ld.g sub-word (R67, R218). -/
def execLdGSubword (o : Mem) : State → Out := loadOp (.ldGSubword o) .g o (subForm o)

/-- ld.s sub-word (R67, R218). -/
def execLdSSubword (o : Mem) : State → Out := loadOp (.ldSSubword o) .s o (subForm o)

/-- ld.x sub-word (R67, R218). -/
def execLdXSubword (o : Mem) : State → Out := loadOp (.ldXSubword o) .x o (subForm o)

/-- st.g (R218). -/
def execStG (o : Mem) : State → Out := storeOp (.stG o) .g o (4 * o.n) (fun w l => storeWords w l o)

/-- st.s (R218). -/
def execStS (o : Mem) : State → Out := storeOp (.stS o) .s o (4 * o.n) (fun w l => storeWords w l o)

/-- st.c (R218). -/
def execStC (o : Mem) : State → Out := storeOp (.stC o) .c o (4 * o.n) (fun w l => storeWords w l o)

/-- st.x (R218). -/
def execStX (o : Mem) : State → Out := storeOp (.stX o) .x o (4 * o.n) (fun w l => storeWords w l o)

/-- st.l (R218). -/
def execStL (o : Mem) : State → Out := storeOp (.stL o) .l o (4 * o.n) (fun w l => storeWords w l o)

/-- st.g sub-word (R67, R218). -/
def execStGSubword (o : Mem) : State → Out :=
  storeOp (.stGSubword o) .g o (if o.size = 0 then 1 else 2) (fun w l => storeSub w l o)

/-- st.s sub-word (R67, R218). -/
def execStSSubword (o : Mem) : State → Out :=
  storeOp (.stSSubword o) .s o (if o.size = 0 then 1 else 2) (fun w l => storeSub w l o)

/-- st.x sub-word (R67, R218). -/
def execStXSubword (o : Mem) : State → Out :=
  storeOp (.stXSubword o) .x o (if o.size = 0 then 1 else 2) (fun w l => storeSub w l o)

/-! ## Atomics and reductions (R219, R220) -/

/-- `fadd_at` (R220). -/
def faddAt (w x : Word) : Word :=
  let r := addNum .rne (value .f32 w.toNat) (value .f32 x.toNat)
  if r.2 then 0x7FC00000 else BitVec.ofNat 32 (roundF r.1 .f32 .rne false false).1

/-- The new value of a word (R220). -/
def atomNew (kind : Nat) (w x new : Word) : Word :=
  match kind with
  | 0 => w + x
  | 1 => faddAt w x
  | 2 => iminW w x
  | 3 => imaxW w x
  | 4 => iminuW w x
  | 5 => imaxuW w x
  | 6 => w &&& x
  | 7 => w ||| x
  | 8 => w ^^^ x
  | 9 => x
  | 10 => if w = x then new else w
  | 11 => BitVec.ofNat 32 (fminNum .f32 (value .f32 w.toNat) (value .f32 x.toNat)).1
  | _ => BitVec.ofNat 32 (fmaxNum .f32 (value .f32 w.toNat) (value .f32 x.toNat)).1

/-- One read-modify-write at the word's home (R203, R220): it reads the newest write, takes the next place in coherence
order and is published at the default scope of its space. The answer is the old value. -/
def State.atomic (s : State) (sp : Space) (P : Party) (grid : Option Nat) (a : AtomOp) : Word × State :=
  let old : Word := BitVec.ofNat 32 (s.rdNewNat a.loc 4)
  (old, s.wrPub sp.scope P grid (atLoc a.loc (wordBytes (atomNew a.kind old a.x a.new))))

/-- The lanes' operations in ascending lane order (R216); `view` moves the issuing thread's view to what it wrote. -/
def State.atomics (s : State) (c : Ctx) (sp : Space) (P : Party) (grid : Nat) (view : Bool) :
    List AtomOp → List (Nat × Word) × State
  | [] => ([], s)
  | a :: rest =>
    let ser := s.nextSer
    let r := s.atomic sp P (some grid) a
    let s1 := if view then
        r.2.updThr c.team c.warp a.lane (fun th =>
          { th with view := moveView th.view ((List.range 4).map (fun i => (a.loc + i, ser + i))) })
      else r.2
    let q := s1.atomics c sp P grid view rest
    ((a.lane, r.1) :: q.1, q.2)

/-- The operation of one lane. -/
def atomOpOf (w : Warp) (o : Atom) (p : Nat × Nat) : AtomOp :=
  { kind := o.kind.toNat, loc := p.2, x := (w.thr p.1).rv o.vd.toNat, new := (w.thr p.1).rv (o.vd.toNat + 1), lane := p.1 }

/-- A returning atomic (R219, R220): a release comes before the operation and an acquire after it. In deterministic mode
it is held, and vd stays pending to the boundary (R184). -/
def atomInstr (i : Instr) (sp : Space) (o : Atom) : State → Out :=
  kernelOp i (fun c t w s =>
    let k := s.ctxOf t
    let act := active w c.lanes o.pred
    let cov : Cover := { scope := accScope o.m.scope sp }
    (s.check t k sp .write 4 (laneAddrs sp w act o.m.ka o.va o.off)).bind (fun ls =>
      let s1 := if isRel o.m.fence then s.evRelease c t k act cov (some [spaceSpan t sp]) else s
      let ops := ls.map (atomOpOf w o)
      if k.det then
        .ok ((s1.hold c (.atoms ops c.lanes o.vd.toNat sp.scope)).pendOn c o.la.toNat [.v o.vd.toNat] none)
      else
        let r := s1.atomics c sp (.core t.core) t.grid true ops
        let s2 := if isAcq o.m.fence then r.2.evAcquire c t k act cov else r.2
        .ok (s2.commit c o.la.toNat [.v o.vd.toNat] (r.1.map (fun p => (p.1, [(Reg.v o.vd.toNat, p.2)]))))))

/-- A code of a space in the held reductions. -/
def Space.code : Space → Nat
  | .g => 0 | .s => 1 | .c => 2 | .x => 3 | .l => 4 | .k => 5

/-- A non-returning reduction (R219, R220); held to a flush point in deterministic mode (R185). It leaves the issuing thread's view
of the word where it was: R203 moves the view for an atomic that returns a value and says nothing of a reduction (DESIGN CHOICE,
log entry 156). -/
def redInstr (i : Instr) (sp : Space) (o : Atom) : State → Out :=
  kernelOp i (fun c t w s =>
    let k := s.ctxOf t
    let act := active w c.lanes o.pred
    let cov : Cover := { scope := accScope o.m.scope sp }
    (s.check t k sp .write 4 (laneAddrs sp w act o.m.ka o.va o.off)).bind (fun ls =>
      let s1 := if isRel o.m.fence then s.evRelease c t k act cov (some [spaceSpan t sp]) else s
      let ops := ls.map (atomOpOf w o)
      if k.det then .ok (s1.hold c (.reds ops sp.scope sp.code))
      else .ok (s1.atomics c sp (.core t.core) t.grid false ops).2))

/-- atom.s (R220). -/
def execAtomS (o : Atom) : State → Out := atomInstr (.atomS o) .s o

/-- atom.c (R220). -/
def execAtomC (o : Atom) : State → Out := atomInstr (.atomC o) .c o

/-- atom.g (R220). -/
def execAtomG (o : Atom) : State → Out := atomInstr (.atomG o) .g o

/-- atom.x (R220). -/
def execAtomX (o : Atom) : State → Out := atomInstr (.atomX o) .x o

/-- red.s (R220). -/
def execRedS (o : Atom) : State → Out := redInstr (.redS o) .s o

/-- red.g (R220). -/
def execRedG (o : Atom) : State → Out := redInstr (.redG o) .g o

/-- red.x (R220). -/
def execRedX (o : Atom) : State → Out := redInstr (.redX o) .x o

/-! ## Fences (R202, R221, R222) -/

/-- The space that fence.r's hint field names (R221). -/
def fenceSpace (b : BitVec 2) : Space :=
  match b.toNat with
  | 0 => .g | 1 => .s | 2 => .c | _ => .x

/-- What fence.r covers in a lane: [base, base + length), clipped at the end of the space (R221). -/
def fenceSpans (s : State) (t : Team) (k : TaskCtx) (o : FenceR) (w : Warp) (l : Nat) : List (Nat × Nat) :=
  let sp := fenceSpace o.space
  let len := ((w.thr l).rv o.vlen.toNat).toNat
  let base := spAddr sp w l o.m.ka o.va 0
  match sp with
  | .g => let n := min len (18446744073709551616 - base); s.gSpans k (n / 4096 + 2) base n
  | _ =>
    let e := min (base + len) (sp.range t)
    if base < e then [(t.locOf sp base, t.locOf sp e)] else []

/-- The events of phase and fence.r in one lane: FENCE 00 means release, then acquire. -/
def State.fenceLane (s : State) (c : Ctx) (t : Team) (k : TaskCtx) (f : FenceKind) (scope : Scope)
    (spans : Option (List (Nat × Nat))) (l : Nat) : State :=
  let cov : Cover := { scope := scope, spans := spans }
  let s1 := if f = .acq then s else s.evRelease c t k [l] cov spans
  if f = .rel then s1 else s1.evAcquire c t k [l] cov

/-- fence.r (R202, R221): each active lane raises its events over its own interval; no byte is accessed. -/
def execFenceR (o : FenceR) : State → Out :=
  kernelOp (.fenceR o) (fun c t w s =>
    let k := s.ctxOf t
    .ok ((active w c.lanes o.pred).foldl (fun a l =>
      a.fenceLane c t k o.m.fence (accScope o.m.scope (fenceSpace o.space)) (some (fenceSpans s t k o w l)) l) s))

/-- phase (R222): the same events over every byte of every space; the default scope is chip. -/
def execPhase (o : PhaseOp) : State → Out :=
  kernelOp (.phase o) (fun c t w s =>
    let k := s.ctxOf t
    let sc := if o.m.scope = .dflt then .chip else o.m.scope
    .ok ((active w c.lanes o.pred).foldl (fun a l => a.fenceLane c t k o.m.fence sc none l) s))

/-- prefetch.g (R223): raises no event, reads nothing into any view, never faults and never stalls. -/
def execPrefetchG (o : Prefetch) : State → Out :=
  kernelOp (.prefetchG o) (fun _ _ _ s => .ok s)

end Sys2Proof.Machine
end

