-- ==== Sys2Proof/Machine/Queue.lean ====
section
/-! DEFINITION. Work queues: qpush and qpop (R247 to R250). -/

namespace Sys2Proof.Machine

/-- A work queue's header (R247). -/
structure QHdr where
  bar    : BarObj
  ring   : Nat
  head   : Nat
  tail   : Nat
  cap    : Nat
  closed : Bool

def State.qRead (s : State) (l : Nat) : QHdr :=
  { bar := s.barRead l, ring := s.rdNewNat (l + 0x20) 8, head := s.rdNewNat (l + 0x28) 4, tail := s.rdNewNat (l + 0x2C) 4,
    cap := s.rdNewNat (l + 0x30) 4, closed := s.rdNewNat (l + 0x34) 4 % 2 == 1 }

/-- Records in the queue, modulo 2^32. -/
def QHdr.count (q : QHdr) : Nat := ctrDiff q.tail q.head

/-- The address of record n. -/
def QHdr.recAddr (q : QHdr) (n : Nat) : Nat := (q.ring + 16 * (n % q.cap)) % 18446744073709551616

/-- The location of a queue header that k[a] names, with its checks (R225, R248, R296). The rules name no fault for a header
address outside chip scratchpad or off 64, or for a record off 16: they are taken as BAR_SPACE and as misalignment (DESIGN
CHOICE; log entry 142). -/
def withQueue (s : State) (t : Team) (k : TaskCtx) (b : Word) (f : Nat → KOut) : KOut :=
  if b.toNat / 2 ^ 30 ≠ 2 then .halt { cause := 6, detail := 3 }
  else if b.toNat % 64 ≠ 0 then .halt { cause := 3, faddr := b.toNat }
  else if Config.chipBytes < barOff b + 64 then .halt { cause := 5, faddr := b.toNat }
  else
    match s.chipProt k t.agent (barOff b) .write with
    | some d => .halt { cause := 4, detail := d, faddr := b.toNat }
    | none =>
      let l := locChip (barOff b)
      if s.bad.contains (l / 64 * 64) then .memErr { cause := 15, faddr := b.toNat } l else f l

/-- Whether a header is a core's event queue, whose ring lies in chip scratchpad (R314). -/
def isEventQueue (hdr : Nat) : Bool := decide (locChip 0x3FE0000 ≤ hdr) && decide (hdr < locChip 0x3FE3000)

/-- The locations of the records numbered from n of the queue whose header lies at `hdr`, or what stops the bundle (for a record
off 16, log entry 142). -/
def qRecLocs (s : State) (k : TaskCtx) (hdr : Nat) (q : QHdr) (acc : Acc) (n : Nat) : Nat → Except KOut (List Nat)
  | 0 => .ok []
  | m + 1 =>
    let va := q.recAddr n
    if isEventQueue hdr then
      match qRecLocs s k hdr q acc ((n + 1) % 4294967296) m with
      | .error e => .error e
      | .ok ls => .ok (locChip va :: ls)
    else if va % 16 ≠ 0 then .error (.halt { cause := 3, faddr := va })
    else
      match s.tr k va acc with
      | .bad d => .error (.halt { cause := 4, detail := d, faddr := va })
      | .err l => .error (.memErr { cause := 15, faddr := va } l)
      | .page e lvl x => .error (.page [{ va := va, entry := e, lvl := lvl, e := x, kind := accKind acc }])
      | .ok pa =>
        if s.bad.contains (locPhys pa / 64 * 64) then .error (.memErr { cause := 15, faddr := va } (locPhys pa))
        else
          match qRecLocs s k hdr q acc ((n + 1) % 4294967296) m with
          | .error e => .error e
          | .ok ls => .ok (locPhys pa :: ls)

/-- The embedded phase completes once (R248, R250). -/
def State.qSignal (s : State) (P : Party) (grid : Option Nat) (l stamp : Nat) : State :=
  s.barUpdate .x P grid l stamp { fields := [], f := fun o => { o with left := 0, bytes := 0 } } []

/-- The status of a push that writes nothing, in the order of R248. -/
def QHdr.pushStatus (q : QHdr) : Option Nat :=
  if q.bar.broken then some 2 else if q.closed then some 3 else if q.count = q.cap then some 1 else none

/-- How many of n lanes push: until the count equals CAP (R248). -/
def QHdr.room (q : QHdr) (n : Nat) : Nat := if q.pushStatus.isSome then 0 else min n (ctrDiff q.cap q.count)

/-- One lane's push (R248): the record and TAIL, published at chip scope; the answer is the status. -/
def State.qPush1 (s : State) (P : Party) (grid : Option Nat) (hdr : Nat) (locOfRec : Nat → Nat) (words : List Word) :
    Nat × State :=
  let q := s.qRead hdr
  match q.pushStatus with
  | some n => (n, s)
  | none =>
    (0, s.wrPub .chip P grid (atLoc (locOfRec q.tail) (words.flatMap wordBytes) ++
      atLoc (hdr + 0x2C) (leBytes 4 ((q.tail + 1) % 4294967296))))

/-- Pushes by lanes in ascending order. The releases come first, each lane's before its push. -/
def State.qPushes (s : State) (P : Party) (grid : Nat) (hdr : Nat) (locOfRec : Nat → Nat) :
    List (Nat × List Word) → List (Nat × Nat) × State
  | [] => ([], s)
  | (l, ws) :: rest =>
    let r := s.qPush1 P (some grid) hdr locOfRec ws
    let q := r.2.qPushes P grid hdr locOfRec rest
    ((l, r.1) :: q.1, q.2)

/-- A function from record numbers to the locations found for them. -/
def recTable (n : Nat) (ls : List Nat) (m : Nat) : Nat := ls.getD (ctrDiff m n) 0

/-- The record of a lane: v[vs] to v[vs + 3]. -/
def quadOf (th : Thread) (v : BitVec 6) : List Word := (List.range 4).map (fun j => th.rv (v.toNat + j))

/-- qpush (R248): never waits; the embedded phase completes once if any lane pushed. -/
def execQpush (o : SOp) : State → Out :=
  kernelOp (.qpush o) (fun c t w s =>
    let k := s.ctxOf t
    withQueue s t k (w.rk o.a.toNat) (fun l =>
      let recs := c.lanes.map (fun x => (x, quadOf (w.thr x) o.b))
      let q := s.qRead l
      let m := q.room c.lanes.length
      if k.det then .ok ((s.hold c (.qpush l recs o.d.toNat)).pendOn c 0 [.v o.d.toNat] none)
      else
        match qRecLocs s k l q .write q.tail m with
        | .error e => e
        | .ok ls =>
          let s1 := s.evRelease c t k (c.lanes.take m) { scope := .chip } none
          let r := s1.qPushes (.core t.core) t.grid l (recTable q.tail ls) recs
          let s2 := if m = 0 then r.2 else r.2.qSignal (.core t.core) (some t.grid) l (s.stampFor k)
          .ok (s2.writeLanes c (r.1.map (fun p => (p.1, [(Reg.v o.d.toNat, BitVec.ofNat 32 p.2)]))))))

/-- What one lane's pop comes to (R249): a record's number, a status, or a wait. -/
inductive PopRes where
  | take (n : Nat)
  | status (n : Nat)
  | wait

def QHdr.pop (q : QHdr) (woke : Option Bool) : PopRes :=
  if q.count ≠ 0 then .take q.head
  else if q.closed then .status 3
  else if q.bar.broken ∨ woke = some false then .status 2
  else .wait

/-- The registers that a popped record and status write. -/
def popWrites (vd vs : BitVec 6) (rec : Option (List Word)) (status : Nat) : List (Reg × Word) :=
  (match rec with
   | some ws => ws.mapIdx (fun j x => (Reg.v (vd.toNat + j), x))
   | none => []) ++ [(Reg.v vs.toNat, BitVec.ofNat 32 status)]

/-- qpop (R249): lanes in ascending order; a lane that finds the queue empty and open waits on the embedded phase. -/
def execQpop (o : SOp) : State → Out :=
  kernelOp (.qpop o) (fun c t w s =>
    let k := s.ctxOf t
    let regs := vGrp o.d 4 ++ vGrp o.b 1
    withQueue s t k (w.rk o.a.toNat) (fun l =>
      let q := s.qRead l
      let m := min c.lanes.length q.count
      if k.det then .ok ((s.hold c (.qpop l c.lanes o.d.toNat o.b.toNat)).pendOn c o.la.toNat regs none)
      else
        match qRecLocs s k l q .read q.head m with
        | .error e => e
        | .ok ls =>
          let res := c.lanes.mapIdx (fun i x =>
            (x, QHdr.pop { q with head := (q.head + min i m) % 4294967296 } ((w.thr x).wait.bind WaitRec.woken)))
          let takes := res.filter (fun p => match p.2 with | .take _ => true | _ => false)
          let waits := (res.filter (fun p => match p.2 with | .wait => true | _ => false)).map (fun p => p.1)
          let s1 := if m = 0 then s else
            s.wrPub .chip (.core t.core) (some t.grid) (atLoc (l + 0x28) (leBytes 4 ((q.head + m) % 4294967296)))
          let s2 := s1.evAcquire c t k (takes.map (fun p => p.1)) { scope := .chip }
          let done := c.lanes.filter (fun x => !waits.contains x)
          let ws := res.filterMap (fun p => match p.2 with
            | .take n => some (p.1, popWrites o.d o.b (some (wordsOfBytes 4
                ((locRange (recTable q.head ls n) 16).map s.rdNew))) 0)
            | .status n => some (p.1, popWrites o.d o.b none n)
            | .wait => none)
          let s3 := s2.updWarp c.team c.warp (fun v => v.commit done o.la.toNat regs ws)
          .ok (if waits.isEmpty then s3 else s3.park c waits (.bar l q.bar.phase))))

end Sys2Proof.Machine
end

