-- ==== Sys2Proof/Machine/Integer.lean ====
section
/-! DEFINITION. Class A3a, integer and logic (R111 to R119): one meaning for each instruction over the shared ALU operations. -/

namespace Sys2Proof.Machine

/-- An A3 instruction of integer kind (R109, R110): in each active lane and for each element, the function of a, b and the
old vd; every element is read before any is written. -/
def aluA3 (i : Instr) (o : A3) (f : Word → Word → Word → Word) : State → Out :=
  kernelOp i (fun c _ w s =>
    .ok (s.writeLanes c ((active w c.lanes o.pred).map (fun l =>
      (l, (List.range o.width.n).map (fun j => (Reg.v (o.vd.toNat + j), f (o.a w l j) (o.b w l j) (o.d w l j))))))))

/-- iadd (R111). -/
def execIadd (o : A3) : State → Out := aluA3 (.iadd o) o (fun a b _ => iaddW o.m.sat a b)

/-- isub (R111). -/
def execIsub (o : A3) : State → Out := aluA3 (.isub o) o (fun a b _ => isubW o.m.sat a b)

/-- imul (R111). -/
def execImul (o : A3) : State → Out := aluA3 (.imul o) o (fun a b _ => imulW o.m.sat a b)

/-- imulhi (R111). -/
def execImulhi (o : A3) : State → Out := aluA3 (.imulhi o) o (fun a b _ => imulhiW a b)

/-- imac (R111). -/
def execImac (o : A3) : State → Out := aluA3 (.imac o) o (fun a b d => imacW o.m.sat a b d)

/-- imin (R111). -/
def execImin (o : A3) : State → Out := aluA3 (.imin o) o (fun a b _ => iminW a b)

/-- imax (R111). -/
def execImax (o : A3) : State → Out := aluA3 (.imax o) o (fun a b _ => imaxW a b)

/-- iminu (R111). -/
def execIminu (o : A3) : State → Out := aluA3 (.iminu o) o (fun a b _ => iminuW a b)

/-- imaxu (R111). -/
def execImaxu (o : A3) : State → Out := aluA3 (.imaxu o) o (fun a b _ => imaxuW a b)

/-- and (R111). -/
def execAnd (o : A3) : State → Out := aluA3 (.and o) o (fun a b _ => a &&& b)

/-- or (R111). -/
def execOr (o : A3) : State → Out := aluA3 (.or o) o (fun a b _ => a ||| b)

/-- xor (R111). -/
def execXor (o : A3) : State → Out := aluA3 (.xor o) o (fun a b _ => a ^^^ b)

/-- andn (R111). -/
def execAndn (o : A3) : State → Out := aluA3 (.andn o) o (fun a b _ => a &&& ~~~ b)

/-- shl (R111). -/
def execShl (o : A3) : State → Out := aluA3 (.shl o) o (fun a b _ => shlW a b)

/-- shr (R111). -/
def execShr (o : A3) : State → Out := aluA3 (.shr o) o (fun a b _ => shrW a b)

/-- sar (R111). -/
def execSar (o : A3) : State → Out := aluA3 (.sar o) o (fun a b _ => sarW a b)

/-- rot (R111). -/
def execRot (o : A3) : State → Out := aluA3 (.rot o) o (fun a b _ => rotW a b)

/-- bfe (R112). -/
def execBfe (o : A3) : State → Out := aluA3 (.bfe o) o (fun a b _ => bfeW a b)

/-- bfi: vd is the insert target (R112). -/
def execBfi (o : A3) : State → Out := aluA3 (.bfi o) o (fun a b d => bfiW a b d)

/-- popc (R113). -/
def execPopc (o : A3) : State → Out := aluA3 (.popc o) o (fun a _ _ => popcW a)

/-- clz (R113). -/
def execClz (o : A3) : State → Out := aluA3 (.clz o) o (fun a _ _ => clzW a)

/-- brev (R113). -/
def execBrev (o : A3) : State → Out := aluA3 (.brev o) o (fun a _ _ => brevW a)

/-- bsel: vd is the selector (R114). -/
def execBsel (o : A3) : State → Out := aluA3 (.bsel o) o (fun a b d => bselW a b d)

/-- mov (R119). -/
def execMov (o : A3) : State → Out := aluA3 (.mov o) o (fun a _ _ => a)

/-- sel (R115): unguarded; the predicate that pred names selects a or b in every lane of the group. -/
def execSel (o : A3) : State → Out :=
  kernelOp (.sel o) (fun c _ w s =>
    .ok (s.writeLanes c (c.lanes.map (fun l =>
      (l, (List.range o.width.n).map (fun j =>
        (Reg.v (o.vd.toNat + j), if (w.thr l).rp o.pred.toNat then o.a w l j else o.b w l j)))))))

/-- icmp (R116): the predicate pd takes the comparison's outcome. -/
def execIcmp (o : Cmp) : State → Out :=
  kernelOp (.icmp o) (fun c _ w s =>
    .ok (s.writeLanes c ((active w c.lanes o.pred).map (fun l =>
      (l, [(Reg.p o.pd.toNat, if icmpW o.cond (opnd w l o.m.ka o.va 0) (opnd w l o.m.kb o.vb 0) then 1 else 0)])))))

/-- iaddc (R117): unguarded; the predicate that pred names is the carry in and receives the carry out. -/
def execIaddc (o : A3) : State → Out :=
  kernelOp (.iaddc o) (fun c _ w s =>
    .ok (s.writeLanes c (c.lanes.map (fun l =>
      let r := iaddcList ((w.thr l).rp o.pred.toNat) ((List.range o.width.n).map (fun j => (o.a w l j, o.b w l j)))
      (l, r.1.mapIdx (fun j x => (Reg.v (o.vd.toNat + j), x)) ++
        [(Reg.p o.pred.toNat, if r.2 then 1 else 0)])))))

/-- A 64-bit result in a register pair. -/
def pairWrites (vd : BitVec 6) (x : DWord) : List (Reg × Word) :=
  [(.v vd.toNat, x.extractLsb' 0 32), (.v (vd.toNat + 1), x.extractLsb' 32 32)]

/-- lea (R118): the pair a plus b sign-extended. -/
def execLea (o : A3) : State → Out :=
  kernelOp (.lea o) (fun c _ w s =>
    .ok (s.writeLanes c ((active w c.lanes o.pred).map (fun l =>
      (l, pairWrites o.vd (leaW (opndPair w l o.m.ka o.va) (opnd w l o.m.kb o.vb 0)))))))

end Sys2Proof.Machine
end

