-- ==== Sys2Proof/Machine/Float.lean ====
section
/-! DEFINITION. Class A3b, floating point, packed, conversion, special functions and rand (R103, R120 to R127). -/

namespace Sys2Proof.Machine

/-- An A3b instruction (R109, R120): in each active lane and for each element the function of the captured controls and the
operands gives a result and flags, which are logged under the captured MODE (R100, R101). -/
def aluF (i : Instr) (o : A3) (f : FpCtl → Word → Word → Word → Word × FpFlags) : State → Out :=
  kernelOp i (fun c _ w s =>
    let ctl := fpCtl w.mode o.m
    let rs := (active w c.lanes o.pred).map (fun l =>
      (l, (List.range o.width.n).map (fun j => (j, f ctl (o.a w l j) (o.b w l j) (o.d w l j)))))
    .ok ((s.writeLanes c (rs.map (fun p => (p.1, p.2.map (fun q => (Reg.v (o.vd.toNat + q.1), q.2.1)))))).logArith c w.mode
      (rs.map (fun p => (p.1, joinFlags (p.2.map (fun q => q.2.2)))))))

/-- A pattern result as a word. -/
def patW (r : Nat × FpFlags) : Word × FpFlags := (BitVec.ofNat 32 r.1, r.2)

/-- fadd (R120). -/
def execFadd (o : A3) : State → Out := aluF (.fadd o) o (fun k a b _ => patW (faddP .f32 k a.toNat b.toNat))

/-- fsub (R120). -/
def execFsub (o : A3) : State → Out := aluF (.fsub o) o (fun k a b _ => patW (fsubP .f32 k a.toNat b.toNat))

/-- fmul (R120). -/
def execFmul (o : A3) : State → Out := aluF (.fmul o) o (fun k a b _ => patW (fmulP .f32 k a.toNat b.toNat))

/-- ffma (R120). -/
def execFfma (o : A3) : State → Out := aluF (.ffma o) o (fun k a b d => patW (ffmaP .f32 k a.toNat b.toNat d.toNat))

/-- fdiv (R120). -/
def execFdiv (o : A3) : State → Out := aluF (.fdiv o) o (fun k a b _ => patW (fdivP .f32 k a.toNat b.toNat))

/-- fmin (R121). -/
def execFmin (o : A3) : State → Out := aluF (.fmin o) o (fun k a b _ => patW (fminP k a.toNat b.toNat))

/-- fmax (R121). -/
def execFmax (o : A3) : State → Out := aluF (.fmax o) o (fun k a b _ => patW (fmaxP k a.toNat b.toNat))

/-- fclass (R123). -/
def execFclass (o : A3) : State → Out := aluF (.fclass o) o (fun k a _ _ => (BitVec.ofNat 32 (fclassP k a.toNat), {}))

/-- hadd2 (R124). -/
def execHadd2 (o : A3) : State → Out := aluF (.hadd2 o) o (fun k a b _ => hadd2P k a b)

/-- hmul2 (R124). -/
def execHmul2 (o : A3) : State → Out := aluF (.hmul2 o) o (fun k a b _ => hmul2P k a b)

/-- hfma2 (R124). -/
def execHfma2 (o : A3) : State → Out := aluF (.hfma2 o) o (fun k a b d => hfma2P k a b d)

/-- bfma2 (R124). -/
def execBfma2 (o : A3) : State → Out := aluF (.bfma2 o) o (fun k a b d => bfma2P k a b d)

/-- fcmp (R122): the predicate pd takes the comparison's outcome; NV is logged. -/
def execFcmp (o : Cmp) : State → Out :=
  kernelOp (.fcmp o) (fun c _ w s =>
    let ctl := fpCtl w.mode o.m
    let rs := (active w c.lanes o.pred).map (fun l =>
      (l, fcmpP o.cond ctl (opnd w l o.m.ka o.va 0).toNat (opnd w l o.m.kb o.vb 0).toNat))
    .ok ((s.writeLanes c (rs.map (fun p => (p.1, [(Reg.p o.pd.toNat, if p.2.1 then (1 : Word) else 0)])))).logArith c w.mode
      (rs.map (fun p => (p.1, p.2.2)))))

/-- Whether MODE.SAT applies to a conversion code: those to f16, bf16, e4m3 and e5m2 (R98, R99). -/
def cvtSat (mode : Word) (sat : Bool) (code : Nat) : Bool := sat || (modeSat mode && decide (code < 4))

/-- cvt (R103). -/
def execCvt (o : Cvt) : State → Out :=
  kernelOp (.cvt o) (fun c _ w s =>
    let rs := (active w c.lanes o.pred).map (fun l =>
      (l, cvtCode o.code.toNat (selRm w.mode o.m.rm) (cvtSat w.mode o.m.sat o.code.toNat) (selFtz w.mode o.m.ftz)
        (opnd w l o.m.ka o.va 0)))
    .ok ((s.writeLanes c (rs.map (fun p => (p.1, [(Reg.v o.vd.toNat, p.2.1)])))).logArith c w.mode
      (rs.map (fun p => (p.1, p.2.2)))))

/-- A special-function form (R125): vd is pending for the lookahead's window. -/
def sfuOp (i : Instr) (o : Sfu) (fn : SfuFn) : State → Out :=
  kernelOp i (fun c _ w s =>
    let ctl := fpCtl w.mode o.m
    let rs := (active w c.lanes o.pred).map (fun l =>
      (l, sfuResult fn ctl.rm ctl.ftz (fpA ctl .f32 (opnd w l o.m.ka o.va 0).toNat)))
    .ok ((s.logArith c w.mode (rs.map (fun p => (p.1, p.2.2)))).commit c o.la.toNat [.v o.vd.toNat]
      (rs.map (fun p => (p.1, [(Reg.v o.vd.toNat, BitVec.ofNat 32 p.2.1)])))))

/-- frcp (R108, R125). -/
def execFrcp (o : Sfu) : State → Out := sfuOp (.frcp o) o .rcp

/-- frsq (R108, R125). -/
def execFrsq (o : Sfu) : State → Out := sfuOp (.frsq o) o .rsq

/-- fsqrt (R108, R125). -/
def execFsqrt (o : Sfu) : State → Out := sfuOp (.fsqrt o) o .sqrt

/-- fexp2 (R108, R125). -/
def execFexp2 (o : Sfu) : State → Out := sfuOp (.fexp2 o) o .exp2

/-- flog2 (R108, R125). -/
def execFlog2 (o : Sfu) : State → Out := sfuOp (.flog2 o) o .log2

/-- fsinp (R108, R125). -/
def execFsinp (o : Sfu) : State → Out := sfuOp (.fsinp o) o .sinp

/-- fcosp (R108, R125). -/
def execFcosp (o : Sfu) : State → Out := sfuOp (.fcosp o) o .cosp

/-! ## rand (R126, R127) -/

/-- Thread index in the team (R40): x fastest. -/
def Team.tid (t : Team) (w : Warp) (l : Nat) : Nat × Nat × Nat :=
  let n := w.idx * w.width + l
  (n % t.desc.tx, n / t.desc.tx % t.desc.ty, n / (t.desc.tx * t.desc.ty))

/-- Team index in the grid, from the linear index (R309). -/
def Grid.teamAt (g : Grid) (n : Nat) : Nat × Nat × Nat := (n % g.gx, n / g.gx % g.gy, n / (g.gx * g.gy))

/-- gidx of a thread (R127). -/
def Team.gidx (t : Team) (w : Warp) (l : Nat) : DWord :=
  BitVec.ofNat 64 (t.index * (t.desc.tx * t.desc.ty * t.desc.tz) + (w.idx * w.width + l))

/-- rand (R127): each active lane takes its next number and its counter rises; a wrap writes a RAND_WRAP record. -/
def execRand (o : RandOp) : State → Out :=
  kernelOp (.rand o) (fun c t w s =>
    let act := active w c.lanes o.pred
    let s1 := s.mapThr c.team c.warp (fun l th => if act.contains l then { th with rctr := th.rctr + 1 } else th)
    let s2 := (act.filter (fun l => (w.thr l).rctr + 1 == 0)).foldl (fun a l => a.logEvent c 2 0 l) s1
    .ok (s2.commit c o.la.toNat [.v o.vd.toNat]
      (act.map (fun l => (l, [(Reg.v o.vd.toNat, randValue (t.gidx w l) (w.rk o.ka.toNat) (w.thr l).rctr)])))))

end Sys2Proof.Machine
end

