-- ==== Sys2Proof/Machine/Copy.lean ====
section
/-! DEFINITION. The copy engine: cpy, cpy.mc, cpy.mm and qfence, and the landing of their bursts (R233 to R240). -/

namespace Sys2Proof.Machine

/-! ## Descriptors (R233, R234) -/

/-- Element sizes of a conversion code (R234). -/
def convSizes (c : Nat) : Option (Nat × Nat) :=
  match c with
  | 0 | 1 => some (4, 2)
  | 2 | 3 => some (4, 1)
  | 4 | 5 => some (2, 4)
  | 6 | 7 => some (1, 4)
  | _ => none

/-- The fields of a descriptor's 128 bytes. -/
def copyDesc (bs : List Byte) : CopyDesc :=
  let ctl := fieldOf bs 0x10 4
  let b := fieldOf bs 0x60 4
  { src := fieldOf bs 0 8, dst := fieldOf bs 8 8, sspace := ctl % 8, dspace := ctl / 8 % 8, ssize := 2 ^ (ctl / 64 % 4),
    dsize := 2 ^ (ctl / 256 % 4), ndim := fieldOf bs 0x14 1, conv := fieldOf bs 0x15 1,
    ext := (List.range 6).map (fun i => fieldOf bs (0x18 + 4 * i) 4),
    sstr := (List.range 6).map (fun i => ifieldOf bs (0x30 + 4 * i) 4),
    dstr := (List.range 6).map (fun i => ifieldOf bs (0x48 + 4 * i) 4),
    bar := if b = 0xFFFFFFFF then none else some b, members := fieldOf bs 0x64 4 }

/-- Whether the sizes fit each other or the conversion (R234). -/
def CopyDesc.sizesOk (d : CopyDesc) : Bool :=
  if d.conv = 0xFF then d.ssize == d.dsize else convSizes d.conv == some (d.ssize, d.dsize)

/-- The DESC conditions that every form shares (R233, R234): reserved fields, ranges, sizes. -/
def copyDescOk (bs : List Byte) : Bool :=
  let d := copyDesc bs
  decide (fieldOf bs 0x10 4 < 1024) && decide (d.sspace ≤ 3) && decide (d.dspace ≤ 4) && decide (1 ≤ d.ndim) &&
    decide (d.ndim ≤ 6) && d.sizesOk && fieldOf bs 0x16 2 == 0 && (d.ext.drop d.ndim).all (· == 0) &&
    (d.sstr.drop d.ndim).all (· == 0) && (d.dstr.drop d.ndim).all (· == 0) &&
    (d.sspace == 0 || decide (d.src < 4294967296)) && (d.dspace == 0 || decide (d.dst < 4294967296)) &&
    decide (d.members < 65536) && fieldOf bs 0x70 8 == 0 && fieldOf bs 0x78 8 == 0

/-- Elements of a command (R234). -/
def CopyDesc.total (d : CopyDesc) : Nat := (d.ext.take d.ndim).foldl (· * ·) 1

/-- Offset of element k, i0 varying fastest: sum of index times stride. -/
def elemOff : List Nat → List Int → Nat → Int
  | e :: es, x :: xs, k => ((k % e : Nat) : Int) * x + elemOff es xs (k / e)
  | _, _, _ => 0

/-- Source and destination address of element k (R234). -/
def spaceAddr (sp : Nat) (x : Int) : Nat := (x % (if sp = 0 then 18446744073709551616 else 4294967296)).toNat
def CopyDesc.srcAddr (d : CopyDesc) (k : Nat) : Nat :=
  spaceAddr d.sspace (d.src + d.ssize * elemOff (d.ext.take d.ndim) d.sstr k)
def CopyDesc.dstAddr (d : CopyDesc) (k : Nat) : Nat :=
  spaceAddr d.dspace (d.dst + d.dsize * elemOff (d.ext.take d.ndim) d.dstr k)

/-- The lowest and highest bytes that extents and strides reach from a base (R235). -/
def copyHull (base size : Nat) (ext : List Nat) (str : List Int) : Int × Int :=
  let ps := ext.zip str
  let lo := ps.foldl (fun a p => a + min 0 (((p.1 : Int) - 1) * p.2)) 0
  let hi := ps.foldl (fun a p => a + max 0 (((p.1 : Int) - 1) * p.2)) 0
  (base + size * lo, base + size * hi + size)

/-- Bytes of a space that a command may name (R191, R235). -/
def copyRange (t : Team) (sp : Nat) : Nat := if sp = 4 then t.desc.cask else (engSpace sp).range t

/-- Whether one side of a command lies in its space. -/
def copySideOk (t : Team) (sp base size : Nat) (d : CopyDesc) (str : List Int) : Bool :=
  let h := copyHull base size (d.ext.take d.ndim) str
  sp == 0 || d.total == 0 || (decide (0 ≤ h.1) && decide (h.2 ≤ copyRange t sp))

/-- The location of element k's source; none where it has none now. -/
def State.srcSpan (s : State) (t : Team) (k : TaskCtx) (d : CopyDesc) (i : Nat) : Option (Nat × Nat) :=
  match s.engAt t k d.sspace (d.srcAddr i) d.ssize .read with
  | .loc l | .err l => some (l, l + d.ssize)
  | _ => none

/-! ## Gangs (R41, R130) -/

/-- Coordinates of a team's gang in the grid of gangs, and its member index. -/
def gangOf (g : Grid) (t : Team) : (Nat × Nat × Nat) × Nat :=
  let p := g.teamAt t.index
  let sx := max t.desc.gangX 1
  let sy := max t.desc.gangY 1
  ((p.1 / sx, p.2.1 / sy, p.2.2), p.1 % sx + sx * (p.2.1 % sy))

/-- The gang member with an index. -/
def State.gangMember (s : State) (t : Team) (m : Nat) : Option Team :=
  match s.grid? t.grid with
  | none => none
  | some g =>
    s.teams.find? (fun u => u.grid == t.grid && (gangOf g u).1 == (gangOf g t).1 && (gangOf g u).2 == m)

/-- Members that a mask names. -/
def maskBits (n m : Nat) : List Nat := (List.range n).filter (fun i => m / 2 ^ i % 2 == 1)

/-! ## Issue (R235, R237, R238) -/

/-- The three forms. -/
inductive CpyForm where
  | plain | mc | mm
deriving DecidableEq, Repr

/-- The command that enters a queue; none of them waits for the space of one. -/
def State.pushCopy (s : State) (c : Ctx) (t : Team) (w : Warp) (q kind : Nat) (d : CopyDesc) (id : Nat)
    (follow : Option (MatOp × Nat)) : State :=
  { s with copies := s.copies ++ [{ id := id, core := t.core, q := q, team := c.team, warp := c.warp, lane := c.lanes.headD 0,
                                    kind := kind, pc := c.pc, mode := w.mode, d := d, follow := follow,
                                    round := ((s.grid? t.grid).map Grid.round).getD 0, at_ := s.tick }] }

/-- The checks of R235 after the descriptor has been read, in their order; `go` goes on with the descriptor. A form's DSPACE or
BAR that R237 or R238 does not allow is a bad descriptor, detail DESC (DESIGN CHOICE; log entry 144). -/
def copyChecks (s : State) (t : Team) (k : TaskCtx) (form : CpyForm) (bs : List Byte) (go : CopyDesc → KOut) : KOut :=
  let d := copyDesc bs
  let follow := fieldOf bs 0x68 8
  let desc : KOut := .halt { cause := 9, detail := 1 }
  if d.src % d.ssize ≠ 0 then .halt { cause := 3, faddr := d.src }
  else if d.dst % d.dsize ≠ 0 then .halt { cause := 3, faddr := d.dst }
  else if !copyDescOk bs || (form != .mc && d.members != 0) || (form != .mm && follow != 0) ||
      (form == .mm && decide (follow % 16 ≠ 0)) then desc
  else if !copySideOk t d.sspace d.src d.ssize d d.sstr then .halt { cause := 5, faddr := d.src }
  else if !copySideOk t d.dspace d.dst d.dsize d d.dstr then .halt { cause := 5, faddr := d.dst }
  else
    let own (sp : Option Space) : KOut :=
      if (form == .mc && (d.dspace != 1 || sp != some .s)) || (form == .mm && d.dspace != 4) then desc else go d
    match d.bar with
    | none => own none
    | some b =>
      match s.barAddr t k (BitVec.ofNat 32 b) .write with
      | .error h => .halt h
      | .ok (sp, _) => own (some sp)

/-- The locations a command's source elements have at issue. -/
def State.srcSpans (s : State) (t : Team) (k : TaskCtx) (d : CopyDesc) : List (Nat × Nat) :=
  (List.range d.total).filterMap (s.srcSpan t k d)

/-- Bytes of a record at a location, as an engine reads them while the warp's command issues (R205). -/
def State.recBytes (s : State) (k : TaskCtx) (c : Ctx) (t : Team) (w : Warp) (l n : Nat) : List Byte :=
  s.rdEng k { team := c.team, grid := t.grid, warp := c.warp, w := some w, q := none, at_ := s.tick } l n

/-- A command's reader. -/
def CopyCmd.reader (x : CopyCmd) (grid : Nat) (w : Option Warp) : EngFor :=
  { team := x.team, grid := grid, warp := x.warp, w := w, q := some x.q, at_ := x.at_ }

/-- cpy (R235). -/
def execCpy (o : XOp) : State → Out :=
  kernelOp (.cpy o) (fun c t w s =>
    let k := s.ctxOf t
    match s.recAt k (w.rkPair o.a.toNat).toNat 128 with
    | .stop x => x
    | .loc l =>
      copyChecks s t k .plain (s.recBytes k c t w l 128) (fun d =>
        let r := s.fresh
        .ok ((r.2.issueRelease c t ((l, l + 128) :: s.srcSpans t k d)).pushCopy c t w (o.d.toNat % 4) 0 d r.1 none)))

/-- cpy.mc (R237): one fetch for several members of the gang. -/
def execCpyMc (o : XOp) : State → Out :=
  kernelOp (.cpyMc o) (fun c t w s =>
    let k := s.ctxOf t
    match s.recAt k (w.rkPair o.a.toNat).toNat 128 with
    | .stop x => x
    | .loc l =>
      copyChecks s t k .mc (s.recBytes k c t w l 128) (fun d =>
        if t.desc.gangX = 0 ∨ d.members = 0 ∨ 2 ^ (t.desc.gangX * t.desc.gangY) ≤ d.members then
          .halt { cause := 9, detail := 2 }
        else
          let r := s.fresh
          .ok ((r.2.issueRelease c t ((l, l + 128) :: s.srcSpans t k d)).pushCopy c t w (o.d.toNat % 4) 1 d r.1 none)))

/-! ## Landing (R234, R236, R239) -/

/-- The team's memory that a command's element is written to, for each target: the issuing team, or each named member. -/
def State.copyTargets (s : State) (t : Team) (x : CopyCmd) : List Team :=
  if x.kind = 1 then (maskBits 16 x.d.members).filterMap (s.gangMember t) else [t]

/-- What the work on a burst has come to; `op` is the first serial number of what it lands, which is one landing (R194). -/
structure Burst where
  s     : State
  cmd   : CopyCmd
  op    : Nat
  ws    : List (Nat × Byte) := []
  n     : Nat := 0
  ents  : List (Nat × List BarEntry) := []
  stop  : Option EngAt := none

/-- The bytes of one element at its destination. -/
def Burst.put (b : Burst) (u : Team) (a : Nat) (bs : List Byte) : Burst :=
  match b.s.engAt u (b.s.ctxOf u) b.cmd.d.dspace a bs.length .write with
  | .loc l =>
    let ser := b.s.nextSer
    { b with s := b.s.wrAll { party := .core u.core, grid := some u.grid, op := b.op,
                              copy := some { team := b.cmd.team, warp := b.cmd.warp, q := b.cmd.q, at_ := b.cmd.at_ } } (atLoc l bs), ws := b.ws ++ atLoc l bs,
             ents := b.ents ++ [(u.id, engEntries u.core ser (atLoc l bs))] }
  | .cask o => { b with s := b.s.updTeam u.id (fun v => v.putCask o bs) }
  | e => { b with stop := some e }

/-- One element (R234): read, converted under the captured MODE, written to each target. Nothing is written when a target
stops it. -/
def Burst.elem (t : Team) (w : Option Warp) (b : Burst) : Burst :=
  let d := b.cmd.d
  let k := b.s.ctxOf t
  let us := b.s.copyTargets t b.cmd
  match b.s.engAt t k d.sspace (d.srcAddr b.cmd.next) d.ssize .read with
  | .loc l =>
    let x := leNat (b.s.rdEng k (b.cmd.reader t.grid w) l d.ssize)
    let m := b.cmd.mode
    let y : Nat × FpFlags := if d.conv = 0xFF then (x, {}) else
      let r := cvtCode d.conv (modeRm m) (modeSat m) (modeFtz m) (BitVec.ofNat 32 x)
      (r.1.toNat, r.2)
    let stops := us.find? (fun u => match b.s.engAt u (b.s.ctxOf u) d.dspace (d.dstAddr b.cmd.next) d.dsize .write with
      | .loc _ | .cask _ => false
      | _ => true)
    match stops with
    | some u => { b with stop := some (b.s.engAt u (b.s.ctxOf u) d.dspace (d.dstAddr b.cmd.next) d.dsize .write) }
    | none =>
      let b1 := us.foldl (fun a u => a.put u (d.dstAddr b.cmd.next) (leBytes d.dsize y.1)) b
      { b1 with n := b1.n + d.dsize, cmd := { b1.cmd with next := b1.cmd.next + 1, flags := b1.cmd.flags.join y.2 } }
  | e => { b with stop := some e }

/-- The elements of a burst, at most `n`. -/
def Burst.run (t : Team) (w : Option Warp) : Nat → Burst → Burst
  | 0, b => b
  | n + 1, b =>
    if b.stop.isSome ∨ b.cmd.d.total ≤ b.cmd.next then b else Burst.run t w n (b.elem t w)

/-- Counts a burst on BAR in each target (R234, R237). -/
def Burst.count (t : Team) (b : Burst) : State :=
  match b.cmd.d.bar with
  | none => b.s
  | some bar =>
    (b.s.copyTargets t b.cmd).foldl (fun a u =>
      a.countOn { team := b.cmd.team, warp := b.cmd.warp, pc := b.cmd.pc, unit := b.cmd.q + 1, at_ := b.cmd.at_ } u (BitVec.ofNat 32 bar) b.n
        ((b.ents.filter (fun e => e.1 == u.id)).flatMap (fun e => e.2))) b.s

/-- A command leaves its queue; what it stalled on is forgotten. -/
def State.dropCopy (s : State) (id : Nat) : State :=
  { s with copies := s.copies.filter (fun x => x.id != id), stalled := KV.put 0 id 0 s.stalled }

/-- Stores a command's progress. -/
def State.setCopy (s : State) (x : CopyCmd) : State :=
  { s with copies := s.copies.map (fun y => if y.id == x.id then x else y) }

/-- A pending destination of a command completes with nothing to write. -/
def State.pendDone (s : State) (team warp id : Nat) (ws : List (Nat × List (Reg × Word))) : State :=
  s.updWarp team warp (fun w =>
    let w1 : Warp := { w with pend := w.pend.map (fun (p : Pend) =>
      if p.cmd == some id then { p with ready := true, writes := ws } else p) }
    w1.complete (fun p => p.cmd == some id))

/-- A command that has landed its last byte: its flags are logged (R234), and a follow-on goes to the matrix engine once that has
an entry (R238) and, in deterministic mode, its turn has come (R174). -/
def State.handOver (s : State) (t : Team) (x : CopyCmd) : State :=
  let e : EngCtx := { team := x.team, warp := x.warp, pc := x.pc, unit := x.q + 1 }
  match x.follow with
  | none => (s.dropCopy x.id).logEngine e x.lane x.mode x.flags
  | some (op, mid) =>
    let turn := match s.warp? t.id x.warp with
      | some w => !(s.ctxOf t).det || s.matTurn t (s.ctxOf t) w x.at_
      | none => true
    if 2 ≤ (s.matq.filter (fun m => m.core == t.core)).length ∨ !turn then s
    else
      let s1 := (s.dropCopy x.id).logEngine e x.lane x.mode x.flags
      { s1 with matq := s1.matq ++ [{ id := mid, core := t.core, team := x.team, warp := x.warp, lanes := [x.lane], pc := x.pc,
                                      mode := x.mode, op := op, at_ := x.at_ }] }

/-- A command has landed its last byte. It leaves its queue at once; a follow-on may still wait to be handed over, in no entry of the
queue and before none (DESIGN CHOICE; log entry 170). -/
def State.copyDone (s : State) (t : Team) (x : CopyCmd) : State := (s.setCopy { x with landed := true }).handOver t { x with landed := true }

/-- The follow-ons of a core's queue whose copies have landed are handed over, where they can be. -/
def State.handOvers (s : State) (core q : Nat) : State :=
  (s.copies.filter (fun x => x.core == core && x.q == q && x.landed && !x.off)).foldl (fun a x =>
    match a.team? x.team with
    | some t => if t.st = .resident then a.handOver t x else a
    | none => a) s

/-- A command stops at a forbidden page or an error of R421 (R236): BAR is broken, a record is written, and the queue goes
on. -/
def State.copyStop (s : State) (t : Team) (x : CopyCmd) (cause : Nat) : State :=
  let e : EngCtx := { team := x.team, warp := x.warp, pc := x.pc, unit := x.q + 1 }
  let s1 := match x.d.bar with
    | none => s
    | some b => (s.copyTargets t x).foldl (fun a u => a.breakOn u (BitVec.ofNat 32 b)) s
  let s2 := ((s1.dropCopy x.id).engRecord e cause).logEngine e x.lane x.mode x.flags
  match x.follow with
  | none => s2
  | some (_, mid) => s2.pendDone x.team x.warp mid []

/-- Whether every command that a qfence waits for has landed (R206), but for those that have left the core with their team. -/
def State.fenceOver (s : State) (x : CopyCmd) : Bool :=
  x.after.all (fun i => !s.copies.any (fun y => y.id == i && y.kind != 3 && !y.landed && !y.off))

/-- The command at the head of a queue of a core: the first accepted of a team that is on the core and not paused, or the mark of a
qfence. -/
def State.copyHead (s : State) (core q : Nat) : Option CopyCmd :=
  s.copies.find? (fun x => x.core == core && x.q == q && !x.landed && !x.off &&
    (x.kind == 3 || ((s.team? x.team).map (fun t => decide (t.st = .resident))).getD false))

/-- A mark leaves a core's queue. -/
def State.dropMark (s : State) (x : CopyCmd) : State := { s with copies := s.copies.erase x }

/-- Takes finished qfences off the head of a queue. -/
def State.skipFences (s : State) (core q : Nat) : Nat → State
  | 0 => s
  | n + 1 =>
    match s.copyHead core q with
    | some x => if x.kind = 3 ∧ s.fenceOver x then (s.dropMark x).skipFences core q n else s
    | none => s

/-- COPY_BURST_LANDING (R234, R236, R239): the burst of at most 4 KiB of destination bytes of the command at the head of a
queue lands and is counted; follow-ons that wait are handed over where they can be (R238). -/
def execCopyBurstLanding (s : State) : Out :=
  match s.arg with
  | .idx2 core q =>
    let s0 := (s.handOvers core q).skipFences core q s.copies.length
    match s0.copyHead core q with
    | none => .next s0
    | some x =>
      match s0.team? x.team with
      | none => .next s0
      | some t =>
        if x.kind = 3 then .next s0
        else
          let b := Burst.run t (s0.warp? x.team x.warp) (4096 / x.d.dsize) { s := s0, cmd := x, op := s0.nextSer }
          let s1 := ((b.count t).heal b.ws).setCopy b.cmd
          match b.stop with
          | some (.page p) => .next (s1.stall x.id (s1.ctxOf t).region p)
          | some (.err l) => .next ((s1.memErr (s1.ctxOf t).seq l).copyStop t b.cmd 4)
          | some _ => .next (s1.copyStop t b.cmd 1)
          | none =>
            let s2 := { s1 with stalled := KV.put 0 x.id 0 s1.stalled }
            .next (if b.cmd.d.total ≤ b.cmd.next then s2.copyDone t b.cmd else s2)
  | _ => .next s

/-! ## qfence (R206, R240) -/

/-- qfence: in each queue of the mask a mark that holds later commands until every earlier one of those queues has
landed. -/
def execQfence (o : XOp) : State → Out :=
  kernelOp (.qfence o) (fun c t w s =>
    let qs := maskBits 4 (o.d.toNat % 16)
    let before := (s.copies.filter (fun x => x.core == t.core && qs.contains x.q && x.kind != 3 && !x.landed && !x.off)).map CopyCmd.id
    let n := ((s.grid? t.grid).map Grid.round).getD 0
    let s1 := if (s.ctxOf t).det then
      s.updWarp c.team c.warp (fun v => { v with qfences := v.qfences ++ [(o.d.toNat % 16, s.tick)] }) else s
    .ok (qs.foldl (fun a q =>
      let r := a.fresh
      { r.2 with copies := r.2.copies ++ [{ id := r.1, core := t.core, q := q, team := c.team, warp := c.warp, lane := c.lanes.headD 0,
                                            kind := 3, pc := c.pc, mode := w.mode, after := before, round := n }] }) s1))

end Sys2Proof.Machine
end

