-- ==== Sys2Proof/Machine/Lanes.lean ====
section
/-! DEFINITION. Special values and the cross-lane instructions (R129 to R136). -/

namespace Sys2Proof.Machine

/-! ## Special values (R129 to R131) -/

/-- The team's index and its grid's dimensions, gang shape aside, as movs reads them (R130). -/
def specialVal (s : State) (t : Team) (w : Warp) (l : Nat) (code : Nat) : Word :=
  let g : Grid := (s.grid? t.grid).getD {}
  let th := w.thr l
  let tid := t.tid w l
  let team := g.teamAt t.index
  let gidx := t.gidx w l
  let n (x : Nat) : Word := BitVec.ofNat 32 x
  let gang := t.desc.gangX ≠ 0
  match code with
  | 0 => n l
  | 1 => n tid.1
  | 2 => n tid.2.1
  | 3 => n tid.2.2
  | 4 => n w.idx
  | 5 => n team.1
  | 6 => n team.2.1
  | 7 => n team.2.2
  | 8 => n g.gx
  | 9 => n g.gy
  | 10 => n g.gz
  | 11 => n t.desc.tx
  | 12 => n t.desc.ty
  | 13 => n t.desc.tz
  | 14 => if gang then n (team.1 / t.desc.gangX + g.gx / t.desc.gangX * (team.2.1 / t.desc.gangY)) else 0xFFFFFFFF
  | 15 => if gang then n (team.1 % t.desc.gangX + t.desc.gangX * (team.2.1 % t.desc.gangY)) else 0xFFFFFFFF
  | 16 => n g.task.region
  | 17 => if g.task.det then 0xFFFFFFFF else n t.core
  | 18 => n w.width
  | 19 => if g.task.det then 1 else 0
  | 20 => if g.task.det then n g.round else 0
  | 21 => w.mode
  | 22 => th.rctr.extractLsb' 0 32
  | 23 => th.rctr.extractLsb' 32 32
  | 24 => gidx.extractLsb' 0 32
  | 25 => gidx.extractLsb' 32 32
  | 26 => (BitVec.ofNat 1 1 ++ th.p).setWidth 32
  | _ => t.callIdx

/-- A thread's writable special value takes a value (R130). -/
def Thread.wrSpecial (th : Thread) (code : Nat) (x : Word) : Thread :=
  match code with
  | 22 => { th with rctr := th.rctr.extractLsb' 32 32 ++ x }
  | 23 => { th with rctr := x ++ th.rctr.extractLsb' 0 32 }
  | _ => { th with p := x.extractLsb' 0 7 }

/-- movs (R129). -/
def execMovs (o : SOp) : State → Out :=
  kernelOp (.movs o) (fun c t w s =>
    let l0 := c.lanes.headD 0
    let setK (x : Word) : State := s.updWarp c.team c.warp (fun v => v.setK o.d.toNat x)
    let wr (f : Nat → Word) : State := s.mapThr c.team c.warp (fun l th =>
      if c.lanes.contains l then th.wrSpecial o.a.toNat (f l) else th)
    match o.b.toNat with
    | 0 => .ok (s.writeLanes c (c.lanes.map (fun l => (l, [(Reg.v o.d.toNat, specialVal s t w l o.a.toNat)]))))
    | 1 => .ok (wr (fun l => (w.thr l).rv o.d.toNat))
    | 2 => .ok (setK (specialVal s t w l0 o.a.toNat))
    | 3 =>
      if o.a = 21 then .ok (s.updWarp c.team c.warp (fun v => { v with mode := w.rk o.d.toNat &&& modeMask }))
      else .ok (wr (fun _ => w.rk o.d.toNat))
    | 4 => .ok (setK ((w.thr l0).rv o.a.toNat))
    | _ => .ok (setK (w.rk o.a.toNat)))

/-- Writes a u64 to an even k pair (R131). -/
def State.setKPair (s : State) (c : Ctx) (d : BitVec 6) (x : DWord) : State :=
  s.updWarp c.team c.warp (fun v => v.setKPair d.toNat x)

/-- time (R131): within 16 ns of the clock and never decreasing for the warp; the launch timestamp in deterministic mode. -/
def execTime (o : SOp) : State → Out :=
  kernelOp (.time o) (fun c t w s =>
    let k := s.ctxOf t
    if k.det then .ok (s.setKPair c o.d (BitVec.ofNat 64 k.launch))
    else
      let r := s.free 8
      let v := max w.lastTime (s.ptime + r.1.toNat % 33 - 16)
      .ok ((r.2.setKPair c o.d (BitVec.ofNat 64 v)).updWarp c.team c.warp (fun x => { x with lastTime := v })))

/-- cycles (R131): the core's count of clocks, which never goes down and whose pace the spec leaves open (log entry 85); the retired
count in deterministic mode. -/
def execCycles (o : SOp) : State → Out :=
  kernelOp (.cycles o) (fun c t w s =>
    if (s.ctxOf t).det then .ok (s.setKPair c o.d w.retired)
    else
      let r := s.free 64
      let v := max (KV.get 0 t.core s.clocks) r.1.toNat
      .ok ({ r.2 with clocks := KV.put 0 t.core v r.2.clocks }.setKPair c o.d (BitVec.ofNat 64 v)))

/-- retired (R131, R447): the bundles issued before this one. -/
def execRetired (o : SOp) : State → Out :=
  kernelOp (.retired o) (fun c _ w s => .ok (s.setKPair c o.d w.retired))

/-! ## Lane relays (R133) -/

/-- The four relays. -/
inductive RelayKind where
  | at | lo | hi | sw
deriving DecidableEq, Repr

/-- The lane that a relay reads, or none. -/
def relaySrc (r : RelayKind) (seg l x : Nat) : Option Nat :=
  let base := l - l % seg
  match r with
  | .at => some (base + x % seg)
  | .lo => if x ≤ l - base then some (l - x) else none
  | .hi => if l + x < base + seg then some (l + x) else none
  | .sw => if base ≤ l ^^^ x ∧ l ^^^ x < base + seg then some (l ^^^ x) else none

/-- A relay over the issuing group: `x` gives each lane's index, distance or mask. -/
def relayOp (i : Instr) (r : RelayKind) (a d : BitVec 6) (seg : Warp → Nat) (x : Warp → Nat → Nat) : State → Out :=
  kernelOp i (fun c _ w s =>
    .ok (s.writeLanes c (c.lanes.map (fun l =>
      let src := match relaySrc r (seg w) l (x w l) with
        | some j => if c.lanes.contains j then j else l
        | none => l
      (l, [(Reg.v d.toNat, (w.thr src).rv a.toNat)])))))

/-- The register form: the whole warp, with x from v[b]. -/
def relayReg (i : Instr) (r : RelayKind) (o : SOp) : State → Out :=
  relayOp i r o.a o.d Warp.width (fun w l => ((w.thr l).rv o.b.toNat).toNat)

/-- The immediate form: SEG and VAL from the prefix. -/
def relayImm (i : Instr) (r : RelayKind) (o : RelayImm) : State → Out :=
  relayOp i r o.a o.d (fun w => if o.seg = 0 then w.width else 2 ^ o.seg.toNat) (fun _ _ => o.val.toNat)

/-- relay.at (R133). -/
def execRelayAt (o : SOp) : State → Out := relayReg (.relayAt o) .at o

/-- relay.lo (R133). -/
def execRelayLo (o : SOp) : State → Out := relayReg (.relayLo o) .lo o

/-- relay.hi (R133). -/
def execRelayHi (o : SOp) : State → Out := relayReg (.relayHi o) .hi o

/-- relay.sw (R133). -/
def execRelaySw (o : SOp) : State → Out := relayReg (.relaySw o) .sw o

/-- relay.at with an immediate (R133). -/
def execRelayAtImm (o : RelayImm) : State → Out := relayImm (.relayAtImm o) .at o

/-- relay.lo with an immediate (R133). -/
def execRelayLoImm (o : RelayImm) : State → Out := relayImm (.relayLoImm o) .lo o

/-- relay.hi with an immediate (R133). -/
def execRelayHiImm (o : RelayImm) : State → Out := relayImm (.relayHiImm o) .hi o

/-- relay.sw with an immediate (R133). -/
def execRelaySwImm (o : RelayImm) : State → Out := relayImm (.relaySwImm o) .sw o

/-! ## Polls, peers and gred (R134 to R136) -/

/-- The source of a poll: p[a[2:0]], inverted by a[3]. -/
def pollSrc (w : Warp) (o : SOp) (l : Nat) : Bool := (w.thr l).rp (o.a.toNat % 8) != o.a.getLsbD 3

/-- A predicate written with one value in every lane of the group. -/
def pollOp (i : Instr) (o : SOp) (f : List Bool → Bool) : State → Out :=
  kernelOp i (fun c _ w s =>
    let v := f (c.lanes.map (pollSrc w o))
    .ok (s.writeLanes c (c.lanes.map (fun l => (l, [(Reg.p (o.d.toNat % 8), if v then (1 : Word) else 0)])))))

/-- poll.some (R134). -/
def execPollSome (o : SOp) : State → Out := pollOp (.pollSome o) o (fun bs => bs.any id)

/-- poll.each (R134). -/
def execPollEach (o : SOp) : State → Out := pollOp (.pollEach o) o (fun bs => bs.all id)

/-- A set of lanes as the mask registers of R135: one word, or two at width 64. -/
def laneMask (width : Nat) (d : BitVec 6) (ls : List Nat) : List (Reg × Word) :=
  let m : DWord := BitVec.ofNat 64 (ls.foldl (fun n l => n + 2 ^ l) 0)
  if width = 64 then [(.v d.toNat, m.extractLsb' 0 32), (.v (d.toNat + 1), m.extractLsb' 32 32)]
  else [(.v d.toNat, m.extractLsb' 0 32)]

/-- poll.mask (R135). -/
def execPollMask (o : SOp) : State → Out :=
  kernelOp (.pollMask o) (fun c _ w s =>
    .ok (s.writeLanes c (c.lanes.map (fun l => (l, laneMask w.width o.d (c.lanes.filter (pollSrc w o)))))))

/-- peers (R135). -/
def execPeers (o : SOp) : State → Out :=
  kernelOp (.peers o) (fun c _ w s =>
    .ok (s.writeLanes c (c.lanes.map (fun l =>
      (l, laneMask w.width o.d (c.lanes.filter (fun i => (w.thr i).rv o.a.toNat == (w.thr l).rv o.a.toNat)))))))

/-- The exact sum of R136 with its flags: a NaN, or opposite infinities, gives qnan. -/
def gredAdd (mode : Word) (xs : List Num) : Word × FpFlags :=
  if xs.any Num.isNan then (0x7FC00000, { nv := xs.any Num.isSnan || (xs.contains (.inf true) && xs.contains (.inf false)) })
  else if xs.contains (.inf true) && xs.contains (.inf false) then (0x7FC00000, { nv := true })
  else
    let r := roundF (sumNum (modeRm mode) xs) .f32 (modeRm mode) false (modeFtz mode)
    (BitVec.ofNat 32 r.1, r.2)

/-- The least or greatest of the lanes by R121, all at once. -/
def gredPick (less : Num → Num → Bool) (xs : List Num) : Word × FpFlags :=
  let nv : FpFlags := { nv := xs.any Num.isSnan }
  match xs.filter (fun x => !x.isNan) with
  | [] => (0x7FC00000, nv)
  | y :: ys => (BitVec.ofNat 32 (encodeNum .f32 (ys.foldl (fun m x => if less x m then x else m) y)), nv)

/-- The result of gred over the lanes' values (R136). -/
def gredVal (kind : Nat) (mode : Word) (xs : List Word) : Word × FpFlags :=
  let x0 := xs.headD 0
  let fold (f : Word → Word → Word) : Word × FpFlags := (xs.tail.foldl f x0, {})
  let nums := xs.map (fun x => flushNum .f32 (modeFtz mode) (value .f32 x.toNat))
  match kind with
  | 0 => fold (fun a b => a + b)
  | 1 => fold iminW
  | 2 => fold imaxW
  | 3 => fold iminuW
  | 4 => fold imaxuW
  | 5 => fold (fun a b => a &&& b)
  | 6 => fold (fun a b => a ||| b)
  | 7 => fold (fun a b => a ^^^ b)
  | 8 => gredAdd mode nums
  | 9 => gredPick lessNum nums
  | _ => gredPick (fun a b => lessNum b a) nums

/-- gred (R136): every lane of the group receives the result. The flags are the lowest lane's. -/
def execGred (o : SOp) : State → Out :=
  kernelOp (.gred o) (fun c _ w s =>
    let r := gredVal (o.b.toNat % 16) w.mode (c.lanes.map (fun l => (w.thr l).rv o.a.toNat))
    .ok ((s.logArith c w.mode [(c.lanes.headD 0, r.2)]).commit c o.la.toNat [.v o.d.toNat]
      (c.lanes.map (fun l => (l, [(Reg.v o.d.toNat, r.1)])))))

end Sys2Proof.Machine
end

