-- ==== Sys2Proof/Machine/Matrix.lean ====
section
/-! DEFINITION. The matrix engine, the Cask's reservations and the gather unit (R147 to R174, R238). -/

namespace Sys2Proof.Machine

/-! ## Reservations (R152 to R156) -/

/-- Bytes of an element of a range. -/
def CaskRec.size (r : CaskRec) : Nat := if r.fmt ≤ 1 then 2 else 1
/-- Block length of a BLK code; 0 for none. -/
def CaskRec.blen (r : CaskRec) : Nat :=
  match r.blk with
  | 0 => 0 | 1 => 16 | 2 => 32 | _ => 64
/-- Scales per row. -/
def CaskRec.nb (r : CaskRec) : Nat := if r.blk = 0 then 0 else (r.klen + r.blen - 1) / r.blen

/-- The fields of a record's 32 bytes; the map is read from the Cask. -/
def caskRecOf (n : Nat) (bs : List Byte) (rd : Nat → Nat → List Byte) : CaskRec :=
  let m := fieldOf bs 0x14 4
  let d := leNat (rd m 2)
  { n := n, base := fieldOf bs 0 4, rows := fieldOf bs 4 2, klen := fieldOf bs 6 2, rstride := fieldOf bs 8 4,
    fmt := fieldOf bs 0xC 1, blk := fieldOf bs 0xD 1, scale := fieldOf bs 0x10 4, hasMap := m != 0xFFFFFFFF,
    dmap := if m = 0xFFFFFFFF then [] else (List.range (min d 65)).map (fun i => leNat (rd (m + 2 + 2 * i) 2)),
    index := fieldOf bs 0x18 4 }

/-- Strictly ascending. -/
def ascending : List Nat → Bool
  | a :: b :: t => decide (a < b) && ascending (b :: t)
  | _ => true

/-- The rules of R153 for a record's bytes in a Cask allocation of `cask` bytes. -/
def caskRecOk (bs : List Byte) (r : CaskRec) (cask : Nat) (rd : Nat → Nat → List Byte) : Bool :=
  let m := fieldOf bs 0x14 4
  let none? (x : Nat) : Bool := x == 0xFFFFFFFF
  let d := leNat (rd m 2)
  r.base % 256 == 0 && decide (1 ≤ r.rows) && decide (r.rows ≤ 1024) && decide (1 ≤ r.klen) && decide (r.klen ≤ 2048) &&
    r.rstride % 64 == 0 && decide (r.klen * r.size ≤ r.rstride) && decide (r.fmt ≤ 4) && decide (r.blk ≤ 3) &&
    fieldOf bs 0xE 2 == 0 && fieldOf bs 0x1C 4 == 0 &&
    (none? r.scale || r.scale % 64 == 0) && (none? m || m % 64 == 0) && (none? r.index || r.index % 64 == 0) &&
    (decide (2 ≤ r.fmt) || r.blk == 0) && (r.fmt != 4 || r.blk != 0) && ((r.blk == 0) == none? r.scale) &&
    decide (r.base + (r.rows - 1) * r.rstride + r.klen * r.size ≤ cask) &&
    (none? r.scale || decide (r.scale + 2 * r.rows * r.nb ≤ cask)) &&
    (none? r.index || decide (r.index + 128 ≤ cask)) &&
    (none? m || (decide (d ≤ 64) && decide (m + 2 + 2 * d ≤ cask) && ascending r.dmap &&
      r.dmap.all (fun e => decide (e < r.klen - d))))

/-- Reservation n of a team, when it is held. -/
def Team.range? (t : Team) (n : Nat) : Option CaskRec := (t.ranges.getD n none)
def Team.setRange (t : Team) (n : Nat) (r : Option CaskRec) : Team := { t with ranges := updAt (fun _ => r) n t.ranges }

/-- caskres (R155, R246): an acquire of the record's bytes at chip scope, the checks of R153, then the reservation. -/
def execCaskres (o : XOp) : State → Out :=
  kernelOp (.caskres o) (fun c t w s =>
    let k := s.ctxOf t
    match s.recAt k (w.rkPair o.a.toNat).toNat 32 with
    | .stop x => x
    | .loc l =>
      let s1 := s.evAcquire c t k c.lanes { scope := .chip, spans := some [(l, l + 32)] }
      match s1.warp? c.team c.warp with
      | none => .ok s1
      | some w1 =>
        let bs := (locRange l 32).map (s1.rdThr w1 (w1.thr (c.lanes.headD 0)))
        let r := caskRecOf o.d.toNat bs t.rdCask
        if caskRecOk bs r t.desc.cask t.rdCask then .ok (s1.updTeam c.team (fun u => u.setRange o.d.toNat (some r)))
        else .halt { cause := 8, detail := 3 })

/-! ## Commands (R149) -/

/-- A command accepted by the engine, its destination pending (R76). -/
def State.accept (s : State) (c : Ctx) (t : Team) (w : Warp) (la : BitVec 4) (regs : List Reg) (op : MatOp) : State :=
  let r := s.fresh
  let s1 := { r.2 with matq := r.2.matq ++ [{ id := r.1, core := t.core, team := c.team, warp := c.warp, lanes := c.lanes,
                                              pc := c.pc, mode := w.mode, op := op, at_ := s.tick }] }
  if regs.isEmpty then s1 else s1.pendOn c la.toNat regs (some r.1)

/-- The matrix fault (R173). -/
def matFault (d : Nat) : KOut := .halt { cause := 8, detail := d }

/-- The TILE check (R148). -/
def withTiles (t : Team) (ts : List (BitVec 6)) (f : KOut) : KOut :=
  if ts.any (fun x => decide (t.desc.tiles ≤ x.toNat)) then matFault 1 else f

/-- caskrel (R156): a range that is free stays free. -/
def execCaskrel (o : XOp) : State → Out :=
  kernelOp (.caskrel o) (fun c t w s => .ok (s.accept c t w 0 [] (.caskrel o.d.toNat)))

/-- The largest Kp of a pair of formats, none for a pair that R159 does not list; 512, 1,024 and 2,048 name the class. -/
def pairCap (a b : Nat) : Option Nat :=
  let fp8 (x : Nat) : Bool := x == 2 || x == 3
  if a = 0 ∧ b = 0 then some 512
  else if a = 1 ∧ b = 1 then some 512
  else if fp8 a && fp8 b then some 1024
  else if (a == 4 && fp8 b) || (fp8 a && b == 4) then some 2048
  else none

/-- The positions of R161: Kp, or none where the lengths and maps do not fit. -/
def sumLen (a b : CaskRec) : Option Nat :=
  if a.dmap.isEmpty && b.dmap.isEmpty then (if a.klen = b.klen then some a.klen else none)
  else if !a.dmap.isEmpty && !b.dmap.isEmpty then none
  else if b.dmap.isEmpty then (if b.klen + a.dmap.length = a.klen then some a.klen else none)
  else (if a.klen + b.dmap.length = b.klen then some b.klen else none)

/-- e(p) of R161: element read at position p by the operand whose partner holds the map. -/
def expand (m : List Nat) (p : Nat) : Nat := p - (m.zipIdx.filter (fun e => decide (e.1 + e.2 < p))).length

/-- The checks of R164, in their order; k goes on with the records. -/
def mmaChecks (t : Team) (gather : Bool) (d a b : BitVec 6) (go : CaskRec → CaskRec → KOut) : KOut :=
  withTiles t [d] (
    match t.range? a.toNat, t.range? b.toNat with
    | some ra, some rb =>
      match pairCap ra.fmt rb.fmt with
      | none => matFault 4
      | some cap =>
        let rowsOk := if gather then ra.index != 0xFFFFFFFF else ra.rows == 64
        match sumLen ra rb with
        | some kp => if rowsOk && rb.rows == 64 && decide (kp ≤ cap) then go ra rb else matFault 5
        | none => matFault 5
    | _, _ => matFault 2)

/-- mma (R164). -/
def execMma (o : XOp) : State → Out :=
  kernelOp (.mma o) (fun c t w s =>
    mmaChecks t false o.d o.a o.b (fun ra rb => .ok (s.accept c t w o.la [.t o.d.toNat] (.mma o.d.toNat ra rb false))))

/-- mma.g (R164). -/
def execMmaG (o : XOp) : State → Out :=
  kernelOp (.mmaG o) (fun c t w s =>
    mmaChecks t true o.d o.a o.b (fun ra rb => .ok (s.accept c t w o.la [.t o.d.toNat] (.mma o.d.toNat ra rb true))))

/-- cpy.mm (R238): the follow-on word is an mma or mma.g with lookahead 0; its tile is pending from here. -/
def execCpyMm (o : XOp) : State → Out :=
  kernelOp (.cpyMm o) (fun c t w s =>
    let k := s.ctxOf t
    match s.recAt k (w.rkPair o.a.toNat).toNat 128 with
    | .stop x => x
    | .loc l =>
      let bs := s.recBytes k c t w l 128
      copyChecks s t k .mm bs (fun d =>
        match s.recAt k (fieldOf bs 0x68 8) 16 with
        | .stop x => x
        | .loc f =>
          let fs := s.recBytes k c t w f 16
          let word : Word := BitVec.ofNat 32 (fieldOf fs 0 4)
          let go (x : XOp) (gather : Bool) : KOut :=
            mmaChecks t gather x.d x.a x.b (fun ra rb =>
              let r := s.fresh
              let r2 := r.2.fresh
              let s1 := (r2.2.issueRelease c t ((l, l + 128) :: (f, f + 16) :: s.srcSpans t k d)).pushCopy c t w
                (o.d.toNat % 4) 2 d r.1 (some (.mma x.d.toNat ra rb gather, r2.1))
              .ok (s1.pendOn c 0 [.t x.d.toNat] (some r2.1)))
          if fieldOf fs 4 4 ≠ 0 ∨ fieldOf fs 8 8 ≠ 0 then .halt { cause := 9, detail := 3 }
          else
            match (decode (halvesOf word)).1 with
            | .ok (.mma x) => if x.la = 0 then go x false else .halt { cause := 9, detail := 3 }
            | .ok (.mmaG x) => if x.la = 0 then go x true else .halt { cause := 9, detail := 3 }
            | _ => .halt { cause := 9, detail := 3 }))

/-- Whether a range is a window of slots (R166); its slot count is KLEN / 64. -/
def CaskRec.window (r : CaskRec) : Bool :=
  r.rows == 128 && r.klen % 64 == 0 && decide (1 ≤ r.klen / 64) && decide (r.klen / 64 ≤ 16) && !r.hasMap &&
    r.index == 0xFFFFFFFF

/-- gmma (R166). -/
def execGmma (o : XOp) : State → Out :=
  kernelOp (.gmma o) (fun c t w s =>
    let ka := (w.rk o.a.toNat).toNat
    let kb := (w.rk o.b.toNat).toNat
    let cc := ka / 64 % 16
    let sa := kb % 16
    let sb := kb / 16 % 16
    if t.desc.tiles ≤ o.d.toNat + 3 then matFault 1
    else
      match t.range? (ka % 8), t.range? (ka / 8 % 8) with
      | some ra, some rb =>
        let wa := ra.klen / 64
        let wb := rb.klen / 64
        if 1024 ≤ ka ∨ 512 ≤ kb ∨ cc = 0 ∨ wa ≤ sa ∨ wb ≤ sb ∨ wa < cc ∨ wb < cc then matFault 6
        else
          match pairCap ra.fmt rb.fmt with
          | none => matFault 4
          | some cap =>
            if !ra.window || !rb.window || decide (cap / 256 < cc) then matFault 5
            else if t.desc.gangX ≠ 4 ∨ t.desc.gangY ≠ 4 then matFault 7
            else .ok (s.accept c t w o.la ((List.range 4).map (fun i => .t (o.d.toNat + i)))
              (.gmma o.d.toNat ra rb cc sa sb (kb / 256 % 2 == 1)))
      | _, _ => matFault 2)

/-- tzero (R167). -/
def execTzero (o : XOp) : State → Out :=
  kernelOp (.tzero o) (fun c t w s => withTiles t [o.d] (.ok (s.accept c t w o.la [.t o.d.toNat] (.tzero o.d.toNat))))

/-- tmov.r and tmov.c (R168). -/
def tmovOp (i : Instr) (row : Bool) (o : XOp) : State → Out :=
  kernelOp i (fun c t w s =>
    let x := (w.rk o.b.toNat).toNat
    withTiles t [o.a] (
      if 16384 ≤ x ∨ x / 64 % 4 ≠ 0 then matFault 6
      else .ok (s.accept c t w o.la [.v o.d.toNat] (.tmov row o.d.toNat o.a.toNat (x / 256 % 64) (x % 64)))))

/-- tmov.r (R168). -/
def execTmovR (o : XOp) : State → Out := tmovOp (.tmovR o) true o

/-- tmov.c (R168). -/
def execTmovC (o : XOp) : State → Out := tmovOp (.tmovC o) false o

/-- The location of each element's first byte, or what stops tld and tst (R169). -/
def tileLocs (s : State) (t : Team) (k : TaskCtx) (w : Warp) (o : XOp) (acc : Acc) (go : Nat → List Nat → KOut) : KOut :=
  let x := (w.rk o.b.toNat).toNat
  let sp := x / 2 ^ 30
  let sz := x / 2 ^ 28 % 4
  let z := if sz = 0 then 4 else if sz = 1 then 2 else 1
  let pitch := x % 2 ^ 24
  let a := (w.rkPair o.a.toNat).toNat
  if sp = 3 ∨ sz = 3 ∨ x / 2 ^ 24 % 16 ≠ 0 ∨ (sp ≠ 0 ∧ 4294967296 ≤ a) then matFault 6
  else if a % z ≠ 0 ∨ pitch % z ≠ 0 then .halt { cause := 3, faddr := a }
  else
    let spc : Space := if sp = 0 then .g else if sp = 1 then .s else .x
    let addrs := (List.range 64).flatMap (fun i => (List.range 64).map (fun j => a + i * pitch + j * z))
    let addrs := if sp = 0 then addrs.map (fun y => y % 18446744073709551616) else addrs
    match s.check t k spc acc z (addrs.map (fun y => (0, y))) with
    | .ok ls => go z (ls.map (fun p => p.2))
    | .halt h => .halt { h with lane := 0xFF }
    | .page ps => .page (ps.map (fun p => { p with lane := none }))
    | .memErr h l => .memErr { h with lane := 0xFF } l

/-- tld (R169, R170): the bytes are what the lowest lane's view names at issue, and what a tst of the warp before it in the
engine's queue writes. -/
def execTld (o : XOp) : State → Out :=
  kernelOp (.tld o) (fun c t w s =>
    withTiles t [o.d] (tileLocs s t (s.ctxOf t) w o .read (fun z ls =>
      let th := w.thr (c.lanes.headD 0)
      .ok (s.accept c t w o.la [.t o.d.toNat] (.tld o.d.toNat
        (ls.map (fun l => (locRange l z).map (fun a => (a, s.rdThr w th a)))))))))

/-- Lists of n. -/
def chunksOf (n : Nat) : Nat → List Nat → List (List Nat)
  | 0, _ => []
  | k + 1, xs => xs.take n :: chunksOf n k (xs.drop n)

/-- tst (R169, R170): the locations are fixed at issue; the bytes are written when the command completes. Each list holds
the locations of one element's bytes. -/
def execTst (o : XOp) : State → Out :=
  kernelOp (.tst o) (fun c t w s =>
    withTiles t [o.d] (tileLocs s t (s.ctxOf t) w o .write (fun z ls =>
      .ok (s.accept c t w 0 [] (.tst o.d.toNat (ls.map (fun l => locRange l z)))))))

/-- tcvt (R171). -/
def execTcvt (o : XOp) : State → Out :=
  kernelOp (.tcvt o) (fun c t w s =>
    withTiles t [o.d, o.a] (.ok (s.accept c t w o.la [.t o.d.toNat] (.tcvt o.d.toNat o.a.toNat o.b.toNat))))

/-- tadd (R172). -/
def execTadd (o : XOp) : State → Out :=
  kernelOp (.tadd o) (fun c t w s =>
    withTiles t [o.d, o.a, o.b] (.ok (s.accept c t w o.la [.t o.d.toNat] (.tadd o.d.toNat o.a.toNat o.b.toNat))))

/-- tscale (R172): k[b] is read at issue. -/
def execTscale (o : XOp) : State → Out :=
  kernelOp (.tscale o) (fun c t w s =>
    withTiles t [o.d, o.a] (.ok (s.accept c t w o.la [.t o.d.toNat] (.tscale o.d.toNat o.a.toNat (w.rk o.b.toNat)))))

/-! ## The exact sum (R160 to R163) -/

/-- Element (i, j) of a tile. -/
def tileKey (t i j : Nat) : Nat := t * 4096 + i * 64 + j
def Team.tile (t : Team) (n i j : Nat) : Word := KV.get 0 (tileKey n i j) t.tiles
def Team.setTile (t : Team) (n i j : Nat) (x : Word) : Team := { t with tiles := KV.put 0 (tileKey n i j) x t.tiles }

/-- elem (R160), over the command's Cask bytes. Under the NaN scale an element reads as a quiet NaN, a signalling one too, and raises
no NV (DESIGN CHOICE; log entry 147). -/
def elemOf (rd : Nat → Nat → Nat) (r : CaskRec) (row j : Nat) : Num :=
  let b := rd (r.base + row * r.rstride + j * r.size) r.size
  let x := match r.fmt with
    | 0 => value .f16 b
    | 1 => value .bf16 b
    | 2 => value .e4m3 b
    | 3 => value .e5m2 b
    | _ => ds8Value b
  if r.blk = 0 then x
  else
    match b10Value (rd (r.scale + 2 * (row * r.nb + j / r.blen)) 2) with
    | .nan _ => .nan false
    | .fin _ m =>
      if m == 0 then .fin false 0
      else match x with
        | .fin n y => .fin n (y * m)
        | y => y
    | .inf n => .inf n

/-- One block added to the accumulator with one rounding (R162, R163). The product of a zero DS8 weight, which is +0, and a negative
element is taken as -0, the sign of every product (DEDUCED; log entry 146). -/
def accBlock (acc : Word) (ps : List (Num × Num)) : Word × FpFlags :=
  let a := value .f32 acc.toNat
  let prods := ps.map (fun p => mulNum p.1 p.2)
  let invalid := prods.any (fun p => p.2)
  let vals := prods.map (fun p => p.1)
  let snan := a.isSnan || ps.any (fun p => p.1.isSnan || p.2.isSnan)
  let clash := vals.contains (.inf true) && vals.contains (.inf false)
  let sum : Num := if invalid || clash || vals.any Num.isNan then .nan false else sumNum .rne vals
  let r := addNum .rne a sum
  let nv : FpFlags := { nv := snan || invalid || clash || r.2 }
  if r.2 then (0x7FC00000, nv)
  else
    match r.1 with
    | .nan _ => (0x7FC00000, nv)
    | y => let q := roundF y .f32 .rne false false; (BitVec.ofNat 32 q.1, q.2.join nv)

/-- Blocks of 16 positions in ascending order. -/
def accBlocks : Nat → Word → FpFlags → List (Num × Num) → Word × FpFlags
  | 0, acc, f, _ => (acc, f)
  | n + 1, acc, f, ps =>
    match ps with
    | [] => (acc, f)
    | _ => let r := accBlock acc (ps.take 16); accBlocks n r.1 (f.join r.2) (ps.drop 16)

/-- The operand pairs of element (i, n) of mma (R161, R164): `row` is A's stored row, none for one past ROWS. -/
def mmaPairs (rd : Nat → Nat → Nat) (a b : CaskRec) (row : Option Nat) (n : Nat) : List (Num × Num) :=
  let kp := max a.klen b.klen
  (List.range kp).map (fun p =>
    let pa := if b.dmap.isEmpty then p else expand b.dmap p
    let pb := if a.dmap.isEmpty then p else expand a.dmap p
    (match row with
     | some r => elemOf rd a r pa
     | none => .fin false 0, elemOf rd b n pb))

/-- The operand pairs of gmma in ascending chunk order (R166). -/
def gmmaPairs (rd : Nat → Nat → Nat) (a b : CaskRec) (c sa sb ra rb : Nat) : List (Num × Num) :=
  (List.range (64 * c)).map (fun p =>
    (elemOf rd a ra (64 * ((sa + p / 64) % (a.klen / 64)) + p % 64),
     elemOf rd b rb (64 * ((sb + p / 64) % (b.klen / 64)) + p % 64)))

/-- A tile whose element (i, n) is f of the old one; the flags are joined. -/
def Team.mapTile (t : Team) (d : Nat) (f : Nat → Nat → Word → Word × FpFlags) : Team × FpFlags :=
  (List.range 64).foldl (fun a i => (List.range 64).foldl (fun a n =>
    let r := f i n (t.tile d i n)
    (a.1.setTile d i n r.1, a.2.join r.2)) a) (t, {})

/-! ## Performing commands (R149, R157) -/

/-- A Cask byte as a running command reads it: where it has changed since the command started, its old value or the landed
one, byte by byte (R157). -/
def mixByte (old new : KV Byte) (ctr o : Nat) : Byte :=
  let a := KV.get 0 o old
  let b := KV.get 0 o new
  if a = b then a else if Config.freeValue 1 (ctr + o) = 1 then a else b

/-- Numbers of n bytes of the Cask. -/
def mixRead (old new : KV Byte) (ctr o n : Nat) : Nat := leNat ((locRange o n).map (mixByte old new ctr))

/-- What a command makes of its team's tiles, with the flags it raises. -/
def MatOp.onTiles (op : MatOp) (t : Team) (mode : Word) (rd : Nat → Nat → Nat) : Team × FpFlags :=
  let ctl : FpCtl := fpCtl (mode &&& ~~~ 16#32) {}
  match op with
  | .mma d a b gather =>
    t.mapTile d (fun i n acc =>
      let ix := rd (a.index + 2 * i) 2
      let row := if gather then (if ix < a.rows then some ix else none) else some i
      accBlocks 128 acc {} (mmaPairs rd a b row n))
  | .gmma d a b c sa sb _ =>
    (List.range 4).foldl (fun u q =>
      let r := u.1.mapTile (d + q) (fun i n acc =>
        accBlocks 128 acc {} (gmmaPairs rd a b c sa sb (i + 64 * (q / 2)) (n + 64 * (q % 2))))
      (r.1, u.2.join r.2)) (t, {})
  | .tzero d => t.mapTile d (fun _ _ _ => (0, {}))
  | .tld d cells => t.mapTile d (fun i n _ => (BitVec.ofNat 32 (leNat ((cells.getD (i * 64 + n) []).map (fun p => p.2))), {}))
  | .tcvt d a code =>
    t.mapTile d (fun i n _ => cvtCode code (modeRm mode) (cvtSat mode false code) (modeFtz mode) (t.tile a i n))
  | .tadd d a b =>
    t.mapTile d (fun i n _ =>
      let r := faddP .f32 ctl (t.tile a i n).toNat (t.tile b i n).toNat
      (BitVec.ofNat 32 r.1, r.2))
  | .tscale d a k =>
    t.mapTile d (fun i n _ =>
      let r := fmulP .f32 ctl (t.tile a i n).toNat k.toNat
      (BitVec.ofNat 32 r.1, r.2))
  | .caskrel n => (t.setRange n none, {})
  | .tmov _ _ _ _ _ | .tst _ _ => (t, {})

/-- The lanes' results of tmov (R168). -/
def MatOp.laneWrites (op : MatOp) (t : Team) (lanes : List Nat) : List (Nat × List (Reg × Word)) :=
  match op with
  | .tmov row v a s x => lanes.map (fun l =>
      let m := (s + l) % 64
      (l, [(Reg.v v, if row then t.tile a x m else t.tile a m x)]))
  | _ => []

/-- The bytes that tst writes, in ascending i and then j (R169). -/
def tstBytes (t : Team) (d : Nat) (locs : List (List Nat)) : List (Nat × Byte) :=
  locs.zipIdx.flatMap (fun p => p.1.zip (leBytes p.1.length (t.tile d (p.2 / 64) (p.2 % 64)).toNat))

/-- A queued tld whose bytes a tst of its warp has written (R149, R170). -/
def MatCmd.afterStore (ws : List (Nat × Byte)) (m : MatCmd) : MatCmd :=
  match m.op with
  | .tld d cells =>
    { m with op := .tld d (cells.map (fun e => e.map (fun p => (p.1, ((ws.reverse.find? (fun q => q.1 == p.1)).map (fun q => q.2)).getD p.2)))) }
  | _ => m

/-- The stores of tst (R170): they stand in the view of each issuing thread, and in what the warp's queued tlds load; held to the
boundary in deterministic mode. -/
def State.tstStore (s : State) (t : Team) (m : MatCmd) (ws : List (Nat × Byte)) : State :=
  let s1 : State := { s with matq := s.matq.map (fun x => if x.team == m.team && x.warp == m.warp then x.afterStore ws else x) }
  if (s.ctxOf t).det then
    s1.updWarp m.team m.warp (fun w => { w with held := insertHeld { fx := .store (m.lanes.headD 0) ws, at_ := m.at_, pc := m.pc } w.held })
  else
    (s1.wr { party := .core t.core, grid := some t.grid } ws).mapThr m.team m.warp (fun l th =>
      if m.lanes.contains l then { th with view := moveView th.view (serials s.nextSer ws) } else th)

/-- Credits returned to the subscription bound to a window (R166, R244). -/
def State.giveCredits (s : State) (team n c : Nat) : State :=
  { s with ssubs := s.ssubs.map (fun x =>
      if x.team == team && (x.cask.map CaskRec.n) == some n then { x with credits := min (x.credits + c) x.w } else x) }

/-- The command at the head of a core's engine. -/
def State.matHead (s : State) (core : Nat) : Option MatCmd := s.matq.find? (fun m => m.core == core)

/-- MATRIX_COMMAND_START (R149, R157): the engine starts the oldest command, which reads the Cask from here on. -/
def execMatrixCommandStart (s : State) : Out :=
  match s.arg with
  | .idx core =>
    match s.matHead core with
    | none => .next s
    | some m =>
      if m.started then .next s
      else
        let bytes := ((s.team? m.team).map Team.cask).getD []
        .next { s with matq := s.matq.map (fun x => if x.id == m.id then { x with started := true, bytes := bytes } else x) }
  | _ => .next s

/-- Whether what is in flight for a team has finished (R51, R150): its matrix commands. -/
def State.quiet (s : State) (t : Team) : Bool := s.matq.all (fun x => x.team != t.id)

/-- What a halt does to a team's threads (R77, R210): results that are known are written, and each thread releases every store of
its own at chip scope. -/
def State.haltEffects (s : State) (t : Team) : State :=
  let s1 := s.updTeam t.id (fun u => { u with warps := u.warps.map (fun w => w.complete (fun _ => true)) })
  if (s.ctxOf t).det then s1
  else (t.warps.flatMap (fun w => w.threads.filter Thread.live)).foldl (fun a th => a.release (.core t.core) th { scope := .chip }) s1

/-- The team stands halted. -/
def State.haltNow (s : State) (t : Team) : State := (s.haltEffects t).updTeam t.id (fun u => { u with st := .halted })

/-- The halt of a team that then goes on, as its core halts for others (R51, R210). -/
def State.pauseNow (s : State) (t : Team) : State := (s.haltEffects t).updTeam t.id (fun u => { u with st := .resident })

/-- A halt that waited for the commands in flight (R51). -/
def State.haltDue (s : State) (id : Nat) : State :=
  match s.team? id with
  | none => s
  | some t =>
    if !s.quiet t then s else if t.st = .halting then s.haltNow t else if t.st = .pausing then s.pauseNow t else s

/-- A command of a team that has been carried out: its destination is written and no longer pending, and its flags are logged once
(R162). `bytes` is the Cask as it stood when the command started. -/
def State.matDone (s : State) (t : Team) (m : MatCmd) (bytes : KV Byte) : State :=
  let r := m.op.onTiles t m.mode (mixRead bytes t.cask s.freeCtr)
  let s1 := { s with freeCtr := s.freeCtr + 262144, matq := s.matq.filter (fun x => x.id != m.id) }
  let s2 := s1.updTeam m.team (fun _ => r.1)
  let s3 := match m.op with
    | .tst d locs => s2.tstStore t m (tstBytes t d locs)
    | .gmma _ a b c _ _ true => (s2.giveCredits m.team a.n c).giveCredits m.team b.n c
    | _ => s2
  let s4 := s3.pendDone m.team m.warp m.id (m.op.laneWrites t m.lanes)
  s4.logEngine { team := m.team, warp := m.warp, pc := m.pc, unit := 0 } (m.lanes.headD 0) m.mode r.2

/-- MATRIX_COMMAND_COMPLETE (R162): the started command is carried out. -/
def execMatrixCommandComplete (s : State) : Out :=
  match s.arg with
  | .idx core =>
    match s.matHead core with
    | none => .next s
    | some m =>
      match s.team? m.team with
      | none => .next { s with matq := s.matq.filter (fun x => x.id != m.id) }
      | some t => if !m.started then .next s else .next ((s.matDone t m m.bytes).haltDue m.team)
  | _ => .next s

/-- A team's accepted commands carried out in order, before the team ends (R51, R216). -/
def State.matFinish (s : State) (id : Nat) : State :=
  ((s.matq.filter (fun m => m.team == id)).map MatCmd.id).foldl (fun a n =>
    match a.matq.find? (fun m => m.id == n), a.team? id with
    | some m, some t => a.matDone t m (if m.started then m.bytes else t.cask)
    | _, _ => a) s

/-! ## The gather unit (R158) -/

/-- Locations of words at virtual addresses, or what stops the bundle. -/
def wordLocs (s : State) (k : TaskCtx) : List Nat → Except KOut (List Nat)
  | [] => .ok []
  | va :: rest =>
    match s.recAt k va 4 with
    | .stop x => .error x
    | .loc l =>
      match wordLocs s k rest with
      | .error x => .error x
      | .ok ls => .ok (l :: ls)

/-- mgather (R158, R246): the descriptor and the index vector are read at issue. R158 lists no check of BAR: one that names no
object of the core scratchpad raises the faults of R225 at issue, after the OPERAND check (DESIGN CHOICE; log entry 145). -/
def execMgather (o : XOp) : State → Out :=
  kernelOp (.mgather o) (fun c t w s =>
    let k := s.ctxOf t
    let n := (w.rk o.b.toNat).toNat
    match s.recAt k (w.rkPair o.a.toNat).toNat 32 with
    | .stop x => x
    | .loc l =>
      let bs := s.recBytes k c t w l 32
      let ix := fieldOf bs 8 8
      let first := fieldOf bs 0x14 2
      let bar := fieldOf bs 0x18 4
      let sc := fieldOf bs 0x1C 4
      if ix % 4 ≠ 0 then .halt { cause := 3, faddr := ix }
      else
        match t.range? o.d.toNat with
        | none => matFault 2
        | some r =>
          if n = 0 ∨ 64 < n ∨ r.rows < first + n ∨ fieldOf bs 0x16 2 ≠ 0 ∨ (r.blk = 0 ∧ sc ≠ 0x80000000) then matFault 6
          else
            match scratchBar t bar with
            | some h => .halt h
            | none =>
              match wordLocs s k ((List.range n).map (fun i => (ix + 4 * i) % 18446744073709551616)) with
              | .error x => x
              | .ok ls =>
                let q := s.fresh
                let g : GatherCmd :=
                  { id := q.1, core := t.core, team := c.team, warp := c.warp, pc := c.pc, range := r, rowBase := fieldOf bs 0 8,
                    pitch := fieldOf bs 0x10 4, index := ls.map (fun x => leNat (s.recBytes k c t w x 4)), first := first,
                    bar := bar, scOff := if sc = 0x80000000 then none else some (BitVec.ofNat 32 sc).toInt,
                    round := ((s.grid? t.grid).map Grid.round).getD 0, at_ := s.tick }
                let rows := g.index.flatMap (fun x => s.gSpans k (r.klen * r.size / 4096 + 2) (g.rowBase + x * g.pitch)
                  (r.klen * r.size))
                let scales := match g.scOff with
                  | none => []
                  | some off => g.index.flatMap (fun x => s.gSpans k (2 * r.nb / 4096 + 2)
                      ((((g.rowBase + x * g.pitch : Nat) : Int) + off) % 18446744073709551616).toNat (2 * r.nb))
                .ok (({ q.2 with gathers := q.2.gathers ++ [g] }).issueRelease c t
                  ((l, l + 32) :: ls.map (fun x => (x, x + 4)) ++ rows ++ scales)))

/-- Bytes of global memory that an engine reads, byte by byte, or what stops it. -/
def State.engBytes (s : State) (t : Team) (k : TaskCtx) (x : EngFor) : List Nat → Except EngAt (List Byte)
  | [] => .ok []
  | a :: rest =>
    match s.engAt t k 0 (a % 18446744073709551616) 1 .read with
    | .loc l =>
      match s.engBytes t k x rest with
      | .error e => .error e
      | .ok bs => .ok (s.rdEng k x l 1 ++ bs)
    | e => .error e

/-- A gather leaves the unit. -/
def State.dropGather (s : State) (id : Nat) : State :=
  { s with gathers := s.gathers.filter (fun x => x.id != id), stalled := KV.put 0 id 0 s.stalled }

/-- A gather stops (R158, R421): BAR breaks and a record is written. -/
def State.gatherStop (s : State) (t : Team) (g : GatherCmd) (cause : Nat) : State :=
  ((s.breakOn t (BitVec.ofNat 32 g.bar)).dropGather g.id).engRecord
    { team := g.team, warp := g.warp, pc := g.pc, unit := 5 } cause

/-- GATHER_ROW_LANDING (R158): one row and its scales land and are counted. -/
def execGatherRowLanding (s : State) : Out :=
  match s.arg with
  | .idx2 id h =>
    match s.gathers.find? (fun g => g.id == id) with
    | none => .next s
    | some g =>
      match s.team? g.team, g.index[h]? with
      | some t, some x =>
        if t.st ≠ .resident ∨ g.done.contains h then .next s
        else
          let k := s.ctxOf t
          let r := g.range
          let a := g.rowBase + x * g.pitch
          let n := r.klen * r.size
          let row := g.first + h
          let sc := match g.scOff with
            | none => []
            | some off => (List.range (2 * r.nb)).map (fun (i : Nat) => (((a : Int) + off + (i : Int)) % 18446744073709551616).toNat)
          match s.engBytes t k { team := g.team, grid := t.grid, warp := g.warp, w := s.warp? g.team g.warp, q := none, at_ := g.at_ } ((List.range n).map (fun i => a + i) ++ sc) with
          | .error (.page p) => .next (s.stall g.id k.region p)
          | .error (.err l) => .next ((s.memErr k.seq l).gatherStop t g 4)
          | .error _ => .next (s.gatherStop t g 1)
          | .ok bs =>
            let s1 := s.updTeam g.team (fun u => (u.putCask (r.base + row * r.rstride) (bs.take n)).putCask
              (r.scale + 2 * (row * r.nb)) (bs.drop n))
            let s2 := s1.countOn { team := g.team, warp := g.warp, pc := g.pc, unit := 5, at_ := g.at_ } t (BitVec.ofNat 32 g.bar) bs.length []
            if g.done.length + 1 = g.index.length then .next (s2.dropGather g.id)
            else .next { s2 with gathers := s2.gathers.map (fun y => if y.id == id then { y with done := h :: y.done } else y),
                                 stalled := KV.put 0 id 0 s2.stalled }
      | _, _ => .next s
  | _ => .next s

end Sys2Proof.Machine
end

