-- ==== Sys2Proof/Machine/Streams.lean ====
section
/-! DEFINITION. Operand streams: opub, osub and the distributor's deliveries (R241 to R245). -/

namespace Sys2Proof.Machine

/-- The copy fault (R251). -/
def copyFault (d : Nat) : KOut := .halt { cause := 9, detail := d }

/-- Binds subscriptions of a name that wait for a publication to one that still has room, in the order accepted (R244). -/
def State.bindStream (s : State) (grid name : Nat) : State :=
  match s.spubs.find? (fun p => p.grid == grid && p.name == name) with
  | none => s
  | some p =>
    let ids := ((s.ssubs.filter (fun x => x.grid == grid && x.name == name && x.pub.isNone)).map StreamSub.id).take
      (p.subs - p.served.length)
    { s with spubs := s.spubs.map (fun y => if y.id == p.id then { y with served := y.served ++ ids } else y),
             ssubs := s.ssubs.map (fun x => if ids.contains x.id then { x with pub := some p.id } else x) }

/-- opub (R242). -/
def execOpub (o : XOp) : State → Out :=
  kernelOp (.opub o) (fun c t w s =>
    let k := s.ctxOf t
    let d := (w.rk o.d.toNat).toNat
    let b := (w.rk o.b.toNat).toNat
    match s.recAt k (w.rkPair o.a.toNat).toNat 32 with
    | .stop x => x
    | .loc l =>
      let bs := s.recBytes k c t w l 32
      let rows := fieldOf bs 0x10 2
      let rb := fieldOf bs 0x12 2
      let count := fieldOf bs 0x14 2
      let pbar := fieldOf bs 0x18 4
      if 256 ≤ d ∨ 64 ≤ b then copyFault 5
      else if b = 0 ∨ rows = 0 ∨ 128 < rows ∨ rb % 64 ≠ 0 ∨ rb = 0 ∨ 4096 < rb ∨ count = 0 ∨ fieldOf bs 0x16 2 ≠ 0 ∨
          fieldOf bs 0x1C 4 ≠ 0 then copyFault 1
      else
        let go (bar : Option Nat) : KOut :=
          if s.spubs.any (fun p => p.grid == t.grid && p.name == d) then copyFault 4
          else
            let r := s.fresh
            let p : StreamPub :=
              { id := r.1, grid := t.grid, name := d, team := c.team, warp := c.warp, core := t.core, pc := c.pc, ctx := k,
                index := t.index, at_ := s.tick,
                src := fieldOf bs 0 8, cpitch := fieldOf bs 8 4, rpitch := fieldOf bs 0xC 4, rows := rows, rowBytes := rb,
                count := count, pbar := bar, subs := b }
            let spans := (List.range count).flatMap (fun h => (List.range rows).flatMap (fun i =>
              s.gSpans k 3 (p.src + h * p.cpitch + i * p.rpitch) rb))
            .ok ((({ r.2 with spubs := r.2.spubs ++ [p] }).issueRelease c t ((l, l + 32) :: spans)).bindStream t.grid d)
        if pbar = 0xFFFFFFFF then go none
        else
          match s.barAddr t k (BitVec.ofNat 32 pbar) .write with
          | .error h => .halt h
          | .ok b => go (some b.2))

/-- osub (R243): a subscription, or credits returned to one. A return to a subscription that has ended after its last chunk counts as
one to a name not subscribed to (DESIGN CHOICE; log entry 171). -/
def execOsub (o : XOp) : State → Out :=
  kernelOp (.osub o) (fun c t w s =>
    let k := s.ctxOf t
    let d := (w.rk o.d.toNat).toNat
    let a0 := w.rk o.a.toNat
    let a1 := w.rk (o.a.toNat + 1)
    let b := (w.rk o.b.toNat).toNat
    let name := d % 256
    let mine := s.ssubs.filter (fun x => x.team == c.team)
    if d / 2 ^ 31 = 1 then
      if d / 256 % 2 ^ 23 ≠ 0 ∨ a0 ≠ 0 ∨ a1 ≠ 0 ∨ 65536 ≤ b then copyFault 5
      else
        match mine.find? (fun x => x.name == name) with
        | none => copyFault 4
        | some x =>
          if x.w < x.credits + b then copyFault 4
          else .ok { s with ssubs := s.ssubs.map (fun y => if y.id == x.id then { y with credits := y.credits + b } else y) }
    else
      let scr := d / 2 ^ 19 % 2 == 1
      let n := d / 2 ^ 16 % 8
      let win := d / 256 % 16 + 1
      if d / 2 ^ 20 % 2 ^ 11 ≠ 0 ∨ d / 2 ^ 12 % 16 ≠ 0 ∨ (!scr ∧ a1 ≠ 0) ∨ 16 ≤ b then copyFault 5
      else
        match s.barAddr t k a0 .write with
        | .error h => .halt h
        | .ok _ =>
          let rangeBad := !scr && (match t.range? n with
            | none => true
            | some r => r.hasMap || r.index != 0xFFFFFFFF)
          if 8 ≤ mine.length ∨ mine.any (fun x => x.name == name) ∨ rangeBad then copyFault 4
          else
            let r := s.fresh
            let x : StreamSub :=
              { id := r.1, grid := t.grid, name := name, team := c.team, warp := c.warp, pc := c.pc, w := win, credits := win,
                at_ := s.tick, cask := if scr then none else t.range? n, base := a1.toNat, bar := a0.toNat, first := b }
            .ok (({ r.2 with ssubs := r.2.ssubs ++ [x] }).bindStream t.grid name))

/-! ## Deliveries (R244) -/

/-- Slots of a subscription's window for a publication's chunks. -/
def StreamSub.slots (x : StreamSub) (p : StreamPub) : Nat :=
  match x.cask with
  | some r => r.klen * r.size / p.rowBytes
  | none => x.w

/-- The check that the device makes at the first delivery. -/
def StreamSub.fits (x : StreamSub) (p : StreamPub) (t : Team) : Bool :=
  decide (x.w ≤ x.slots p) && decide (x.first < x.slots p) &&
    (match x.cask with
     | some r => decide (p.rows ≤ r.rows)
     | none => decide (x.base + x.w * p.rows * p.rowBytes ≤ Space.range t .s))

/-- A subscription ends. -/
def State.dropSub (s : State) (id : Nat) : State := { s with ssubs := s.ssubs.filter (fun x => x.id != id) }

def StreamSub.eng (x : StreamSub) : EngCtx := { team := x.team, warp := x.warp, pc := x.pc, unit := 6, at_ := x.at_, part := x.next }
def StreamPub.eng (p : StreamPub) : EngCtx :=
  { team := p.team, warp := p.warp, pc := p.pc, unit := 6, at_ := p.at_, part := p.counted }

/-- An ENGINE record of a publication, whose team may have ended (R245, R408). -/
def State.pubRecord (s : State) (p : StreamPub) (cause : Nat) : State := s.engineErr p.ctx cause 6 p.warp p.index p.pc.toNat

/-- PBAR counts one chunk. -/
def State.countPbar (s : State) (p : StreamPub) : State :=
  match p.pbar with
  | none => s
  | some l => if s.objBarred p.ctx l then s.pubRecord p 1
    else s.countAt p.eng p.ctx p.core p.grid p.index l (p.rows * p.rowBytes) []

/-- PBAR counts each chunk once after every served subscription has received it; a publication whose chunks are all counted
is finished. -/
def State.countChunks (s : State) (id : Nat) : Nat → State
  | 0 => s
  | n + 1 =>
    match s.spubs.find? (fun p => p.id == id) with
    | none => s
    | some p =>
      if p.count ≤ p.counted then { s with spubs := s.spubs.filter (fun y => y.id != id), stalled := KV.put 0 id 0 s.stalled }
      else if p.served.length = p.subs ∧ s.ssubs.all (fun x => !p.served.contains x.id || decide (p.counted < x.next)) then
        let s1 := s.countPbar p
        let s2 : State := { s1 with spubs := s1.spubs.map (fun (y : StreamPub) =>
          if y.id == id then { y with counted := y.counted + 1 } else y) }
        s2.countChunks id n
      else s

/-- A publication stops at a forbidden page or an error of R421: its barrier and those of the subscriptions it serves break
(log entry 14). -/
def State.pubStop (s : State) (p : StreamPub) (cause : Nat) : State :=
  let s1 := match p.pbar with
    | some l => if s.objBarred p.ctx l then s else s.barBreak (locSpace l) (.core p.core) l
    | none => s
  let s2 := (s1.ssubs.filter (fun x => p.served.contains x.id)).foldl (fun a x =>
    match a.team? x.team with
    | some t => (a.breakOn t (BitVec.ofNat 32 x.bar)).dropSub x.id
    | none => a.dropSub x.id) s1
  ({ s2 with spubs := s2.spubs.filter (fun y => y.id != p.id), stalled := KV.put 0 p.id 0 s2.stalled }).pubRecord p cause

/-- Publications that ended subscriptions have left behind: their chunks are counted on. -/
def State.countLeft (s : State) : State := (s.spubs.map StreamPub.id).foldl (fun a i => a.countChunks i 65536) s

/-- One chunk's rows landed in a subscription's slot. -/
def State.landChunk (s : State) (t : Team) (x : StreamSub) (p : StreamPub) (rows : List (List Byte)) : State :=
  let slot := (x.first + x.next) % x.slots p
  match x.cask with
  | some r =>
    (s.updTeam x.team (fun u => rows.zipIdx.foldl (fun v q =>
      v.putCask (r.base + q.2 * r.rstride + slot * p.rowBytes) q.1) u)).countOn x.eng t (BitVec.ofNat 32 x.bar)
      (p.rows * p.rowBytes) []
  | none =>
    let ws := atLoc (t.locOf .s (x.base + slot * p.rows * p.rowBytes)) rows.flatten
    (s.wr { party := .core t.core, grid := some t.grid } ws).countOn x.eng t (BitVec.ofNat 32 x.bar) (p.rows * p.rowBytes) (engEntries t.core s.nextSer ws)

/-- The rows of a chunk, read at the source. -/
def State.chunkRows (s : State) (t : Team) (k : TaskCtx) (x : EngFor) (p : StreamPub) (h : Nat) :
    Nat → Except EngAt (List (List Byte))
  | 0 => .ok []
  | n + 1 =>
    match s.chunkRows t k x p h n with
    | .error e => .error e
    | .ok rs =>
      match s.engBytes t k x ((List.range p.rowBytes).map (fun i => p.src + h * p.cpitch + n * p.rpitch + i)) with
      | .error e => .error e
      | .ok r => .ok (rs ++ [r])

/-- STREAM_CHUNK_DELIVERY (R244): the next chunk of a publication lands for one of the subscriptions it serves. -/
def execStreamChunkDelivery (s : State) : Out :=
  match s.arg with
  | .idx2 pid sid =>
    match s.spubs.find? (fun p => p.id == pid), s.ssubs.find? (fun x => x.id == sid) with
    | some p, some x =>
      match s.team? x.team with
      | none => .next s
      | some t =>
        if x.pub ≠ some pid ∨ x.credits = 0 ∨ t.st ≠ .resident ∨ p.count ≤ x.next then .next s
        else if x.next = 0 ∧ !x.fits p t then
          .next ((((s.breakOn t (BitVec.ofNat 32 x.bar)).engRecord x.eng 3).dropSub sid).countChunks pid 65536)
        else
          let k := s.ctxOf t
          match s.chunkRows t k { team := p.team, grid := p.grid, warp := p.warp, w := s.warp? p.team p.warp, q := none, at_ := p.at_ } p x.next p.rows with
          | .error (.page q) => .next (s.stall pid k.region q)
          | .error (.err l) => .next ((s.memErr k.seq l).pubStop p 4)
          | .error _ => .next (s.pubStop p 1)
          | .ok rows =>
            let s1 := s.landChunk t x p rows
            let s2 := if x.next + 1 = p.count then s1.dropSub sid
              else { s1 with ssubs := s1.ssubs.map (fun y =>
                if y.id == sid then { y with next := y.next + 1, credits := y.credits - 1 } else y) }
            .next (({ s2 with stalled := KV.put 0 pid 0 s2.stalled }).countChunks pid 65536)
    | _, _ => .next s
  | _ => .next s

end Sys2Proof.Machine
end

