-- ==== Sys2Proof/Machine/Frames.lean ====
section
/-! DEFINITION. Frame objects and stream records in memory (R256 to R260, R263): their fields and the device's updates. -/

namespace Sys2Proof.Machine

/-! ## Frame objects (R256, R257) -/

def State.frameAddr (s : State) (f : Nat) : Nat := s.frameBase.toNat / 4096 * 4096 + 128 * f

/-- A field of n bytes at offset o of frame f. -/
def State.frameField (s : State) (f o n : Nat) : Nat := s.rdPhys (s.frameAddr f + o) n

def State.framePtimeOf (s : State) (f : Nat) : Nat := s.frameField f 0 8
def State.frameStream (s : State) (f : Nat) : Nat := s.frameField f 0x0E 2
def State.frameCtl (s : State) (f : Nat) : Nat := s.frameField f 0x18 4
def State.frameMargin (s : State) (f : Nat) : Nat := s.frameField f 0x1C 4
def State.frameSt (s : State) (f : Nat) : Nat := s.frameCtl f % 8
def State.frameDone (s : State) (f : Nat) : Bool := s.frameCtl f / 512 % 2 == 1
def State.frameSealed (s : State) (f : Nat) : Bool := s.frameCtl f / 256 % 2 == 1
def State.frameSubst (s : State) (f : Nat) : Nat := s.frameCtl f / 16 % 4
def State.frameBound (s : State) (f : Nat) : Nat := s.frameField f 0x40 4

/-- A frame's deadline (R257): PTIME less MARGIN. -/
def State.frameDl (s : State) (f : Nat) : Nat := s.framePtimeOf f - s.frameMargin f

/-- A device update of a frame object, published at chip scope as it is made (R257). -/
def State.frameWr (s : State) (f : Nat) (fields : List (Nat × List Byte)) : State :=
  s.wrPub .chip .unit none (fields.flatMap (fun p => atLoc (locPhys (s.frameAddr f + p.1)) p.2))

/-- CTL with STATE and bits set and cleared. -/
def ctlSet (ctl st set clear : Nat) : Nat :=
  ((BitVec.ofNat 32 ctl &&& ~~~(BitVec.ofNat 32 (clear + 7))) ||| BitVec.ofNat 32 (set + st)).toNat

def bDone : Nat := 512
def bSealed : Nat := 256
def bBlacked : Nat := 1024
def bMissed : Nat := 2048

/-- The states of R257. -/
def fsOpen : Nat := 0
def fsRendering : Nat := 1
def fsReady : Nat := 2
def fsPresented : Nat := 3
def fsLate : Nat := 4
def fsSubst : Nat := 5

/-- A change of STATE and of CTL's bits, with further fields, as one update. -/
def State.frameGo (s : State) (f st set clear : Nat) (more : List (Nat × List Byte)) : State :=
  s.frameWr f ((0x18, leBytes 4 (ctlSet (s.frameCtl f) st set clear)) :: more)

/-- SEALED set or cleared (R258, R289). -/
def State.frameSeal (s : State) (f : Nat) (on : Bool) : State :=
  s.frameGo f (s.frameSt f) (if on then bSealed else 0) (if on then 0 else bSealed) []

/-- BOUND raised or lowered (R258). -/
def State.frameBind (s : State) (f : Nat) (up : Bool) : State :=
  s.frameWr f [(0x40, leBytes 4 (if up then s.frameBound f + 1 else s.frameBound f - 1))]

/-- The deadline row of R258: OPEN or RENDERING goes LATE. -/
def State.frameLate (s : State) (f : Nat) : State :=
  if s.frameDone f = false ∧ (s.frameSt f = fsOpen ∨ s.frameSt f = fsRendering) then s.frameGo f fsLate 0 0 [] else s

/-- Open frames: DONE is 0 (R257). There is no table before the house firmware has written it (R256). -/
def State.openFrames (s : State) : List Nat :=
  if !s.tables then [] else (List.range 1024).filter (fun f => !s.frameDone f)

/-! ## Stream records (R263) -/

def State.streamAddr (s : State) (i : Nat) : Nat := s.streamBase.toNat / 4096 * 4096 + 128 * i
def State.streamField (s : State) (i o n : Nat) : Nat := s.rdPhys (s.streamAddr i + o) n
def State.streamWr (s : State) (i o : Nat) (bs : List Byte) : State :=
  s.wrPub .chip .unit none (atLoc (locPhys (s.streamAddr i + o)) bs)

/-- An installed stream. -/
def State.stream? (s : State) (i : Nat) : Option MediaStream := s.streams.find? (fun m => m.id == i)
def State.updStream (s : State) (i : Nat) (f : MediaStream → MediaStream) : State :=
  { s with streams := s.streams.map (fun m => if m.id == i then f m else m) }

/-- The pgroup of a format: bytes and pixels covered (R264). -/
def pgroup (sampling depth : Nat) : Nat × Nat :=
  if sampling = 0 then (if depth = 8 then (4, 2) else if depth = 10 then (5, 2) else (6, 2))
  else if depth = 10 then (15, 4) else (9, 2)

/-- Bytes of a line's pgroups. -/
def lineBytes (sampling depth width : Nat) : Nat :=
  let g := pgroup sampling depth
  (width + g.2 - 1) / g.2 * g.1

end Sys2Proof.Machine
end

