-- ==== Sys2Proof/WellFormed.lean ====
section
/-! DEFINITION. WellFormed: what makes an instruction one that the encoding tables allow: the static checks of R78 pass,
its modifiers are those its row accepts (R75), a reduction's kind is assigned (R219), and a task record holds the opcode of
its task (R80). -/

namespace Sys2Proof

/-- The modifier fields of an instruction; the default where it takes none. -/
def Instr.mods : Instr → Mods
  | .iadd o | .isub o | .imul o | .imulhi o | .imac o | .imin o | .imax o | .iminu o | .imaxu o | .and o |
    .or o | .xor o | .andn o | .shl o | .shr o | .sar o | .rot o | .bfe o | .bfi o | .popc o | .clz o |
    .brev o | .bsel o | .sel o | .icmp o | .iaddc o | .lea o | .mov o | .fadd o | .fsub o | .fmul o | .ffma o |
    .fmin o | .fmax o | .fcmp o | .fclass o | .hadd2 o | .hmul2 o | .hfma2 o | .bfma2 o | .cvt o | .fdiv o |
    .frcp o | .frsq o | .fsqrt o | .fexp2 o | .flog2 o | .fsinp o | .fcosp o | .iaddImm o | .imulImm o |
    .iminImm o | .imaxImm o | .iminuImm o | .imaxuImm o | .andImm o | .orImm o | .xorImm o | .shlImm o |
    .shrImm o | .sarImm o | .rotImm o | .icmpImm o | .movImm o | .faddImm o | .fmulImm o | .fminImm o |
    .fmaxImm o | .ffmaImm o | .fcmpImm o | .leaImm o | .ldG o | .ldS o | .ldC o | .ldX o | .ldL o | .ldK o |
    .stG o | .stS o | .stC o | .stX o | .stL o | .ldGSubword o | .ldSSubword o | .ldXSubword o |
    .stGSubword o | .stSSubword o | .stXSubword o | .atomS o | .atomC o | .atomG o | .atomX o | .redS o |
    .redG o | .redX o | .fenceR o | .phase o | .prefetchG o | .arrive o | .wait o | .bartest o => o.m
  | _ => {}

/-- The opcode byte of a task constructor's record (R80). -/
def Instr.taskOpcode : Instr → Option (Byte × Byte)
  | .tNop t => some (t.opcode, 0)
  | .tHalt t => some (t.opcode, 1)
  | .tFence t => some (t.opcode, 2)
  | .tJmp t => some (t.opcode, 3)
  | .tCall t => some (t.opcode, 4)
  | .tRet t => some (t.opcode, 5)
  | .tKern t => some (t.opcode, 16)
  | .tDraw t => some (t.opcode, 17)
  | .tCopy t => some (t.opcode, 18)
  | .tFill t => some (t.opcode, 19)
  | .tFeed t => some (t.opcode, 20)
  | .tColl t => some (t.opcode, 21)
  | .tTbar t => some (t.opcode, 22)
  | .tFrame t => some (t.opcode, 32)
  | .tPresent t => some (t.opcode, 33)
  | .tSlot t => some (t.opcode, 34)
  | .tStream t => some (t.opcode, 35)
  | .tPool t => some (t.opcode, 48)
  | .tBuf t => some (t.opcode, 49)
  | .tRelease t => some (t.opcode, 50)
  | .tMap t => some (t.opcode, 51)
  | .tBvh t => some (t.opcode, 52)
  | .tSig t => some (t.opcode, 56)
  | .tWait t => some (t.opcode, 57)
  | _ => none

/-- exch and cas are not assigned in red (R219). -/
def Instr.redKindOk : Instr → Bool
  | .redS o | .redG o | .redX o => o.kind != 9 && o.kind != 10
  | _ => true

/-- Whether an opcode is one of R80. -/
def assignedTask (b : Byte) : Bool :=
  decide (b.toNat ≤ 5) || (decide (16 ≤ b.toNat) && decide (b.toNat ≤ 22)) ||
  (decide (32 ≤ b.toNat) && decide (b.toNat ≤ 35)) || (decide (48 ≤ b.toNat) && decide (b.toNat ≤ 52)) ||
  b == 56 || b == 57

/-- A well-formed instruction. -/
def Instr.wf (i : Instr) : Bool :=
  i.staticDetail == none && (i.mods.bits &&& ~~~ i.modMask) == 0 && i.redKindOk &&
  (match i.taskOpcode with
   | some p => p.1 == p.2
   | none => true) &&
  (match i with
   | .reservedTaskOpcode t => !assignedTask t.opcode
   | _ => true)

end Sys2Proof
end

