-- ==== Sys2Proof/Machine/Fetch.lean ====
section
/-! DEFINITION. Fetching: the choice of a group (R47, R186), the fetch of its bundle, and the next task record (R273). -/

namespace Sys2Proof.Machine

/-! ## Groups (R47, R186) -/

/-- Whether a warp's groups may issue: its team is resident, it is not halted, and in deterministic mode its share of the
round has not ended (R182). -/
def Warp.runs (w : Warp) (t : Team) (k : TaskCtx) (q : Nat) : Bool :=
  decide (t.st = .resident) && w.halt.isNone &&
    !(k.det && (w.shareEnd || decide (q ≤ (w.retired - w.roundBase).toNat)))

/-- The lanes of a warp that stand at an address and can issue. -/
def Warp.lanesAt (w : Warp) (pc : DWord) : List Nat :=
  (List.range w.width).filter (fun l => (w.thr l).canIssue && (w.thr l).pc == pc)

/-- The distinct addresses at which threads of the warp can issue, in lane order. -/
def Warp.pcs (w : Warp) : List DWord :=
  ((List.range w.width).filter (fun l => (w.thr l).canIssue)).foldl
    (fun acc l => if acc.contains (w.thr l).pc then acc else acc ++ [(w.thr l).pc]) []

/-- A candidate group with its key: ready time or fewest bundles issued, program counter, then warp slot or lowest lane. -/
structure Cand where
  key : List Nat
  ctx : Ctx

/-- The candidate of least key; the first of equals. -/
def bestCand : List Cand → Option Cand
  | [] => none
  | c :: t =>
    match bestCand t with
    | none => some c
    | some d => if lexLt d.key c.key then some d else some c

def minOf : List Nat → Nat
  | [] => 0
  | [a] => a
  | a :: t => min a (minOf t)

/-- Whether the operands of a lane's next instruction are ready, and nothing else keeps it from issuing. -/
def State.laneReady (s : State) (t : Team) (k : TaskCtx) (w : Warp) (l : Nat) : Bool :=
  (w.thr l).canIssue &&
    (match s.bundle k (w.thr l).pc with
     | .ok (_, i) => !w.blocked l (uses w.width i) && !s.holdsBack t w [l] i
     | .error _ => true)

/-- The group of a warp at one address in default mode: the threads whose operands are ready (R47). -/
def State.groupAt (s : State) (t : Team) (k : TaskCtx) (wi : Nat) (w : Warp) (pc : DWord) : Option Cand :=
  match (w.lanesAt pc).filter (s.laneReady t k w) with
  | [] => none
  | ok => some { key := [minOf (ok.map (fun l => (w.thr l).ready)), pc.toNat, w.slot],
                 ctx := { team := t.id, warp := wi, lanes := ok, pc := pc, words := [] } }

/-- The groups of a warp in deterministic mode, whether their operands are ready or not (R186), without those that stand still
until the boundary (R182). Members that have issued different numbers of bundles make their group's number the least of theirs
(DESIGN CHOICE; log entry 141). -/
def State.detGroups (s : State) (t : Team) (k : TaskCtx) (wi : Nat) (w : Warp) : List Cand :=
  let ms := (List.range w.width).filter (fun l => (w.thr l).member)
  let pcs := ms.foldl (fun acc l => if acc.contains (w.thr l).pc then acc else acc ++ [(w.thr l).pc]) []
  (pcs.filter (fun pc => !s.groupHeld k w pc)).map (fun pc =>
    let ls := w.groupOf pc
    { key := [minOf (ls.map (fun l => (w.thr l).issued)), pc.toNat, minOf ls],
      ctx := { team := t.id, warp := wi, lanes := ls, pc := pc, words := [] } })

/-- Whether a warp's groups issue from a quad: a 64-wide warp holds a pair of quads (R43). -/
def Warp.onQuad (w : Warp) (q : Nat) : Bool := w.quad == q || (w.width == 64 && w.quad / 2 == q / 2)

/-- Candidate groups of one warp. In deterministic mode the warp has one, which R186 chooses among all its groups, and which
issues once the operands of all its members are ready. -/
def State.warpCands (s : State) (t : Team) (wi : Nat) (w : Warp) : List Cand :=
  let k := s.ctxOf t
  if w.runs t k (s.quantumOf k.region) then
    if k.det then
      match bestCand (s.detGroups t k wi w) with
      | none => []
      | some c =>
        if c.ctx.lanes.all (s.laneReady t k w) then
          [{ c with key := [minOf (c.ctx.lanes.map (fun l => (w.thr l).ready)), c.ctx.pc.toNat, w.slot] }]
        else []
    else w.pcs.filterMap (s.groupAt t k wi w)
  else []

/-- Whether a thread is ready for its current instruction (R47): its warp may issue, and its operands are ready. -/
def State.threadReady (s : State) (t : Team) (k : TaskCtx) (w : Warp) (l : Nat) : Bool :=
  w.runs t k (s.quantumOf k.region) && s.laneReady t k w l

/-- A warp whose threads that are not ready take the present clock as the one before which they were not (R47). -/
def State.restampWarp (s : State) (t : Team) (w : Warp) : Warp :=
  w.mapThr (fun l th =>
    if th.live && !th.exited && !s.threadReady t (s.ctxOf t) w l then { th with ready := s.tick } else th)

/-- Every warp so: the ready time of a thread that waits for its operands, or for a place, is the clock at which it has them (R47). -/
def State.restamp (s : State) : State :=
  { s with teams := s.teams.map (fun t => { t with warps := t.warps.map (s.restampWarp t) }) }

/-- The group that a quad issues next, or none (R47). -/
def State.pick (s : State) (core quad : Nat) : Option Ctx :=
  (bestCand ((s.teams.filter (fun t => t.core == core)).flatMap (fun t =>
    (t.warps.zipIdx.filter (fun p => p.1.onQuad quad)).flatMap (fun p => s.warpCands t p.2 p.1)))).map Cand.ctx

/-- What the fetch of a group's bundle comes to: an instruction to run over a state whose `cur` is the group, or the state
after the stop. -/
inductive Fetched where
  | run (i : Instr) (s : State)
  | stop (s : State)

/-- Fetches the bundle of a group (R53): a forbidden page halts the warp, a page that is not resident stalls the group. -/
def State.fetch (s : State) (c : Ctx) : Fetched :=
  match s.team? c.team with
  | none => .stop s
  | some t =>
    let k := s.ctxOf t
    match s.bundle k c.pc with
    | .ok (hs, i) => .run i { s with cur := some { c with words := hs } }
    | .error (.bad d va) => .stop (s.haltWarp c { cause := 4, detail := d, lane := minOf c.lanes, faddr := va } false)
    | .error (.page p) => .stop (s.pageWait c t [p])
    | .error (.err va l) =>
      .stop ((s.memErr k.seq l).haltWarp c { cause := 15, lane := minOf c.lanes, faddr := va } false)

/-! ## Task records (R273, R276) -/

/-- The record at the decode address, as the device reads it: the bytes published at system scope (R208, R273). -/
def State.taskWords (s : State) : List Word :=
  (List.range 8).map (fun i => BitVec.ofNat 32 (s.rdUnitNat .system (locPhys (s.win.dpc + 4 * i)) 4))

/-- The ring index of the decode address, when it lies inside the ring (R273). -/
def Window.ringIndex (w : Window) : Option Nat :=
  if w.base ≤ w.dpc ∧ w.dpc < w.base + 32 * 2 ^ w.log2 then some ((w.dpc - w.base) / 32) else none

/-- Whether decode has a record to read (R276, R277): the stream decodes, the ring is not empty there, and an entry is
free. -/
def Window.canDecode (w : Window) : Bool :=
  decide (w.st = .running) && !w.stopped && decide (w.ringIndex ≠ some w.tail) && decide (w.entries.length < 512)

/-- The next task as decode reads it. -/
def State.nextTask (s : State) : Option Instr := if s.win.canDecode then decodeTask s.taskWords else none

/-! ## Moves -/

/-- A pending instruction whose results are known, for the step that completes it (R76). -/
def State.readyPend (s : State) : Option (Nat × Nat × Nat) :=
  (s.teams.flatMap (fun t => t.warps.zipIdx.flatMap (fun p =>
    (p.1.pend.zipIdx.filter (fun q => q.1.ready && !q.1.done)).map (fun q => (t.id, p.2, q.2))))).head?

/-- Rows of the opcode table that have no words: the moves of the units and of the outside world. -/
def isMove (i : Instr) : Bool :=
  (encode i).isEmpty && i.taskOpcode.isNone &&
    (match i with
     | .illegalEncoding _ | .reservedTaskOpcode _ => false
     | _ => true)

/-- What the presentation clock gains in dt ns of its oscillator: none in FREERUN; else the frequency correction, in parts of
10^9, with the fraction of a ns that is left over (R106, R254). -/
def Servo.gain (v : Servo) (dt : Nat) : Int × Int :=
  if v.st = .freerun then (0, v.frac) else ((dt * v.freq + v.frac) / 1000000000, (dt * v.freq + v.frac) % 1000000000)

/-- Time passes: the model's own count and the presentation clock, of 64 bits (R17, R106, R252, R254; log entry 1), which a device held
in a level 3 reset does not count (R428, R441). -/
def State.elapse (s : State) (dt : Nat) : State :=
  { s with
    now := s.now + dt
    ptime := if s.extest then s.ptime else (((s.ptime : Int) + dt + (s.servo.gain dt).1) % 18446744073709551616).toNat
    servo := { s.servo with frac := if s.extest then s.servo.frac else (s.servo.gain dt).2 } }

/-- A stored byte changes so that the codes of R420 cannot correct it: its block of 64 bytes is lost (R421). -/
def State.upset (s : State) (l : Nat) : State :=
  { s with bad := if s.bad.contains (l / 64 * 64) then s.bad else (l / 64 * 64) :: s.bad }

end Sys2Proof.Machine
end

