-- ==== Sys2Proof/Machine/Teams.lean ====
section
/-! DEFINITION. Grids and teams: kernel descriptors (R87, R88), the room a team takes on a core (R43, R44), the orders of
teams (R179, R309), instantiation (R45, R46), and how teams and grids end or are stopped (R38, R303, R417, R419). -/

namespace Sys2Proof.Machine

/-! ## Kernel descriptors (R87, R88) -/

/-- A descriptor's 128 bytes at an address. -/
def descOf (va : Nat) (bs : List Byte) : KDesc :=
  { base := va, entry := (((va : Int) + ifieldOf bs 0 8) % 18446744073709551616).toNat, warp := fieldOf bs 8 1,
    vregs := fieldOf bs 9 1, tiles := fieldOf bs 0xA 1, barriers := fieldOf bs 0xB 1, persist := fieldOf bs 0xC 2 / 8 % 2 == 1,
    kind := fieldOf bs 0xC 2 % 8, lslice := fieldOf bs 0xE 2, scratch := fieldOf bs 0x10 4, cluster := fieldOf bs 0x14 4,
    cask := fieldOf bs 0x18 4, tx := fieldOf bs 0x1C 2, ty := fieldOf bs 0x1E 2, tz := fieldOf bs 0x20 2,
    gangX := fieldOf bs 0x22 1, gangY := fieldOf bs 0x23 1, codeSize := fieldOf bs 0x28 4 }

def KDesc.threads (d : KDesc) : Nat := d.tx * d.ty * d.tz
/-- Warps of a team (R40). -/
def KDesc.nWarps (d : KDesc) : Nat := (d.threads + d.warp - 1) / d.warp
/-- Teams of a gang; 1 without a gang shape. -/
def KDesc.gang (d : KDesc) : Nat := max (d.gangX * d.gangY) 1

/-- Fields in range and multiples of their units (R87), reserved bytes 0. -/
def descFields (d : KDesc) (bs : List Byte) : Bool :=
  (d.warp == 16 || d.warp == 32 || d.warp == 64) && decide (1 ≤ d.vregs) && decide (d.vregs ≤ 64) && decide (d.tiles ≤ 16) &&
    decide (d.barriers ≤ 32) && decide (fieldOf bs 0xC 2 < 16) && decide (d.kind ≤ 2) && d.lslice % 64 == 0 &&
    decide (d.lslice ≤ 2048) && d.scratch % 1024 == 0 && decide (d.scratch ≤ 327680) && d.cluster % 1024 == 0 &&
    decide (d.cluster ≤ 524288) && d.cask % 4096 == 0 && decide (d.cask ≤ 262144) && decide (1 ≤ d.threads) &&
    decide (d.threads ≤ 2048) &&
    ((d.gangX == 0 && d.gangY == 0) || (decide (1 ≤ d.gangX * d.gangY) && decide (d.gangX * d.gangY ≤ 16))) &&
    fieldOf bs 0x24 1 == 1 && fieldOf bs 0x25 3 == 0 && (bs.drop 0x2C).all (· == 0) && fieldOf bs 0 8 % 2 == 0

/-! ## Room on a core (R43, R44) -/

/-- What the teams on a core take: threads and slice bytes of each of its 128 lanes, warp slots of each quad, and the other
resources; `lent` is what the core lends. -/
structure CoreUse where
  lanes   : List (Nat × Nat) := List.replicate 128 (0, 0)
  slots   : List Nat := [0, 0, 0, 0]
  scratch : Nat := 0
  tiles   : Nat := 0
  cask    : Nat := 0
  lent    : Nat := 0
deriving DecidableEq, Repr

/-- Bytes that each core of a cluster lends for an allocation (R44). -/
def lendShare (cluster : Nat) : Nat := (cluster + 131071) / 131072 * 32768

/-- Scratchpad bytes of a team: .scratch and the barrier objects, by the KiB (R43). -/
def KDesc.scratchUse (d : KDesc) : Nat := (d.scratch + 32 * d.barriers + 1023) / 1024 * 1024

/-- A place for a warp: its quad (the lower one of a pair) and half. -/
structure WPlace where
  quad : Nat
  half : Nat
deriving DecidableEq, Repr

/-- Candidate places of a width (R43). -/
def places (width : Nat) : List WPlace :=
  match width with
  | 16 => (List.range 4).flatMap (fun q => [⟨q, 0⟩, ⟨q, 1⟩])
  | 32 => (List.range 4).map (fun q => ⟨q, 0⟩)
  | _ => [⟨0, 0⟩, ⟨2, 0⟩]

/-- The lanes of the core under the first n threads of a warp at a place. -/
def placeLanes (p : WPlace) (n : Nat) : List Nat := (List.range n).map (fun i => p.quad * 32 + p.half * 16 + i)

/-- Quads whose warp slots a place takes. -/
def placeQuads (width : Nat) (p : WPlace) : List Nat := if width = 64 then [p.quad, p.quad + 1] else [p.quad]

/-- Contexts free on a lane for threads with a slice. -/
def laneFree (slice : Nat) (u : Nat × Nat) : Nat :=
  let a := 16 - u.1
  if slice = 0 then a else min a ((2048 - u.2) / slice)

/-- The least of the free contexts under a warp with n threads. -/
def CoreUse.free (u : CoreUse) (slice n : Nat) (p : WPlace) : Nat :=
  minOf ((placeLanes p n).map (fun l => laneFree slice (u.lanes.getD l (0, 0))))

/-- The candidate with the largest number; the first of equals. -/
def bestPlace (f : WPlace → Nat) : List WPlace → Option WPlace
  | [] => none
  | p :: t =>
    match bestPlace f t with
    | none => some p
    | some q => if f p < f q then some q else some p

/-- Places one warp with n threads (R43). -/
def CoreUse.addWarp (u : CoreUse) (width slice n : Nat) : Option (CoreUse × WPlace) :=
  let ok := (places width).filter (fun p => (placeQuads width p).all (fun q => u.slots.getD q 0 < 32) && decide (0 < u.free slice n p))
  (bestPlace (u.free slice n) ok).map (fun p =>
    ({ u with lanes := (placeLanes p n).foldl (fun ls l => updAt (fun x => (x.1 + 1, x.2 + slice)) l ls) u.lanes,
              slots := (placeQuads width p).foldl (fun ss q => updAt (· + 1) q ss) u.slots }, p))

/-- Places the warps of a team in order; `left` threads are still to be placed. -/
def CoreUse.addWarps (u : CoreUse) (d : KDesc) : Nat → Nat → Option (CoreUse × List WPlace)
  | 0, _ => some (u, [])
  | n + 1, left =>
    match u.addWarp d.warp d.lslice (min left d.warp) with
    | none => none
    | some (u1, p) => (u1.addWarps d n (left - d.warp)).map (fun r => (r.1, p :: r.2))

/-- Places a team, if every resource fits (R43). -/
def CoreUse.addTeam (u : CoreUse) (d : KDesc) : Option (CoreUse × List WPlace) :=
  if 327680 < u.scratch + d.scratchUse + u.lent ∨ 16 < u.tiles + d.tiles ∨ 262144 < u.cask + (d.cask + 4095) / 4096 * 4096 then none
  else
    (u.addWarps d d.nWarps d.threads).map (fun r =>
      ({ r.1 with scratch := u.scratch + d.scratchUse, tiles := u.tiles + d.tiles, cask := u.cask + (d.cask + 4095) / 4096 * 4096 }, r.2))

/-- Teams that can be placed one after another, at most n. -/
def CoreUse.count (u : CoreUse) (d : KDesc) : Nat → Nat
  | 0 => 0
  | n + 1 =>
    match u.addTeam d with
    | none => 0
    | some (u1, _) => 1 + u1.count d n

/-- `fit` (R180): teams of a kernel on one empty core that lends only this kernel's share. -/
def KDesc.fit (d : KDesc) : Nat := ({ lent := lendShare d.cluster } : CoreUse).count d 128

/-- R88: the descriptor is valid. -/
def descOk (d : KDesc) (bs : List Byte) : Bool := descFields d bs && decide (0 < d.fit)

/-- Whether a wave's allocation on a cluster stands (R44): teams of it are there, off their cores or not, or may still come. -/
def State.lends (s : State) (w : Wave) (cluster : Nat) : Bool :=
  w.clusters.contains cluster && (w.open_ || s.teams.any (fun t => t.wave == w.id && !t.agent && t.core / 4 == cluster))

/-- The pixel grids with teams on a cluster, which share one allocation there (R44, R359; log entry 136). -/
def State.pixelLends (s : State) (cluster : Nat) : List Grid :=
  s.grids.filter (fun g => s.passes.any (fun p => p.grid == g.id) &&
    s.teams.any (fun t => t.grid == g.id && t.core / 4 == cluster))

/-- What a core lends: for each wave, and each pixel grid, with an allocation on its cluster (R44). -/
def State.lentBy (s : State) (core : Nat) : Nat :=
  (s.waves.filter (fun w => s.lends w (core / 4))).foldl (fun n w =>
    n + lendShare (((s.grid? w.grid).map (fun g => g.desc.cluster)).getD 0))
    (((s.pixelLends (core / 4)).map (fun g => lendShare g.desc.cluster)).foldl (· + ·) 0)

/-- Adds a placed warp's lanes and slots to a core's use. -/
def CoreUse.withWarp (u : CoreUse) (slice : Nat) (w : Warp) : CoreUse :=
  let p : WPlace := ⟨w.quad, w.half⟩
  let n := (w.threads.filter Thread.live).length
  { u with lanes := (placeLanes p n).foldl (fun ls l => updAt (fun x => (x.1 + 1, x.2 + slice)) l ls) u.lanes,
           slots := (placeQuads w.width p).foldl (fun ss q => updAt (· + 1) q ss) u.slots }

/-- Adds a team's resources; one that waits for its continuation's keeps only its scratchpad (R328). -/
def CoreUse.withTeam (u : CoreUse) (t : Team) : CoreUse :=
  let v := if t.st = .contWait then u else t.warps.foldl (fun a w => a.withWarp t.desc.lslice w) u
  { v with scratch := v.scratch + t.desc.scratchUse, tiles := v.tiles + t.desc.tiles, cask := v.cask + t.desc.cask }

/-- What is taken of a core, some teams left out. -/
def State.useOf (s : State) (core : Nat) (but : List Nat) : CoreUse :=
  (s.teams.filter (fun t => t.holds core && !but.contains t.id)).foldl CoreUse.withTeam { lent := s.lentBy core }

/-- Whether an allocation of a wave fits a cluster: what its cores lend stays within 128 KiB each, and they have the room
(R44). -/
def State.clusterFits (s : State) (bytes cluster : Nat) : Bool :=
  bytes == 0 || (List.range 4).all (fun i =>
    let u := s.useOf (4 * cluster + i) []
    decide (u.lent + lendShare bytes ≤ 131072) && decide (u.scratch + u.lent + lendShare bytes ≤ 327680))

/-- The core's use with a wave's share lent, if the wave has none on the cluster yet. -/
def State.useFor (s : State) (d : KDesc) (held : Bool) (core : Nat) : CoreUse :=
  let u := s.useOf core []
  if held then u else { u with lent := u.lent + lendShare d.cluster }

/-! ## The order of teams (R179, R309) -/

/-- `hilbert` of R179: `k` halvings of s are left. -/
def hilbertAux (n : Nat) : Nat → Nat → Nat → Nat → Nat → Nat
  | 0, _, _, _, d => d
  | k + 1, s, x, y, d =>
    let rx := if x / s % 2 = 1 then 1 else 0
    let ry := if y / s % 2 = 1 then 1 else 0
    let d1 := d + s * s * ((3 * rx) ^^^ ry)
    if ry = 0 then
      let x1 := if rx = 1 then n - 1 - x else x
      let y1 := if rx = 1 then n - 1 - y else y
      hilbertAux n k (s / 2) y1 x1 d1
    else hilbertAux n k (s / 2) x y d1

def hilbert (n x y : Nat) : Nat := hilbertAux n (Nat.log2 n) (n / 2) x y 0

/-- The smallest power of two not less than a or b. -/
def hilbertSide (a b : Nat) : Nat :=
  let m := max (max a b) 1
  if 2 ^ Nat.log2 m = m then m else 2 ^ (Nat.log2 m + 1)

/-- Gangs along each axis. -/
def Grid.gangs (g : Grid) : Nat × Nat := (g.gx / max g.desc.gangX 1, g.gy / max g.desc.gangY 1)

/-- The gangs of one z, in the order of R179: by key. -/
def Grid.curve (g : Grid) : List (Nat × Nat) :=
  let (a, b) := g.gangs
  let n := hilbertSide a b
  ((List.range b).flatMap (fun y => (List.range a).map (fun x => (x, y)))).mergeSort
    (fun p q => decide (hilbert n p.1 p.2 ≤ hilbert n q.1 q.2))

/-- The position of gang number k in the grid of gangs: by the curve in deterministic mode, else x fastest. -/
def Grid.gangPos (g : Grid) (k : Nat) : Nat × Nat × Nat :=
  let (a, b) := g.gangs
  let r := k % (a * b)
  let p := if g.task.det then g.curve.getD r (0, 0) else (r % a, r / a)
  (p.1, p.2, k / (a * b))

/-- The linear index of the team at a position of the grid's order: a sequence number in deterministic mode (R179), else a
place in the wave order (R309). -/
def Grid.indexAt (g : Grid) (pos : Nat) : Nat :=
  let sx := max g.desc.gangX 1
  let sy := max g.desc.gangY 1
  let p := g.gangPos (pos / (sx * sy))
  let m := pos % (sx * sy)
  (p.1 * sx + m % sx) + g.gx * ((p.2.1 * sy + m / sx) + g.gy * p.2.2)

def Grid.teams (g : Grid) : Nat := g.gx * g.gy * g.gz

/-! ## Instantiation (R45, R46) -/

/-- The lowest number not in a list, below n. -/
def lowestFree (n : Nat) (used : List Nat) : Option Nat := (List.range n).find? (fun i => !used.contains i)

/-- Slots of a quad that the core's warps name. -/
def State.usedSlots (s : State) (core quad : Nat) : List Nat :=
  (s.teams.filter (fun t => t.holds core && t.st != .contWait)).flatMap (fun t =>
    (t.warps.filter (fun w => (placeQuads w.width ⟨w.quad, w.half⟩).contains quad)).map Warp.slot)

/-- Warp slots for placed warps, the lowest free one of each place's quads in turn. -/
def giveSlots (width : Nat) (used : Nat → List Nat) : List WPlace → List Nat
  | [] => []
  | p :: t =>
    let qs := placeQuads width p
    let n := (lowestFree 32 (qs.flatMap used)).getD ((lowestFree 32 (used p.quad)).getD 0)
    n :: giveSlots width (fun q => if qs.contains q then n :: used q else used q) t

/-- A new thread (R46). -/
def newThread (entry : DWord) (live : Bool) (view : KV Nat) (seen tick : Nat) : Thread :=
  { live := live, exited := !live, pc := entry, view := view, seen := seen, ready := tick }

/-- The warps of a new team (R40, R46): k0 and k1 hold the argument pointer. -/
def newWarps (d : KDesc) (args : Nat) (ps : List WPlace) (slots : List Nat) (view : KV Nat) (seen tick : Nat) : List Warp :=
  (ps.zip slots).mapIdx (fun i p =>
    let w : Warp :=
      { idx := i, width := d.warp, quad := p.1.quad, half := p.1.half, slot := p.2,
        threads := (List.range d.warp).map (fun l => newThread (BitVec.ofNat 64 d.entry) (decide (i * d.warp + l < d.threads)) view seen tick) }
    w.setKPair 0 (BitVec.ofNat 64 args))

/-- Handles in use on a core (R315). -/
def State.usedHandles (s : State) (core : Nat) : List Nat := (s.teams.filter (fun t => t.holds core)).map Team.handle

/-- A team reserved on a core (R315): it takes its resources and the lowest free handle. -/
def State.reserve (s : State) (g : Grid) (wave core pos : Nat) (ps : List WPlace) : State :=
  let r := s.fresh
  let t : Team :=
    { id := r.1, grid := g.id, wave := wave, index := g.indexAt pos, pos := pos, core := core,
      handle := (lowestFree 128 (s.usedHandles core)).getD 0, st := .claimed, desc := g.desc, args := g.args,
      warps := newWarps g.desc g.args ps (giveSlots g.desc.warp (s.usedSlots core) ps) [] 0 s.tick,
      ranges := List.replicate 8 none }
  { r.2 with teams := r.2.teams ++ [t] }

/-- The view with which the threads of a grid's team start (R196, R208), and in deterministic mode what the last boundary left
(R183). -/
def State.startView (s : State) (g : Grid) : KV Nat :=
  if g.task.det then
    moveView [] ((s.acqWrites .unit { scope := .system } ++
      (s.hist.filter (fun h => h.by_.grid == some g.id)).map (fun h => (h.loc, h.ser))).filter (fun w => decide (w.2 < g.mark)))
  else s.snapView g.task

/-- The reserved team is instantiated; it is resident with its gang (R41). -/
def State.instantiate (s : State) (id : Nat) : State :=
  match s.team? id with
  | none => s
  | some t =>
    match s.grid? t.grid with
    | none => s
    | some g =>
      let v := s.startView g
      let s1 : State := { s with freeCtr := s.freeCtr + 1 }
      (s1.updTeam id (fun u =>
        { u with st := .formed,
                 warps := u.warps.map (fun w => { w with threads := w.threads.map (fun th => { th with view := v, ready := s.tick }) }) })).updGrid
        g.id (fun x => { x with started := x.started + 1 })

/-! ## Event queues (R313, R314) -/

def eventHdr (core : Nat) : Nat := locChip (0x3FE0000 + 64 * core)
def eventRec (core n : Nat) : Nat := locChip (0x3FF4000 + 256 * core + 16 * (n % 16))

/-- Pushes an event; one that finds its queue full, or others held before it, is held (R314). -/
def State.pushEvent (s : State) (core : Nat) (ws : List Word) : State :=
  let q := s.qRead (eventHdr core)
  if s.heldEv.any (fun h => h.1 == core) ∨ q.pushStatus.isSome then { s with heldEv := s.heldEv ++ [(core, ws)] }
  else ((s.qPush1 .unit none (eventHdr core) (eventRec core) ws).2).qSignal .unit none (eventHdr core) s.ptime

/-- An event's words: kind, argument and address. -/
def eventWords (kind arg addr : Nat) : List Word :=
  [BitVec.ofNat 32 kind, BitVec.ofNat 32 arg, BitVec.ofNat 32 addr, BitVec.ofNat 32 (addr / 4294967296)]

def recOff (i : Nat) : Nat := 0x3FE4000 + 128 * i
def recLoc (i : Nat) : Nat := locChip (recOff i)

/-- A team's threads that have not exited. -/
def Team.liveThreads (t : Team) : List Thread := t.warps.flatMap (fun w => w.threads.filter (fun th => th.live && !th.exited))

/-! ## Gangs and retries (R41, R312, R313) -/

/-- Members of a team's gang; the team alone without a gang shape. -/
def State.gangTeams (s : State) (t : Team) : List Team :=
  if t.desc.gangX = 0 ∨ t.job.isSome then [t]
  else s.teams.filter (fun u => u.grid == t.grid && u.pos / t.desc.gang == t.pos / t.desc.gang && !u.agent)

/-- Reserves a team's resources on a core. -/
def State.claimAt (s : State) (g : Grid) (w : Nat) (core pos : Nat) : State :=
  match (s.useOf core []).addTeam g.desc with
  | none => s
  | some (_, ps) => (s.reserve g w core pos ps).updWave w (fun x => { x with taken := pos :: x.taken })

/-- The positions and cores of gang i of a wave: member m on the (i * n + m)-th chosen core (R312), from the first on again where
they do not last (log entry 32). -/
def Wave.gangAt (w : Wave) (n i : Nat) : List (Nat × Nat) :=
  (List.range n).map (fun m => (w.first + i * n + m, w.cores.getD ((i * n + m) % max (w.cores.length / n * n) 1) 0))

/-- The gangs of a wave that have no room yet. -/
def Wave.gangsLeft (w : Wave) (n : Nat) : List Nat := (List.range (w.count / n)).filter (fun i => !w.taken.contains (w.first + i * n))

/-- Reserves the room of a whole gang, where every member's core has it (R41). The answer is the cores; none where it fails. -/
def State.reserveGang (s : State) (g : Grid) (w : Wave) (i : Nat) : Option (State × List Nat) :=
  let ms := w.gangAt g.desc.gang i
  if ms.all (fun m => ((s.useOf m.2 []).addTeam g.desc).isSome) then
    some (ms.foldl (fun a m => a.claimAt g w.id m.2 m.1) s, ms.map (fun m => m.2))
  else none

/-- Reserves what gangs of a wave find room now, in ascending order, and tells the agents of their cores (R41, R313). -/
def State.reserveGangs (s : State) (g : Grid) (w : Wave) (tell : Bool) : State :=
  if g.desc.gangX = 0 then s
  else
    (w.gangsLeft g.desc.gang).foldl (fun a i =>
      match a.reserveGang g w i with
      | none => a
      | some (b, cs) => if tell then cs.foldl (fun x c => x.pushEvent c (eventWords 6 0 (recOff w.recIdx))) b else b) s

/-- RETRY for each wave placed on a core that still has unclaimed teams (R313). -/
def State.retryWaves (s : State) (core : Nat) : State :=
  (s.waves.filter (fun w => w.cores.contains core && w.open_)).foldl (fun a w => a.pushEvent core (eventWords 6 0 (recOff w.recIdx))) s

/-- What a team's end or leaving frees on a core: gangs that find room now are reserved, and waves that still have tickets there
try again (R313). -/
def State.retryCore (s : State) (core : Nat) : State :=
  let s1 := (s.waves.filter (fun w => w.open_ && w.cores.contains core)).foldl (fun a w =>
    match a.grid? w.grid with
    | none => a
    | some g => a.reserveGangs g w true) s
  s1.retryWaves core

/-! ## Stopping teams (R38, R303, R417, R419) -/

/-- Whether a location lies in a team's scratchpad space. -/
def inScratch (id l : Nat) : Bool := decide (locScr id 0 ≤ l) && decide (l < locScr id 4294967296)

/-- Breaks the objects in a team's scratchpad, and wakes whoever waits there (R303, R417). -/
def State.breakScratch (s : State) (t : Team) : State :=
  let objs := (s.bars.filter (fun b => inScratch t.id b.loc)).map BarRec.loc
  (objs.foldl (fun a l => a.barBreak .s (.core t.core) l) s).wake (fun w => match w with
    | .bar l _ => inScratch t.id l
    | _ => false) false

/-- Breaks the objects that a team's queued launches name as their counters (R327, R417), but for one in a granule that belongs to
another region's domain by now (R390). -/
def State.dropLaunches (s : State) (t : Team) : State :=
  (t.launchQ.foldl (fun a r =>
    match r.ctr with
    | none => a
    | some l => if a.objBarred (a.ctxOf t) l then a else a.barBreak (locSpace l) (.core t.core) l) s).updTeam t.id (fun u => { u with launchQ := [] })

/-- Closes the open log records of a team's warps (R409). -/
def State.closeLogs (s : State) (t : Team) : State := (List.range t.warps.length).foldl (fun a w => a.closeLog t.id w) s

/-- What a team leaves with the engines is dropped, but for the marks of its qfences, which hold other teams' commands (R206). -/
def State.dropEngines (s : State) (id : Nat) : State :=
  { s with copies := s.copies.filter (fun x => x.team != id || (x.kind == 3 && !x.off)), gathers := s.gathers.filter (fun x => x.team != id),
           matq := s.matq.filter (fun x => x.team != id), ssubs := s.ssubs.filter (fun x => x.team != id) }

/-- Ends a team at once: its objects break, its launches and commands are dropped (R303, R320, R419). -/
def State.stopTeam (s : State) (id : Nat) : State :=
  match s.team? id with
  | none => s
  | some t =>
    let s1 := (((s.closeLogs t).breakScratch t).dropLaunches t).dropEngines id
    { s1 with teams := s1.teams.filter (fun u => u.id != id) }

/-- Grids of a task: its own, its pass's pixel grid, and their descendants. -/
def State.gridsOf (s : State) (e : Entry) : List Grid := s.grids.filter (fun g => e.grid == some g.root)

/-- Ends grids at once: their teams and streams end, their waves and queued work go. -/
def State.stopGrids (s : State) (gs : List Nat) : State :=
  let s1 := ((s.teams.filter (fun t => gs.contains t.grid)).map Team.id).foldl State.stopTeam s
  let s2 : State := { s1 with grids := s1.grids.filter (fun g => !gs.contains g.id), waves := s1.waves.filter (fun w => !gs.contains w.grid),
                              spubs := s1.spubs.filter (fun p => !gs.contains p.grid), ssubs := s1.ssubs.filter (fun p => !gs.contains p.grid) }
  (((s.teams.filter (fun t => gs.contains t.grid && t.holds t.core)).map Team.core).eraseDups).foldl State.retryCore s2

/-- Stops the work of a task; a persistent kernel that has completed runs on (R303, R329). -/
def State.stopTask (s : State) (e : Entry) : State :=
  let gs := s.gridsOf e
  if e.done ∧ gs.any (fun g => g.desc.persist) then s
  else
    let s1 := s.stopGrids (gs.map Grid.id)
    { s1 with passes := s1.passes.filter (fun p => e.pass != some p.id) }

end Sys2Proof.Machine
end

