-- ==== Sys2Proof/Machine/Window.lean ====
section
/-! DEFINITION. The task window: the checks, reads, renaming and dependences of decode (R276 to R300), completion and
retirement (R302, R303). Tasks.lean gives each task's own part. -/

namespace Sys2Proof.Machine

/-! ## Fields of a record (R79) -/

def taskFrame (t : TaskRec) : Option Nat := if t.w2.toNat % 65536 = 0xFFFF then none else some (t.w2.toNat % 65536)
def taskSlot (t : TaskRec) : Option Nat :=
  if t.w2.toNat / 65536 % 256 = 0xFF then none else some (t.w2.toNat / 65536 % 256)
def taskHint (t : TaskRec) : Option Nat := if t.w2.toNat / 16777216 = 0xFF then none else some (t.w2.toNat / 16777216)
def taskBuf (t : TaskRec) (i : Nat) : Option Nat :=
  if t.bufs.toNat / 256 ^ i % 256 = 0xFF then none else some (t.bufs.toNat / 256 ^ i % 256)
/-- Bits [hi:lo] of IMM. -/
def immBits (t : TaskRec) (hi lo : Nat) : Nat := t.imm.toNat / 2 ^ lo % 2 ^ (hi - lo + 1)

/-- W0[7:0] and W0[15:8], as the journal keeps them (R424). -/
def taskFlags (t : TaskRec) : Nat :=
  t.resv.toNat * 32 + t.det.toNat * 16 + t.xov.toNat * 8 + t.opq.toNat * 4 + t.eff.toNat * 2 + t.shed.toNat

/-! ## Task fault codes (R304) -/

def tfIllegal : Nat := 1
def tfStarved : Nat := 2
def tfBudget : Nat := 3
def tfRegion : Nat := 4
def tfLaunch : Nat := 5
def tfBuffer : Nat := 6
def tfFrame : Nat := 7
def tfSlot : Nat := 8
def tfAccess : Nat := 9
def tfBlock : Nat := 10
def tfDepth : Nat := 11
def tfPool : Nat := 12
def tfStreamBusy : Nat := 13
def tfStreamLimit : Nat := 14
def tfTimeout : Nat := 15
def tfQClosed : Nat := 16
def tfQBroken : Nat := 17
def tfKilled : Nat := 18
def tfMemory : Nat := 19
def tfEngine : Nat := 20
def tfOverrun : Nat := 21
def tfMismatch : Nat := 22
def tfNoroot : Nat := 23
def tfLink : Nat := 24

/-! ## What a stage of decode answers -/

/-- A stage's answer: its result, a task fault with its information, or a stall. -/
inductive Dec (α : Type) where
  | ok (s : State) (a : α)
  | fault (s : State) (code info : Nat)
  | stall (s : State)

def Dec.bind {α β : Type} (x : Dec α) (f : State → α → Dec β) : Dec β :=
  match x with
  | .ok s a => f s a
  | .fault s c i => .fault s c i
  | .stall s => .stall s

/-- Stall bits of TS_STATUS (R274): BLOCK, COND, RENAME, FULL, EMPTY from bit 4 down. -/
def stBlock : BitVec 5 := 16
def stCond : BitVec 5 := 8
def stRename : BitVec 5 := 4

def State.stallWith (s : State) (b : BitVec 5) : State := { s with win := { s.win with stalls := b } }

/-! ## Entries -/

def State.entry? (s : State) (seq : Nat) : Option Entry := s.win.entries.find? (fun e => e.seq == seq)
def State.updEntry (s : State) (seq : Nat) (f : Entry → Entry) : State :=
  { s with win := { s.win with entries := s.win.entries.map (fun e => if e.seq == seq then f e else e) } }

/-- Older entries of the window. -/
def Window.older (w : Window) (seq : Nat) : List Entry := w.entries.filter (fun e => e.seq < seq)

/-! ## Classes (R80) -/

inductive TaskCls where
  | control | window | declared | effectful
deriving DecidableEq, Repr

/-- What R80 and R279 allow a task: class, flags, whether a frame is allowed or required, how many slots of BUFS it uses, and
its operand check. -/
structure TaskForm where
  cls   : TaskCls
  eff   : Bool := false
  det   : Bool := false
  opq   : Bool := false
  shed  : Bool := false
  frame : Bool := false
  needs : Bool := false
  bufs  : Nat := 0
  bad   : TaskRec → Bool

/-- FLAG of R278. -/
def TaskForm.flagBad (f : TaskForm) (t : TaskRec) : Bool :=
  (t.det && !f.det) || (t.xov && !f.opq) || (t.opq && !f.opq) || (t.eff && !f.eff) || (t.shed && !f.shed)

/-- W2_FIELD of R278. -/
def TaskForm.w2Bad (f : TaskForm) (t : TaskRec) : Bool :=
  let wide := f.cls == .declared || f.cls == .effectful
  (match taskFrame t with
   | some n => decide (1024 ≤ n) || !(f.frame || f.needs)
   | none => f.needs) ||
  (match taskSlot t with
   | some n => decide (64 ≤ n) || !wide
   | none => false) ||
  (match taskHint t with
   | some n => decide (16 ≤ n) || !wide
   | none => false)

/-- BUFS of R278. -/
def TaskForm.bufsBad (f : TaskForm) (t : TaskRec) : Bool :=
  (List.range 4).any (fun i => decide (f.bufs ≤ i) && (taskBuf t i).isSome) ||
    (f.bufs == 4 && (taskBuf t 2).isSome && taskBuf t 2 == taskBuf t 3)

/-- The detail of ILLEGAL_TASK (R278), the first row that holds. -/
def TaskForm.detail (f : TaskForm) (t : TaskRec) : Option Nat :=
  if f.flagBad t then some 2
  else if t.resv ≠ 0 then some 3
  else if f.w2Bad t then some 4
  else if f.bad t then some 5
  else if f.bufsBad t then some 6
  else none

/-! ## Reading blocks (R279, R293) -/

/-- Reads n bytes at a virtual address, in pieces of one page, for decode. -/
def State.readVa (s : State) (region : Nat) : Nat → Nat → Nat → Dec (List Byte)
  | 0, _, _ => .ok s []
  | fuel + 1, va, n =>
    if n = 0 then .ok s []
    else if inAperture va then .fault s tfAccess 1
    else
      match s.trRegion region va .read with
      | .bad _ => .fault s tfAccess 1
      | .err l => .fault (s.journal { kind := 7, code := 1, addr := l }) tfMemory 0
      | .page e lvl x =>
        .stall ((s.stall 0 region { va := va, entry := e, lvl := lvl, e := x, kind := 4 }).stallWith stBlock)
      | .ok pa =>
        let m := min n (4096 - va % 4096)
        let ls := locRange (locPhys pa) m
        match ls.find? (fun l => s.bad.contains (l / 64 * 64)) with
        | some l => .fault (s.journal { kind := 7, code := 1, addr := l }) tfMemory 0
        | none => (s.readVa region fuel (va + m) (n - m)).bind (fun s1 bs => .ok s1 (ls.map (s1.rdUnit .system) ++ bs))

/-- A block of n bytes aligned to al: one that is not is TASK_ACCESS (R279). -/
def State.blockAt (s : State) (region va n al : Nat) : Dec (List Byte) :=
  if va % al ≠ 0 then .fault s tfAccess 0 else s.readVa region 3 va n

/-- The lowest offset among the fields that fail (R304). -/
def badField (fs : List (Nat × Bool)) : Option Nat :=
  match fs.filter (fun p => p.2) with
  | [] => none
  | l => some (minOf (l.map (fun p => p.1)))

/-- Whether some byte of a reserved field is not 0. -/
def resvBad (bs : List Byte) (o n : Nat) : Bool := ((bs.drop o).take n).any (fun b => b != 0)

/-- BAD_BLOCK at the lowest failing field. -/
def State.chkBlock (s : State) (fs : List (Nat × Bool)) : Dec Unit :=
  match badField fs with
  | some o => .fault s tfBlock o
  | none => .ok s ()

/-! ## Declarations (R281, R299) -/

/-- The fields of declaration i of a list at offset o that fail. -/
def declBad (bs : List Byte) (o : Nat) : List (Nat × Bool) :=
  (List.range 4).flatMap (fun i =>
    let q := o + 16 * i
    let b := fieldOf bs q 8
    let n := fieldOf bs (q + 8) 4
    let fl := fieldOf bs (q + 12) 4
    [(q, n != 0 && (decide (18446744073709551616 < b + n) || (decide (b < apEnd) && decide (apBase < b + n)))),
     (q + 12, decide (8 ≤ fl) || (fl % 4 == 0 && n != 0))])

/-- The used declarations of a list. -/
def declsOf (bs : List Byte) (o : Nat) : List Decl :=
  (List.range 4).filterMap (fun i =>
    let q := o + 16 * i
    let n := fieldOf bs (q + 8) 4
    let fl := fieldOf bs (q + 12) 4
    if n = 0 then none
    else some { base := fieldOf bs q 8, len := n, dense := fl / 4 % 2 == 1, r := fl % 2 == 1, w := fl / 2 % 2 == 1 })

/-- `conflict` (R299): x is the older task's declaration, y the younger's. -/
def conflict (x y : Decl) (xov : Bool) : Bool :=
  if !(x.w || y.w) then false
  else
    let wide := !(xov && x.dense && y.dense)
    let lo (d : Decl) := if wide then d.base / 4096 * 4096 else d.base
    let hi (d : Decl) := if wide then (d.base + d.len + 4095) / 4096 * 4096 else d.base + d.len
    decide (lo x < hi y) && decide (lo y < hi x)

/-! ## Almanac binding (R286, R319) -/

/-- Whether a slot's latched entry is valid for the cycle (R318). -/
def Slot.valid (e : Slot) (cycle : Nat) : Bool :=
  e.ctl.getLsbD 31 && decide (e.offset.toNat < cycle) && decide (e.length.toNat ≤ cycle) && decide (1 ≤ e.length.toNat) &&
    (e.periodN == 0 || (decide (e.length.toNat * e.periodM.toNat ≤ e.periodN.toNat))) &&
    decide (1 ≤ e.periodM.toNat) && decide (e.periodM.toNat ≤ 1000) && e.resv.all (· == 0) &&
    decide (e.ctl.toNat % 2147483648 < 4)

/-- The first instance of an entry, in the cycle that starts at `t0`, whose end lies after `now`: its opening time. -/
def Slot.next (e : Slot) (t0 cycle now : Nat) : Option Nat :=
  let off (j : Nat) := e.offset.toNat + j * e.periodN.toNat / e.periodM.toNat
  let y := now + 1 - (t0 + e.length.toNat)
  let j := if e.periodN = 0 ∨ y ≤ e.offset.toNat then 0
    else ((y - e.offset.toNat) * e.periodM.toNat + e.periodN.toNat - 1) / e.periodN.toNat
  if off j < cycle ∧ now < t0 + off j + e.length.toNat then some (t0 + off j) else none

/-- The instance of a slot that is open now, or else the next one that is known to open (R319). -/
def State.slotInst (s : State) (i : Nat) : Option (Nat × Nat × Nat) :=
  let o := KV.get (0, 0, 0) i s.alm.opened
  if o.2.1 ≠ 0 ∧ o.1 ≤ s.ptime ∧ s.ptime < o.1 + o.2.1 then some o
  else
    let e := KV.get {} i s.alm.latched
    match s.alm.cycleAt with
    | none => none
    | some t0 =>
      if e.valid s.alm.lCycle then
        (e.next t0 s.alm.lCycle s.ptime).map (fun t => (t, e.length.toNat, e.ctl.toNat % 8))
      else none

/-- The earliest of two deadlines (R307). -/
def minDl (a b : Option Nat) : Option Nat :=
  match a, b with
  | some x, some y => some (min x y)
  | none, y => y
  | x, none => x

/-! ## Renaming (R290 to R294) -/

/-- Physical buffers are numbered class × 4,096 + index. -/
def physKey (c i : Nat) : Nat := c * 4096 + i
def State.physBase (s : State) (p : Nat) : Nat :=
  ((s.win.pools.map (fun x => x.1)).getD (p / 4096) 0) + p % 4096 * classSize (p / 4096)

def Window.mapOf (w : Window) (n : Nat) : Option Nat := KV.get none n w.map
def Window.clsOf (w : Window) (n : Nat) : Option Nat := KV.get none n w.cls
def Window.writerOf (w : Window) (n : Nat) : Option Nat := KV.get none n w.writer

/-- A replacement in a list. -/
def setAt {α : Type} (xs : List α) (i : Nat) (x : α) : List α := updAt (fun _ => x) i xs

/-- A logical buffer's class, map and writer before a change, for R303. -/
def Window.keep (w : Window) (n : Nat) : Nat × Option Nat × Option Nat × Option Nat := (n, w.clsOf n, w.mapOf n, w.writerOf n)

/-- Whether some entry of the window will free, when it retires, a buffer of class c that ends a stall: any, or one counted
against a refusing region (R294). -/
def State.willFree (s : State) (c : Nat) (region : Option Nat) : Bool :=
  s.win.entries.any (fun e => e.frees.any (fun p => p.1 == c &&
    (match region with
     | none => true
     | some a => ((KV.get none (physKey p.1 p.2) s.win.owner).map (fun r => s.above a r)).getD false)))

/-- Read slots (R292): the physical buffers must exist. -/
def State.renameReads (s : State) (e : Entry) : List Nat → Dec Entry
  | [] => .ok s e
  | i :: rest =>
    match taskBuf e.task i with
    | none => s.renameReads e rest
    | some n =>
      match s.win.mapOf n with
      | none => .fault s tfBuffer n
      | some p =>
        let b : BufBind := { n := n, cls := p / 4096, base := s.physBase p }
        let dep := match s.win.writerOf n with
          | some x => [x]
          | none => []
        s.renameReads { e with ctx := { e.ctx with bufs := if e.ctx.bufs.any (fun y => y.n == n) then e.ctx.bufs else e.ctx.bufs ++ [b] },
                               deps := e.deps ++ dep } rest

/-- Whether an entry reads a physical buffer (R298). -/
def Entry.readsPhys (e : Entry) (base : Nat) : Bool :=
  [0, 1].any (fun i =>
    match taskBuf e.task i with
    | none => false
    | some n => e.ctx.bufs.any (fun b => b.n == n && b.base == base))

/-- One write slot (R292): updated in place when a read slot names it, else renamed. -/
def State.renameWrite (s : State) (e : Entry) (i : Nat) : Dec Entry :=
  match taskBuf e.task i with
  | none => .ok s e
  | some n =>
    match s.win.clsOf n with
    | none => .fault s tfBuffer n
    | some c =>
      let e1 : Entry := { e with undo := { e.undo with bufs := e.undo.bufs ++ [s.win.keep n] } }
      if taskBuf e.task 0 = some n ∨ taskBuf e.task 1 = some n then
        let base := ((e.ctx.bufs.find? (fun b => b.n == n)).map BufBind.base).getD 0
        let dep := (match s.win.writerOf n with
          | some x => [x]
          | none => []) ++ (s.win.entries.filter (fun x => x.readsPhys base)).map Entry.seq
        .ok { s with win := { s.win with writer := KV.put none n (some e.seq) s.win.writer } }
          { e1 with effectful := true, deps := e1.deps ++ dep,
                    ctx := { e1.ctx with bufs := e1.ctx.bufs.map (fun b => if b.n == n then { b with write := true } else b) } }
      else
        match s.win.free.getD c [], s.poolRefuses e.ctx.region c with
        | [], _ => if s.willFree c none then .stall (s.stallWith stRename) else .fault s tfStarved c
        | _, some a => if s.willFree c (some a) then .stall (s.stallWith stRename) else .fault s tfBudget a
        | p :: rest, none =>
          let k := physKey c p
          let fr := match s.win.mapOf n with
            | some q => [(q / 4096, q % 4096)]
            | none => []
          .ok { s with win := { s.win with free := setAt s.win.free c rest, map := KV.put none n (some k) s.win.map,
                                           writer := KV.put none n (some e.seq) s.win.writer,
                                           owner := KV.put none k (some e.ctx.region) s.win.owner } }
            { e1 with taken := e1.taken ++ [(c, p)], frees := e1.frees ++ fr,
                      ctx := { e1.ctx with bufs := e1.ctx.bufs ++ [{ n := n, cls := c, base := s.physBase k, write := true }] } }

/-- The four slots, reads first. A fault keeps what the slots before it did, for R303: it is handed on with the entry. -/
inductive Renamed where
  | ok (s : State) (e : Entry)
  | fault (s : State) (e : Entry) (code info : Nat)
  | stall (s : State)

def State.rename (s : State) (f : TaskForm) (e : Entry) : Renamed :=
  if f.bufs ≠ 4 then .ok s e else
  match s.renameReads e [0, 1] with
  | .fault s1 c i => .fault s1 e c i
  | .stall s1 => .stall s1
  | .ok s1 e1 =>
    match s1.renameWrite e1 2 with
    | .fault s2 c i => .fault s2 e1 c i
    | .stall _ => .stall (s.stallWith stRename)
    | .ok s2 e2 =>
      match s2.renameWrite e2 3 with
      | .fault s3 c i => .fault s3 e2 c i
      | .stall _ => .stall (s.stallWith stRename)
      | .ok s3 e3 => .ok s3 e3

/-! ## Dependences (R298) -/

/-- The memory tasks of R298. -/
def isMemTask (op : Byte) : Bool := [0x14, 0x15, 0x16, 0x23, 0x33, 0x34, 0x38, 0x39].contains op.toNat

/-- Whether the younger y depends on the older x by a declaration, opacity, a frame or a fence. -/
def dependsOn (x y : Entry) : Bool :=
  let opq (e : Entry) := e.task.opq || isMemTask e.task.opcode
  let f (e : Entry) := taskFrame e.task
  (x.direct && y.direct && x.root == y.root && x.decls.any (fun a => y.decls.any (fun b => conflict a b y.task.xov))) ||
  ((opq x || x.direct) && (opq y || y.direct) && (opq x || opq y)) ||
  (x.task.opcode == 0x20 && (f y).isSome && f x == f y) ||
  (y.task.opcode == 0x21 && (f y).isSome && f x == f y) ||
  x.task.opcode == 2 || y.task.opcode == 2

/-- Control tasks gain and cause no dependences, except t.fence. -/
def isControl (op : Byte) : Bool := [0, 1, 3, 4, 5, 0x22].contains op.toNat

/-- The dependences of a new entry on tasks that have not completed, one for each older task. -/
def State.depsOf (s : State) (y : Entry) : List Nat :=
  if isControl y.task.opcode then []
  else (s.win.entries.filter (fun x => !x.done && !isControl x.task.opcode && (dependsOn x y || y.deps.contains x.seq))).map
    Entry.seq

/-! ## Entering (R276) -/

/-- The address of the record after the one at `a` (R273). -/
def Window.nextAddr (w : Window) (a : Nat) : Nat :=
  if w.base ≤ a ∧ a < w.base + 32 * 2 ^ w.log2 ∧ a + 32 = w.base + 32 * 2 ^ w.log2 then w.base else a + 32

/-- A journal record of a task (R424). -/
def State.taskRec (s : State) (e : Entry) (kind code info : Nat) : State :=
  s.journal { kind := kind, code := code, region := e.task.region.toNat, fdom := s.fdomOf e.task.region.toNat,
              opcode := e.task.opcode.toNat, flags := taskFlags e.task, tseq := e.seq, addr := e.addr, info := info }

/-- Takes a decoded task into the window, with its ACCEPT record (R425), and moves the decode address on. -/
def State.enter (s : State) (e : Entry) (next : Nat) : State :=
  ({ s with win := { s.win with entries := s.win.entries ++ [e], decoded := s.win.decoded + 1, dpc := next, stalls := 0 }
            stalled := KV.put 0 0 0 s.stalled }).taskRec e 1 0 0

/-- A task that faults at decode is entered with its fault, and decode stops (R276). -/
def State.enterFault (s : State) (e : Entry) (code info : Nat) : State :=
  let s1 := s.enter { e with fault := some (code, BitVec.ofNat 32 info), done := true, tdone := s.ptime } (s.win.nextAddr s.win.dpc)
  { s1 with win := { s1.win with stopped := true } }

/-- What a task's own part of decode finds: its block and declarations. -/
structure TaskRead where
  block : List Byte := []
  decls : List Decl := []
  dl    : Option Nat := none
  recAddr : Nat := 0

/-- The slot that a task is bound to (R286). -/
def State.boundSlot (s : State) (f : TaskForm) (t : TaskRec) : Option Nat :=
  if f.cls = .declared ∨ f.cls = .effectful then (match taskSlot t with
    | some n => some n
    | none => s.win.slot)
  else if t.opcode = 0x22 then (if immBits t 7 0 = 0xFF then none else some (immBits t 7 0))
  else none

/-- The frame checks of R258 for a task that names a frame. -/
def State.frameBad (s : State) (t : TaskRec) : Option Nat :=
  match taskFrame t with
  | none => none
  | some f =>
    if t.opcode = 0x20 then none
    else if s.frameDone f then some f
    else if s.frameSealed f ∧ t.opcode ≠ 0x16 then some f
    else none

/-- Tasks that raise BOUND (R258). -/
def isBound (t : TaskRec) : Bool :=
  (taskFrame t).isSome && t.opcode != 0x20 && t.opcode != 0x21 && t.opcode != 0x16

/-- The next task as it enters the window, before anything of its record is looked at. -/
def State.nextEntry (s : State) (t : TaskRec) : Entry :=
  { seq := s.win.decoded, addr := s.win.dpc, task := t, ctx := { seq := s.win.decoded, region := t.region.toNat,
                                                                     opcode := t.opcode.toNat, flags := taskFlags t } }

/-- The fault of a record that cannot be read (R304): a bad block, or an address that reaches nothing, which is a forbidden page
to the window (R431): TASK_ACCESS, protection (log entry 155). -/
def State.unreadRecord (s : State) (e : Entry) : Option State :=
  if s.bad.contains (s.win.dpc / 64 * 64) then
    some ((s.journal { kind := 7, code := 1, addr := s.win.dpc / 64 * 64 }).enterFault e tfMemory 0)
  else if !physOk s.win.dpc then some (s.enterFault e tfAccess 1)
  else none

/-- Decodes a task (R276): its record must be readable (State.unreadRecord). Then the record, the region, the block, the slot and the frame, renaming and dependences; then the
task's own effect at decode, which answers the entry, its next address and the state. The frame that a t.frame names gives it no
deadline (R307; DESIGN CHOICE, log entry 180). -/
def State.decode (s : State) (f : TaskForm) (t : TaskRec) (read : State → Nat → Dec TaskRead)
    (act : State → Entry → Dec (Entry × Nat)) : Out :=
  if !s.win.canDecode then .next s
  else
    let region := t.region.toNat
    let e0 := s.nextEntry t
    match s.unreadRecord e0, f.detail t with
    | some s1, _ => .next s1
    | none, some d => .next (s.enterFault e0 tfIllegal d)
    | none, none =>
      if (s.region? region).isNone then .next (s.enterFault e0 tfRegion region)
      else
        match read s region with
        | .stall s1 => .next s1
        | .fault s1 c i => .next (s1.enterFault e0 c i)
        | .ok s1 r =>
          let slot := s1.boundSlot f t
          match slot.filter (fun (n : Nat) => !(((s1.eff region).map Region.almMask).getD 0).getLsbD n), s1.frameBad t with
          | some n, _ => .next (s1.enterFault e0 tfSlot n)
          | none, some n => .next (s1.enterFault e0 tfFrame n)
          | none, none =>
            let wide : Bool := f.cls == TaskCls.declared || f.cls == TaskCls.effectful
            let inst := if wide then slot.bind s1.slotInst else none
            let dclass := ((s1.eff region).map Region.dclass).getD 0
            let dl := minDl r.dl (minDl (match taskFrame t with
                | some n => if wide ∧ t.opcode ≠ 0x20 then some (s1.frameDl n) else none
                | none => none)
              (minDl (inst.map (fun p => p.1 + p.2.1)) (if wide ∧ dclass ≠ 0 then some (s1.ptime + 2 ^ (16 + dclass)) else none)))
            let effectful := f.cls == TaskCls.effectful ||
              (f.cls == TaskCls.declared && (t.eff || t.opq || r.decls.any Decl.w || (taskFrame t).isSome))
            let e1 : Entry := { e0 with
              effectful := effectful, direct := !r.decls.isEmpty, decls := r.decls, root := s1.rootOf region,
              block := r.block, recAddr := r.recAddr, shed := t.shed,
              slot := if wide then slot.map (fun n => { slot := n, inst := inst }) else none,
              ctx := { e0.ctx with deadline := dl, frame := taskFrame t,
                                   det := t.det || ((s1.eff region).map Region.det).getD false } }
            match s1.rename f e1 with
            | .stall s2 => .next s2
            | .fault s2 e2 c i => .next (s2.enterFault e2 c i)
            | .ok s2 e2 =>
              let e3 : Entry := { e2 with deps := s2.depsOf e2,
                                          ctx := { e2.ctx with pure := f.cls == TaskCls.declared && !e2.effectful } }
              match act s2 e3 with
              | .stall s3 => .next s3
              | .fault s3 c i => .next (s3.enterFault e3 c i)
              | .ok s3 (e4, next) =>
                let s4 := s3.enter { e4 with sound := true } next
                .next (match taskFrame t with
                  | some n => if isBound t then s4.frameBind n true
                              else if t.opcode = 0x21 then s4.frameSeal n true else s4
                  | none => s4)

/-- A task's part of decode that reads nothing. -/
def noRead : State → Nat → Dec TaskRead := fun s _ => .ok s {}

/-- A task that waits in the window to issue. -/
def waitAct : State → Entry → Dec (Entry × Nat) := fun s e => .ok s (e, s.win.nextAddr e.addr)

/-- A task that completes at decode. -/
def doneAct : State → Entry → Dec (Entry × Nat) :=
  fun s e => .ok s ({ e with done := true, issued := true, tdone := s.ptime }, s.win.nextAddr e.addr)

/-! ## Operating points (R321) -/

/-- The quiet-mode cap and the power cap, the lower (R321, R439). -/
def Power.cap (p : Power) : Nat := min (if p.qEnable then p.opCap else 15) p.pcap

/-- A task's contribution. -/
def State.opWish (s : State) (e : Entry) : Nat :=
  min ((taskHint e.task).getD 15) (((s.eff e.task.region.toNat).map Region.opCeil).getD 15)

def maxOf (xs : List Nat) : Nat := xs.foldl max 0

/-- The scheduler re-evaluates its target over the issued tasks; a change starts when none is settling (R321). A t.fence waits in the
window, but it is a control task, which does not issue (R276, R295, R301). -/
def State.reOp (s : State) : State :=
  let run := s.win.entries.filter (fun e => e.issued && !e.done && e.task.opcode != 2)
  let want := if run.isEmpty then s.power.op else maxOf (run.map s.opWish)
  let tgt := min want s.power.cap
  { s with power := { s.power with
      target := tgt
      settling := if s.power.settling.isSome then s.power.settling else if tgt = s.power.op then none else some tgt } }

/-! ## Completion (R302) -/

/-- What a task-level engine has written for a task. -/
def State.taskWritesOf (s : State) (seq : Nat) : List (Nat × Nat) :=
  match s.win.entries.find? (fun e => e.seq == seq) with
  | none => []
  | some e => (s.hist.filter (fun h => h.by_.task == some seq && decide (e.ctx.issueSer ≤ h.ser))).map (fun h => (h.loc, h.ser))

/-- A task completes, with or without a fault: its dependants lose a dependence, and the operating point is weighed again. A
marked task completes with MEMORY_ERROR, a killed one with DOMAIN_KILLED (R302, R421). What its task-level engine wrote becomes
visible with its completion (R204, R208). -/
def State.complete (s : State) (seq : Nat) (fault : Option (Nat × Nat)) : State :=
  let s := s.publish .chip .unit (s.taskWritesOf seq)
  State.reOp { s with win := { s.win with entries := s.win.entries.map (fun e =>
      if e.seq == seq then
        (if e.done then e else
          { e with done := true, tdone := s.ptime,
                   fault := if e.marked then some (tfMemory, 0)
                            else if e.killed then some (tfKilled, BitVec.ofNat 32 (s.fdomOf e.task.region.toNat))
                            else fault.map (fun p => (p.1, BitVec.ofNat 32 p.2)) })
      else { e with deps := e.deps.filter (fun d => d != seq) }) } }

/-! ## Retirement (R284, R302, R303) -/

/-- Pushes a buffer onto its free list and ends its count (R292). -/
def State.freeBuf (s : State) (p : Nat × Nat) : State :=
  { s with win := { s.win with free := setAt s.win.free p.1 (p.2 :: s.win.free.getD p.1 []),
                               owner := KV.put none (physKey p.1 p.2) none s.win.owner } }

/-- A completion record (R284). -/
def Entry.record (e : Entry) : List Byte :=
  leBytes 4 (if e.wavesRun < e.waves ∨ e.cut then 1 else 0) ++ leBytes 4 e.wavesRun ++
    leBytes 4 e.waves ++ leBytes 4 0 ++ leBytes 8 e.seq ++ leBytes 8 e.tdone

/-- Writes a record of the window or a task-level engine through a task's translation, as one publication at a scope; `none`
where its page is not resident (R284, R381). A forbidden page gets an ENGINE record. The window's own completion record
resolves no aperture address (R293). -/
inductive RecWr where
  | done (s : State)
  | wait (s : State)
  | forbidden (s : State)

/-- The key under which a task's own engine is noted as stalled. -/
def taskKey (seq : Nat) : Nat := 4611686018427387904 + seq

def State.unstall (s : State) (key : Nat) : State := { s with stalled := KV.put 0 key 0 s.stalled }

def State.writeRecord (s : State) (k : TaskCtx) (own : Bool) (va : Nat) (S : Scope) (bs : List Byte) : RecWr :=
  match (if own then (if inAperture va then .bad 7 else s.trRegion k.region va .write) else s.tr { k with pure := false } va .write) with
  | .ok pa => .done ((s.wrPub S .unit none (atLoc (locPhys pa) bs)).unstall (taskKey k.seq))
  | .page e lvl x => .wait (s.stall (taskKey k.seq) k.region { va := va, entry := e, lvl := lvl, e := x, kind := 3 })
  | .bad _ => .forbidden (s.engineErr k 1 8 0xFFFF 0 0)
  | .err l => .forbidden ((s.memErr k.seq l).engineErr k 4 8 0xFFFF 0 0)

/-- The stream stops in a state (R275): a STREAM record is written where R425 asks for one. -/
def State.streamTo (s : State) (st : StreamSt) : State := { s with win := { s.win with st := st } }

/-- STATE codes of R274. -/
def StreamSt.code : StreamSt → Nat
  | .idle => 0 | .running => 1 | .draining => 2 | .halted => 3 | .faulted => 4

def State.streamRecord (s : State) : State := s.journal { kind := 11, code := s.win.st.code }

/-- Retires the head task without a fault (R302). -/
def State.retireOk (s : State) (e : Entry) : State :=
  let s1 := e.frees.foldl State.freeBuf s
  let s2 := match e.ctx.frame with
    | some f => if isBound e.task && e.sound then s1.frameBind f false else s1
    | none => s1
  let s3 : State := { s2 with win := { s2.win with entries := s2.win.entries.filter (fun x => x.seq != e.seq), retired := s2.win.retired + 1 } }
  let s4 := s3.taskRec e 2 0 (e.wavesRun + 4294967296 * e.waves)
  if e.task.opcode = 1 then
    { s4 with win := { s4.win with st := .halted, stopped := true, stalls := 0, dpc := s4.win.nextAddr e.addr, fault := 0, finfo := e.task.imm } }.irq 0
  else s4

/-- The window as it stood before an entry's renames and decode-time changes (R303). -/
def State.undoEntry (s : State) (e : Entry) : State :=
  let s1 := e.taken.reverse.foldl State.freeBuf s
  let s2 : State := e.undo.bufs.reverse.foldl (fun (a : State) (b : Nat × Option Nat × Option Nat × Option Nat) =>
    { a with win := { a.win with cls := KV.put none b.1 b.2.1 a.win.cls, map := KV.put none b.1 b.2.2.1 a.win.map,
                                 writer := KV.put none b.1 b.2.2.2 a.win.writer } }) s1
  let s3 : State := match e.undo.stack with
    | some st => { s2 with win := { s2.win with stack := st } }
    | none => s2
  let s4 : State := match e.undo.slot with
    | some n => { s3 with win := { s3.win with slot := n } }
    | none => s3
  let s5 : State := match e.undo.pools with
    | some (ps, fs) =>
      { s4 with win := { s4.win with
          pools := (List.range 6).map (fun c => if e.task.imm.getLsbD c then ps.getD c (0, 0) else s4.win.pools.getD c (0, 0))
          free := (List.range 6).map (fun c => if e.task.imm.getLsbD c then fs.getD c [] else s4.win.free.getD c []) } }
    | none => s4
  if !e.sound then s5
  else
    match e.ctx.frame with
    | none => s5
    | some f => if isBound e.task then s5.frameBind f false else if e.task.opcode = 0x21 then s5.frameSeal f false else s5

/-- A t.tbar leaves the window unretired, and its arrival stands: its record, decoded again, sends none (R383). -/
def State.tbarLeft (s : State) (e : Entry) : State :=
  if e.task.opcode = 0x16 ∧ e.arrived then
    { s with win := { s.win with tbarGone := (e.addr, e.ctx.frame.getD 0) :: s.win.tbarGone } }
  else s

/-- Discards an entry: its work is stopped and its changes undone, with a DISCARD record (R303). -/
def State.discard (s : State) (e : Entry) : State :=
  let s1 := ((s.stopTask e).undoEntry e).tbarLeft e
  ({ s1 with win := { s1.win with entries := s1.win.entries.filter (fun x => x.seq != e.seq), decoded := s1.win.decoded - 1 } }).taskRec e 4 0 0

/-- The precise fault of the head entry (R303). -/
def State.preciseFault (s : State) (e : Entry) (code : Nat) (info : Word) : State :=
  let s0 : State := { s with win := { s.win with stopped := true } }
  let s1 := (s0.win.entries.filter (fun x => decide (e.seq < x.seq))).reverse.foldl State.discard s0
  let s2 := (s1.undoEntry e).tbarLeft e
  ({ s2 with win := { s2.win with entries := s2.win.entries.filter (fun x => x.seq != e.seq), dpc := e.addr, st := .faulted, fault := code,
                                  finfo := info, stalls := 0 } }.taskRec e 3 code info.toNat).irq 0

/-- Retires the head, or reports its fault (R302, R303). A head whose domain is being killed waits for the KILL record, which comes before
the records of the tasks that the kill ended (R419, R452). -/
def State.retireHead (s : State) : State :=
  match s.win.entries with
  | [] => s
  | e :: _ =>
    if !e.done || s.rcv.kills.any (fun x => x.1 == s.fdomOf e.ctx.region) then s
    else
      match e.fault with
      | some (code, info) => s.preciseFault e code info
      | none =>
        if e.recAddr = 0 then s.retireOk e
        else
          match s.writeRecord e.ctx true e.recAddr .chip e.record with
          | .wait s1 => s1
          | .done s1 => s1.retireOk e
          | .forbidden s1 => s1.retireOk e

/-- TASK_RETIREMENT (R302): the head task retires when it has completed. -/
def execTaskRetirement (s : State) : Out := .next s.retireHead

end Sys2Proof.Machine
end

