-- ==== Sys2Proof/Machine/Sched.lean ====
section
/-! DEFINITION. The scheduler: grids, waves and dispatch records (R309 to R312), placement order and shedding (R308, R310,
R316), event queues and agents (R313 to R315), pre-emption, swap-out and restore (R50, R331), and the ends of teams and
grids (R38, R327). -/

namespace Sys2Proof.Machine

/-! ## Grids (R180, R309) -/

/-- C of R309: the smaller of the region's effective CORES and the enabled cores. -/
def State.coreBudget (s : State) (region : Nat) : Nat := min (((s.eff region).map Region.cores).getD 0) s.enabledCores

def waveSizeOf (d : KDesc) (c : Nat) : Nat := d.fit * c / d.gang * d.gang
def windowOf (d : KDesc) (c : Nat) : Nat := d.fit * min c 176 / d.gang * d.gang

/-- Whether dimensions are in range and multiples of the gang shape (R39, R41). -/
def dimsOk (d : KDesc) (gx gy gz : Nat) : Bool :=
  decide (gx ≤ 2147483648) && decide (gy ≤ 65535) && decide (gz ≤ 65535) && gx % max d.gangX 1 == 0 && gy % max d.gangY 1 == 0

/-- A grid that enters the scheduler. `size` is S, `wd` the window of a deterministic one, whose Wd slots fill in ascending
order (R180). A persistent grid is one wave of all its teams (R329), and a grid with no teams has no wave (R309). -/
def mkGrid (id : Nat) (k : TaskCtx) (d : KDesc) (args gx gy gz size wd : Nat) : Grid :=
  let n := gx * gy * gz
  { id := id, root := id, task := k, desc := d, args := args, gx := gx, gy := gy, gz := gz,
    waveSize := if d.persist then n else size, nWaves := if d.persist then min n 1 else (n + size - 1) / size,
    wd := wd, slots := if k.det then (List.range wd).map (fun i => if i < n then some i else none) else [],
    nextSeq := if k.det then min n wd else 0 }

/-- Sequence numbers that a grid will still run: those of waves not dropped (R309, R316). A pixel grid's teams are no team
for each place of the grid (R359): they are counted as waves of one team. -/
def Grid.limit (g : Grid) : Nat :=
  if g.desc.kind = 2 then g.nWaves * g.waveSize else min g.teams ((g.nWaves - g.dropped) * g.waveSize)

/-- Positions placed so far. `placed` counts waves, and in deterministic mode positions. -/
def Grid.nextPos (g : Grid) : Nat := if g.task.det then g.placed else min g.teams (g.placed * g.waveSize)

/-- Where the upper of the two contiguous runs of a deterministic window begins (R181): at its middle, by whole gangs (DESIGN
CHOICE; log entry 137). -/
def Grid.upperRun (g : Grid) : Nat :=
  let xs := (g.slots.filterMap (fun x => x)).mergeSort (fun a b => decide (a ≤ b))
  xs.getD ((xs.length / g.desc.gang + 1) / 2 * g.desc.gang) g.nextSeq

/-- The end of the positions that the next dispatch record holds: a wave's, or those of one run of a deterministic window. -/
def Grid.nextEnd (g : Grid) : Nat :=
  if g.task.det then (if g.placed < g.upperRun then min g.upperRun g.nextSeq else g.nextSeq)
  else min g.limit ((g.placed + 1) * g.waveSize)

/-- Whether a grid has teams that may be placed now: in deterministic mode those in its window. -/
def Grid.hasNext (g : Grid) : Bool :=
  !g.stopped && !g.ended && decide (g.nextPos < if g.task.det then g.nextSeq else min g.limit ((g.placed + 1) * g.waveSize))

/-- Whether a grid has teams that are not placed, in its window or not. -/
def Grid.hasMore (g : Grid) : Bool := !g.stopped && !g.ended && decide (g.nextPos < g.limit)

/-- The numbers of the waves that hold positions [first, first + count). -/
def Grid.wavesOf (g : Grid) (first count : Nat) : List Nat :=
  if g.waveSize = 0 ∨ count = 0 then []
  else (List.range ((first + count - 1) / g.waveSize - first / g.waveSize + 1)).map (fun i => first / g.waveSize + i)

/-- The record of a deterministic grid's waves once positions have been placed: a wave's first placement starts it. -/
def Grid.runWaves (g : Grid) (now first count : Nat) : KV (Nat × Nat) :=
  (g.wavesOf first count).foldl (fun m n => if m.any (fun e => e.1 == n) then m else KV.ins n (now, 0) m) g.waveRuns

/-- Teams of wave n of a deterministic grid. -/
def Grid.waveTeams (g : Grid) (n : Nat) : Nat := min g.teams ((n + 1) * g.waveSize) - n * g.waveSize

/-- A team of a deterministic grid has ended: its wave has with its last team, and its duration counts for R316. -/
def Grid.teamEnded (g : Grid) (now pos : Nat) : Grid :=
  let n := pos / max g.waveSize 1
  let r := KV.get (now, 0) n g.waveRuns
  let g1 : Grid := { g with waveRuns := KV.ins n (r.1, r.2 + 1) (KV.del n g.waveRuns) }
  if r.2 + 1 = g.waveTeams n then { g1 with anyEnded := true, maxDur := max g.maxDur (now - r.1) } else g1

/-- Waves that a grid has run: those any of whose teams have been placed. -/
def Grid.wavesRun (g : Grid) : Nat :=
  if g.task.det then (if g.waveSize = 0 then 0 else (g.placed + g.waveSize - 1) / g.waveSize) else g.placed

/-! ## Order (R307, R308) -/

/-- The deadline by which a task's waves sort: its own, or the one that aging gives it (R308). -/
def State.sortDl (s : State) (k : TaskCtx) : Option Nat :=
  match k.deadline with
  | some d => some d
  | none =>
    match s.entry? k.seq with
    | none => none
    | some e => e.agedDl

/-- The key of R308, less first: `fresh` is 1 for a new wave and 0 for a restore. -/
def State.urgency (s : State) (g : Grid) (isNew : Nat) : List Nat :=
  let d := s.sortDl g.task
  [if d.isSome then 0 else 1, d.getD 0, 7 - ((s.eff g.task.region).map Region.prio).getD 0, g.task.seq, isNew,
   if g.parent.isSome then 1 + g.admitted else 0]

/-- Whether a task that sorts with a deadline has it nearer than its region's slack (R310, R331). An aged task counts as a deadline
task for pre-emption too (DESIGN CHOICE; log entry 167). -/
def State.pressed (s : State) (g : Grid) : Bool :=
  match s.sortDl g.task with
  | none => false
  | some d => decide (timeDiff d s.ptime < (((s.eff g.task.region).map Region.slack).getD 0 : Nat))

/-- Whether a grid has a wave, or pixel teams (R359), still to be placed. -/
def State.unplaced (s : State) (g : Grid) : Bool :=
  match s.passes.find? (fun p => p.grid == g.id) with
  | some p => !g.stopped && (if p.ctx.det then decide (g.placed < p.jobs.length) else !p.jobs.isEmpty)
  | none => g.hasMore

/-- Whether R310 lets a grid's next teams be placed beside a pressed deadline task: they have a deadline themselves, or there is
none. -/
def State.unpressed (s : State) (g : Grid) : Bool :=
  (s.sortDl g.task).isSome || !s.grids.any (fun h => s.unplaced h && s.pressed h)

/-- Waves of a task that are placed and have not ended (R310). -/
def State.liveWaves (s : State) (seq : Nat) : Nat :=
  (s.waves.filter (fun w => ((s.grid? w.grid).map (fun g => g.task.seq == seq && !g.task.det)).getD false)).length

/-- Whether the operating point holds back a task's first wave (R323). -/
def State.opHolds (s : State) (g : Grid) : Bool :=
  match s.entry? g.task.seq with
  | none => false
  | some e => g.placed == 0 && g.parent.isNone && s.power.settling.isSome &&
      decide (s.power.op < min (s.opWish e) s.power.cap)

/-- Whether the rules let a grid's next wave be placed, room aside (R310, R323). -/
def State.mayPlace (s : State) (g : Grid) : Bool :=
  g.hasNext && g.pass.all (fun p => ((s.pass? p).map (fun x => x.grid != g.id)).getD true) && !s.opHolds g &&
    (g.task.det || decide (s.liveWaves g.task.seq < 2)) &&
    s.unpressed g

/-- Whether a grid has teams that its window (R180) or its order lets be placed next: a wave's or a pass's pixel teams. -/
def State.nextThere (s : State) (g : Grid) : Bool :=
  match s.passes.find? (fun p => p.grid == g.id) with
  | some p => !g.stopped && (if p.ctx.det then decide (g.placed < min g.nextSeq p.jobs.length) else !p.jobs.isEmpty)
  | none => g.hasNext

/-- Whether a task's next wave could be placed by R310: since when is kept for aging (R308), of which neither a pressed task nor
a change of operating point is account taken (DESIGN CHOICE; log entry 138). -/
def State.notePlaceable (s : State) (seq : Nat) : State :=
  let now := s.grids.any (fun g => g.task.seq == seq && s.nextThere g && (g.task.det || decide (s.liveWaves seq < 2)))
  s.updEntry seq (fun e => { e with placeable := if now then some (e.placeable.getD s.ptime) else none })

/-- A wave of a task was placed: the next one's wait starts anew (R308). -/
def State.noteRestart (s : State) (seq : Nat) : State :=
  (s.updEntry seq (fun e => { e with placeable := none })).notePlaceable seq

/-! ## Choosing cores (R41, R311) -/

/-- Whether the scheduler places on a core at all: it is enabled, its agent runs, and it is not OFFLINE (R28, R415, R422). -/
def State.coreOn (s : State) (core : Nat) : Bool :=
  s.coreExists core && !s.rcv.agentCores.contains core && !(KV.get {} core s.rcv.banks).offline

/-- Whether one team of a kernel fits on a core; `held` where its wave's share is lent already. -/
def State.fitsOn (s : State) (d : KDesc) (held : Bool) (core : Nat) : Bool := ((s.useFor d held core).addTeam d).isSome

/-- Resident teams of a core. -/
def State.load (s : State) (core : Nat) : Nat := (s.teams.filter (fun t => t.holds core)).length

/-- The die of a core (R14). -/
def coreDie (core : Nat) : Nat := core / 96

/-- The cores that a deterministic grid takes of those that qualify: while both dies have room, its lower run goes to the west
die and its upper run to the east (R181). -/
def Grid.ofDie (g : Grid) (ok : List Nat) : List Nat :=
  if g.task.det && ok.any (fun c => coreDie c == 0) && ok.any (fun c => coreDie c == 1) then
    ok.filter (fun c => coreDie c == if g.placed < g.upperRun then 0 else 1)
  else ok

/-- The cores on which a team of a wave fits and which every budget on the path allows (R36), in ascending load, then number. -/
def State.qualify (s : State) (g : Grid) : List Nat :=
  g.ofDie (((List.range Config.cores).filter (fun c => s.coreOn c && s.coreAllowed g.task.region c [] &&
    s.clusterFits g.desc.cluster (c / 4) && s.fitsOn g.desc (g.desc.cluster == 0) c)).mergeSort (fun a b =>
      decide (s.load a < s.load b) || (decide (s.load a = s.load b) && decide (a ≤ b))))

/-- Takes at most n cores, each within every budget on the path (R36, R311). -/
def State.takeCores (s : State) (region : Nat) : Nat → List Nat → List Nat → List Nat
  | _, [], got => got
  | 0, _, got => got
  | n + 1, c :: rest, got =>
    if s.coreAllowed region c got then s.takeCores region n rest (got ++ [c]) else s.takeCores region (n + 1) rest got

/-- Clusters that a gang of n teams spans (R41). -/
def gangClusters (n : Nat) : Nat := if n ≤ 4 then 1 else if n ≤ 8 then 2 else 4

/-- The sublists of c elements. -/
def choose : List Nat → Nat → List (List Nat)
  | _, 0 => [[]]
  | [], _ + 1 => []
  | q :: t, c + 1 => (choose t c).map (fun qs => q :: qs) ++ choose t (c + 1)

/-- The sets of clusters, all on one die, that a gang of n teams may span (R41). -/
def gangSets (n : Nat) : List (List Nat) :=
  choose (List.range 24) (gangClusters n) ++ choose ((List.range 24).map (· + 24)) (gangClusters n)

/-- The place in a list of the cores that a gang would take: those of lower places are less loaded, or as loaded and of lower
number. -/
def placesIn (ok cs : List Nat) : List Nat := cs.map (fun c => ok.idxOf c)

/-- The first of the least of some choices of cores, by their places. -/
def leastCores (ok : List Nat) : List (List Nat) → Option (List Nat)
  | [] => none
  | x :: t =>
    match leastCores ok t with
    | none => some x
    | some y => if lexLt (placesIn ok y) (placesIn ok x) then some y else some x

/-- The cores of the next gang beside those taken by now (R41, R311): of some clusters of one die the first n that the budgets allow, in
ascending load and number; and of all such clusters those whose cores come first. -/
def State.findGang (s : State) (region n : Nat) (ok got : List Nat) : Option (List Nat) :=
  leastCores ok ((gangSets n).filterMap (fun qs =>
    let pick := (s.takeCores region n (ok.filter (fun c => qs.contains (c / 4) && !got.contains c)) got).drop got.length
    if pick.length = n then some pick else none))

/-- Cores for at most `want` gangs of n teams, gang after gang. -/
def State.gangCores (s : State) (region n : Nat) (ok : List Nat) : Nat → List Nat → List Nat
  | 0, got => got
  | want + 1, got =>
    match s.findGang region n ok got with
    | none => got
    | some pick => s.gangCores region n ok want (got ++ pick)

/-- The cores that a wave needs (R311): one for each `fit` of its teams, of a gang wave for whole gangs (log entry 32). -/
def Grid.cores (g : Grid) : Nat :=
  let count := g.nextEnd - g.nextPos
  if g.desc.gangX = 0 then (count + g.desc.fit - 1) / g.desc.fit
  else (count / g.desc.gang + g.desc.fit - 1) / g.desc.fit * g.desc.gang

/-- The cores of a grid's next wave; none when no core, or no gang's cores, qualify (R311). -/
def State.waveCores (s : State) (g : Grid) : List Nat :=
  let ok := s.qualify g
  if g.desc.gangX = 0 then s.takeCores g.task.region g.cores ok [] else s.gangCores g.task.region g.desc.gang ok (g.cores / g.desc.gang) []

/-! ## Event queues (R313, R314) -/

/-- HELD_EVENT_PUSH (R314): the oldest event held for a core is pushed once its queue has room. -/
def execHeldEventPush (s : State) : Out :=
  match s.arg with
  | .idx core =>
    match s.heldEv.find? (fun h => h.1 == core) with
    | none => .next s
    | some h =>
      if (s.qRead (eventHdr core)).pushStatus.isSome then .next s
      else
        let s1 := (s.qPush1 .unit none (eventHdr core) (eventRec core) h.2).2
        .next ({ s1 with heldEv := s1.heldEv.erase h }.qSignal .unit none (eventHdr core) s1.ptime)
  | _ => .next s

/-! ## Dispatch records (R312) -/


/-- The set bits of CORES. -/
def coreMask (cs : List Nat) : Nat := cs.foldl (fun m c => m + 2 ^ c) 0

/-- The 128 bytes of a placed wave's record. -/
def dispatchBytes (g : Grid) (first count num : Nat) (cores : List Nat) : List Byte :=
  leBytes 4 0 ++ leBytes 4 count ++ leBytes 4 first ++ leBytes 4 0 ++ leBytes 8 g.desc.base ++ leBytes 8 g.args ++
    leBytes 4 g.gx ++ leBytes 2 g.gy ++ leBytes 2 g.gz ++ leBytes 24 (coreMask cores) ++ leBytes 2 g.task.region ++
    leBytes 2 (g.task.det.toNat + (if g.desc.gangX = 0 then 0 else 2) + (if g.desc.persist then 4 else 0)) ++ leBytes 4 num ++
    leBytes 8 g.id ++ leBytes 8 (g.task.deadline.getD 0) ++ leBytes 40 0

def State.freeRec (s : State) : Option Nat := lowestFree 512 (s.waves.map Wave.recIdx)

/-- Places a grid's next wave on chosen cores: the record, the wave, and a PLACE event to each core's agent (R311 to
R313). -/
def State.placeOn (s : State) (g : Grid) (i : Nat) (cores : List Nat) : State :=
  let first := g.nextPos
  let count := g.nextEnd - g.nextPos
  let num := if g.waveSize = 0 then 0 else first / g.waveSize
  let r := s.fresh
  let w : Wave :=
    { id := r.1, grid := g.id, num := num, first := first, count := count, recIdx := i, cores := cores.mergeSort (fun a b => decide (a ≤ b)),
      clusters := if g.desc.cluster = 0 then [] else (cores.map (fun c => c / 4)).eraseDups, placedAt := s.now }
  let s1 : State := { r.2 with waves := r.2.waves ++ [w] }
  let s2 := s1.updGrid g.id (fun x =>
    { x with placed := if x.task.det then first + count else x.placed + 1
             waveRuns := if x.task.det then x.runWaves s.now first count else x.waveRuns })
  let s3 := s2.wrPub .chip .unit none (atLoc (recLoc i) (dispatchBytes g first count num cores))
  let s4 := s3.updEntry g.task.seq (fun e =>
    { e with wavesRun := if e.grid = some g.id then ((s3.grid? g.id).map Grid.wavesRun).getD e.wavesRun else e.wavesRun })
  (cores.foldl (fun a c => a.pushEvent c (eventWords 1 0 (recOff i))) (s4.reserveGangs g w false)).noteRestart g.task.seq

/-! ## Shedding (R316) -/

/-- Whether a grid is the top-level grid of a sheddable task whose first wave has ended. The waves of its child grids count
neither here nor in `Tw` and `rem` (DESIGN CHOICE; log entry 166). -/
def State.sheds (s : State) (g : Grid) : Bool :=
  g.parent.isNone && g.anyEnded && g.task.deadline.isSome && !g.desc.persist &&
    ((s.entry? g.task.seq).map (fun e => e.shed && e.grid == some g.id)).getD false

/-- Waves neither placed nor dropped. -/
def Grid.rem (g : Grid) : Nat := g.nWaves - g.dropped - g.wavesRun

/-- `keep`: the largest m up to n with now + ceil(m / 2) * Tw <= deadline. -/
def keepWaves (now tw dl : Nat) : Nat → Nat
  | 0 => 0
  | n + 1 => if now + (n + 2) / 2 * tw ≤ dl then n + 1 else keepWaves now tw dl n

/-- Drops a grid's last n waves: their teams leave a deterministic window too. -/
def Grid.drop (g : Grid) (n : Nat) : Grid :=
  let g1 : Grid := { g with dropped := g.dropped + n }
  { g1 with nextSeq := min g1.nextSeq g1.limit, slots := g1.slots.map (fun x => x.filter (fun q => decide (q < g1.limit))) }

/-- Drops the last waves that cannot meet the deadline. -/
def State.shed (s : State) (g : Grid) : State :=
  if s.sheds g then s.updGrid g.id (fun x => x.drop (x.rem - keepWaves s.ptime x.maxDur (x.task.deadline.getD 0) x.rem)) else s

/-! ## Restores (R50) -/

/-- Whether a saved team fits on a core, and the budgets and its cluster allow the core; `taken` are cores that other members of
its gang take. -/
def State.restoreFits (s : State) (t : Team) (taken : List Nat) (core : Nat) : Bool :=
  s.coreOn core && s.coreAllowed (s.ctxOf t).region core taken && ((s.useOf core []).addTeam t.desc).isSome &&
    ((t.desc.cluster == 0 && t.desc.gangX == 0 && t.job.isNone) || core / 4 == t.core / 4)

/-! ## Claims and instantiation (R315) -/

/-- ag.claim (R315); an address that names no placed record's answers as a wave with no team left (DESIGN CHOICE; log entry 168). Of a
gang wave the answer is the next reserved team that the core holds by R312, or 0xFFFF_FFFF with none;
else the number of the next ticket, 0xFFFF_FFFF with none left, or 0xFFFF_FFFE where a team does not fit. -/
def State.claim (s : State) (core off : Nat) : Word × State :=
  match s.waves.find? (fun w => recOff w.recIdx == off) with
  | none => (0xFFFFFFFF, s)
  | some w =>
    match s.grid? w.grid with
    | none => (0xFFFFFFFF, s)
    | some g =>
      if g.desc.gangX ≠ 0 then
        match s.teams.find? (fun t => t.wave == w.id && t.core == core && t.st == .claimed && !t.told) with
        | none => (0xFFFFFFFF, s)
        | some t => (BitVec.ofNat 32 t.index, s.updTeam t.id (fun u => { u with told := true }))
      else if ((s.useOf core []).addTeam g.desc).isNone then (0xFFFFFFFE, s)
      else
        let t := s.rdNewNat (recLoc w.recIdx) 4
        let s1 := s.wrPub .chip .unit none (atLoc (recLoc w.recIdx) (leBytes 4 (t + 1)))
        if w.count ≤ t then (0xFFFFFFFF, s1) else (BitVec.ofNat 32 (w.first + t), s1.claimAt g w.id core (w.first + t))

/-- The reserved team of a core, record and number: of a gang wave the team's index, else its place in the wave order. -/
def State.reservation (s : State) (core off n : Nat) : Option Team :=
  match s.waves.find? (fun w => recOff w.recIdx == off) with
  | none => none
  | some w => s.teams.find? (fun t => t.core == core && t.st == .claimed && t.wave == w.id &&
      (if t.desc.gangX = 0 then t.pos == n else t.index == n))

/-- An instantiated or restored team becomes resident with the last member of its gang (R41). -/
def State.gangUp (s : State) (id : Nat) : State :=
  match s.team? id with
  | none => s
  | some t =>
    let ts := s.gangTeams t
    if ts.all (fun u => u.st == .formed || u.st == .ended || u.st == .contWait) then
      { s with teams := s.teams.map (fun u => if u.st == .formed && ts.any (fun x => x.id == u.id) then { u with st := .resident } else u) }
    else s

/-- ag.inst: the reserved team is instantiated. -/
def State.agentInst (s : State) (id : Nat) : State := (s.instantiate id).gangUp id

/-- The team that a handle names on a core (R315). -/
def State.byHandle (s : State) (core h : Nat) : Option Team := s.teams.find? (fun t => t.holds core && t.handle == h)

/-! ## Ends of teams and waves (R38, R312, R328) -/

/-- A wave whose teams have all ended gives its record and its shares back (R44, R312); its duration counts for R316. -/
def State.waveEnd (s : State) (id : Nat) : State :=
  match s.wave? id with
  | none => s
  | some w =>
    if s.rdNewNat (recLoc w.recIdx + 0xC) 4 < w.count then s
    else
      ({ s with waves := s.waves.filter (fun x => x.id != id) }.updGrid w.grid (fun g =>
        if g.task.det then g else { g with anyEnded := true, maxDur := max g.maxDur (s.now - w.placedAt) })).notePlaceable
          (((s.grid? w.grid).map (fun (g : Grid) => g.task.seq)).getD 0)

/-- Frees a team's resources and counts it in its record (R315); RETRY goes to its core (R313). -/
def State.endTeam (s : State) (t : Team) : State :=
  let s1 := ({ s with teams := s.teams.filter (fun u => u.id != t.id) } : State).updGrid t.grid (fun g =>
    if g.task.det && t.job.isNone then g.teamEnded s.now t.pos else g)
  match s1.wave? t.wave with
  | none => s1.retryCore t.core
  | some w =>
    let n := s1.rdNewNat (recLoc w.recIdx + 0xC) 4
    let s2 := s1.wrPub .chip .unit none (atLoc (recLoc w.recIdx + 0xC) (leBytes 4 (n + 1)))
    (s2.waveEnd w.id).retryCore t.core

/-- The joined views of a team's threads. -/
def Team.jointView (t : Team) : KV Nat × Nat :=
  t.warps.foldl (fun v w => w.threads.foldl (fun a th => (moveView a.1 th.view, max a.2 th.seen)) v) ([], 0)

/-- Instantiates a continuation's team once its resources fit (R328): scratchpad, objects, cluster share, index and grid
stay. -/
def State.continueTeam (s : State) (t : Team) : State :=
  match t.cont with
  | none => s
  | some (_, d, args) =>
    match (s.useOf t.core [t.id]).addTeam d with
    | none => s.updTeam t.id (fun u => { u with st := .contWait, desc := { u.desc with tiles := 0, cask := 0 } })
    | some (_, ps) =>
      let v := t.jointView
      let s0 : State := { s with teams := s.teams.map (fun u => if u.id == t.id then { u with warps := [] } else u) }
      let ws := newWarps d args ps (giveSlots d.warp (s0.usedSlots t.core) ps) v.1 v.2 s.tick
      s.updTeam t.id (fun u => { u with st := .resident, desc := d, args := args, warps := ws, tiles := [], cask := [],
                                        ranges := List.replicate 8 none, launchQ := [], callIdx := 0, cont := none, due := false })

/-- ag.end's effect: a continuation is instantiated in place of the end (R328). -/
def State.agentEnd (s : State) (t : Team) : State := if t.cont.isSome then s.continueTeam t else s.endTeam t

/-- Whether a team has ended: its last thread has exited, nothing of it is held to a boundary, and its commands are done
(R38). -/
def State.teamOver (s : State) (t : Team) : Bool :=
  t.liveThreads.isEmpty && t.warps.all (fun w => w.held.isEmpty && w.halt.isNone) &&
    s.copies.all (fun x => x.team != t.id || x.kind == 3) && s.gathers.all (fun x => x.team != t.id) && s.matq.all (fun x => x.team != t.id)

/-- TEAM_END (R38, R313): the core pushes the event; subscriptions and queued launches end (R243, R327). -/
def execTeamEnd (s : State) : Out :=
  match s.arg with
  | .idx id =>
    match s.team? id with
    | none => .next s
    | some t =>
      if t.st ≠ .resident ∨ t.agent ∨ !s.teamOver t ∨ ((s.ctxOf t).det ∧ t.cont.isSome ∧ !t.due) then .next s
      else
        let s1 := (((s.closeLogs t).dropLaunches t).dropEngines id).countLeft.updTeam id (fun u => { u with st := .ended })
        if t.job.isSome then .next (s1.agentEnd t) else .next (s1.pushEvent t.core (eventWords 2 t.handle 0))
  | _ => .next s

/-! ## Saves and restores (R50, R51, R210, R332) -/

/-- The bytes that a save writes (R332). -/
def State.saveSize (s : State) (t : Team) : Nat :=
  let d := t.desc
  d.threads * (4 * d.vregs + d.lslice + 320) + t.warps.length * 320 + d.scratch + 32 * d.barriers + 16384 * d.tiles + d.cask +
    128 * (s.copies.filter (fun x => x.team == t.id && x.kind != 3)).length + 1024

/-- Halts a team for pre-emption or swap-out; commands in flight finish first (R51). -/
def State.haltTeam (s : State) (id : Nat) : State :=
  match s.team? id with
  | none => s
  | some t => if s.quiet t then s.haltNow t else s.updTeam id (fun u => { u with st := .halting })

/-- The save area that the scheduler names for a team; the spec places none, and no address of R431 is one (log entry
30). -/
def saveArea (id : Nat) : Nat := 9223372036854775808 + id

/-- A block of a team's scratchpad whose error cannot be corrected. -/
def State.scratchErr (s : State) (t : Team) : Option Nat := s.bad.find? (fun b => b / 18446744073709551616 == locScr t.id 0 / 18446744073709551616)

/-- A block of what a restore reads whose error cannot be corrected: the save area, or the bytes saved. -/
def State.savedErr (s : State) (t : Team) : Option Nat :=
  (s.bad.find? (fun b => decide (t.area < b + 64) && decide (b < t.area + s.saveSize t))).or (s.scratchErr t)

/-- A save or restore meets such a block (R421): the error is recorded and a kill of the team's domain starts, whose work
KILL_COMPLETE does. -/
def State.stateLost (s : State) (t : Team) (l : Nat) : State :=
  let a := s.journal { kind := 7, code := 1, addr := l }
  { a with rcv := { a.rcv with kills := a.rcv.kills ++ [(s.fdomOf (s.ctxOf t).region, 2, 0)] } }

/-- A team's commands leave the core's queues with it (R239); the marks of its qfences stay there for other teams' commands (R206)
and go with its own. -/
def State.saveCopies (s : State) (id : Nat) : State :=
  { s with copies := s.copies.flatMap (fun x =>
      if x.team == id then (if x.kind == 3 then [x, { x with off := true }] else [{ x with off := true }]) else [x]) }

/-- They enter the queues of the core that it is restored to. -/
def State.restoreCopies (s : State) (id core : Nat) : State :=
  { s with copies := s.copies.map (fun x => if x.team == id && x.off then { x with core := core, off := false } else x) }

/-- ag.save's effect: the team leaves its core (R315), whose waiting waves try again, as after an end (log entry 31). -/
def State.saveTeam (s : State) (t : Team) (area : Nat) : State :=
  match s.scratchErr t with
  | some l => s.stateLost t l
  | none => (((s.closeLogs t).saveCopies t.id).updTeam t.id (fun u => { u with st := .saved, area := area })).retryCore t.core

/-- The team saved at an area. -/
def State.savedAt (s : State) (area : Nat) : Option Team := s.teams.find? (fun t => t.st == .saved && t.area == area)

/-- Restores a saved team to a core (R50, R52, R210): new places, its copy commands in that core's queues, an acquire at chip scope
by each thread, and a new halt record for a halted warp (R414). It is resident with the last of its gang (R41). -/
def State.restoreTeam (s : State) (t : Team) (core : Nat) : State :=
  match s.savedErr t, (s.useOf core []).addTeam t.desc with
  | some l, _ => s.stateLost t l
  | none, none => s
  | none, some (_, ps) =>
    let slots := giveSlots t.desc.warp (s.usedSlots core) ps
    let h := (lowestFree 128 (s.usedHandles core)).getD 0
    let det := (s.ctxOf t).det
    let place (w : Warp) : Warp :=
      let p := ps.getD w.idx ⟨0, 0⟩
      let th (x : Thread) : Thread := if det then x else s.acquire (.core core) { scope := .chip } x
      { w with quad := p.quad, half := p.half, slot := slots.getD w.idx 0, threads := w.threads.map (fun x => { th x with ready := s.tick }) }
    let s1 := s.updTeam t.id (fun u => { u with st := .formed, core := core, handle := h, warps := u.warps.map place })
    let s2 := s1.restoreCopies t.id core
    match s2.team? t.id with
    | none => s2
    | some t1 =>
      (t1.warps.foldl (fun a w =>
        match w.halt with
        | none => a
        | some x =>
          let y : Halt := { x with id := haltId t1 w, stamp := a.ptime }
          (a.updWarp t1.id w.idx (fun v => { v with halt := some y })).pushHalt (haltBytes a t1 w y)) s2).gangUp t.id

/-! ## The agents (R313) -/

/-- Claims and instantiates teams of a record until none is left or none fits. -/
def State.agentPlace (s : State) (core off : Nat) : Nat → State
  | 0 => s
  | n + 1 =>
    let r := s.claim core off
    if r.1 = 0xFFFFFFFF ∨ r.1 = 0xFFFFFFFE then r.2
    else
      match r.2.reservation core off r.1.toNat with
      | none => r.2
      | some t => (r.2.agentInst t.id).agentPlace core off n

/-- What a core's agent does with an event (R313). -/
def State.agentAnswer (s : State) (core : Nat) (ws : List Word) : State :=
  let arg := (ws.getD 1 0).toNat
  let addr := (ws.getD 2 0).toNat + 4294967296 * (ws.getD 3 0).toNat
  match (ws.getD 0 0).toNat with
  | 1 | 6 => s.agentPlace core addr 128
  | 2 =>
    match s.byHandle core arg with
    | some t => if t.st = .ended then s.agentEnd t else s
    | none => s
  | 4 =>
    match s.byHandle core arg with
    | some t => if t.st = .halted then s.saveTeam t addr else if t.st = .halting then s.pushEvent core ws else s
    | none => s
  | 5 =>
    match s.savedAt addr with
    | some t => if ((s.useOf core []).addTeam t.desc).isSome then s.restoreTeam t core else s.pushEvent core ws
    | none => s
  | _ => s

/-- A core's agent pops its next event and answers it. No agent runs before its firmware has been verified (R387), and one that has halted answers none
(R415). -/
def State.agentStep (s : State) (core : Nat) : State :=
  let q := s.qRead (eventHdr core)
  if q.count = 0 ∨ s.trust.state ≠ 1 ∨ !s.coreExists core ∨ s.rcv.agentCores.contains core then s
  else
    let bs := (locRange (eventRec core q.head) 16).map s.rdNew
    (s.wrPub .chip (.core core) none (atLoc (eventHdr core + 0x28) (leBytes 4 ((q.head + 1) % 4294967296)))).agentAnswer core
      (wordsOfBytes 4 bs)

/-! ## Ends of grids (R38, R208, R327) -/

/-- Every write of a grid's teams, published at chip scope (R208). -/
def State.publishGrid (s : State) (g : Nat) : State :=
  s.publish .chip .unit ((s.hist.filter (fun h => h.by_.grid == some g)).map (fun h => (h.loc, h.ser)))

/-- The publications of a grid's end, as its engine's arrival carries them to every waiter (R207, R327). -/
def State.gridEntries (s : State) (g : Nat) : List BarEntry :=
  (s.hist.filter (fun h => h.by_.grid == some g)).map (fun h =>
    { engine := true, p := { scope := .chip, party := .unit, loc := h.loc, ser := h.ser, writer := h.by_.party } })

/-- One arrival of an engine on the object at l (R204, R327): an object that cannot take it is broken (R231). -/
def State.arriveOne (s : State) (P : Party) (l stamp : Nat) (ents : List BarEntry) : State :=
  let o := s.barRead l
  if o.broken then s
  else if s.objErr l then (s.journal { kind := 7, code := 1, addr := l }).barBreak (locSpace l) P l
  else if o.bad ∨ o.left = 0 then s.barBreak (locSpace l) P l
  else s.barUpdate (locSpace l) P none l stamp (.arrive 1 false) ents

/-- An effect held in deterministic mode meets bytes that an error has lost (R421): the warp halts, once, with cause MEMORY. FADDR,
which the held effect no longer has, is a free value (DESIGN CHOICE; log entry 174). -/
def State.heldErr (s : State) (g : Grid) (c : Ctx) (lane l : Nat) : State :=
  let r := (s.memErr g.task.seq l).free 64
  match r.2.warp? c.team c.warp with
  | some w => if w.halt.isSome then r.2 else r.2.haltWarp c { cause := 15, lane := lane, faddr := r.1.toNat } true
  | none => r.2

/-- One held reduction; where its word is lost to an error, it is dropped and its warp halts, with the thread's pc of then. -/
def State.flushRed (s : State) (g : Grid) (r : List Nat × AtomOp × Scope × Nat) : State :=
  let a := r.2.1
  if s.objErr a.loc then
    match s.teams.find? (fun t => t.grid == g.id && !t.agent && t.pos == r.1.headD 0) with
    | none => s.memErr g.task.seq a.loc
    | some t =>
      let w := r.1.getD 1 0
      s.heldErr g { team := t.id, warp := w, lanes := [a.lane], pc := ((s.thr? t.id w a.lane).map Thread.pc).getD 0, words := [] } a.lane a.loc
  else (s.atomic (match r.2.2.2 with | 1 => Space.s | 2 => .c | 3 => .x | _ => .g) .unit (some g.id) a).2

/-- Held reductions of a grid, applied in the order of R185. -/
def State.flushReds (s : State) (g : Grid) (rs : List (List Nat × AtomOp × Scope × Nat)) : State :=
  (rs.mergeSort (fun a b => !lexLt b.1 a.1)).foldl (fun a r => a.flushRed g r) s

/-- Whether a grid's last team has ended. -/
def State.gridOver (s : State) (g : Grid) : Bool :=
  !g.hasNext && !s.waves.any (fun w => w.grid == g.id) && !s.teams.any (fun t => t.grid == g.id) &&
    (if g.task.det then decide (g.limit ≤ g.nextSeq) else decide (g.nWaves ≤ g.placed + g.dropped))

/-- A grid ends: held reductions are applied, its writes published, and its counter gets its arrival. -/
def State.endGrid (s : State) (g : Grid) : State :=
  let s1 := (s.flushReds g g.reds).publishGrid g.id
  let s2 := match g.ctr with
    | none => s1
    | some l => if s1.objBarred g.task l then s1.engineErr g.task 1 8 0xFFFF 0 0
      else s1.arriveOne .unit l (s1.stampFor g.task) (s1.gridEntries g.id)
  let s3 : State := { s2 with grids := s2.grids.filter (fun x => x.id != g.id), spubs := s2.spubs.filter (fun p => p.grid != g.id),
                              ssubs := s2.ssubs.filter (fun p => p.grid != g.id) }
  match g.pass with
  | none => s3
  | some p => s3.updPass p (fun x => { x with geomEnded := true })

/-- GRID_END (R38). A pass's pixel grid ends with its pass. -/
def execGridEnd (s : State) : Out :=
  match s.arg with
  | .idx id =>
    match s.grid? id with
    | none => .next s
    | some g =>
      if s.passes.any (fun p => p.grid == id) ∨ !s.gridOver g then .next s else .next (s.endGrid g)
  | _ => .next s

/-! ## Child grids (R327, R453) -/

/-- Child grids of the device. -/
def State.childGrids (s : State) : Nat := (s.grids.filter (fun g => g.parent.isSome)).length

/-- Admits the first entry of a team's queue (R327): the embedded phase completes, and a grid with a zero dimension makes its
arrival at once. A child grid's admission is taken as its issue, for R193 and R208 (DESIGN CHOICE; log entry 165). -/
def State.enroll (s : State) (t : Team) : State :=
  match t.launchQ with
  | [] => s
  | r :: rest =>
    if 1024 ≤ s.childGrids then s
    else
      match s.grid? t.grid with
      | none => s
      | some p =>
        let n := s.fresh
        let g : Grid :=
          { mkGrid n.1 { p.task with issueSer := s.nextSer, issuePubs := s.publs.length } r.desc r.args r.gx r.gy r.gz r.waveSize r.wd with
            root := p.root, parent := some t.id, parentSeq := t.pos, callIdx := r.ci, ctr := r.ctr, admitted := n.1, mark := s.nextSer }
        let s1 := (n.2.updTeam t.id (fun u => { u with launchQ := rest })).wake (fun w => match w with
          | .launchQ id _ => id == t.id
          | _ => false) true
        let s2 : State := { s1 with grids := s1.grids ++ [g] }
        if g.teams = 0 then s2.endGrid g else s2.notePlaceable p.task.seq

/-- LAUNCH_ADMISSION (R327). A deterministic team's entries are admitted at boundaries (R453). -/
def execLaunchAdmission (s : State) : Out :=
  match s.arg with
  | .idx id =>
    match s.team? id with
    | none => .next s
    | some t => if (s.ctxOf t).det then .next s else .next (s.enroll t)
  | _ => .next s

/-! ## Power (R321 to R323) -/

/-- OP_CHANGE_SETTLED (R25, R323). -/
def execOpChangeSettled (s : State) : Out :=
  match s.power.settling with
  | none => .next s
  | some n => .next ({ s with power := { s.power with op := n, settling := none } }.reOp)

/-- POWER_SAMPLE (R322, R439): the cap falls when power is above the limit, and rises after 10 samples in a row below 95%
of it. -/
def execPowerSample (s : State) : Out :=
  match s.arg with
  | .idx watts =>
    let p := s.power
    let limit := if p.qEnable then p.limit else 560
    let top := if p.qEnable then p.opCap else 15
    let p1 : Power := { p with watts := watts }
    let p2 : Power :=
      if limit < watts then { p1 with pcap := min p.pcap p.op - 1, low := 0 }
      else if watts * 100 < limit * 95 then
        (if p.low + 1 = 10 then { p1 with pcap := max p.pcap (min (p.pcap + 1) top), low := 0 } else { p1 with low := p.low + 1 })
      else { p1 with low := 0 }
    .next ({ s with power := p2 }.reOp)
  | _ => .next s

end Sys2Proof.Machine
end

