-- ==== Sys2Proof/Machine/TaskMem.lean ====
section
/-! DEFINITION. Accesses of the engines that act for tasks and not for teams: the collective engine, t.copy and t.fill, the
media and the structure builder (R302, R381, R391, R421). -/

namespace Sys2Proof.Machine

/-- Where one byte of a task-level engine's access lies. -/
def State.taskAt (s : State) (k : TaskCtx) (va : Nat) (w : Acc) : EngAt :=
  match s.tr k va w with
  | .ok pa => .loc (locPhys pa)
  | .page e lvl x => .page { va := va, entry := e, lvl := lvl, e := x, kind := if w = .write then 3 else 2 }
  | .bad _ => .bad
  | .err l => .err l

/-- The locations of n bytes, page by page, or what stops the engine: for reads also an error of R421. `fuel` bounds the
pages. -/
def State.taskSpan (s : State) (k : TaskCtx) (w : Acc) : Nat → Nat → Nat → Except EngAt (List Nat)
  | 0, _, _ => .ok []
  | fuel + 1, va, n =>
    if n = 0 then .ok []
    else
      match s.taskAt k (va % 18446744073709551616) w with
      | .loc l =>
        let m := min n (4096 - va % 4096)
        match (if w = .read then (locRange l m).find? (fun x => s.bad.contains (x / 64 * 64)) else none) with
        | some x => .error (.err x)
        | none =>
          match s.taskSpan k w fuel (va + m) (n - m) with
          | .error e => .error e
          | .ok r => .ok (locRange l m ++ r)
      | e => .error e

/-- The locations of n bytes at a virtual address. -/
def State.taskLocs (s : State) (k : TaskCtx) (w : Acc) (va n : Nat) : Except EngAt (List Nat) := s.taskSpan k w (n / 4096 + 2) va n

/-- n bytes as an engine reads them: the newest. -/
def State.taskRead (s : State) (k : TaskCtx) (va n : Nat) : Except EngAt (List Byte) :=
  match s.taskLocs k .read va n with
  | .error e => .error e
  | .ok ls => .ok (ls.map s.rdNew)

/-- The writes of bytes at virtual addresses: all of them can be made, or what stops the engine. -/
def State.taskWrites (s : State) (k : TaskCtx) : List (Nat × List Byte) → Except EngAt (List (Nat × Byte))
  | [] => .ok []
  | (va, bs) :: t =>
    match s.taskLocs k .write va bs.length, s.taskWrites k t with
    | .error e, _ => .error e
    | _, .error e => .error e
    | .ok ls, .ok r => .ok (ls.zip bs ++ r)

/-- An ENGINE record of a task-level engine (R408). -/
def State.taskErr (s : State) (k : TaskCtx) (cause : Nat) : State := s.engineErr k cause 8 0xFFFF 0 0

/-- The task context in which a media stream's engine acts (R391). -/
def MediaStream.ctx (m : MediaStream) : TaskCtx := { region := m.region, seq := m.seq }

/-- A stream's object breaks, where its engine may reach it (R266, R390). -/
def State.bandBreak (s : State) (m : MediaStream) (l : Nat) : State :=
  if s.objBarred m.ctx l then s.taskErr m.ctx 1 else s.barBreak .x .unit l

/-- What a task-level engine does that cannot go on: it waits for a page, or stops with an ENGINE record of cause PROTECTION
or MEMORY, the task then completing with ENGINE_ERROR or MEMORY_ERROR (R302, R421; log entry 42). -/
def State.taskStop (s : State) (k : TaskCtx) (x : EngAt) (gone : State → State) : State :=
  match x with
  | .page p => s.stall (taskKey k.seq) k.region p
  | .err l => ((gone ((s.memErr k.seq l).taskErr k 4)).unstall (taskKey k.seq)).complete k.seq (some (tfMemory, 0))
  | _ => ((gone (s.taskErr k 1)).unstall (taskKey k.seq)).complete k.seq (some (tfEngine, 0))

end Sys2Proof.Machine
end

