-- ==== Sys2Proof/Machine/Bvh.lean ====
section
/-! DEFINITION. t.bvh: what it captures of a build input, and the node area and header that it writes (R334 to R336). -/

namespace Sys2Proof.Machine

/-! ## Reading the build input (R334) -/

/-- What a build has come to: what it captured, the bytes it read, or what stops it: an access, or a failing field. -/
inductive Built (α : Type) where
  | ok (x : α) (bs : List Byte)
  | stop (e : EngAt)
  | bad (field : Nat)

def Built.bind {α β : Type} (x : Built α) (f : α → Built β) : Built β :=
  match x with
  | .stop e => .stop e
  | .bad n => .bad n
  | .ok a bs =>
    match f a with
    | .stop e => .stop e
    | .bad n => .bad n
    | .ok b bs2 => .ok b (bs ++ bs2)

/-- Bytes of a build's input. -/
def State.built (s : State) (k : TaskCtx) (va n : Nat) : Built (List Byte) :=
  match s.taskRead k (va % 18446744073709551616) n with
  | .error e => .stop e
  | .ok bs => .ok bs bs

/-- A record whose fields fail is charged to ITEMS. -/
def itemsField : Nat := 8

/-- The indices and vertices of the n triangles from number i; `kept` are the indices of the structure that a refit goes over, which
it does not read again (R336). -/
def State.bvhTris (s : State) (k : TaskCtx) (vtx idx stride : Nat) (kept : Option (List (List Byte))) :
    Nat → Nat → Built (List (List Byte × List Word))
  | 0, _ => .ok [] []
  | n + 1, i =>
    (match kept.bind (fun l => l[i]?) with
     | some t => Built.ok t t
     | none => s.built k (idx + 12 * i) 12).bind (fun t =>
      (s.built k (vtx + stride * fieldOf t 0 4) 12).bind (fun a =>
        (s.built k (vtx + stride * fieldOf t 4 4) 12).bind (fun b =>
          (s.built k (vtx + stride * fieldOf t 8 4) 12).bind (fun c =>
            (s.bvhTris k vtx idx stride kept n (i + 1)).bind (fun r =>
              .ok ((t, (List.range 9).map (fun (j : Nat) => BitVec.ofNat 32 (fieldOf (a ++ b ++ c) (4 * j) 4))) :: r) [])))))

/-- The n geometries from number i; `kept` are those of the structure that a refit goes over, of whose triangle counts they must be. -/
def State.bvhGeoms (s : State) (k : TaskCtx) (items : Nat) (kept : Option (List BvhGeom)) : Nat → Nat → Built (List BvhGeom)
  | 0, _ => .ok [] []
  | n + 1, i =>
    (s.built k (items + 32 * i) 32).bind (fun r =>
      let stride := fieldOf r 0x10 4
      if fieldOf r 0 8 % 4 ≠ 0 ∨ fieldOf r 8 8 % 4 ≠ 0 ∨ stride % 4 ≠ 0 ∨ stride < 12 ∨ 268435456 < fieldOf r 0x14 4 ∨
          1 < fieldOf r 0x18 4 ∨ fieldOf r 0x1C 4 ≠ 0 then .bad itemsField
      else
        let o := kept.bind (fun l => l[i]?)
        if o.any (fun g => g.tris.length != fieldOf r 0x14 4) then .bad itemsField
        else
          (s.bvhTris k (fieldOf r 0 8) (fieldOf r 8 8) stride (o.map BvhGeom.idx) (fieldOf r 0x14 4) 0).bind (fun ts =>
            (s.bvhGeoms k items kept n (i + 1)).bind (fun gs =>
              .ok ({ isOpaque := (o.map BvhGeom.isOpaque).getD (fieldOf r 0x18 4 == 1), idx := ts.map (fun x => x.1),
                     tris := ts.map (fun x => x.2) } :: gs) [])))

/-- Whether a header's bytes are those of a VALID structure. -/
def hdrValid (bs : List Byte) : Bool := fieldOf bs 0xC 4 / 2 % 2 == 1

/-- Whether they are those of a VALID structure that is not being written. -/
def hdrReady (bs : List Byte) : Bool := fieldOf bs 0xC 4 % 4 == 2

/-- The n instances from number i; `kept` are those of the structure that a refit goes over, whose BOTTOM it keeps. -/
def State.bvhInsts (s : State) (k : TaskCtx) (items : Nat) (kept : Option (List BvhInst)) : Nat → Nat → Built (List BvhInst)
  | 0, _ => .ok [] []
  | n + 1, i =>
    (s.built k (items + 64 * i) 64).bind (fun r =>
      let bottom := ((kept.bind (fun l => l[i]?)).map BvhInst.bottom).getD (fieldOf r 0x30 8)
      if 8 ≤ fieldOf r 0x39 1 ∨ resvBad r 0x3A 6 ∨ bottom % 128 ≠ 0 then .bad itemsField
      else
        (s.built k bottom 128).bind (fun h =>
          if !hdrValid h || fieldOf h 4 1 != 0 then .bad itemsField
          else
            (s.bvhInsts k items kept n (i + 1)).bind (fun is =>
              .ok ({ m := (List.range 12).map (fun (j : Nat) => BitVec.ofNat 32 (fieldOf r (4 * j) 4)), bottom := bottom,
                     mask := fieldOf r 0x38 1, iflags := fieldOf r 0x39 1, bounds := wordsOfBytes 6 (h.drop 0x20) } :: is) [])))

/-! ## Building (R336) -/

/-- What t.bvh finds: the structure to write, with its header's generation before, and the bytes captured. `hdr` are the
header's bytes and `pa` its address. -/
def State.bvhFind (s : State) (e : Entry) (pa : Nat) (hdr : List Byte) : Built Bvh :=
  let kind := fieldOf e.block 0 1
  let count := fieldOf e.block 4 4
  let mode := immBits e.task 1 0
  let valid := hdrValid hdr
  let gen := if valid then fieldOf hdr 0 4 else 0
  let old := if valid then s.bvhs.find? (fun b => b.header == pa && b.gen == gen) else none
  let b : Bvh := { header := pa, gen := gen, root := s.rootOf e.ctx.region, nodes := fieldOf e.block 0x10 8,
                   size := fieldOf e.block 0x18 8 }
  if mode ≠ 0 ∧ (old.isNone ∨ fieldOf hdr 4 1 ≠ kind) then .bad 0
  else if mode ≠ 0 ∧ fieldOf hdr 8 4 ≠ count then .bad 4
  else if kind = 0 then
    (s.bvhGeoms e.ctx (fieldOf e.block 8 8) (if mode = 0 then none else old.map Bvh.geoms) count 0).bind (fun gs =>
      .ok { b with geoms := gs } [])
  else
    (s.bvhInsts e.ctx (fieldOf e.block 8 8) (if mode = 1 then old.map Bvh.insts else none) count 0).bind (fun is =>
      .ok { b with insts := is } [])

/-- The rational of a finite f32. -/
def wordRat (x : Word) : Option Rat :=
  match value .f32 x.toNat with
  | .fin n m => some (if n then -m else m)
  | _ => none

/-- The world-space corners of an instance's bounds: its matrix carries world to object space, so they are those of the inverse map,
which are exact (R334, R335; log entry 60). None for a matrix without inverse or values that are not finite. -/
def BvhInst.corners (x : BvhInst) : Option (List (List Rat)) :=
  match (x.m ++ x.bounds).mapM wordRat with
  | none => none
  | some v =>
    let a (i j : Nat) : Rat := v.getD (4 * i + j) 0
    let cof (i j : Nat) : Rat := a ((i + 1) % 3) ((j + 1) % 3) * a ((i + 2) % 3) ((j + 2) % 3) -
      a ((i + 1) % 3) ((j + 2) % 3) * a ((i + 2) % 3) ((j + 1) % 3)
    let det := a 0 0 * cof 0 0 + a 0 1 * cof 0 1 + a 0 2 * cof 0 2
    if det == 0 then none
    else some ((List.range 8).map (fun c =>
      let d (i : Nat) : Rat := v.getD (12 + i + 3 * (c / 2 ^ i % 2)) 0 - a i 3
      (List.range 3).map (fun j => (cof 0 j * d 0 + cof 1 j * d 1 + cof 2 j * d 2) / det)))

/-- The least or greatest of a component of every instance's transformed bounds, rounded by rne. -/
def Bvh.topBound (b : Bvh) (i : Nat) (greatest : Bool) : Option Word :=
  match b.insts.mapM BvhInst.corners with
  | none => none
  | some cs =>
    match cs.flatten.map (fun c => c.getD i 0) with
    | [] => none
    | x :: r => some (BitVec.ofNat 32 (rne (.ofRat (r.foldl (fun a y => if greatest then max a y else min a y) x) false)))

/-- The least and greatest of a component of every vertex, or of every instance; none where there is none or a NaN is among them. -/
def Bvh.bound (b : Bvh) (i : Nat) (greatest : Bool) : Option Word :=
  if !b.insts.isEmpty then b.topBound i greatest else
  let xs := b.geoms.flatMap (fun g => g.tris.flatMap (fun (t : List Word) => [t.getD i 0, t.getD (i + 3) 0, t.getD (i + 6) 0]))
  match xs with
  | [] => none
  | x :: r =>
    if xs.any (fun y => (value .f32 y.toNat).isNan) then none
    else some (r.foldl (fun (a y : Word) =>
      let p := value .f32 a.toNat
      let q := value .f32 y.toNat
      if (if greatest then lessNum p q else lessNum q p) then y else a) x)

/-- BOUNDS; what the spec does not give a value for is free (log entry 60). -/
def State.bvhBounds (s : State) (b : Bvh) : List Word :=
  (List.range 6).map (fun j => (b.bound (j % 3) (decide (3 ≤ j))).getD (Config.freeValue 32 (s.freeCtr + j)))

/-- The header that t.bvh writes (R335). -/
def bvhHeader (input : List Byte) (gen used : Nat) (bounds : List Word) : List Byte :=
  leBytes 4 gen ++ input.take 4 ++ (input.drop 4).take 4 ++ leBytes 4 2 ++ (input.drop 0x10).take 8 ++ leBytes 8 used ++
    bounds.flatMap wordBytes ++ List.replicate 72 0

/-- Prediction entries that name a header are invalidated when its generation wraps. -/
def State.dropLeaves (s : State) (va : Nat) : State :=
  { s with leaves := s.leaves.filter (fun x => x.top != va && x.bottom != va) }

/-- Clears BUSY. -/
def State.bvhIdle (s : State) (l : Nat) : State :=
  s.wrPub .chip .unit none (atLoc (l + 0xC) [BitVec.ofNat 8 (s.rdNewNat (l + 0xC) 1 / 2 * 2)])

/-- The build that an issued t.bvh finishes. -/
def State.bvhBuild (s : State) (e : Entry) : State :=
  let va := e.task.pa.toNat
  match s.taskLocs e.ctx .write va 128 with
  | .error x => s.taskStop e.ctx x (fun a => a)
  | .ok [] => s
  | .ok (l :: _) =>
    match s.bvhFind e l ((locRange l 128).map s.rdNew) with
    | .stop x => s.taskStop e.ctx x (fun a => a)
    | .bad n => (s.bvhIdle l).complete e.seq (some (tfBlock, n))
    | .ok b bs =>
      let area := Config.nodeArea (e.block ++ bs) b.nodes
      if b.size < area.length then (s.bvhIdle l).complete e.seq (some (tfBlock, 0x18))
      else
        match s.taskWrites e.ctx [(b.nodes, area)] with
        | .error x => s.taskStop e.ctx x (fun a => a)
        | .ok ws =>
          let gen := (b.gen + 1) % 4294967296
          let b1 : Bvh := { b with gen := gen, mapped := true }
          let s1 := (s.wrPub .chip .unit none ws).heal ws
          let s2 := s1.wrPub .chip .unit none (atLoc l (bvhHeader e.block gen area.length (s.bvhBounds b)))
          let s3 : State := { s2 with freeCtr := s2.freeCtr + 6,
                                      bvhs := b1 :: s2.bvhs.filter (fun (x : Bvh) => x.header != l || x.gen != gen) }
          ((if gen = 0 then s3.dropLeaves va else s3).unstall (taskKey e.seq)).complete e.seq none

/-- t.bvh issues: it sets BUSY, which only the task's completion makes visible (R204), and the node area of the structure it is to write is no longer read-only. -/
def State.issueBvh (s : State) (begin_ : State → State) (e : Entry) : State :=
  match s.taskLocs e.ctx .write e.task.pa.toNat 128 with
  | .error (.page p) => s.stall (taskKey e.seq) e.ctx.region p
  | .error x => (begin_ s).taskStop e.ctx x (fun a => a)
  | .ok [] => s
  | .ok (l :: _) =>
    let s1 := ((begin_ s).wr { task := some e.seq } (atLoc (l + 0xC) [BitVec.ofNat 8 (s.rdNewNat (l + 0xC) 1 / 2 * 2 + 1)])).unstall
      (taskKey e.seq)
    { s1 with bvhs := s1.bvhs.map (fun b => if b.header == l then { b with mapped := false } else b) }

/-- BVH_BUILD_COMPLETE (R336). -/
def execBvhBuildComplete (s : State) : Out :=
  match s.arg with
  | .idx seq =>
    match s.entry? seq with
    | none => .next s
    | some e => if !e.issued || e.done || e.task.opcode != 0x34 then .next s else .next (s.bvhBuild e)
  | _ => .next s

end Sys2Proof.Machine
end

