-- ==== Sys2Proof/Machine/Collective.lean ====
section
/-! DEFINITION. Collectives and the timed barrier (R369 to R386, R436, R437): instances, their close, the data of peers, the
reduction, and the result records. -/

namespace Sys2Proof.Machine

/-! ## Instances -/

def State.coll? (s : State) (id : Nat) : Option Coll := s.colls.find? (fun c => c.id == id)
def State.updColl (s : State) (id : Nat) (f : Coll → Coll) : State :=
  { s with colls := s.colls.map (fun c => if c.id == id then f c else c) }

/-- An instance with nothing of its data. -/
def Coll.bare (c : Coll) : Coll := { c with data := [], slots := [], spilled := [], relay := [], wrote := none }

/-- An instance leaves the engine; a member that is not ROOT remembers it. -/
def State.dropColl (s : State) (id : Nat) : State :=
  let gone := s.colls.filter (fun c => c.id == id && c.live && c.rank != c.root)
  { s with colls := s.colls.filter (fun c => c.id != id),
           collKept := gone.map (fun c => { group := c.group, tag := c.tag, c := c.c, digest := c.digest, timed := c.deadline.isSome,
                                            root := false, of := if c.closed then some c.bare else none }) ++ s.collKept }
def State.send (s : State) (m : OutMsg) : State := { s with out := s.out ++ [m] }

/-- The instance in progress with a group and tag (R373). -/
def State.collAt (s : State) (g : Nat) (tag : Word) : Option Coll := s.colls.find? (fun c => c.live && c.group == g && c.tag == tag)

/-- Element size of a DTYPE (R370). -/
def dtypeSize (d : Nat) : Nat := if d = 0 ∨ d = 3 ∨ d = 4 then 4 else if d = 5 then 1 else 2

/-- Bytes of a block (R372). -/
def Coll.block (c : Coll) : Nat := c.count * dtypeSize c.dtype

/-- Whether ranks are in a set. -/
def inSet (c : DWord) (r : Nat) : Bool := c.getLsbD r
def setOf (rs : List Nat) : DWord := rs.foldl (fun c r => c ||| (1#64 <<< r)) 0
def Coll.members (c : Coll) : List Nat := (List.range c.size).filter (inSet c.c)
def Coll.isRoot (c : Coll) : Bool := c.rank == c.root

/-- The group table's entry, captured: PORTS, where the group is installed for a task with this rank and size (R437). CTL[7:1] is no
reserved byte, and is not looked at. -/
def State.groupPorts (s : State) (g rank size : Nat) : Option (List Nat) :=
  let base := s.grpBase.toNat / 262144 * 262144
  let f (o n : Nat) : Nat := s.rdPhys (base + 256 * g + o) n
  if base = 0 ∨ 1024 ≤ g ∨ f 2 1 % 2 ≠ 1 ∨ f 3 5 ≠ 0 ∨ f 0xC8 56 ≠ 0 ∨ f 0 1 ≠ rank ∨ f 1 1 ≠ size ∨
      f (8 + 2 * rank) 2 ≠ s.linkCard.toNat then none
  else some ((List.range 64).map (fun r => f (0x88 + r) 1))

/-- Whether a route to a rank stands (R437): a port of its PORTS is up. -/
def State.routeUp (s : State) (c : Coll) (r : Nat) : Bool :=
  r == c.rank || (List.range 6).any (fun p => (c.ports.getD r 0) / 2 ^ p % 2 == 1 && s.linkUp.getLsbD p)

/-- The digest (R373). -/
def collDigest (op dtype rop algo size root chunkLog count tt : Nat) (det : Bool) : DWord :=
  let k0 : DWord := BitVec.ofNat 64 (op + dtype * 2 ^ 8 + rop * 2 ^ 16 + algo * 2 ^ 24 + size * 2 ^ 32 + root * 2 ^ 40 +
    chunkLog * 2 ^ 48 + det.toNat * 2 ^ 56)
  mix64 (k0 ^^^ mix64 (BitVec.ofNat 64 count ^^^ mix64 (BitVec.ofNat 64 tt ^^^ randG)))

/-- The instance that a task's parameter block describes (R370). -/
def State.collOf (s : State) (id : Nat) (e : Entry) : Coll :=
  let f (o n : Nat) : Nat := fieldOf e.block o n
  let op := f 0 1
  let fr := e.ctx.frame.getD 0
  let dl : Option Nat := if op = 6 then some (s.frameDl fr) else if f 0x28 8 = 0 then none else some (f 0x28 8)
  let tt := if op = 6 then s.framePtimeOf fr else f 0x28 8
  { id := id, seq := e.seq, group := f 4 2, tag := BitVec.ofNat 32 (f 0xC 4), ctx := e.ctx, op := op, dtype := f 1 1, rop := f 2 1,
    rank := f 6 1, size := f 7 1, root := f 8 1, algo := f 3 1, chunk := 2 ^ f 9 1, count := f 0x10 8, src := f 0x18 8, dst := f 0x20 8,
    deadline := dl, spill := f 0x30 8, spillSize := f 0x38 8, result := f 0x40 8,
    bar := if f 0x48 4 = 0xFFFFFFFF then none else some (f 0x48 4),
    digest := collDigest op (f 1 1) (f 2 1) (f 3 1) (f 7 1) (f 8 1) (f 9 1) (f 0x10 8) tt e.ctx.det,
    frame := if op = 6 then some fr else none, ptime := if op = 6 then s.framePtimeOf fr else 0 }

/-- The group's entry as a task captured it when it issued, or as it now is (R437). -/
def State.portsOf (s : State) (e : Entry) (c : Coll) : Option (List Nat) :=
  match e.ports with
  | some ps => some ps
  | none => s.groupPorts c.group c.rank c.size

/-- What keeps a task from taking part, as a STATUS: its tag in use (R373), or its group absent (R371, R437). -/
def State.collBlocked (s : State) (e : Entry) (c : Coll) : Option Nat :=
  if (s.collAt c.group c.tag).isSome then some 3
  else if (s.portsOf e c).isNone then some 5 else none

/-- One more arrival; a second one of a rank is a mismatch (R374). -/
def Coll.addArrival (c : Coll) (r : Nat) (d : DWord) (fresh : Bool) : Coll :=
  if c.arrivals.any (fun a => a.1 == r) then { c with dup := true } else { c with arrivals := c.arrivals ++ [(r, d, fresh)] }

def Coll.addReport (c : Coll) (r : Nat) (d : DWord) (locked : Bool) : Coll :=
  if c.reports.any (fun a => a.1 == r) then c else { c with reports := c.reports ++ [(r, d, locked)] }

/-- What peers sent before the instance started here. -/
def Coll.take (c : Coll) : List CollMsg → Coll
  | [] => c
  | m :: t => (if m.group == c.group && m.tag == c.tag then
      (if m.report then c.addReport m.rank m.value m.flag else c.addArrival m.rank m.value m.flag) else c).take t

/-! ## The barrier and the record (R381, R385) -/

/-- The engine's arrival on BAR, or its break (R381). A task has no team: an address outside the chip scratchpad, or in a
granule of another domain, reaches no object of it, as a forbidden page (R236, R390). -/
def State.collBar (s : State) (c : Coll) (brk : Bool) (ents : List BarEntry) : State :=
  match c.bar with
  | none => s
  | some b =>
    let w : Word := BitVec.ofNat 32 b
    if barSpace w ≠ some .x ∨ Config.chipBytes < barOff w + 32 ∨ (s.chipProt c.ctx false (barOff w) .write).isSome then
      s.taskErr c.ctx 1
    else
      let l := locChip (barOff w)
      if brk then s.barBreak .x .unit l
      else
        let o := s.barRead l
        let s1 := s.arriveOne .unit l (s.stampFor c.ctx) ents
        if !o.broken && (o.bad || o.left == 0) then s1.taskErr c.ctx 2 else s1

/-- Greatest less least of the non-zero values. -/
def spreadOf (xs : List Nat) : Nat :=
  match xs.filter (fun x => x != 0) with
  | [] => 0
  | y :: t => maxOf (y :: t) - minOf (y :: t)

/-- Whether the reports of every member of C are held; without a close there is no C. -/
def Coll.reported (c : Coll) : Bool := c.closed && c.members.all (fun r => c.reports.any (fun a => a.1 == r))

/-- FLAGS (R381, R385). -/
def Coll.flags (c : Coll) (subst : Bool) : Nat :=
  if c.op ≠ 6 then 0
  else
    (c.reports.any (fun r => !r.2.2)).toNat * 8 + subst.toNat * 4 + c.reported.toNat * 2 +
      (decide (500 < spreadOf (c.reports.map (fun r => r.2.1.toNat)))).toNat

/-- The result record (R381). -/
def State.collRecord (s : State) (c : Coll) (st : Nat) : List Byte :=
  let subst := if c.myEgress.isSome then c.subst else (match c.frame with
    | some f => s.frameSt f == fsSubst
    | none => false)
  leBytes 4 st ++ leBytes 1 c.members.length ++ leBytes 1 (c.flags subst) ++ leBytes 2 0 ++ leBytes 8 c.c.toNat ++
    leBytes 8 (if c.op = 6 then (setOf ((c.arrivals.filter (fun a => a.2.2 && inSet c.c a.1)).map (fun a => a.1))).toNat else 0) ++
    leBytes 8 (c.myEgress.getD 0).toNat ++ leBytes 8 (spreadOf (c.reports.map (fun r => r.2.1.toNat))) ++ leBytes 8 s.ptime ++
    leBytes 8 c.digest.toNat ++ leBytes 8 0

/-- The task fault of a STATUS (R382). -/
def collFault (c : Coll) (st : Nat) : Option (Nat × Nat) :=
  if st = 3 then some (tfMismatch, c.group) else if st = 4 then some (tfNoroot, c.group)
  else if st = 5 then some (tfLink, c.group) else none

/-- Completes the task of an instance, unless it is a timed barrier that took part, which has completed already. -/
def State.collDone (s : State) (c : Coll) (fault : Option (Nat × Nat)) : State :=
  if c.op = 6 ∧ c.live then s else s.complete c.seq fault

/-- The end of an instance (R381, R385): its record, the publication of record and DST, its barrier, then its task. -/
def State.collFinish (s : State) (c : Coll) (st : Nat) (dst : List (Nat × Nat)) : State :=
  match s.writeRecord c.ctx false c.result .system (s.collRecord c st) with
  | .wait s1 => s1
  | .forbidden s1 => ((s1.collBar c true []).dropColl c.id).collDone c (some (tfEngine, 0))
  | .done s1 =>
    let recs := match s.tr { c.ctx with pure := false } c.result .write with
      | .ok pa => serials s.nextSer (atLoc (locPhys pa) (s.collRecord c st))
      | _ => []
    let s2 := s1.publish .system .unit dst
    ((s2.collBar c (decide (3 ≤ st)) ((dst ++ recs).map (fun p => { engine := true, p := s2.publOf .chip .unit p }))).dropColl c.id).collDone c
      (collFault c st)

/-! ## Reductions (R377, R378) -/

def collFmt (dtype : Nat) : Option Fmt :=
  match dtype with
  | 0 => some .f32 | 1 => some .f16 | 2 => some .bf16 | _ => none

/-- `comb` (R377). -/
def comb (dtype rop a b : Nat) : Nat :=
  match collFmt dtype with
  | some f =>
    let x := value f a
    let y := value f b
    if rop = 0 then (finishOp f .rne false false false (addNum .rne x y)).1
    else if rop = 1 then (fminNum f x y).1 else (fmaxNum f x y).1
  | none =>
    let x : Word := BitVec.ofNat 32 a
    let y : Word := BitVec.ofNat 32 b
    (match rop with
     | 0 => x + y
     | 1 => if dtype = 3 then iminW x y else iminuW x y
     | 2 => if dtype = 3 then imaxW x y else imaxuW x y
     | 3 => x &&& y
     | 4 => x ||| y
     | _ => x ^^^ y).toNat

/-- `red` (R378): the tree that depends only on C. -/
def redTree (f : Nat → Nat → Nat) : Nat → List Nat → Nat
  | 0, xs => xs.headD 0
  | n + 1, xs =>
    match xs with
    | [] => 0
    | [x] => x
    | _ => f (redTree f n (xs.take ((xs.length + 1) / 2))) (redTree f n (xs.drop ((xs.length + 1) / 2)))

/-- A tree over C of any order and shape, which `pick` chooses (R177, R378). -/
def redFree (f : Nat → Nat → Nat) (pick : Nat → Nat) : Nat → List Nat → Nat
  | 0, xs => xs.headD 0
  | n + 1, xs =>
    match xs with
    | [] => 0
    | [x] => x
    | _ =>
      let i := pick (2 * n) % xs.length
      let ys := xs.eraseIdx i
      let j := pick (2 * n + 1) % ys.length
      redFree f pick n (f (xs.getD i 0) (ys.getD j 0) :: ys.eraseIdx j)

/-- Element i of contributed blocks. -/
def elemsAt (e i : Nat) (blocks : List (List Byte)) : List Nat := blocks.map (fun b => fieldOf b (e * i) e)

/-- What the members of an instance share, as a number: group, tag, digest and C. -/
def Coll.key (c : Coll) : Nat := c.group + 2 ^ 16 * (c.tag.toNat + 2 ^ 32 * (c.digest.toNat + 2 ^ 64 * c.c.toNat))

/-- The reduction of the contributors' blocks, in ascending rank: in default mode in a tree for each element that is common to the
members (R378; log entry 149). -/
def Coll.reduce (c : Coll) (first : Nat) (blocks : List (List Byte)) : List Byte :=
  let e := dtypeSize c.dtype
  (List.range c.count).flatMap (fun i =>
    let xs := elemsAt e i blocks
    leBytes e (if c.ctx.det then redTree (comb c.dtype c.rop) 64 xs
      else redFree (comb c.dtype c.rop) (fun n => Config.collOrder c.key (128 * (first + i) + n)) 64 xs))

/-! ## Data (R372, R379, R380) -/

/-- Whether a rank sends this member data. -/
def Coll.expects (c : Coll) (r : Nat) : Bool := r != c.rank && c.count != 0 && (if c.op = 3 then r == c.root else decide (c.op ≤ 4))

/-- The data of a rank, if all of it is there. -/
def Coll.from? (c : Coll) (r : Nat) : Option (List Byte) :=
  let bs := ((c.data.filter (fun d => d.1 == r)).mergeSort (fun a b => decide (a.2.1 ≤ b.2.1))).flatMap (fun d => d.2.2)
  if bs.length = c.block then some bs else none

/-- Bytes of the chunk at an offset. -/
def Coll.chunkLen (c : Coll) (off : Nat) : Nat := min c.chunk (c.block - off)

/-- What this member contributes to rank r: where it starts in SRC. -/
def Coll.srcFor (c : Coll) (r : Nat) : Nat := c.src + (if c.op = 1 ∨ c.op = 4 then r * c.block else 0)

/-- Ranks this member sends data to. -/
def Coll.targets (c : Coll) : List Nat :=
  if c.count = 0 ∨ 4 < c.op ∨ (c.op = 3 ∧ !c.isRoot) then [] else c.members.filter (fun r => r != c.rank)

/-- The algorithm of an instance (R379): 1 ring, 2 tree, 3 direct. -/
def Coll.steps (c : Coll) : Nat := if c.algo = 0 then Config.collAlgo c.key % 3 + 1 else c.algo

/-- The place of a rank in the ranks of C, and in the binary tree of them at ROOT, whose node n has the children 2n + 1 and 2n + 2. -/
def placeIn (rs : List Nat) (r : Nat) : Nat := rs.findIdx (fun x => x == r)
def Coll.treeOrder (c : Coll) : List Nat := c.root :: c.members.filter (fun r => r != c.root)

/-- The child of node a whose subtree holds node b, or a's parent (R379). -/
def treeHop (a : Nat) : Nat → Nat → Nat
  | 0, _ => (a - 1) / 2
  | n + 1, b => if b = 0 then (a - 1) / 2 else if (b - 1) / 2 = a then b else treeHop a n ((b - 1) / 2)

/-- The member that a block on its way to rank `dst` goes to next: round the ring in rank order, along the tree, or straight to it
(R379; log entry 149). -/
def Coll.hop (c : Coll) (dst : Nat) : Nat :=
  if c.steps = 1 then c.members.getD ((placeIn c.members c.rank + 1) % max c.members.length 1) dst
  else if c.steps = 2 then
    c.treeOrder.getD (treeHop (placeIn c.treeOrder c.rank) 64 (placeIn c.treeOrder dst)) dst
  else dst

/-- The messages that carry a block to a rank. -/
def Coll.chunks (c : Coll) (dst : Nat) (bs : List Byte) : List OutMsg :=
  (List.range ((c.block + c.chunk - 1) / c.chunk)).map (fun i =>
    .chunk c.group c.tag (c.hop dst) dst c.rank (i * c.chunk) ((bs.drop (i * c.chunk)).take c.chunk))

/-- Reads and sends what the targets get. -/
def State.collSend (s : State) (c : Coll) : List Nat → Except EngAt (List OutMsg)
  | [] => .ok []
  | r :: t =>
    match s.taskRead c.ctx (c.srcFor r) c.block, s.collSend c t with
    | .error e, _ => .error e
    | _, .error e => .error e
    | .ok bs, .ok ms => .ok (c.chunks r bs ++ ms)

/-- Slot area of R379. -/
def collSlot (i : Nat) : Nat := locChip (0x3C00000 + 65536 * i)

/-- Slots that no instance holds. -/
def State.freeSlot (s : State) : Option Nat := lowestFree 32 (s.colls.flatMap (fun c => c.slots.map (fun x => x.1)))

/-- Chunks held in slots are taken up. -/
def State.drainSlots (s : State) (c : Coll) : Coll :=
  { c with slots := [], data := c.data ++ c.slots.map (fun x => (x.2.1, x.2.2, (locRange (collSlot x.1) (c.chunkLen x.2.2)).map s.rdNew)) }

/-- Spilled chunks are taken up. -/
def State.drainSpill (s : State) (c : Coll) : List (Nat × Nat × Nat) → Except EngAt Coll
  | [] => .ok { c with spilled := [] }
  | x :: t =>
    match s.taskRead c.ctx (c.spill + x.1 * c.chunk) (c.chunkLen x.2.2) with
    | .error e => .error e
    | .ok bs => s.drainSpill { c with data := c.data ++ [(x.2.1, x.2.2, bs)] } t

/-- The blocks of DST that this member writes; none while data is missing. `own` is its own contribution. -/
def Coll.results (c : Coll) (own : List Byte) : Option (List (Nat × List Byte)) :=
  let parts : List (Nat × Option (List Byte)) := c.members.map (fun r => (r, if r = c.rank then some own else c.from? r))
  if c.members.any (fun r => c.expects r && (c.from? r).isNone) then none
  else
    match c.op with
    | 0 | 1 => some [(c.dst, c.reduce (if c.op = 1 then c.rank * c.count else 0) (parts.filterMap (fun p => p.2)))]
    | 2 | 4 => some (parts.filterMap (fun p => p.2.map (fun bs => (c.dst + p.1 * c.block, bs))))
    | 3 => some [(c.dst, if c.isRoot then own else (c.from? c.root).getD [])]
    | _ => some []

/-- An instance that its engine cannot go on with: its barrier breaks. -/
def State.collStop (s : State) (c : Coll) (x : EngAt) : State :=
  s.taskStop c.ctx x (fun a => (a.collBar c true []).dropColl c.id)

/-- The data of an instance whose set is known: what it sends, what it holds, and DST. -/
def State.collData (s : State) (c0 : Coll) (st : Nat) : State :=
  match (if c0.sentData then .ok [] else s.collSend c0 c0.targets) with
  | .error x => s.collStop c0 x
  | .ok ms =>
    let c1 := s.drainSlots { c0 with sentData := true }
    let s1 : State := { (s.updColl c0.id (fun _ => c1)) with out := s.out ++ ms }
    match s1.drainSpill c1 c1.spilled with
    | .error x => s1.collStop c1 x
    | .ok c2 =>
      let s2 := s1.updColl c0.id (fun _ => c2)
      match (if c2.op = 3 ∧ !c2.isRoot then .ok [] else s2.taskRead c2.ctx (c2.srcFor c2.rank) c2.block) with
      | .error x => s2.collStop c2 x
      | .ok own =>
        match c2.results own with
        | none => s2
        | some ws =>
          match s2.taskWrites c2.ctx ws with
          | .error x => s2.collStop c2 x
          | .ok bs =>
            let dst := serials s2.nextSer bs
            let c3 : Coll := { c2 with wrote := some dst }
            (((s2.wr { task := some c2.seq } bs).unstall (taskKey c2.seq)).updColl c2.id (fun _ => c3)).collFinish c3 st dst

/-- An instance goes as far as it can (R381, R385). `late` is PTIME + 2 ms of a timed barrier. -/
def State.collTry (s : State) (id : Nat) (late : Bool) : State :=
  match s.coll? id with
  | none => s
  | some c =>
    if c.op = 6 ∧ c.live then
      match c.status with
      | none => if late then s.collFinish c 4 [] else s
      | some st => if late || c.reported then s.collFinish c st [] else s
    else
      match c.status with
      | none => s
      | some st =>
        match c.wrote with
        | some dst => s.collFinish c st dst
        | none => if st ≤ 1 ∧ c.op ≤ 4 ∧ c.count ≠ 0 then s.collData c st else s.collFinish c st []

/-! ## Close and announcement (R373 to R376) -/

/-- What a member makes of the set and the verdict. -/
def State.collHear (s : State) (id : Nat) (set : DWord) (v : Verdict) : State :=
  match s.coll? id with
  | none => s
  | some c =>
    if c.closed ∨ c.status.isSome then s
    else
      let c1 : Coll := { c with closed := true, c := set }
      let st := match v with
        | .late => 2
        | .mismatch => 3
        | .ok => if !c1.members.all (s.routeUp c1) then 5 else if c1.members.length = c1.size then 0 else 1
      let passed : List OutMsg := (c.relay.filter (fun x => inSet set x.1)).map (fun x =>
        .chunk c1.group c1.tag (c1.hop x.1) x.1 x.2.1 x.2.2.1 x.2.2.2)
      let msgs : List OutMsg := match c1.myEgress with
        | none => []
        | some eg => (c1.members.filter (fun r => r != c1.rank)).map (fun r =>
            .report c1.group c1.tag r c1.rank eg (c1.reports.any (fun a => a.1 == c1.rank && a.2.2)))
      ({ (s.updColl id (fun _ => { c1 with status := some st, relay := [] })) with out := s.out ++ msgs ++ passed }).collTry id false

/-- Of each group ROOT keeps the 16 newest outcomes (R376). -/
def ageKept (g : Nat) : Nat → List CollKept → List CollKept
  | _, [] => []
  | n, k :: t =>
    if k.group = g ∧ k.root then (if n = 0 then { k with aged := true } :: ageKept g 0 t else k :: ageKept g (n - 1) t) else k :: ageKept g n t

/-- ROOT closes an instance (R373, R374). -/
def State.collClose (s : State) (c : Coll) : State :=
  let ranks := c.arrivals.map (fun a => a.1)
  let set := setOf ranks
  let v : Verdict := if c.dup || c.arrivals.any (fun a => a.2.1 != c.digest) then .mismatch else .ok
  ({ s with out := s.out ++ (ranks.filter (fun r => r != c.rank)).map (fun r => OutMsg.announce c.group c.tag r set v),
            collKept := ageKept c.group 16 ({ group := c.group, tag := c.tag, c := set, digest := c.digest,
                                              timed := c.deadline.isSome,
                                              of := some { c.bare with c := set, closed := true } } :: s.collKept) }).collHear c.id set v

/-- ROOT closes once every rank has arrived, its own arrival among them. -/
def State.collFull (s : State) (id : Nat) : State :=
  match s.coll? id with
  | none => s
  | some c => if c.isRoot && c.sentArr && !c.closed && c.status.isNone && c.arrivals.length == c.size then s.collClose c else s

/-- This member's arrival (R373, R384). -/
def State.collArrive (s : State) (id : Nat) (fresh : Bool) : State :=
  match s.coll? id with
  | none => s
  | some c =>
    let dst := (if c.op = 6 then List.range c.size else [c.root]).filter (fun r => r != c.rank)
    ({ (s.updColl id (fun x => { x.addArrival c.rank c.digest fresh with sentArr := true })) with
      out := s.out ++ dst.map (fun r => OutMsg.arrival c.group c.tag r c.rank c.digest fresh) }).collFull id

/-- Starts an instance: the group entry is captured, and what peers sent before is taken up. The answer is its number. -/
def State.collStart (s : State) (e : Entry) : Nat × State :=
  let r := s.fresh
  let c0 := s.collOf r.1 e
  let ports := (s.portsOf e c0).getD []
  let mine (m : CollMsg) : Bool := m.group == c0.group && m.tag == c0.tag
  (r.1, { r.2 with colls := r.2.colls ++ [{ c0 with ports := ports }.take s.collEarly],
                   collEarly := s.collEarly.filter (fun m => !mine m) })

/-- An instance that cannot start has only its outcome to report (R371, R373, R382). -/
def State.collFailed (s : State) (e : Entry) (st : Nat) : State :=
  let r := s.fresh
  ({ r.2 with colls := r.2.colls ++ [{ s.collOf r.1 e with live := false, status := some st }] }).collTry r.1 false

/-- t.coll issues (R373). -/
def State.collIssue (s : State) (e : Entry) : State :=
  match s.collBlocked e (s.collOf 0 e) with
  | some st => s.collFailed e st
  | none =>
    let r := s.collStart e
    r.2.collArrive r.1 false

/-! ## The timed barrier (R383 to R385) -/

/-- This member's report, which goes to C once that is known (R384). -/
def State.collReport (s : State) (id : Nat) (egress : Nat) (locked subst : Bool) : State :=
  match s.coll? id with
  | none => s
  | some c =>
    if !c.live || !c.sentArr || c.myEgress.isSome then s
    else
      let eg : DWord := BitVec.ofNat 64 egress
      let a1 := s.updColl c.id (fun x => { x.addReport c.rank eg locked with myEgress := some eg, subst := subst })
      let dst := if c.closed then c.members.filter (fun r => r != c.rank) else []
      ({ a1 with out := a1.out ++ dst.map (fun r => OutMsg.report c.group c.tag r c.rank eg locked) }).collTry c.id false

/-- The arrival of a t.tbar, if its instance can start; the answer says whether it was sent. Where its frame's first packet has
left before, its report follows (R384). -/
def State.tbarArrive (s : State) (e : Entry) (fresh : Bool) : Bool × State :=
  match s.collBlocked e (s.collOf 0 e) with
  | some _ => (false, s)
  | none =>
    let r := s.collStart e
    let s1 := r.2.collArrive r.1 fresh
    (true, match KV.get none (e.ctx.frame.getD 0) s.firstOut with
      | some x => s1.collReport r.1 x.1 x.2.1 x.2.2
      | none => s1)

/-- A frame has gone READY or LATE: the t.tbars of the window that name it arrive, and those that have issued complete. -/
def State.tbarFrame (s : State) (f : Nat) (fresh : Bool) : State :=
  (s.win.entries.filter (fun e => e.task.opcode == 0x16 && e.ctx.frame == some f && !e.arrived && !e.done)).foldl (fun a e =>
    let r := a.tbarArrive e fresh
    if r.1 then
      let b := r.2.updEntry e.seq (fun x => { x with arrived := true })
      if e.issued then b.complete e.seq none else b
    else a) s

/-- A t.tbar that is decoded after its frame went READY or LATE arrives then; one whose record arrived before it was discarded sends no
second arrival (R383). -/
def State.tbarDecoded (s : State) (e : Entry) : State × Entry :=
  let f := e.ctx.frame.getD 0
  if s.win.tbarGone.contains (e.addr, f) then
    ({ s with win := { s.win with tbarGone := s.win.tbarGone.erase (e.addr, f) } }, { e with arrived := true })
  else if s.frameField f 0x38 8 ≠ 0 ∨ s.frameSt f = fsLate ∨ s.frameSt f = fsSubst then
    let r := s.tbarArrive e (s.frameField f 0x38 8 != 0)
    (r.2, { e with arrived := r.1 })
  else (s, e)

/-- The instance of a t.tbar that arrived before it issued takes the group's entry as it stands at the issue (R437). -/
def State.tbarPorts (s : State) (e : Entry) : State :=
  let c := s.collOf 0 e
  match s.groupPorts c.group c.rank c.size with
  | none => s
  | some ps => { s with colls := s.colls.map (fun x => if x.seq == e.seq && x.op == 6 && x.live then { x with ports := ps } else x) }

/-- t.tbar issues: it captures its group's entry (R437), completes if its arrival has been sent, and waits for it otherwise. -/
def State.tbarIssue (s : State) (e : Entry) : State :=
  if e.arrived then (s.tbarPorts e).complete e.seq none
  else
    let c := s.collOf 0 e
    match s.collBlocked e c with
    | some st => s.collFailed e st
    | none =>
      let e1 : Entry := { e with ports := s.portsOf e c }
      let r := (s.updEntry e.seq (fun x => { x with ports := e1.ports })).tbarDecoded e1
      if r.2.arrived then (r.1.updEntry e.seq (fun x => { x with arrived := true })).complete e.seq none else r.1

/-- The deadline row of a frame (R258), with what it means for timed barriers. -/
def State.frameLateRow (s : State) (f : Nat) : State :=
  if s.frameDone f = false ∧ (s.frameSt f = fsOpen ∨ s.frameSt f = fsRendering) then (s.frameLate f).tbarFrame f false else s

/-- The first packet of a frame has left, or it was missed: the reports of its timed barriers go to C (R384). -/
def State.tbarEgress (s : State) (f : Nat) (egress : Nat) : State :=
  let locked := decide (s.servo.st = .locked)
  let subst := s.frameSt f == fsSubst
  let s1 : State := { s with firstOut := KV.put none f (some (egress, locked, subst)) s.firstOut }
  (s1.colls.filter (fun c => c.op == 6 && c.frame == some f)).foldl (fun a c => a.collReport c.id egress locked subst) s1

/-! ## Late and early arrivals (R373, R376) -/

/-- Whether an arrival that finds its instance closed belongs to it, and so is late: a rank that is not in C, or one that is and
arrives again with the same digest, which a deadline has told apart; each once, for an instance has one task of a member (R373). Any
other is the next instance's (DEDUCED; log entry 150). -/
def lateFor (set digest : DWord) (timed : Bool) (rank : Nat) (d : DWord) : Bool := !inSet set rank || (timed && d == digest)

/-- An arrival is held for an instance that has not started here. -/
def State.holdArrival (s : State) (g : Nat) (tag : Word) (rank : Nat) (digest : DWord) (fresh : Bool) : State :=
  { s with collEarly := s.collEarly ++ [{ group := g, tag := tag, rank := rank, value := digest, flag := fresh, report := false }] }

/-- The newest outcome kept of a group and tag. -/
def State.keptOf (s : State) (g : Nat) (tag : Word) : Option CollKept := s.collKept.find? (fun k => k.group == g && k.tag == tag)

/-- It has answered a rank. -/
def tellKept (g : Nat) (tag : Word) (rank : Nat) : List CollKept → List CollKept
  | [] => []
  | k :: t => if k.group == g && k.tag == tag then { k with told := rank :: k.told } :: t else k :: tellKept g tag rank t

/-- An arrival that finds its instance closed, from the outcome kept. -/
def State.lateArrival (s : State) (g : Nat) (tag : Word) (rank : Nat) (digest : DWord) (fresh : Bool) : State :=
  match s.keptOf g tag with
  | none => s.holdArrival g tag rank digest fresh
  | some k =>
    if lateFor k.c k.digest k.timed rank digest && !k.told.contains rank then
      let s1 : State := { s with collKept := tellKept g tag rank s.collKept }
      if k.root then s1.send (.announce g tag rank (if k.aged then 0 else k.c) .late) else s1
    else s.holdArrival g tag rank digest fresh

/-- An arrival reaches this member. -/
def State.collArrival (s : State) (g : Nat) (tag : Word) (rank : Nat) (digest : DWord) (fresh : Bool) : State :=
  match s.collAt g tag with
  | none => s.lateArrival g tag rank digest fresh
  | some c =>
    if c.size ≤ rank then s
    else if c.closed || c.status.isSome then
      if !c.isRoot then s.updColl c.id (fun x => if x.arrivals.any (fun a => a.1 == rank) then x else x.addArrival rank digest fresh)
      else if c.closed then s.lateArrival g tag rank digest fresh
      else s.send (.announce g tag rank c.c .late)
    else (s.updColl c.id (fun x => x.addArrival rank digest fresh)).collFull c.id

/-- ROOT closes an instance whose deadline its clock has reached (R375). -/
def State.collDue (s : State) (g : Nat) (tag : Word) : State :=
  match s.collAt g tag with
  | none => s
  | some c =>
    if c.isRoot && c.sentArr && !c.closed && c.status.isNone && c.deadline.any (fun d => decide (d ≤ s.ptime)) then s.collClose c else s

/-! ## Moves -/

/-- COLLECTIVE_ARRIVAL (R373, R376): an arrival reaches this member, after the close of a deadline that has come (R375). -/
def execCollectiveArrival (s : State) : Out :=
  match s.arg with
  | .arrival g tag rank digest fresh => .next ((s.collDue g tag).collArrival g tag rank digest fresh)
  | _ => .next s

/-- COLLECTIVE_ANNOUNCEMENT (R373): ROOT's set and verdict reach this member. -/
def execCollectiveAnnouncement (s : State) : Out :=
  match s.arg with
  | .announcement g tag c v =>
    match s.collAt g tag with
    | none => .next s
    | some x => if x.isRoot || !x.sentArr then .next s else .next (s.collHear x.id c v)
  | _ => .next s

/-- A chunk goes to a slot, else to the next free chunk position of the spill area; with room in neither it is not taken, and
the peer pauses (R380). -/
def State.collLand (s : State) (c : Coll) (rank off : Nat) (bs : List Byte) : State :=
  match s.freeSlot with
  | some i => (s.wr {} (atLoc (collSlot i) bs)).updColl c.id (fun x => { x with slots := x.slots ++ [(i, rank, off)] })
  | none =>
    match lowestFree (if c.spill = 0 then 0 else c.spillSize / c.chunk) (c.spilled.map (fun x => x.1)) with
    | none => s
    | some p =>
      match s.taskWrites c.ctx [(c.spill + p * c.chunk, bs)] with
      | .error x => s.collStop c x
      | .ok ws => (s.wrPub .system .unit none ws).updColl c.id (fun x => { x with spilled := x.spilled ++ [(p, rank, off)] })

/-- A chunk on its way to another member goes on (R379): by the set of the instance, or of the one that has ended here before; one that
comes before the announcement is held for it. -/
def State.collRelay (s : State) (g : Nat) (tag : Word) (dst rank off : Nat) (bs : List Byte) : State :=
  let go (c : Coll) : State := s.send (.chunk g tag (c.hop dst) dst rank off bs)
  let kept := ((s.keptOf g tag).bind CollKept.of).filter (fun c => c.rank != dst && inSet c.c dst && inSet c.c rank)
  match s.collAt g tag with
  | none => (kept.map go).getD s
  | some c =>
    if c.closed then (if inSet c.c dst then go c else s)
    else (kept.map go).getD (s.updColl c.id (fun x => { x with relay := x.relay ++ [(dst, rank, off, bs)] }))

/-- COLLECTIVE_CHUNK (R379, R380): a chunk of a peer's data arrives, for this member or on its way to another one. -/
def execCollectiveChunk (s : State) : Out :=
  match s.arg with
  | .chunk g tag dst rank off bs =>
    match s.collAt g tag with
    | none => .next (s.collRelay g tag dst rank off bs)
    | some c =>
      if dst ≠ c.rank then .next (s.collRelay g tag dst rank off bs)
      else
      let have_ := c.data.any (fun d => d.1 == rank && d.2.1 == off) || (c.slots ++ c.spilled).any (fun x => x.2.1 == rank && x.2.2 == off)
      if !c.expects rank || have_ || off % c.chunk != 0 || decide (c.block ≤ off) || bs.length != c.chunkLen off ||
          c.status.any (fun st => decide (2 ≤ st)) then .next s
      else .next ((s.collLand c rank off bs).collTry c.id false)
  | _ => .next s

/-- COLLECTIVE_DEADLINE (R375): ROOT's clock has reached the deadline, and the instance closes. -/
def execCollectiveDeadline (s : State) : Out :=
  match s.arg with
  | .group g tag => .next (s.collDue g tag)
  | _ => .next s

/-- COLL_NOROOT (R376): no announcement by DEADLINE + 1 ms. -/
def execCollNoroot (s : State) : Out :=
  match s.arg with
  | .group g tag =>
    match s.collAt g tag with
    | none => .next s
    | some c =>
      if !c.isRoot && c.sentArr && c.status.isNone && c.deadline.any (fun d => decide (d + 1000000 ≤ s.ptime)) then
        .next ((s.updColl c.id (fun x => { x with status := some 4 })).collTry c.id false)
      else .next s
  | _ => .next s

/-- EGRESS_REPORT (R384, R385): a member's report arrives; one of an instance that has ended here changes nothing. -/
def execEgressReport (s : State) : Out :=
  match s.arg with
  | .report g tag rank egress locked =>
    match s.collAt g tag with
    | none =>
      let of (m : CollMsg) : Bool := m.group == g && m.tag == tag && m.rank == rank && !m.report
      if s.collKept.any (fun k => k.group == g && k.tag == tag && inSet k.c rank) && !s.collEarly.any of then .next s
      else .next { s with collEarly := s.collEarly ++ [{ group := g, tag := tag, rank := rank, value := egress, flag := locked, report := true }] }
    | some c => if c.op ≠ 6 then .next s else .next ((s.updColl c.id (fun x => x.addReport rank egress locked)).collTry c.id false)
  | _ => .next s

/-- TBAR_REPORT_TIMEOUT (R385): PTIME + 2 ms has passed, and the record is written with the reports held. -/
def execTbarReportTimeout (s : State) : Out :=
  match s.arg with
  | .group g tag =>
    match s.collAt g tag with
    | none => .next s
    | some c => if c.op = 6 ∧ c.ptime + 2000000 ≤ s.ptime then .next (s.collTry c.id true) else .next s
  | _ => .next s

/-- What failed routes mean for an instance (R376, R382): one to a member of C after the close, or one that a wait without a
deadline needs. -/
def State.collLost (s : State) (c : Coll) (up : Nat → Bool) : State :=
  let bad := if c.closed then !c.members.all up && c.status.all (fun st => decide (st ≤ 1))
    else c.live && c.sentArr && c.status.isNone && c.deadline.isNone && !((if c.isRoot then List.range c.size else [c.root]).all up)
  if bad then (s.updColl c.id (fun x => { x with status := some 5 })).collTry c.id false else s

/-- A change of the links. -/
def State.collRoutes (s : State) (c : Coll) : State := s.collLost c (s.routeUp c)

/-- The route to one member fails, though ports are up (R382, R437). -/
def State.routeDown (s : State) (g : Nat) (tag : Word) (rank : Nat) : State :=
  match s.collAt g tag with
  | none => s
  | some c => s.collLost c (fun r => r != rank)

/-- LINK_STATE_CHANGE (R433, R436): no port trains before the house firmware has started it. -/
def execLinkStateChange (s : State) : Out :=
  match s.arg with
  | .links up =>
    if up = s.linkUp ∨ s.trust.state ≠ 1 then .next s
    else .next (s.colls.foldl State.collRoutes ({ s with linkUp := up }.irq 4))
  | _ => .next s

end Sys2Proof.Machine
end

