-- ==== Sys2Proof/Machine/Pixel.lean ====
section
/-! DEFINITION. The pixels of pixel teams: their resolution and locks (R359 to R363). Raster.lean holds the rest of the
raster pipeline. -/

namespace Sys2Proof.Machine

/-- The pixel that a thread of a pixel team works on (R359); none for a padding thread. -/
def Team.pixelAt (t : Team) (w : Warp) (l : Nat) : Option (PixelJob × Nat × Nat) :=
  t.job.bind (fun j => (j.pixels[w.idx * w.width + l]?).map (fun p => (j, p.1, p.2)))

/-- The pixel record of a primitive at a position. -/
def PixRes.is (r : PixRes) (key : List Nat) (x y : Nat) : Bool := r.key == key && r.x == x && r.y == y

/-- Resolves a pixel, once (R361). -/
def State.resolve (s : State) (j : PixelJob) (x y : Nat) (colour : Option (List Word)) : State :=
  s.updPass j.pass (fun p => { p with pixels := p.pixels.map (fun r =>
    if r.is j.key x y && r.colour.isNone then { r with colour := some colour } else r) })

/-- Ends a holder's lock (R363). -/
def State.dropLock (s : State) (j : PixelJob) (x y : Nat) : State :=
  s.updPass j.pass (fun p => { p with pixels := p.pixels.map (fun r =>
    if r.is j.key x y then { r with holder := none } else r) })

/-- A lane's lock released: a release at cluster scope, and the lock is free (R363); both at the boundary in deterministic
mode (R183). -/
def State.unlockLane (s : State) (c : Ctx) (t : Team) (w : Warp) (k : TaskCtx) (l : Nat) : State :=
  match t.pixelAt w l with
  | none => s
  | some (j, x, y) =>
    if (w.thr l).pixLock then
      let s1 := s.evRelease c t k [l] { scope := .cluster } none
      (if k.det then s1.hold c (.unlock l) else s1.dropLock j x y).updThr c.team c.warp l (fun th => { th with pixLock := false })
    else s

/-- A lane's pixel resolved by the lane, at the boundary in deterministic mode (R183, R361). -/
def State.resolveLane (s : State) (c : Ctx) (t : Team) (w : Warp) (k : TaskCtx) (l : Nat) (colour : Option (List Word)) :
    State :=
  match t.pixelAt w l with
  | none => s
  | some (j, x, y) =>
    if (w.thr l).pixDone then s
    else
      let s1 := s.updThr c.team c.warp l (fun th => { th with pixDone := true })
      if k.det then s1.hold c (.pixel l colour) else s1.resolve j x y colour

/-- What exit does to a lane's pixel: resolved with no colour, and its lock released (R361, R363). -/
def State.exitPixel (s : State) (c : Ctx) (t : Team) (w : Warp) (k : TaskCtx) (l : Nat) : State :=
  (s.resolveLane c t w k l none).unlockLane c t w k l

end Sys2Proof.Machine
end

