-- ==== Sys2Proof/Machine/Control.lean ====
section
/-! DEFINITION. Control transfer, exit, converge, yield and brk (R137 to R146). -/

namespace Sys2Proof.Machine

/-- Sets the program counter of lanes of a warp. -/
def State.goto (s : State) (c : Ctx) (lanes : List Nat) (target : DWord) : State :=
  s.mapThr c.team c.warp (fun l th => if lanes.contains l then { th with pc := target } else th)

/-- A + 2 × offset (R70). -/
def relTarget (pc : DWord) (off : DWord) : DWord := pc + off + off

/-- bra (R138). -/
def execBra (o : BraOp) : State → Out :=
  kernelOp (.bra o) (fun c _ w s => .ok (s.goto c (active w c.lanes o.pred) (relTarget c.pc (o.off.signExtend 64))))

/-- call (R138): 16 entries of return stack. -/
def execCall (o : BraOp) : State → Out :=
  kernelOp (.call o) (fun c _ w s =>
    let act := active w c.lanes o.pred
    match act.find? (fun l => decide (16 ≤ (w.thr l).rstack.length)) with
    | some l => .halt { cause := 7, detail := 1, lane := l }
    | none =>
      .ok (s.mapThr c.team c.warp (fun l th =>
        if act.contains l then { th with pc := relTarget c.pc (o.off.signExtend 64), rstack := (c.pc + 4) :: th.rstack }
        else th)))

/-- ret (R138). -/
def execRet (o : GuardOp) : State → Out :=
  kernelOp (.ret o) (fun c _ w s =>
    let act := active w c.lanes o.pred
    match act.find? (fun l => (w.thr l).rstack.isEmpty) with
    | some l => .halt { cause := 7, detail := 2, lane := l }
    | none =>
      .ok (s.mapThr c.team c.warp (fun l th =>
        if act.contains l then { th with pc := th.rstack.headD 0, rstack := th.rstack.tail } else th)))

/-- jmp (R139): an odd target raises the misalignment fault in the threads that would transfer (R137). -/
def execJmp (o : JmpOp) : State → Out :=
  kernelOp (.jmp o) (fun c _ w s =>
    let act := active w c.lanes o.pred
    let target := w.rkPair o.k.toNat
    match act with
    | [] => .ok s
    | l :: _ =>
      if target.getLsbD 0 then .halt { cause := 3, lane := l, faddr := target.toNat } else .ok (s.goto c act target))

/-- brx (R139). -/
def execBrx (o : BrxOp) : State → Out :=
  kernelOp (.brx o) (fun c _ w s =>
    let i := min (w.rk o.k.toNat).toNat o.n.toNat
    .ok (s.goto c (active w c.lanes o.pred) (c.pc + 4 + BitVec.ofNat 64 (4 * i))))

/-- loop (R140): k[N] counts down once for the group when some thread has a true guard. -/
def execLoop (o : LoopOp) : State → Out :=
  kernelOp (.loop o) (fun c _ w s =>
    let act := active w c.lanes o.pred
    let n := w.rk o.k.toNat - 1
    if act.isEmpty then .ok s
    else
      let s1 := s.updWarp c.team c.warp (fun v => v.setK o.k.toNat n)
      .ok (if n = 0 then s1 else s1.goto c act (relTarget c.pc (o.off.signExtend 64))))

/-! ## converge (R142 to R144) -/

/-- Whether a mask names a lane; no mask names every lane. -/
def maskHas (m : Option DWord) (l : Nat) : Bool :=
  match m with
  | none => true
  | some x => x.getLsbD l

/-- Whether a lane is held at a converge at address a. -/
def Thread.heldAt (th : Thread) (a : Nat) : Bool :=
  match th.conv with
  | some (b, _) => b == a
  | none => false

/-- Whether every participant of a held lane is held there, has exited, or is a lane with no thread (R142). -/
def Warp.convDone (w : Warp) (l : Nat) : Bool :=
  match (w.thr l).conv with
  | none => false
  | some (a, m) =>
    (List.range w.width).all (fun j => !maskHas m j || !(w.thr j).live || (w.thr j).exited || (w.thr j).heldAt a)

/-- The lanes that leave with a held lane: the participants held at its address. -/
def Warp.convMates (w : Warp) (l : Nat) : List Nat :=
  match (w.thr l).conv with
  | none => []
  | some (a, m) => (List.range w.width).filter (fun j => maskHas m j && (w.thr j).live && (w.thr j).conv == some (a, m))

/-- The participants' views joined (R143). -/
def joinViews (ths : List Thread) (th : Thread) : Thread :=
  { th with view := ths.foldl (fun v x => moveView v x.view) th.view, seen := ths.foldl (fun n x => max n x.seen) th.seen }

/-- The participants that a held lane completes leave together. In deterministic mode the views wait for the boundary
(R183), at which the release covers the team's core scratchpad (R185). -/
def State.convLeave (s : State) (c : Ctx) (t : Team) (k : TaskCtx) (w : Warp) (l : Nat) : State :=
  let ls := w.convMates l
  let ths := ls.map w.thr
  let s1 := s.mapThr c.team c.warp (fun j th =>
    if ls.contains j then
      let th1 := { th with conv := none, ready := s.tick }
      if k.det then th1 else joinViews ths th1
    else th)
  if k.det then
    s1.hold { c with lanes := ls } (.release ls { scope := .core, spans := some [] } (some [spaceSpan t .s]))
  else s1

/-- Releases every converge of the warp that is complete; each pass frees at least one lane. -/
def State.convRelease (s : State) (c : Ctx) (t : Team) (k : TaskCtx) : Nat → State
  | 0 => s
  | n + 1 =>
    match s.warp? c.team c.warp with
    | none => s
    | some w =>
      match (List.range w.width).find? w.convDone with
      | none => s
      | some l => (s.convLeave c t k w l).convRelease c t k n

/-- Whether every thread that has not exited is held at a converge (R144). -/
def Warp.allHeld (w : Warp) : Bool :=
  (List.range w.width).any (fun l => (w.thr l).live && !(w.thr l).exited) &&
    (List.range w.width).all (fun l => !(w.thr l).live || (w.thr l).exited || (w.thr l).conv.isSome)

/-- The mask of a converge: none without the MASK flag, else k[N] or its pair (R142). -/
def convMask (w : Warp) (o : SOp) : Option DWord :=
  if o.d.getLsbD 0 then
    if w.width = 64 then some (w.rkPair o.a.toNat) else some ((w.rk o.a.toNat).zeroExtend 64)
  else none

/-- Whether a lane's arrival breaks the mask rules of R142: its own bit is clear, or a lane held at the address, with which it
shares participants by the one's mask or the other's, has another mask. -/
def convBad (w : Warp) (a : Nat) (m : Option DWord) (l : Nat) : Bool :=
  !maskHas m l ||
    (List.range w.width).any (fun j => match (w.thr j).conv with
      | some (b, m1) => b == a && m1 != m && (maskHas m j || maskHas m1 l)
      | none => false)

/-- converge (R142, R143). -/
def execConverge (o : SOp) : State → Out :=
  kernelOp (.converge o) (fun c t w s =>
    let k := s.ctxOf t
    let m := convMask w o
    match c.lanes.find? (convBad w c.pc.toNat m) with
    | some l => .halt { cause := 6, detail := 1, lane := l }
    | none =>
      let s1 := (s.mapThr c.team c.warp (fun l th =>
        if c.lanes.contains l then { th with conv := some (c.pc.toNat, m) } else th)).convRelease c t k w.width
      match s1.warp? c.team c.warp with
      | none => .ok s1
      | some w1 => if w1.allHeld then .halt { cause := 6, detail := 2, lane := minOf c.lanes } else .ok s1)

/-! ## exit (R141) -/

/-- The threads end. -/
def State.endThreads (s : State) (c : Ctx) (lanes : List Nat) : State :=
  s.mapThr c.team c.warp (fun l th => if lanes.contains l then { th with exited := true, wait := none, last := none, conv := none } else th)

/-- After threads of a warp have exited: converges that this completes are released, a deadlock halts the warp at the
lowest held lane's converge (R144), whose lanes issue it again when the halt ends; a warp with no thread left closes its log
record (R409). -/
def State.afterExit (s : State) (c : Ctx) (t : Team) (k : TaskCtx) : State :=
  let s1 := s.convRelease c t k 64
  match s1.warp? c.team c.warp with
  | none => s1
  | some w =>
    if w.allHeld then
      let held := (List.range w.width).filter (fun l => (w.thr l).live && (w.thr l).conv.isSome)
      match (w.thr (minOf held)).conv with
      | none => s1
      | some (a, _) =>
        let group := held.filter (fun l => (w.thr l).heldAt a)
        let back := s1.mapThr c.team c.warp (fun l th =>
          if group.contains l then { th with conv := none, pc := BitVec.ofNat 64 a } else th)
        let words := match s1.bundle k (BitVec.ofNat 64 a) with
          | .ok (hs, _) => hs
          | .error _ => []
        back.haltWarp { c with lanes := group, pc := BitVec.ofNat 64 a, words := words }
          { cause := 6, detail := 2, lane := minOf group } false
    else if w.threads.all (fun th => !th.live || th.exited) then s1.closeLog c.team c.warp
    else s1

/-- Threads exit: their pending writes complete first (R77), their pixels are resolved (R361). -/
def State.exitLanes (s : State) (c : Ctx) (t : Team) (w : Warp) (k : TaskCtx) (lanes : List Nat) : State :=
  let s1 := s.updWarp c.team c.warp (fun v => v.complete (fun p => lanes.any (fun l => (p.left l).isSome)))
  let s2 := lanes.foldl (fun a l => a.exitPixel c t w k l) s1
  (s2.endThreads c lanes).afterExit c t k

/-- exit (R141). A thread with a result still to come exits once it has it. -/
def execExit (o : GuardOp) : State → Out :=
  kernelOp (.exit o) (fun c t w s =>
    let act := active w c.lanes o.pred
    if act.isEmpty then .ok s
    else .ok (s.exitLanes c t w (s.ctxOf t) act))

/-! ## yield and brk -/

/-- yield (R145): the ready time of the issuing threads becomes the next clock. -/
def execYield (o : SOp) : State → Out := kernelOp (.yield o) (fun _ _ _ s => .ok s)

/-- brk (R146): halts the warp with cause BREAK and the code; resumed, the threads continue after it. The threads have issued it: it
counts in the retired count and in open windows, as no bundle that faults (R76, R131; DEDUCED, log entry 148). Until the halt
ends their program counter stands at it. -/
def execBrk (o : SOp) : State → Out :=
  kernelOp (.brk o) (fun c _ _ s => .ok ((s.goto c c.lanes c.pc).haltWarp c { cause := 14, code := o.d.toNat } false))

/-- An encoding that R78 calls illegal: the warp halts at the bundle with cause ILLEGAL and the detail's code. -/
def Detail.code : Detail → Nat
  | .unassignedOp => 1 | .reservedField => 2 | .width => 3 | .align => 4
  | .vregs => 5 | .prefixCase => 6 | .agent => 7 | .code => 8

def execIllegalEncoding (d : Detail) : State → Out :=
  kernelOp (.illegalEncoding d) (fun _ _ _ _ => .halt { cause := 1, detail := Detail.code d })

end Sys2Proof.Machine
end

