-- ==== Sys2Proof/Machine/Immediate.lean ====
section
/-! DEFINITION. Class AI, register and immediate (R64, R65, R111, R116 to R122). -/

namespace Sys2Proof.Machine

/-- An integer AI instruction (R64, R109). -/
def aluImm (i : Instr) (o : AiOp) (f : Word → Word → Word) : State → Out :=
  kernelOp i (fun c _ w s =>
    .ok (s.writeLanes c ((active w c.lanes o.pred).map (fun l =>
      (l, [(Reg.v o.vd.toNat, f (opnd w l o.m.ka o.va 0) o.imm.int)])))))

/-- A floating-point AI instruction (R64, R120): the immediate's pattern takes no sign modifier. -/
def aluImmF (i : Instr) (o : AiOp) (f : FpCtl → Word → Word → Word → Word × FpFlags) : State → Out :=
  kernelOp i (fun c _ w s =>
    let ctl := fpCtl w.mode o.m
    let rs := (active w c.lanes o.pred).map (fun l =>
      (l, f ctl (opnd w l o.m.ka o.va 0) o.imm.flt ((w.thr l).rv o.vd.toNat)))
    .ok ((s.writeLanes c (rs.map (fun p => (p.1, [(Reg.v o.vd.toNat, p.2.1)])))).logArith c w.mode
      (rs.map (fun p => (p.1, p.2.2)))))

/-- iadd with an immediate (R111). -/
def execIaddImm (o : AiOp) : State → Out := aluImm (.iaddImm o) o (fun a b => iaddW o.m.sat a b)

/-- imul with an immediate (R111). -/
def execImulImm (o : AiOp) : State → Out := aluImm (.imulImm o) o (fun a b => imulW o.m.sat a b)

/-- imin with an immediate (R111). -/
def execIminImm (o : AiOp) : State → Out := aluImm (.iminImm o) o (iminW)

/-- imax with an immediate (R111). -/
def execImaxImm (o : AiOp) : State → Out := aluImm (.imaxImm o) o (imaxW)

/-- iminu with an immediate (R111). -/
def execIminuImm (o : AiOp) : State → Out := aluImm (.iminuImm o) o (iminuW)

/-- imaxu with an immediate (R111). -/
def execImaxuImm (o : AiOp) : State → Out := aluImm (.imaxuImm o) o (imaxuW)

/-- and with an immediate (R111). -/
def execAndImm (o : AiOp) : State → Out := aluImm (.andImm o) o (fun a b => a &&& b)

/-- or with an immediate (R111). -/
def execOrImm (o : AiOp) : State → Out := aluImm (.orImm o) o (fun a b => a ||| b)

/-- xor with an immediate (R111). -/
def execXorImm (o : AiOp) : State → Out := aluImm (.xorImm o) o (fun a b => a ^^^ b)

/-- shl with an immediate (R111). -/
def execShlImm (o : AiOp) : State → Out := aluImm (.shlImm o) o (shlW)

/-- shr with an immediate (R111). -/
def execShrImm (o : AiOp) : State → Out := aluImm (.shrImm o) o (shrW)

/-- sar with an immediate (R111). -/
def execSarImm (o : AiOp) : State → Out := aluImm (.sarImm o) o (sarW)

/-- rot with an immediate (R111). -/
def execRotImm (o : AiOp) : State → Out := aluImm (.rotImm o) o (rotW)

/-- mov with an immediate (R119). -/
def execMovImm (o : AiOp) : State → Out := aluImm (.movImm o) o (fun _ b => b)

/-- fadd with an immediate (R120). -/
def execFaddImm (o : AiOp) : State → Out := aluImmF (.faddImm o) o (fun k a b _ => patW (faddP .f32 k a.toNat b.toNat))

/-- fmul with an immediate (R120). -/
def execFmulImm (o : AiOp) : State → Out := aluImmF (.fmulImm o) o (fun k a b _ => patW (fmulP .f32 k a.toNat b.toNat))

/-- fmin; RM and SAT have no effect with an immediate (R121). -/
def execFminImm (o : AiOp) : State → Out := aluImmF (.fminImm o) o (fun k a b _ => patW (fminP k a.toNat b.toNat))

/-- fmax; RM and SAT have no effect with an immediate (R121). -/
def execFmaxImm (o : AiOp) : State → Out := aluImmF (.fmaxImm o) o (fun k a b _ => patW (fmaxP k a.toNat b.toNat))

/-- ffma, vd := va × imm + vd with an immediate (R120). -/
def execFfmaImm (o : AiOp) : State → Out := aluImmF (.ffmaImm o) o (fun k a b d => patW (ffmaP .f32 k a.toNat b.toNat d.toNat))

/-- icmp with an immediate (R116). -/
def execIcmpImm (o : CmpImm) : State → Out :=
  kernelOp (.icmpImm o) (fun c _ w s =>
    .ok (s.writeLanes c ((active w c.lanes o.pred).map (fun l =>
      (l, [(Reg.p o.pd.toNat, if icmpW o.cond (opnd w l o.m.ka o.va 0) o.imm.int then 1 else 0)])))))

/-- fcmp with an immediate (R122). -/
def execFcmpImm (o : CmpImm) : State → Out :=
  kernelOp (.fcmpImm o) (fun c _ w s =>
    let ctl := fpCtl w.mode o.m
    let rs := (active w c.lanes o.pred).map (fun l =>
      (l, fcmpP o.cond ctl (opnd w l o.m.ka o.va 0).toNat o.imm.flt.toNat))
    .ok ((s.writeLanes c (rs.map (fun p => (p.1, [(Reg.p o.pd.toNat, if p.2.1 then (1 : Word) else 0)])))).logArith c w.mode
      (rs.map (fun p => (p.1, p.2.2)))))

/-- lea with an immediate (R118). -/
def execLeaImm (o : AiOp) : State → Out :=
  kernelOp (.leaImm o) (fun c _ w s =>
    .ok (s.writeLanes c ((active w c.lanes o.pred).map (fun l =>
      (l, pairWrites o.vd (leaW (opndPair w l o.m.ka o.va) o.imm.int))))))

end Sys2Proof.Machine
end

