-- ==== Sys2Proof/Machine/Tasks.lean ====
section
/-! DEFINITION. The task instructions as decode takes them (R79, R80, R278 to R291): each one's operand checks, its block,
and what it does at decode. What a task does when it issues and completes stands in Issue.lean. -/

namespace Sys2Proof.Machine

/-! ## Operand checks -/

/-- The conditions of R279 that many opcodes share: IMM within a mask; PA and PB a multiple, or 0 where the multiple is 0. -/
def opBad (mask pa pb : Nat) (t : TaskRec) : Bool :=
  t.imm.toNat &&& (4294967295 - mask) != 0 || (if pa = 0 then t.pa != 0 else t.pa.toNat % pa != 0) ||
    (if pb = 0 then t.pb != 0 else t.pb.toNat % pb != 0)

/-- A control task without flags. -/
def ctlForm (bufs : Nat) (bad : TaskRec → Bool) : TaskForm := { cls := .control, bufs := bufs, bad := bad }

/-- An effectful task. -/
def effForm (bad : TaskRec → Bool) : TaskForm := { cls := .effectful, eff := true, bad := bad }

/-! ## t.nop, t.halt, t.fence (R279, R286) -/

/-- t.nop. -/
def execTNop (t : TaskRec) (s : State) : Out := s.decode (ctlForm 0 (opBad 0 0 0)) t noRead doneAct

/-- t.halt: decode stops after it. -/
def execTHalt (t : TaskRec) (s : State) : Out :=
  s.decode (ctlForm 0 (opBad 0xFFFFFFFF 0 0)) t noRead (fun a e =>
    doneAct { a with win := { a.win with stopped := true } } e)

/-- t.fence: it waits in the window for every older task to retire. -/
def execTFence (t : TaskRec) (s : State) : Out :=
  s.decode (ctlForm 0 (opBad 1 0 0)) t noRead (fun a e => .ok a ({ e with issued := true }, a.win.nextAddr e.addr))

/-! ## t.jmp, t.call, t.ret (R285) -/

/-- The condition word of a conditional t.jmp: the jump is taken, or not; a stall or a fault. A writer that has completed with a fault
holds nothing back: the jump enters the window and is discarded when the fault is reported (R303). -/
def State.jmpTaken (s : State) (t : TaskRec) (n : Nat) : Dec Bool :=
  match s.win.mapOf n with
  | none => .fault s tfBuffer n
  | some p =>
    let off := immBits t 23 0
    if classSize (p / 4096) ≤ off then .fault s tfIllegal 5
    else
      let l := locPhys (s.physBase p + off)
      let waits : Bool := match s.win.writerOf n with
        | none => false
        | some w => (s.entry? w).any (fun e => !e.done)
      if waits then .stall (s.stallWith stCond)
      else if !physOk l then .fault s tfAccess 1
      else if s.bad.contains (l / 64 * 64) then .fault (s.journal { kind := 7, code := 1, addr := l }) tfMemory 0
      else .ok s ((s.rdUnitNat .chip l 4 != 0) != (immBits t 24 24 == 1))

/-- t.jmp. -/
def execTJmp (t : TaskRec) (s : State) : Out :=
  s.decode (ctlForm 1 (fun t => opBad 0x1FFFFFF 32 0 t || (if (taskBuf t 0).isNone then t.imm != 0 else t.imm.toNat % 4 != 0))) t
    noRead (fun a e =>
      let go (b : State) (k : Nat) : Dec (Entry × Nat) := .ok b ({ e with done := true, issued := true, tdone := b.ptime }, k)
      match taskBuf t 0 with
      | none => go a t.pa.toNat
      | some n => (a.jmpTaken t n).bind (fun b j => go b (if j then t.pa.toNat else b.win.nextAddr e.addr)))

/-- t.call: the address of the next record goes onto the call stack. -/
def execTCall (t : TaskRec) (s : State) : Out :=
  s.decode (ctlForm 0 (opBad 0 32 0)) t noRead (fun a e =>
    if 8 ≤ a.win.stack.length then .fault a tfDepth a.win.stack.length
    else
      .ok { a with win := { a.win with stack := a.win.nextAddr e.addr :: a.win.stack } }
        ({ e with done := true, issued := true, tdone := a.ptime, undo := { e.undo with stack := some a.win.stack } }, t.pa.toNat))

/-- t.ret. -/
def execTRet (t : TaskRec) (s : State) : Out :=
  s.decode (ctlForm 0 (opBad 0 0 0)) t noRead (fun a e =>
    match a.win.stack with
    | [] => .fault a tfDepth 0
    | x :: rest =>
      .ok { a with win := { a.win with stack := rest } }
        ({ e with done := true, issued := true, tdone := a.ptime, undo := { e.undo with stack := some a.win.stack } }, x))

/-- t.slot (R286). -/
def execTSlot (t : TaskRec) (s : State) : Out :=
  s.decode (ctlForm 0 (fun t => opBad 0xFF 0 0 t || (decide (63 < immBits t 7 0) && immBits t 7 0 != 0xFF))) t noRead (fun a e =>
    doneAct { a with win := { a.win with slot := if immBits t 7 0 = 0xFF then none else some (immBits t 7 0) } }
      { e with undo := { e.undo with slot := some a.win.slot } })

/-! ## t.kern and t.draw (R280, R355) -/

/-- A declared task with all five flags. -/
def workForm (bad : TaskRec → Bool) : TaskForm :=
  { cls := .declared, eff := true, det := true, opq := true, shed := true, frame := true, bufs := 4, bad := bad }

/-- Checks a block and hands it on with its declarations and completion record. -/
def Dec.checked (x : Dec (List Byte)) (bad : List Byte → List (Nat × Bool)) (r : List Byte → TaskRead) : Dec TaskRead :=
  x.bind (fun s bs => (s.chkBlock (bad bs)).bind (fun s1 _ => .ok s1 (r bs)))

/-- Failing fields of a launch block. -/
def launchBad (bs : List Byte) : List (Nat × Bool) :=
  [(0x10, fieldOf bs 0x10 8 % 32 != 0), (0x18, resvBad bs 0x18 40)] ++ declBad bs 0x40

/-- t.kern. -/
def execTKern (t : TaskRec) (s : State) : Out :=
  s.decode (workForm (opBad 0 128 1)) t
    (fun a r => (a.blockAt r t.pa.toNat 128 128).checked launchBad
      (fun bs => { block := bs, decls := declsOf bs 0x40, recAddr := fieldOf bs 0x10 8 })) waitAct

/-- Bytes of a colour pixel by CFMT. -/
def cfmtBytes (st : Nat) : Nat := if st / 4 % 4 = 0 then 4 else if st / 4 % 4 = 1 then 8 else 16

/-- Failing fields of a pass block (R355). -/
def passBad (bs : List Byte) : List (Nat × Bool) :=
  let w := fieldOf bs 0x14 2
  let h := fieldOf bs 0x16 2
  let ds := fieldOf bs 0x20 8
  let cp := fieldOf bs 0x28 4
  let dp := fieldOf bs 0x2C 4
  let st := fieldOf bs 0x30 4
  [(0x10, decide (2147483648 < fieldOf bs 0x10 4)), (0x14, w == 0 || decide (16384 < w)), (0x16, h == 0 || decide (16384 < h)),
   (0x18, fieldOf bs 0x18 8 % 64 != 0), (0x20, ds % 64 != 0), (0x28, cp % 64 != 0 || decide (cp < w * cfmtBytes st)),
   (0x2C, if ds = 0 then dp != 0 else dp % 64 != 0 || decide (dp < 8 * w)),
   (0x30, st / 16 % 64 != 0 || st / 4 % 4 == 3 || st % 4 == 3 || decide (5 ≤ st / 1024 % 8) || (ds == 0 && st / 65536 % 4 != 0)),
   (0x34, resvBad bs 0x34 4), (0x38, fieldOf bs 0x38 8 % 32 != 0)] ++ declBad bs 0x40

/-- t.draw. -/
def execTDraw (t : TaskRec) (s : State) : Out :=
  s.decode (workForm (opBad 0 128 1)) t
    (fun a r => (a.blockAt r t.pa.toNat 128 128).checked passBad
      (fun bs => { block := bs, decls := declsOf bs 0x40, recAddr := fieldOf bs 0x38 8 })) waitAct

/-! ## t.copy and t.fill (R279, R283) -/

/-- A declared task of the copy engine. -/
def moveForm : TaskForm :=
  { cls := .declared, eff := true, det := true, opq := true, frame := true, bufs := 4, bad := opBad 0 1 64 }

/-- Failing fields of a copy descriptor that a task names (R304). An entry of EXT, SSTR or DSTR at or above NDIM that is not 0 is
charged to its own offset (DESIGN CHOICE; log entry 178). -/
def copyBad (bs : List Byte) : List (Nat × Bool) :=
  let d := copyDesc bs
  let ctl := fieldOf bs 0x10 4
  let past (o : Nat) : List (Nat × Bool) := (List.range 6).map (fun i => (o + 4 * i, decide (d.ndim ≤ i) && fieldOf bs (o + 4 * i) 4 != 0))
  let conv := d.conv == 0xFF || (convSizes d.conv).isSome
  [(0, d.src % d.ssize != 0), (8, d.dst % d.dsize != 0), (0x10, decide (1024 ≤ ctl) || ctl % 64 != 0 || (conv && !d.sizesOk)),
   (0x14, d.ndim == 0 || decide (6 < d.ndim)), (0x15, !conv), (0x16, resvBad bs 0x16 2)] ++ past 0x18 ++ past 0x30 ++ past 0x48 ++
  [(0x60, fieldOf bs 0x60 4 != 0xFFFFFFFF), (0x64, resvBad bs 0x64 4), (0x68, resvBad bs 0x68 8), (0x70, resvBad bs 0x70 16)]

/-- The declaration list that PB names, after a task's block. -/
def State.withDecls (s : State) (region pb : Nat) (r : TaskRead) : Dec TaskRead :=
  if pb = 0 then .ok s r
  else (s.blockAt region pb 64 64).checked (fun bs => declBad bs 0) (fun bs => { r with decls := declsOf bs 0 })

/-- t.copy. -/
def execTCopy (t : TaskRec) (s : State) : Out :=
  s.decode moveForm t
    (fun a r => ((a.blockAt r t.pa.toNat 128 128).checked copyBad (fun bs => { block := bs })).bind
      (fun b x => b.withDecls r t.pb.toNat x)) waitAct

/-- Failing fields of a fill block. -/
def fillBad (bs : List Byte) : List (Nat × Bool) :=
  [(0, fieldOf bs 0 8 % 4 != 0), (8, fieldOf bs 8 4 % 4 != 0), (0x10, fieldOf bs 0x10 8 % 4 != 0), (0x1C, resvBad bs 0x1C 4)]

/-- t.fill. -/
def execTFill (t : TaskRec) (s : State) : Out :=
  s.decode moveForm t
    (fun a r => ((a.blockAt r t.pa.toNat 32 32).checked fillBad (fun bs => { block := bs })).bind
      (fun b x => b.withDecls r t.pb.toNat x)) waitAct

/-! ## Queues, signals and waits (R287, R288, R433) -/

/-- t.feed. -/
def execTFeed (t : TaskRec) (s : State) : Out :=
  s.decode (effForm (fun t => opBad 0x80FFFFFF 1 16 t || decide (4294967296 ≤ t.pa.toNat))) t noRead waitAct

/-- t.sig. -/
def execTSig (t : TaskRec) (s : State) : Out :=
  s.decode (effForm (fun t => opBad 0x800000FF 8 1 t ||
    (t.imm.getLsbD 31 && (decide (immBits t 7 0 < 8) || decide (63 < immBits t 7 0))))) t noRead waitAct

/-- t.wait. -/
def execTWait (t : TaskRec) (s : State) : Out :=
  s.decode (effForm (fun t => opBad 0xFFFFFF03 8 1 t || immBits t 1 0 == 3)) t noRead waitAct

/-! ## Collectives (R370, R371, R383) -/

/-- Blocks of the SRC and DST spans (R372); a broadcast reads SRC at ROOT only. -/
def collSpans (op size : Nat) (root : Bool) : Nat × Nat :=
  (if op = 1 ∨ op = 4 then size else if op = 3 ∧ !root then 0 else 1, if op = 2 ∨ op = 4 then size else 1)

/-- Failing fields of a parameter block (R371). -/
def collBad (timed : Bool) (bs : List Byte) : List (Nat × Bool) :=
  let op := fieldOf bs 0 1
  let dt := fieldOf bs 1 1
  let rop := fieldOf bs 2 1
  let size := fieldOf bs 7 1
  let e := dtypeSize dt
  let count := fieldOf bs 0x10 8
  let src := fieldOf bs 0x18 8
  let dst := fieldOf bs 0x20 8
  let sp := collSpans op size (fieldOf bs 6 1 == fieldOf bs 8 1)
  let n := count * e
  let bare := op == 5 || op == 6
  let meet := !bare && sp.1 * n != 0 && sp.2 * n != 0 && decide (src < dst + sp.2 * n) && decide (dst < src + sp.1 * n) &&
    !(src == dst && (op == 0 || op == 3))
  let chunk := 2 ^ min (fieldOf bs 9 1) 16
  [(0, decide (6 < op) || (op == 6) != timed),
   (1, decide (5 < dt) || (dt == 5 && (op == 0 || op == 1)) || (bare && dt != 0)),
   (2, decide (5 < rop) || (rop != 0 && decide (2 ≤ op)) || (decide (3 ≤ rop) && decide (dt < 3))),
   (3, decide (3 < fieldOf bs 3 1) || (op == 6 && fieldOf bs 3 1 != 0)),
   (6, decide (size ≤ fieldOf bs 6 1)), (7, size == 0 || decide (64 < size)), (8, decide (size ≤ fieldOf bs 8 1)),
   (9, decide (fieldOf bs 9 1 < 12) || decide (16 < fieldOf bs 9 1)), (0xA, resvBad bs 0xA 2),
   (0x10, decide (2 ^ 36 < count) || (bare && count != 0)), (0x18, src % e != 0 || (bare && src != 0)),
   (0x20, dst % e != 0 || (bare && dst != 0) || meet), (0x28, op == 6 && fieldOf bs 0x28 8 != 0),
   (0x30, fieldOf bs 0x30 8 % 4096 != 0 || (bare && fieldOf bs 0x30 8 != 0)),
   (0x38, fieldOf bs 0x38 8 % chunk != 0 || (bare && fieldOf bs 0x38 8 != 0) || (fieldOf bs 0x30 8 == 0 && fieldOf bs 0x38 8 != 0)),
   (0x40, fieldOf bs 0x40 8 % 64 != 0),
   (0x48, (let b : Word := BitVec.ofNat 32 (fieldOf bs 0x48 4); b != 0xFFFFFFFF && ((barSpace b).isNone || barOff b % 32 != 0))),
   (0x4C, resvBad bs 0x4C 52)]

def collRead (timed : Bool) (t : TaskRec) (a : State) (r : Nat) : Dec TaskRead :=
  (a.blockAt r t.pa.toNat 128 128).checked (collBad timed) (fun bs =>
    { block := bs, dl := if fieldOf bs 0x28 8 = 0 then none else some (fieldOf bs 0x28 8) })

/-- t.coll. -/
def execTColl (t : TaskRec) (s : State) : Out :=
  s.decode { effForm (opBad 0 1 0) with det := true } t (collRead false t) waitAct

/-- t.tbar: its deadline is its frame's, and it may arrive at decode (R383). -/
def execTTbar (t : TaskRec) (s : State) : Out :=
  s.decode { effForm (opBad 0 1 0) with needs := true } t (collRead true t) (fun a e =>
    let r := a.tbarDecoded e
    .ok r.1 (r.2, r.1.win.nextAddr e.addr))

/-! ## Frames and streams (R263, R289) -/

/-- Failing fields of a frame template. -/
def frameTmplBad (bs : List Byte) : List (Nat × Bool) :=
  let c := fieldOf bs 0x18 4
  [(0x0C, fieldOf bs 0xC 2 == 0 || decide (1000 < fieldOf bs 0xC 2)), (0x18, c % 16 != 0 || decide (48 ≤ c))]

/-- t.frame. Its template needs no alignment: R279 and R289 give none (DESIGN CHOICE; log entry 179). -/
def execTFrame (t : TaskRec) (s : State) : Out :=
  s.decode { effForm (opBad 0 1 0) with needs := true } t
    (fun a r => (a.readVa r 3 t.pa.toNat 48).checked frameTmplBad (fun bs => { block := bs })) waitAct

/-- t.present. -/
def execTPresent (t : TaskRec) (s : State) : Out :=
  s.decode { effForm (opBad 0 0 0) with needs := true } t noRead waitAct

/-- Failing fields of a stream record (R261, R263). A record of audio or ancillary data (SAMPLING 3 and 4) has no raster. -/
def streamBad (rx : Bool) (bs : List Byte) : List (Nat × Bool) :=
  let w := fieldOf bs 0 2
  let h := fieldOf bs 2 2
  let sa := fieldOf bs 4 1
  let de := fieldOf bs 5 1
  let video := decide (sa < 3)
  let port := fieldOf bs 0x16 1
  let band := fieldOf bs 0x15 1
  let pitch := fieldOf bs 0x10 4
  let lbar : Word := BitVec.ofNat 32 (fieldOf bs 0x18 4)
  let bands := if band = 0 then 0 else h / band
  (if video then
    [(0, decide (w < 2) || decide (8192 < w) || w % (pgroup sa de).2 != 0), (2, h == 0 || decide (4320 < h)),
     (5, !(de == 10 || de == 12 || (de == 8 && sa == 0))), (6, decide (2 < fieldOf bs 6 1)), (7, decide (3 < fieldOf bs 7 1)),
     (0x10, pitch % 64 != 0 || decide (pitch < lineBytes sa de w)),
     (0x15, rx && (!(band == 1 || band == 2 || band == 4 || band == 8 || band == 16) || h % max band 1 != 0))]
   else []) ++
  [(4, decide (4 < sa)), (8, rx && fieldOf bs 8 8 % 4096 != 0),
   (0x14, rx && (decide (fieldOf bs 0x14 1 < 2) || decide (16 < fieldOf bs 0x14 1))),
   (0x16, decide (16 ≤ port) || (port / 4 % 2 == 1 && port % 2 == 1)), (0x17, resvBad bs 0x17 1),
   (0x18, rx && (barSpace lbar != some .x || barOff lbar % 32 != 0 ||
      decide (Config.chipBytes < barOff lbar + 32 * (if video then bands else 1)))),
   (0x24, fieldOf bs 0x24 2 == 0 || decide (1000 < fieldOf bs 0x24 2)), (0x26, resvBad bs 0x26 2), (0x3C, resvBad bs 0x3C 4),
   (0x46, decide (fieldOf bs 0x46 1 < 96) || decide (127 < fieldOf bs 0x46 1)), (0x47, resvBad bs 0x47 1), (0x56, resvBad bs 0x56 42)]

/-- t.stream. -/
def execTStream (t : TaskRec) (s : State) : Out :=
  s.decode (effForm (fun t => opBad 0x17F 128 0 t || ((immBits t 8 8 == 1) != (t.pa == 0)))) t
    (fun a r => if immBits t 8 8 = 1 then .ok a {}
      else (a.blockAt r t.pa.toNat 128 128).checked (streamBad (decide (immBits t 6 0 < 64))) (fun bs => { block := bs })) waitAct

/-! ## Buffers and pools (R282, R290, R291) -/

def windowForm (bad : TaskRec → Bool) : TaskForm := { cls := .window, bad := bad }

/-- Reads the entries of the classes in the mask, others as none. -/
def State.readPools (s : State) (region pa mask : Nat) : Nat → Nat → Dec (List (Option (List Byte)))
  | 0, _ => .ok s []
  | n + 1, c =>
    if mask / 2 ^ c % 2 = 0 then (s.readPools region pa mask n (c + 1)).bind (fun a r => .ok a (none :: r))
    else (s.readVa region 3 (pa + 16 * c) 16).bind (fun a bs =>
      (a.readPools region pa mask n (c + 1)).bind (fun b r => .ok b (some bs :: r)))

/-- The class whose COUNT takes the running total past 4,096 (R290). -/
def pastTotal (total : Nat) : List (Nat × Option (List Byte)) → Option Nat
  | [] => none
  | (_, none) :: r => pastTotal total r
  | (c, some bs) :: r => if 4096 < total + fieldOf bs 8 4 then some c else pastTotal (total + fieldOf bs 8 4) r

/-- Failing fields of a pool block. -/
def poolBad (old : List (Nat × Nat)) (es : List (Option (List Byte))) : List (Nat × Bool) :=
  let ces := es.zipIdx.map (fun p => (p.2, p.1))
  let rest := (ces.filter (fun p => p.2.isNone)).foldl (fun n p => n + (old.getD p.1 (0, 0)).2) 0
  ces.flatMap (fun p => match p.2 with
    | none => []
    | some bs => [(16 * p.1, fieldOf bs 0 8 % 65536 != 0), (16 * p.1 + 8, decide (4096 < fieldOf bs 8 4)), (16 * p.1 + 12, resvBad bs 12 4)]) ++
  (match pastTotal rest ces with
   | none => []
   | some c => [(16 * c + 8, true)])

/-- Whether a class has a buffer bound, named by a task of the window, or awaiting a free (R290). -/
def State.poolBusy (s : State) (c : Nat) : Bool :=
  s.win.map.any (fun e => e.2.any (fun p => p / 4096 == c)) ||
    s.win.entries.any (fun e => e.taken.any (fun p => p.1 == c) || e.frees.any (fun p => p.1 == c) ||
      e.ctx.bufs.any (fun b => b.cls == c))

/-- t.pool. -/
def execTPool (t : TaskRec) (s : State) : Out :=
  let mask := immBits t 5 0
  s.decode (windowForm (opBad 0x3F 32 0)) t noRead (fun a e =>
    (a.readPools e.ctx.region t.pa.toNat mask 6 0).bind (fun b es =>
      (b.chkBlock (poolBad b.win.pools es)).bind (fun b1 _ =>
        match (List.range 6).find? (fun c => mask / 2 ^ c % 2 == 1 && b1.poolBusy c) with
        | some c => .fault b1 tfPool c
        | none =>
          let new (c : Nat) : Option (List Byte) := es.getD c none
          doneAct { b1 with win := { b1.win with
              pools := (List.range 6).map (fun c => match new c with
                | some bs => (fieldOf bs 0 8, fieldOf bs 8 4)
                | none => b1.win.pools.getD c (0, 0))
              free := (List.range 6).map (fun c => match new c with
                | some bs => List.range (fieldOf bs 8 4)
                | none => b1.win.free.getD c []) } }
            { e with undo := { e.undo with pools := some (b1.win.pools, b1.win.free) } })))

/-- A logical buffer unbound at decode; its physical buffer is freed when the task retires (R291). -/
def Entry.unbind (e : Entry) (w : Window) (n : Nat) : Entry :=
  { e with undo := { e.undo with bufs := e.undo.bufs ++ [w.keep n] },
           frees := e.frees ++ (match w.mapOf n with
             | some p => [(p / 4096, p % 4096)]
             | none => []) }

/-- t.buf. -/
def execTBuf (t : TaskRec) (s : State) : Out :=
  s.decode (windowForm (fun t => opBad 0x7FF 0 0 t || immBits t 7 0 == 255 || decide (5 < immBits t 10 8))) t noRead (fun a e =>
    let n := immBits t 7 0
    doneAct { a with win := { a.win with cls := KV.put none n (some (immBits t 10 8)) a.win.cls, map := KV.put none n none a.win.map,
                                         writer := KV.put none n none a.win.writer } } (e.unbind a.win n))

/-- t.release. -/
def execTRelease (t : TaskRec) (s : State) : Out :=
  s.decode (windowForm (fun t => opBad 0xFF 0 0 t || immBits t 7 0 == 255)) t noRead (fun a e =>
    let n := immBits t 7 0
    doneAct { a with win := { a.win with map := KV.put none n none a.win.map, writer := KV.put none n none a.win.writer } }
      (e.unbind a.win n))

/-! ## t.bvh, and the reserved opcodes -/

/-- Failing fields of a build input (R334). -/
def bvhBad (bs : List Byte) : List (Nat × Bool) :=
  let q := ifieldOf bs 1 1
  [(0, decide (1 < fieldOf bs 0 1)), (1, decide (q < -64) || decide (63 < q)), (4, fieldOf bs 4 4 == 0 || decide (16777216 < fieldOf bs 4 4)),
   (8, fieldOf bs 8 8 % 32 != 0), (0x10, fieldOf bs 0x10 8 % 4096 != 0), (0x18, fieldOf bs 0x18 8 % 4096 != 0), (0x20, resvBad bs 0x20 32)]

/-- t.bvh: its header must be aligned, and its input is read (R334, R335). -/
def execTBvh (t : TaskRec) (s : State) : Out :=
  s.decode (effForm (fun t => opBad 3 1 1 t || immBits t 1 0 == 3)) t
    (fun a r => if t.pa.toNat % 128 ≠ 0 then .fault a tfAccess 0
      else (a.blockAt r t.pb.toNat 64 64).checked bvhBad (fun bs => { block := bs })) waitAct

/-- A record with a reserved opcode: once it can be read, ILLEGAL_TASK, detail OPCODE (R80, R278). -/
def execReservedTaskOpcode (t : TaskRec) (s : State) : Out :=
  if !s.win.canDecode then .next s
  else .next ((s.unreadRecord (s.nextEntry t)).getD (s.enterFault (s.nextEntry t) tfIllegal 1))

end Sys2Proof.Machine
end

