-- ==== Sys2Proof/Machine/Map.lean ====
section
/-! DEFINITION. t.map: its block, its checks, and the entries it writes (R396, R397). -/

namespace Sys2Proof.Machine

/-- A map block (R396). -/
structure MapBlock where
  cmd   : Nat
  level : Nat
  span  : Nat
  perm  : Nat
  pages : Nat
  va    : Nat
  pa    : Nat

def mapBlock (bs : List Byte) : MapBlock :=
  { cmd := fieldOf bs 0 1, level := fieldOf bs 1 1, span := fieldOf bs 2 1, perm := fieldOf bs 3 1, pages := fieldOf bs 4 4,
    va := fieldOf bs 8 8, pa := fieldOf bs 0x10 8 }

/-- Bytes of a page. -/
def pageSize (level span : Nat) : Nat := 2 ^ (12 + 9 * level) * 4 ^ span
def MapBlock.size (b : MapBlock) : Nat := pageSize (min b.level 2) (min b.span 3)

/-- The failing fields that the block alone decides. -/
def MapBlock.bad (b : MapBlock) (bs : List Byte) : List (Nat × Bool) :=
  let top := if b.va < 2 ^ 47 then 2 ^ 47 else 2 ^ 64
  [(0, decide (3 < b.cmd)), (1, decide (2 < b.level)), (2, decide (3 < b.span)), (3, decide (3 < b.perm)),
   (4, decide (1048576 < b.pages) || decide (top < b.va + b.pages * b.size)), (8, !canonical b.va || b.va % b.size != 0),
   (0x10, b.pa % b.size != 0 || decide (2 ^ 52 < b.pa + b.pages * b.size)), (0x18, resvBad bs 0x18 40)]

/-- The table at a level on the path to an address; none where one is missing, or a leaf or a malformed entry stands above
it. `n` levels are left to go down. -/
def State.tableFor (s : State) (va level : Nat) : Nat → Nat → Option Nat
  | 0, t => some t
  | n + 1, t =>
    let ea := t + 8 * (va / 2 ^ (12 + 9 * (level + n + 1)) % 512)
    if !physOk ea then none
    else
      let e : DWord := BitVec.ofNat 64 (s.rdUnitNat .chip (locPhys ea) 8)
      if ebits e 62 52 ≠ 0 ∨ ebits e 11 2 ≠ 0 ∨ ebits e 1 0 ≠ 1 ∨ !physOk (ebits e 51 12 * 4096) then none
      else s.tableFor va level n (ebits e 51 12 * 4096)

/-- An entry on the path to an address that an error has lost (R421). -/
def State.pathErr (s : State) (va level : Nat) : Nat → Nat → Option Nat
  | 0, _ => none
  | n + 1, t =>
    let ea := t + 8 * (va / 2 ^ (12 + 9 * (level + n + 1)) % 512)
    if physOk ea && s.objErr (locPhys ea) then some (locPhys ea)
    else (s.tableFor va (level + n) 1 t).bind (s.pathErr va level n)

/-- An entry that an error has lost on the path of a page of the block. -/
def State.mapErr (s : State) (root : Nat) (b : MapBlock) : Option Nat :=
  (List.range b.pages).findSome? (fun i => s.pathErr (b.va + i * b.size) b.level (3 - b.level) root)

/-- The address of the first entry of each page's group; none where the path of one fails. -/
def State.mapGroups (s : State) (root : Nat) (b : MapBlock) : Option (List Nat) :=
  (List.range b.pages).foldr (fun (i : Nat) (acc : Option (List Nat)) =>
    match acc, s.tableFor (b.va + i * b.size) b.level (3 - b.level) root with
    | some r, some t => some ((t + 8 * ((b.va + i * b.size) / 2 ^ (12 + 9 * b.level) % 512)) :: r)
    | _, _ => none) (some [])

/-- t.map (R396): an effective PT_ROOT of 0 faults before the block is read. A block with a failing field above VA is checked
for its path too, since the lowest field is reported (R304); an entry on the path that an error has lost is MEMORY_ERROR (R421). -/
def execTMap (t : TaskRec) (s : State) : Out :=
  s.decode (effForm (opBad 0 1 0)) t (fun a r =>
    if a.rootOf r = 0 then .fault a tfBlock 0
    else
      (a.blockAt r t.pa.toNat 64 64).bind (fun a1 bs =>
        let b := mapBlock bs
        let fs := b.bad bs
        let early : Bool := decide (8 < (badField fs).getD 0)
        let path := early && (a1.mapGroups (a1.rootOf r) b).isNone
        match (if early then a1.mapErr (a1.rootOf r) b else none) with
        | some l => .fault (a1.journal { kind := 7, code := 1, addr := l }) tfMemory 0
        | none => (a1.chkBlock (fs ++ [(8, path)])).bind (fun a2 _ => .ok a2 { block := bs }))) waitAct

/-- The entry that a command writes for page i. -/
def MapBlock.entry (b : MapBlock) (i : Nat) : Nat :=
  let bits := b.perm % 2 * 4 + b.perm / 2 * 8 + b.span * 64
  match b.cmd with
  | 0 => 3 + bits + (b.pa + i * b.size)
  | 1 => 0
  | _ => 2 ^ 63 + bits + (if b.pa = 0 then 0 else b.pa + i * b.size)

/-- The bytes that a list of entry groups writes. -/
def MapBlock.writes (b : MapBlock) (groups : List Nat) : List (Nat × Byte) :=
  groups.zipIdx.flatMap (fun p => (List.range (4 ^ b.span)).flatMap (fun j =>
    atLoc (locPhys (p.1 + 8 * j)) (leBytes 8 (b.entry p.2))))

/-- t.map issues: the whole block is checked, then the entries are written and published, the translation caches drop
what they hold of the range, and the bytes mapped are counted (R395 to R397). The answer is the task's fault. -/
def State.mapIssue (s : State) (e : Entry) : State :=
  let b := mapBlock e.block
  let region := e.ctx.region
  match s.mapErr (s.rootOf region) b with
  | some l => (s.memErr e.seq l).complete e.seq (some (tfMemory, 0))
  | none =>
  match s.mapGroups (s.rootOf region) b with
  | none => s.complete e.seq (some (tfBlock, 8))
  | some groups =>
    match groups.find? (fun g => s.objErr (locPhys g)) with
    | some g => (s.memErr e.seq (locPhys g)).complete e.seq (some (tfMemory, 0))
    | none =>
    let valid := groups.countP (fun g => s.rdUnitNat .chip (locPhys g) 1 % 2 == 1)
    let up := if b.cmd = 0 then (groups.length - valid) * b.size else 0
    let down := if b.cmd = 1 ∨ b.cmd = 2 then valid * b.size else 0
    match (if up = 0 then none else s.memRefuses region up) with
    | some a => s.complete e.seq (some (tfBudget, a))
    | none =>
      let s1 := if b.cmd = 3 then s else s.wrPub .chip .unit none (b.writes groups)
      let s2 : State := { s1 with mapped := KV.put 0 region (KV.get 0 region s1.mapped + up - down) s1.mapped }
      let i : Inval := { root := some (s.rootOf region), lo := b.va, hi := b.va + b.pages * b.size, ser := s2.nextSer }
      { s2 with invals := i :: s2.invals }.complete e.seq none

end Sys2Proof.Machine
end

