-- ==== Sys2Proof/Machine/Codec.lean ====
section
/-! DEFINITION. Codes of pixel components (R105): decoding to f32 and encoding from it. -/

namespace Sys2Proof.Machine

/-- The ranges of R105. -/
inductive PixRange where
  | narrow | fullProtect | full
deriving DecidableEq, Repr

/-- The offset of a range's codes of n bits; `chroma` is a Cb or Cr component. -/
def PixRange.offset (r : PixRange) (n : Nat) (chroma : Bool) : Nat :=
  match r, chroma with
  | .narrow, false => 16 * 2 ^ (n - 8)
  | .narrow, true => 128 * 2 ^ (n - 8)
  | _, false => 0
  | _, true => 2 ^ (n - 1)

def PixRange.scale (r : PixRange) (n : Nat) (chroma : Bool) : Nat :=
  match r, chroma with
  | .narrow, false => 219 * 2 ^ (n - 8)
  | .narrow, true => 224 * 2 ^ (n - 8)
  | _, _ => 2 ^ n - 1

/-- The least and greatest code written. -/
def PixRange.clamp (r : PixRange) (n : Nat) : Nat × Nat :=
  match r with
  | .full => (0, 2 ^ n - 1)
  | _ => (2 ^ (n - 8), 2 ^ n - 2 ^ (n - 8) - 1)

/-- A code value as an f32 component. -/
def pixDecode (r : PixRange) (n : Nat) (chroma : Bool) (d : Nat) : Word :=
  BitVec.ofNat 32 (rne (.ofRat (((d : Rat) - (r.offset n chroma : Nat)) / (r.scale n chroma : Nat)) false))

/-- An f32 component as a code value. -/
def pixEncode (r : PixRange) (n : Nat) (chroma : Bool) (w : Word) : Nat :=
  let c := r.clamp n
  match value .f32 w.toNat with
  | .nan _ => min (max (r.offset n chroma) c.1) c.2
  | .inf neg => if neg then c.1 else c.2
  | x =>
    let y : Rat := x.rat * (r.scale n chroma : Nat) + (r.offset n chroma : Nat)
    if y < 0 then c.1 else min (max (roundInt y .rne false) c.1) c.2

end Sys2Proof.Machine
end

