-- ==== Sys2Proof/Machine/Texture.lean ====
section
/-! DEFINITION. Texturing (R364 to R367). -/

namespace Sys2Proof.Machine

/-! ## Descriptors (R364) -/

structure TexDesc where
  base   : Nat
  width  : Nat
  height : Nat
  fmt    : Nat
  flags  : Nat
  pitch  : Nat
  fbmap  : Nat
deriving DecidableEq, Repr

def texDesc (bs : List Byte) : TexDesc :=
  { base := fieldOf bs 0 8, width := fieldOf bs 8 2, height := fieldOf bs 0xA 2, fmt := fieldOf bs 0xC 1,
    flags := fieldOf bs 0xD 1, pitch := fieldOf bs 0x10 4, fbmap := fieldOf bs 0x18 8 }

def TexDesc.linear (d : TexDesc) : Bool := d.flags % 2 == 1
def TexDesc.tiled (d : TexDesc) : Bool := d.flags / 2 % 2 == 1
def TexDesc.repeats (d : TexDesc) : Bool := d.flags / 4 % 2 == 1
/-- Bytes of a texel. -/
def TexDesc.size (d : TexDesc) : Nat := if d.fmt = 0 then 4 else if d.fmt = 1 then 8 else 16
/-- Texels of a tile across and down. -/
def TexDesc.tw (d : TexDesc) : Nat := if d.fmt = 2 then 64 else 128
def TexDesc.th (d : TexDesc) : Nat := if d.fmt = 0 then 128 else 64
/-- Tiles across and down. -/
def TexDesc.tilesX (d : TexDesc) : Nat := (d.width + d.tw - 1) / d.tw
def TexDesc.tilesY (d : TexDesc) : Nat := (d.height + d.th - 1) / d.th

/-- The TEXDESC condition (R364, R367): fields reserved or out of range. -/
def texDescOk (bs : List Byte) : Bool :=
  let d := texDesc bs
  decide (1 ≤ d.width) && decide (d.width ≤ 16384) && decide (1 ≤ d.height) && decide (d.height ≤ 16384) &&
    decide (d.fmt ≤ 2) && decide (d.flags < 8) && (if d.tiled then d.base % 65536 == 0 && d.pitch == 0
      else d.base % 16 == 0 && d.pitch % 16 == 0) && d.fbmap % 8 == 0 && fieldOf bs 0xE 2 == 0 && fieldOf bs 0x14 4 == 0 &&
    (bs.drop 0x20).all (· == 0)

/-- Address of texel (i, j). -/
def TexDesc.texelAddr (d : TexDesc) (i j : Nat) : Nat :=
  (if d.tiled then
    d.base + 65536 * ((j / d.th) * d.tilesX + i / d.tw) + ((j % d.th) * d.tw + i % d.tw) * d.size
  else d.base + j * d.pitch + i * d.size) % 18446744073709551616

/-- The number of the tile that holds texel (i, j) (R366). -/
def TexDesc.tileOf (d : TexDesc) (p : Nat × Nat) : Nat := (p.2 / d.th) * d.tilesX + p.1 / d.tw

/-- `wrap` (R365). -/
def texWrap (d : TexDesc) (n : Int) (w : Nat) : Nat := if d.repeats then (n % w).toNat else (min (max n 0) (w - 1)).toNat

/-! ## Filtering (R365) -/

/-- An f32 value rounded by rne. -/
def f32r (x : Num × Bool) : Num := if x.2 then .nan false else value .f32 (rne x.1)
def f32Add (a b : Num) : Num := f32r (addNum .rne a b)
def f32Sub (a b : Num) : Num := f32r (addNum .rne a b.negate)
def f32Mul (a b : Num) : Num := f32r (mulNum a b)

/-- floor of a value: an infinity is its own. -/
def floorNum (x : Num) : Int := x.rat.floor
def Num.floor (x : Num) : Num :=
  match x with
  | .fin _ _ => .ofRat (floorNum x : Rat) false
  | _ => x

/-- Texel `off` past floor(x) along a side of n texels, wrapped (R365); u is the coordinate. An infinite floor, past every integer,
clamps to the edge; where the texture repeats the spec states no texel for it (log entry 15). -/
def texIndex (d : TexDesc) (u : Word) (x : Num) (n off : Nat) : Nat :=
  match x with
  | .inf neg => if d.repeats then (Config.texPast n u + off) % n else if neg then 0 else n - 1
  | _ => texWrap d (floorNum x + off) n

/-- Where tex samples at (u, v): no texel for coordinates that are not finite, else texels with their weights. -/
inductive Sample where
  | nan
  | at (ts : List (Nat × Nat)) (fx fy : Num)

def Num.isFin : Num → Bool
  | .fin _ _ => true
  | _ => false

/-- The sample of R365. -/
def texSample (d : TexDesc) (u v : Word) : Sample :=
  let un := value .f32 u.toNat
  let vn := value .f32 v.toNat
  if !un.isFin || !vn.isFin then .nan
  else
    let x := f32Mul un (.fin false (d.width : Rat))
    let y := f32Mul vn (.fin false (d.height : Rat))
    let t (a b : Num) (i j : Nat) : Nat × Nat := (texIndex d u a d.width i, texIndex d v b d.height j)
    if d.linear then
      let x1 := f32Sub x (.fin false (1 / 2))
      let y1 := f32Sub y (.fin false (1 / 2))
      .at [t x1 y1 0 0, t x1 y1 1 0, t x1 y1 0 1, t x1 y1 1 1] (f32Sub x1 x1.floor) (f32Sub y1 y1.floor)
    else .at [t x y 0 0] (.fin false 0) (.fin false 0)

/-- One component filtered from the four texels. -/
def lerp2 (fx fy a b c e : Num) : Num :=
  let top := f32Add a (f32Mul fx (f32Sub b a))
  let bot := f32Add c (f32Mul fx (f32Sub e c))
  f32Add top (f32Mul fy (f32Sub bot top))

/-- A texel's bytes as four f32 patterns (R364). -/
def texelWords (d : TexDesc) (bs : List Byte) : List Word :=
  match d.fmt with
  | 0 => [wordOfBytes bs, 0, 0, 0x3F800000]
  | 1 => (List.range 4).map (fun c => BitVec.ofNat 32 (encodeNum .f32 (value .f16 (fieldOf bs (2 * c) 2))))
  | _ => wordsOfBytes 4 bs

/-- The filtered quad of the texels. -/
def filterQuad (ts : List (List Word)) (fx fy : Num) : List Word :=
  match ts with
  | [a, b, c, e] => (List.range 4).map (fun i =>
      let v (w : List Word) : Num := value .f32 (w.getD i 0).toNat
      BitVec.ofNat 32 (encodeNum .f32 (lerp2 fx fy (v a) (v b) (v c) (v e))))
  | a :: _ => a
  | [] => []

/-! ## Access through the lanes' views -/

/-- The descriptor that a lane reads. -/
def laneDesc (s : State) (w : Warp) (l x : Nat) : List Byte := (locRange x 64).map (s.rdThr w (w.thr l))

/-- The descriptor's location and each lane's reading of it, with the checks of R366 and R367. -/
def withTexDesc (s : State) (k : TaskCtx) (w : Warp) (lanes : List Nat) (b : BitVec 6) (f : (Nat → TexDesc) → KOut) : KOut :=
  match s.recAt k (w.rkPair b.toNat).toNat 64 with
  | .stop (.halt h) => .halt { h with lane := lanes.headD 0 }
  | .stop (.page ps) => .page (ps.map (fun p => { p with kind := 0 }))
  | .stop x => x
  | .loc x =>
    match lanes.find? (fun l => !texDescOk (laneDesc s w l x)) with
    | some l => .halt { cause := 12, detail := 5, lane := l }
    | none => f (fun l => texDesc (laneDesc s w l x))

/-- Where a texel lies: none for a texel of a tile that is not resident (R364). -/
inductive TexelAt where
  | at (l : Nat)
  | absent
  | stop (x : Chk)

/-- Whether a tile at an address is not resident: a page of its 64 KiB is not mapped or not resident (R364). -/
def tileAbsent (s : State) (k : TaskCtx) (lane tile : Nat) : Bool :=
  (List.range 16).any (fun i =>
    match transLane s k .read lane ((tile + 4096 * i) % 18446744073709551616) with
    | .page _ => true
    | .halt h => h.cause == 4 && h.detail == 1
    | _ => false)

def texelAt (s : State) (k : TaskCtx) (lane : Nat) (d : TexDesc) (p : Nat × Nat) : TexelAt :=
  let va := d.texelAddr p.1 p.2
  if d.tiled && tileAbsent s k lane (d.base + 65536 * d.tileOf p) then .absent
  else
    match s.eccCheck [(lane, va)] (transLane s k .read lane va) with
    | .ok [(_, l)] => .at l
    | x => .stop x

/-- What stops a lane's texels, if anything does. -/
def texStops (s : State) (k : TaskCtx) (lane : Nat) (d : TexDesc) (ts : List (Nat × Nat)) : Chk :=
  Chk.joinAll (ts.map (fun p => match texelAt s k lane d p with
    | .stop x => x
    | _ => .ok []))

/-- A texel's four patterns and whether it is absent. -/
def texel (s : State) (k : TaskCtx) (w : Warp) (lane : Nat) (d : TexDesc) (p : Nat × Nat) : List Word × Bool :=
  match texelAt s k lane d p with
  | .at l => (texelWords d ((locRange l d.size).map (s.rdThr w (w.thr lane))), false)
  | _ => ([0, 0, 0, 0], true)

/-- The quad and status registers of a lane. -/
def texWrites (vd : BitVec 6) (q : List Word) (status : Word) : List (Reg × Word) :=
  (q ++ [status]).mapIdx (fun j x => (Reg.v (vd.toNat + j), x))

/-! ## Instructions (R366) -/

/-- tex (R365, R366). -/
def execTex (o : SOp) : State → Out :=
  kernelOp (.tex o) (fun c t w s =>
    let k := s.ctxOf t
    withTexDesc s k w c.lanes o.b (fun desc =>
      let smp (l : Nat) : Sample := texSample (desc l) ((w.thr l).rv o.a.toNat) ((w.thr l).rv (o.a.toNat + 1))
      (Chk.joinAll (c.lanes.map (fun l => match smp l with
        | .at ts _ _ => texStops s k l (desc l) ts
        | _ => .ok []))).bind (fun _ =>
          let ws := c.lanes.map (fun l => (l, match smp l with
            | .nan => texWrites o.d (List.replicate 4 0x7FC00000) 0
            | .at ts fx fy =>
              let rs := ts.map (texel s k w l (desc l))
              texWrites o.d (filterQuad (rs.map (fun r => r.1)) fx fy) (if rs.any (fun r => r.2) then 1 else 0)))
          .ok (s.commit c o.la.toNat (vGrp o.d 5) ws))))

/-- The texel that texld reads: x and y from v[a], offset by the prefix's dx and dy (R366). -/
def texldAt (d : TexDesc) (xy : Word) (pre : BitVec 26) : Nat × Nat :=
  (texWrap d ((xy.toNat % 65536 : Nat) + (pre.extractLsb' 0 6).toInt) d.width,
   texWrap d ((xy.toNat / 65536 : Nat) + (pre.extractLsb' 6 6).toInt) d.height)

/-- texld (R366, R367): the prefix's bits above dy must be 0. -/
def execTexld (o : TexLd) : State → Out :=
  kernelOp (.texld o) (fun c t w s =>
    let k := s.ctxOf t
    if o.pre.toNat / 4096 ≠ 0 then .halt { cause := 12, detail := 6, lane := c.lanes.headD 0 }
    else
      withTexDesc s k w c.lanes o.b (fun desc =>
        let p (l : Nat) : Nat × Nat := texldAt (desc l) ((w.thr l).rv o.a.toNat) o.pre
        (Chk.joinAll (c.lanes.map (fun l => texStops s k l (desc l) [p l]))).bind (fun _ =>
          .ok (s.commit c o.la.toNat (vGrp o.d 5) (c.lanes.map (fun l =>
            let r := texel s k w l (desc l) (p l)
            (l, texWrites o.d r.1 (if r.2 then 1 else 0))))))))

/-- The value of texq's selector (R366). -/
def texqVal (d : TexDesc) (sel : Nat) : Nat :=
  match sel with
  | 0 => d.width
  | 1 => d.height
  | 2 => d.fmt
  | 3 => if d.tiled then d.tilesX else 0
  | _ => if d.tiled then d.tilesY else 0

/-- texq (R366). -/
def execTexq (o : SOp) : State → Out :=
  kernelOp (.texq o) (fun c t w s =>
    withTexDesc s (s.ctxOf t) w c.lanes o.b (fun desc =>
      .ok (s.commit c o.la.toNat (vGrp o.d 1) (c.lanes.map (fun l =>
        (l, [(Reg.v o.d.toNat, BitVec.ofNat 32 (texqVal (desc l) o.a.toNat))]))))))

/-- The words and bits that texfb sets in a lane (R366): (address, bit) for every tile that tex would touch. -/
def texfbBits (d : TexDesc) (u v : Word) : List (Nat × Nat) :=
  if d.fbmap = 0 ∨ !d.tiled then []
  else
    match texSample d u v with
    | .at ts _ _ => ((ts.map d.tileOf).foldl (fun acc n => if acc.contains n then acc else acc ++ [n]) []).map
        (fun n => ((d.fbmap + 4 * (n / 32)) % 18446744073709551616, n % 32))
    | _ => []

/-- texfb (R366): the bits are set as red.g.or sets them (R203). -/
def execTexfb (o : SOp) : State → Out :=
  kernelOp (.texfb o) (fun c t w s =>
    let k := s.ctxOf t
    withTexDesc s k w c.lanes o.b (fun desc =>
      let acts := c.lanes.flatMap (fun l =>
        (texfbBits (desc l) ((w.thr l).rv o.a.toNat) ((w.thr l).rv (o.a.toNat + 1))).map (fun b => (l, b)))
      (s.check t k .g .write 4 (acts.map (fun a => (a.1, a.2.1)))).bind (fun ls =>
        let ops : List AtomOp := (ls.zip acts).map (fun p =>
          { kind := 7, loc := p.1.2, x := BitVec.ofNat 32 (2 ^ p.2.2.2), lane := p.1.1 })
        if k.det then .ok (s.hold c (.reds ops .chip Space.g.code))
        else .ok (s.atomics c .g (.core t.core) t.grid false ops).2)))

end Sys2Proof.Machine
end

