-- ==== Sys2Proof/Machine/Raster.lean ====
section
/-! DEFINITION. The raster pipeline (R355 to R363, R367, R368): emission, coverage and interpolation, pixel teams, the pixel
back end and pixel locks. -/

namespace Sys2Proof.Machine

/-! ## Coverage and interpolation (R358) -/

/-- A point with exact coordinates. -/
structure Pt where
  x : Rat
  y : Rat

/-- E(a, b, p). -/
def edge (a b p : Pt) : Rat := (b.x - a.x) * (p.y - a.y) - (b.y - a.y) * (p.x - a.x)

/-- Whether an edge takes in the points on it. -/
def edgeIncl (a b : Pt) : Bool := decide (b.y - a.y < 0) || (b.y == a.y && decide (b.x - a.x < 0))

/-- A triangle set up: its corners in order, its area A > 0, and whether it faces front. -/
structure Tri where
  v0 : Vertex
  v1 : Vertex
  v2 : Vertex
  area : Rat
  front : Bool

def Vertex.coord (v : Vertex) (i : Nat) : Num := value .f32 (v.pos.getD i 0).toNat
def Vertex.pt (v : Vertex) : Pt := ⟨(v.coord 0).rat, (v.coord 1).rat⟩
def numFinite : Num → Bool
  | .fin _ _ => true
  | _ => false

/-- Sets a primitive up; none where it covers no pixel. -/
def triOf (vs : List Vertex) : Option Tri :=
  match vs with
  | [a, b, c] =>
    if ! [a, b, c].all (fun v => numFinite (v.coord 0) && numFinite (v.coord 1)) then none
    else
      let n := edge a.pt b.pt c.pt
      if n == 0 then none else if n < 0 then some ⟨a, c, b, -n, false⟩ else some ⟨a, b, c, n, true⟩
  | _ => none

/-- l0, l1 and l2 of a pixel. -/
def Tri.weights (t : Tri) (x y : Nat) : Rat × Rat × Rat :=
  let p : Pt := ⟨(x : Rat) + 1 / 2, (y : Rat) + 1 / 2⟩
  (edge t.v1.pt t.v2.pt p, edge t.v2.pt t.v0.pt p, edge t.v0.pt t.v1.pt p)

def Tri.covers (t : Tri) (x y : Nat) : Bool :=
  let w := t.weights x y
  let within (l : Rat) (a b : Vertex) : Bool := decide (0 < l) || (l == 0 && edgeIncl a.pt b.pt)
  within w.1 t.v1 t.v2 && within w.2.1 t.v2 t.v0 && within w.2.2 t.v0 t.v1

/-- An interpolated component from the corners' values. -/
def Tri.interp (t : Tri) (x y : Nat) (c0 c1 c2 : Word) : Word :=
  let w := t.weights x y
  let vals := [value .f32 c0.toNat, value .f32 c1.toNat, value .f32 c2.toNat]
  if !vals.all numFinite then 0x7FC00000
  else
    let s := sumNum .rne ((([w.1, w.2.1, w.2.2].map (fun l => Num.ofRat l false)).zip vals).map (fun p => (mulNum p.1 p.2).1))
    match s with
    | .fin n m => BitVec.ofNat 32 (rne (.fin n (m / t.area)))
    | _ => 0x7FC00000

/-- Interpolated depth. -/
def Tri.z (t : Tri) (x y : Nat) : Word := t.interp x y (t.v0.pos.getD 2 0) (t.v1.pos.getD 2 0) (t.v2.pos.getD 2 0)

/-- Integers from the floor of the least to the ceiling of the greatest, within [0, n). -/
def span (n : Nat) (a b c : Rat) : List Nat :=
  let lo := (min a (min b c)).floor.toNat
  let hi := (max a (max b c)).floor.toNat + 1
  (List.range (min hi n - min lo n)).map (fun i => lo + i)

/-- Covered pixels of a triangle in ascending y, then x. -/
def Tri.pixels (t : Tri) (width height : Nat) : List (Nat × Nat) :=
  (span height t.v0.pt.y t.v1.pt.y t.v2.pt.y).flatMap (fun y =>
    ((span width t.v0.pt.x t.v1.pt.x t.v2.pt.x).filter (fun x => t.covers x y)).map (fun x => (x, y)))

/-! ## Passes (R355, R356) -/

def Pass.binsX (p : Pass) : Nat := (p.width + 63) / 64
def Pass.binsY (p : Pass) : Nat := (p.height + 63) / 64
/-- The bin of a pixel (R356). -/
def Pass.binOf (p : Pass) (q : Nat × Nat) : Nat := q.1 / 64 + q.2 / 64 * p.binsX
/-- The cluster that owns a bin. -/
def Pass.owner (p : Pass) (b : Nat) : Nat := p.clusters.getD (b % max p.clusters.length 1) 0
/-- Bits [hi:lo] of STATE. -/
def Pass.bits (p : Pass) (hi lo : Nat) : Nat := p.state.toNat / 2 ^ lo % 2 ^ (hi - lo + 1)

/-- Whether rasterisation waits for the end of the geometry grid; a pass in deterministic mode is binned (R356, R368). -/
def Pass.binned (p : Pass) : Bool :=
  p.ctx.det || p.bits 1 0 == 1 || (p.bits 1 0 == 2 && decide (2097152 < p.width * p.height))

/-- Pixels cut into teams of n (R359). -/
def chunks {α : Type} (n : Nat) : Nat → List α → List (List α)
  | 0, _ => []
  | fuel + 1, xs => if xs.isEmpty then [] else xs.take n :: chunks n fuel (xs.drop n)

/-- The bins in which pixels lie, ascending. -/
def Pass.binsOf (p : Pass) (ps : List (Nat × Nat)) : List Nat :=
  ((ps.map p.binOf).eraseDups).mergeSort (fun a b => decide (a ≤ b))

/-- A primitive rasterised: its pixels are to be resolved, its pixel teams to be instantiated (R359, R361). -/
def Pass.rasterise (p : Pass) (key : List Nat) : Pass :=
  match p.prims.find? (fun q => q.key == key && !q.done) with
  | none => p
  | some q =>
    let px := match triOf q.v with
      | none => []
      | some t => t.pixels p.width p.height
    let bins := p.binsOf px
    { p with
      prims := p.prims.map (fun r => if r.key == key then { r with done := true } else r)
      pixels := p.pixels ++ px.map (fun c => { key := key, x := c.1, y := c.2, z := ((triOf q.v).map (fun t => t.z c.1 c.2)).getD 0 })
      jobs := p.jobs ++ bins.flatMap (fun b =>
        (chunks (max p.pixel.threads 1) px.length (px.filter (fun c => p.binOf c == b))).map (fun cs =>
          { pass := p.id, bin := b, key := key, pixels := cs })) }

/-- An emitted primitive: rasterised at once in immediate mode, and in a binned pass that has passed its pairs (R356). -/
def Pass.emit (p : Pass) (q : Prim) : Pass :=
  let p1 : Pass := { p with prims := p.prims ++ [q] }
  if !p.binned then p1.rasterise q.key
  else
    let n := match triOf q.v with
      | none => 0
      | some t => (p.binsOf (t.pixels p.width p.height)).length
    let p2 : Pass := { p1 with pairs := p1.pairs + n }
    if 16777216 < p2.pairs && !p.ctx.det then p2.rasterise q.key else p2

/-! ## Emission (R357, R362, R367) -/

/-- The raster fault with a detail (R367). -/
def rasterFault (d lane : Nat) : KOut := .halt { cause := 12, detail := d, lane := lane }

/-- emitv (R362). -/
def execEmitv (o : SOp) : State → Out :=
  kernelOp (.emitv o) (fun c t w s =>
    if t.desc.kind ≠ 1 then rasterFault 1 (minOf c.lanes)
    else if 1024 < w.verts.length + c.lanes.length then rasterFault 2 (c.lanes.getD (1024 - w.verts.length) 0)
    else
      let vs := c.lanes.map (fun l =>
        ({ pos := (quadOf (w.thr l) o.a).take 3, attr := quadOf (w.thr l) o.b } : Vertex))
      .ok ((s.updWarp c.team c.warp (fun v => { v with verts := v.verts ++ vs })).writeLanes c
        (c.lanes.mapIdx (fun i l => (l, [(Reg.v o.d.toNat, BitVec.ofNat 32 (w.verts.length + i))])))))

/-- The primitive of a lane. -/
def primOf (t : Team) (w : Warp) (o : SOp) (n l : Nat) : Prim :=
  let q := quadOf (w.thr l) o.a
  { key := [t.index, w.idx, n], v := (q.take 3).map (fun i => w.verts.getD i.toNat {}), pid := q.getD 3 0 }

/-- emitp (R362). -/
def execEmitp (o : SOp) : State → Out :=
  kernelOp (.emitp o) (fun c t w s =>
    if t.desc.kind ≠ 1 then rasterFault 1 (minOf c.lanes)
    else if 65536 < w.prims + c.lanes.length then rasterFault 2 (c.lanes.getD (65536 - w.prims) 0)
    else
      match c.lanes.find? (fun l => ((quadOf (w.thr l) o.a).take 3).any (fun i => decide (w.verts.length ≤ i.toNat))) with
      | some l => rasterFault 3 l
      | none =>
        let ps := c.lanes.mapIdx (fun i l => primOf t w o (w.prims + i) l)
        let s1 := s.updWarp c.team c.warp (fun v => { v with prims := v.prims + c.lanes.length })
        match (s.grid? t.grid).bind Grid.pass with
        | none => .ok s1
        | some p => .ok (s1.updPass p (fun x => ps.foldl Pass.emit x)))

/-! ## Primitive order (R354, R359) -/

/-- Whether no primitive with a key below the given one can still come: every warp before it has finished. -/
def State.settled (s : State) (p : Pass) (key : List Nat) : Bool :=
  let before (t : Team) (w : Warp) : Bool := lexLt [t.index, w.idx] (key.take 2)
  p.prims.all (fun q => q.done || !lexLt q.key key) &&
    s.grids.all (fun g => g.pass != some p.id || g.id == p.grid ||
      (s.teams.all (fun t => t.grid != g.id || t.warps.all (fun w => !before t w || w.threads.all (fun th => !th.live || th.exited))) &&
        s.waves.all (fun w => w.grid != g.id || (List.range w.count).all (fun i =>
          decide (key.headD 0 ≤ w.first + i) || w.taken.contains (w.first + i)))))

/-! ## Pixel teams (R359, R360) -/

/-- The input records of a team's threads (R360). -/
def Pass.records (p : Pass) (j : PixelJob) (threads : Nat) : List Byte :=
  (List.range threads).flatMap (fun i =>
    match j.pixels[i]?, p.prims.find? (fun q => q.key == j.key) with
    | some (x, y), some q =>
      match triOf q.v with
      | none => List.replicate 32 0
      | some t =>
        leBytes 2 x ++ leBytes 2 y ++ wordBytes q.pid ++ wordBytes (t.z x y) ++ leBytes 4 (1 + 2 * t.front.toNat) ++
          (List.range 4).flatMap (fun a => wordBytes (t.interp x y (t.v0.attr.getD a 0) (t.v1.attr.getD a 0) (t.v2.attr.getD a 0)))
    | _, _ => List.replicate 32 0)

/-- A pixel team instantiated on a core. -/
def State.newPixelTeam (s : State) (p : Pass) (g : Grid) (j : PixelJob) (core : Nat) (ps : List WPlace) : State :=
  let r := s.fresh
  let d := g.desc
  let ws := atLoc (locScr r.1 0) (p.records j d.threads)
  let s1 := ({ r.2 with freeCtr := r.2.freeCtr + 1 } : State).wr { party := .core core, grid := some g.id } ws
  let v := moveView (s.startView g) (serials r.2.nextSer ws)
  let t : Team :=
    { id := r.1, grid := g.id, wave := g.id, index := j.bin, pos := g.placed, core := core,
      handle := (lowestFree 128 (s.usedHandles core)).getD 0, desc := d, args := g.args,
      warps := newWarps d g.args ps (giveSlots d.warp (s.usedSlots core) ps) v 0 s.tick,
      ranges := List.replicate 8 none, job := some j }
  { s1 with teams := s1.teams ++ [t] }.updGrid g.id (fun x => { x with placed := x.placed + 1, started := x.started + 1 })

/-- The cores of a bin's owner that take a team of the pixel grid, with the warps' places; its cluster allocation stands there
already, or fits (R44). -/
def State.pixelCores (s : State) (p : Pass) (g : Grid) (b : Nat) : List (Nat × List WPlace) :=
  let q := p.owner b
  let held := g.desc.cluster == 0 || (s.pixelLends q).any (fun x => x.id == g.id)
  if !held && !s.clusterFits g.desc.cluster q then []
  else
    ((List.range 4).map (fun i => 4 * q + i)).filterMap (fun c =>
      if s.coreOn c && s.coreAllowed p.ctx.region c [] then (((s.useFor g.desc held c).addTeam g.desc).map (fun r => (c, r.2)))
      else none)

/-- The pixel teams that may be instantiated: in deterministic mode the next of the window, else the first of each bin in
primitive order, once no earlier primitive can come. -/
def State.pixelNext (s : State) (p : Pass) (g : Grid) : List PixelJob :=
  if p.ctx.det then (if g.placed < g.nextSeq then (p.jobs[g.placed]?).toList else [])
  else p.jobs.filter (fun j => s.settled p j.key && p.jobs.all (fun k => k.bin != j.bin || !lexLt k.key j.key))

/-- Instantiates the first team that finds room. -/
def State.placePixels (s : State) (p : Pass) : Option State :=
  match s.grid? p.grid with
  | none => none
  | some g =>
    if g.stopped then none else
    (s.pixelNext p g).findSome? (fun j => (s.pixelCores p g j.bin).head?.map (fun c =>
      let s1 := s.newPixelTeam p g j c.1 c.2
      (if p.ctx.det then s1 else s1.updPass p.id (fun x => { x with jobs := x.jobs.erase j })).notePlaceable g.task.seq))

/-- Order of jobs by bin and key (R368). -/
def jobLe (a b : PixelJob) : Bool := !lexLt (b.bin :: b.key) (a.bin :: a.key)

/-- BINNED_RASTERISATION (R356, R368). -/
def execBinnedRasterisation (s : State) : Out :=
  match s.arg with
  | .idx id =>
    match s.pass? id with
    | none => .next s
    | some p =>
      if !p.geomEnded || p.prims.all Prim.done then .next s
      else
        let p1 := (p.prims.map Prim.key).foldl Pass.rasterise p
        let p2 : Pass := { p1 with jobs := p1.jobs.mergeSort jobLe }
        let s1 := s.updPass id (fun _ => p2)
        .next (if !p.ctx.det then s1 else s1.updGrid p.grid (fun g =>
          let n := p2.jobs.length
          { g with nWaves := n, waveSize := 1, slots := (List.range g.wd).map (fun i => if i < n then some i else none), nextSeq := min n g.wd }))
  | _ => .next s

/-! ## The back end (R361) -/

/-- DFUNC and SFUNC codes over an order: less, equal. -/
def testFn (code : Nat) (lt eq gt : Bool) : Bool :=
  match code with
  | 0 => false | 1 => lt | 2 => eq | 3 => lt || eq | 4 => gt | 5 => !eq | 6 => gt || eq | _ => true

/-- DFUNC(z, stored), as fcmp compares (R122). -/
def depthTest (code : Nat) (z d : Word) : Bool :=
  let a := value .f32 z.toNat
  let b := value .f32 d.toNat
  testFn code (ltNum a b) (eqNum a b) (ltNum b a)

/-- SFUNC(SREF, stored). -/
def stencilTest (code r v : Nat) : Bool := testFn code (decide (r < v)) (decide (r = v)) (decide (v < r))

/-- SOP. -/
def stencilOp (code r v : Nat) : Nat :=
  match code with
  | 0 => v | 1 => 0 | 2 => r | 3 => min (v + 1) 255 | 4 => v - 1 | 5 => 255 - v | 6 => (v + 1) % 256 | _ => (v + 255) % 256

/-- One blended component: source, stored value, source alpha. -/
def blendOne (code : Nat) (sc dc a : Word) : Word :=
  let x := value .f32 sc.toNat
  let y := value .f32 dc.toNat
  let al := value .f32 a.toNat
  match code with
  | 0 => sc
  | 1 =>
    let p := f32Exact (mulNum x al)
    let q := f32Exact (mulNum y (f32Sub (.fin false 1) al))
    BitVec.ofNat 32 (encodeNum .f32 (f32Add p q))
  | 2 => BitVec.ofNat 32 (encodeNum .f32 (f32Add x y))
  | 3 => BitVec.ofNat 32 (fminNum .f32 x y).1
  | _ => BitVec.ofNat 32 (fmaxNum .f32 x y).1
where
  /-- An exact product; an invalid one is a NaN. -/
  f32Exact (r : Num × Bool) : Num := if r.2 then .nan false else r.1

/-- Bytes of a colour pixel. -/
def Pass.pixBytes (p : Pass) : Nat := if p.bits 3 2 = 0 then 4 else if p.bits 3 2 = 1 then 8 else 16

/-- A stored pixel as four f32 components. -/
def Pass.decode (p : Pass) (bs : List Byte) : List Word :=
  match p.bits 3 2 with
  | 0 => (List.range 4).map (fun i => pixDecode .full 8 false (fieldOf bs i 1))
  | 1 => (List.range 4).map (fun i => BitVec.ofNat 32 (encodeNum .f32 (value .f16 (fieldOf bs (2 * i) 2))))
  | _ => wordsOfBytes 4 bs

/-- Four components as a stored pixel. -/
def Pass.encode (p : Pass) (ws : List Word) : List Byte :=
  match p.bits 3 2 with
  | 0 => ws.flatMap (fun w => leBytes 1 (pixEncode .full 8 false w))
  | 1 => ws.flatMap (fun w => leBytes 2 (roundF (value .f32 w.toNat) .f16 .rne false false).1)
  | _ => ws.flatMap wordBytes

/-- Whether both tests pass over the stored depth and stencil; of a pass without them they do. -/
def Pass.tests (p : Pass) (z : Word) (st : List Byte) : Bool :=
  p.ds == 0 || ((p.bits 17 17 != 1 || stencilTest (p.bits 20 18) (p.bits 31 24) (fieldOf st 4 1)) &&
    depthTest (p.bits 15 13) z (wordOfBytes st))

/-- The depth and stencil written at an address once both tests pass. -/
def Pass.dsWrites (p : Pass) (z : Word) (st : List Byte) (a : Nat) : List (Nat × List Byte) :=
  (if p.bits 16 16 = 1 then [(a, wordBytes z)] else []) ++
    (if p.bits 17 17 = 1 then [(a + 4, leBytes 1 (stencilOp (p.bits 23 21) (p.bits 31 24) (fieldOf st 4 1)))] else [])

/-- The stored pixel with a colour blended over it. -/
def Pass.blended (p : Pass) (colour : List Word) (old : List Byte) : List Byte :=
  let o := p.decode old
  p.encode ((List.range 4).map (fun i => blendOne (p.bits 12 10) (colour.getD i 0) (o.getD i 0) (colour.getD 3 0)))

/-- The writes of a resolution with a colour, or what stops the back end. It reads a target only where what it writes depends on
it, and translates for a write only what it writes. -/
def State.backEnd (s : State) (p : Pass) (r : PixRes) (colour : List Word) : Except EngAt (List (Nat × Byte)) :=
  let ca := p.color + r.y * p.cpitch + r.x * p.pixBytes
  let da := p.ds + r.y * p.dpitch + 8 * r.x
  match (if p.ds = 0 then .ok [] else s.taskRead p.ctx da 5) with
  | .error e => .error e
  | .ok st =>
    if !p.tests r.z st then .ok []
    else
      match (if p.bits 12 10 = 0 then .ok [] else s.taskRead p.ctx ca p.pixBytes) with
      | .error e => .error e
      | .ok old => s.taskWrites p.ctx (p.dsWrites r.z st da ++ [(ca, p.blended colour old)])

/-- What applying a resolution comes to: the state after it, or a state in which it waits. -/
inductive Resolved where
  | done (s : State)
  | wait (s : State)

/-- The resolution of a pixel marked applied, with the writes of its owner's back end (R356), which its later locks take
in (R363). -/
def State.markApplied (s : State) (p : Pass) (r : PixRes) (ws : List (Nat × Byte)) : State :=
  let P : Party := .raster (p.owner (p.binOf (r.x, r.y)))
  let pubs := (serials s.nextSer ws).map (fun q =>
    (r.x, r.y, ({ scope := .cluster, party := P, loc := q.1, ser := q.2, writer := P } : Publ)))
  (s.wr { party := P } ws).updPass p.id (fun x => { x with
    pixels := x.pixels.map (fun q => if q.is r.key r.x r.y then { q with applied := true } else q),
    lockPubs := x.lockPubs ++ pubs })

/-- A target byte that the back end cannot reach or read: an ENGINE record, and the task fails (R408, R421; log entry 42). -/
def State.backEndBad (s : State) (p : Pass) (r : PixRes) (cause fault : Nat) : State :=
  ((s.markApplied p r []).taskErr p.ctx cause).updEntry p.seq (fun e =>
    { e with fault := if e.fault.isSome then e.fault else some (fault, 1) })

/-- Applies one resolved pixel (R361). -/
def State.applyPixel (s : State) (p : Pass) (r : PixRes) : Resolved :=
  match r.colour with
  | none => .wait s
  | some none => .done (s.markApplied p r [])
  | some (some col) =>
    match s.backEnd p r col with
    | .ok ws => .done (s.markApplied p r ws)
    | .error (.page n) => .wait (s.stall p.id p.ctx.region n)
    | .error (.err l) => .done ((s.memErr p.seq l).backEndBad p r 4 tfMemory)
    | .error _ => .done (s.backEndBad p r 1 tfEngine)

/-- The least unapplied resolution of a position. -/
def Pass.nextAt (p : Pass) (x y : Nat) : Option PixRes :=
  ((p.pixels.filter (fun r => r.x == x && r.y == y && !r.applied)).mergeSort (fun a b => !lexLt b.key a.key)).head?

/-- The back end applies the resolutions of a position in primitive order, as far as they have come. -/
def State.applyAt (s : State) (pid x y : Nat) : Nat → State
  | 0 => s
  | n + 1 =>
    match s.pass? pid with
    | none => s
    | some p =>
      match p.nextAt x y with
      | none => s
      | some r =>
        if r.colour.isNone || !s.settled p r.key then s
        else
          match s.applyPixel p r with
          | .wait s1 => s1
          | .done s1 => s1.applyAt pid x y n

/-- PIXEL_RESOLUTION (R361). -/
def execPixelResolution (s : State) : Out :=
  match s.arg with
  | .idx3 pid x y => .next (s.applyAt pid x y 1)
  | _ => .next s

/-! ## pixout, discard and the pixel locks (R362, R363) -/

/-- The lanes of the group that have a pixel. -/
def pixLanes (t : Team) (w : Warp) (lanes : List Nat) : List Nat := lanes.filter (fun l => (t.pixelAt w l).isSome)

/-- pixout (R362). -/
def execPixout (o : SOp) : State → Out :=
  kernelOp (.pixout o) (fun c t w s =>
    if t.desc.kind ≠ 2 then rasterFault 1 (minOf c.lanes)
    else
      let k := s.ctxOf t
      match (pixLanes t w c.lanes).find? (fun l => (w.thr l).pixDone) with
      | some l => rasterFault 4 l
      | none => .ok ((pixLanes t w c.lanes).foldl (fun a l => a.resolveLane c t w k l (some (quadOf (w.thr l) o.a))) s))

/-- discard (R362): the thread then exits as exit does. -/
def execDiscard (o : SOp) : State → Out :=
  kernelOp (.discard o) (fun c t w s =>
    if t.desc.kind ≠ 2 then rasterFault 1 (minOf c.lanes) else .ok (s.exitLanes c t w (s.ctxOf t) c.lanes))

/-- Grants a pixel lock to a lane, once every earlier primitive's pixel there is resolved and free; the back end catches up
first (R363). -/
def State.grant (s : State) (t : Team) (wi : Nat) (w : Warp) (l : Nat) : Option State :=
  match t.pixelAt w l with
  | none => none
  | some (j, x, y) =>
    let s1 := s.applyAt j.pass x y 65536
    match s1.pass? j.pass with
    | none => none
    | some p =>
      if !s1.settled p j.key ||
          p.pixels.any (fun r => r.x == x && r.y == y && lexLt r.key j.key && (!r.applied || r.holder.isSome)) then none
      else
        let s2 := s1.updPass j.pass (fun q => { q with pixels := q.pixels.map (fun r =>
          if r.is j.key x y then { r with holder := some (t.id, wi, l) } else r) })
        let back := (p.lockPubs.filter (fun q => q.1 == x && q.2.1 == y)).map (fun q => (q.2.2.loc, q.2.2.ser))
        let det := (s.ctxOf t).det
        some (s2.updThr t.id wi l (fun th =>
          let th1 := if det then th else s2.acquire (.core t.core) { scope := .cluster } th
          { th1 with pixLock := true, view := moveView th1.view back }))

/-- Whether a thread woke from a wait for a pixel lock, which it then holds. -/
def Thread.granted (th : Thread) : Bool :=
  match th.wait with
  | some x =>
    match x.on with
    | .pixel _ _ => x.woken == some true
    | _ => false
  | none => false

/-- pixlock (R362, R363): lanes that are not granted wait. -/
def execPixlock (o : SOp) : State → Out :=
  kernelOp (.pixlock o) (fun c t w s =>
    let granted (l : Nat) : Bool := (w.thr l).granted
    if t.desc.kind ≠ 2 then rasterFault 1 (minOf c.lanes)
    else
      match (pixLanes t w c.lanes).find? (fun l => (w.thr l).pixLock && !granted l) with
      | some l => rasterFault 4 l
      | none =>
        .ok ((pixLanes t w c.lanes).foldl (fun a l =>
          if granted l then a
          else
            match a.grant t c.warp w l, t.pixelAt w l with
            | some b, _ => b
            | none, some (_, x, y) => a.park c [l] (.pixel x y)
            | none, none => a) s))

/-- PIXLOCK_GRANT (R363): a waiting lane gets its lock. -/
def execPixlockGrant (s : State) : Out :=
  match s.arg with
  | .idx3 ti wi l =>
    match s.team? ti, s.warp? ti wi with
    | some t, some w =>
      match (w.thr l).wait with
      | some x =>
        if x.woken.isSome then .next s
        else
          match x.on, s.grant t wi w l with
          | .pixel _ _, some s1 =>
            .next (s1.updThr ti wi l (fun th => th.wake s.tick (s.ctxOf t).det (fun _ => true) true))
          | _, _ => .next s
      | none => .next s
    | _, _ => .next s
  | _ => .next s

/-- pixunlock (R362, R363). -/
def execPixunlock (o : SOp) : State → Out :=
  kernelOp (.pixunlock o) (fun c t w s =>
    if t.desc.kind ≠ 2 then rasterFault 1 (minOf c.lanes)
    else
      match (pixLanes t w c.lanes).find? (fun l => !(w.thr l).pixLock) with
      | some l => rasterFault 4 l
      | none => .ok ((pixLanes t w c.lanes).foldl (fun a l => a.unlockLane c t w (s.ctxOf t) l) s))

/-! ## The end of a pass (R368) -/

/-- PASS_COMPLETE (R368): every resolution is applied and every pixel team has ended; the back end's writes and the pixel
grid's are published at chip scope. -/
def execPassComplete (s : State) : Out :=
  match s.arg with
  | .idx id =>
    match s.pass? id with
    | none => .next s
    | some p =>
      match s.grid? p.grid with
      | none => .next s
      | some g =>
        let left := if p.ctx.det then decide (g.placed < p.jobs.length) else !p.jobs.isEmpty
        if !p.geomEnded || !p.prims.all Prim.done || left || s.teams.any (fun t => t.grid == g.id) ||
            !p.pixels.all PixRes.applied then .next s
        else
          let s1 := (s.flushReds g g.reds).publishGrid g.id
          let s2 := s1.publish .chip .unit (p.lockPubs.map (fun q => (q.2.2.loc, q.2.2.ser)))
          .next { s2 with passes := s2.passes.filter (fun x => x.id != id), grids := s2.grids.filter (fun x => x.id != g.id) }
  | _ => .next s

end Sys2Proof.Machine
end

