-- ==== Sys2Proof/Machine/Issue.lean ====
section
/-! DEFINITION. Tasks that issue and complete: readiness (R297, R301, R319, R37), what each task does when it issues, and its
completion (R279, R283, R287 to R289, R302, R329). -/

namespace Sys2Proof.Machine

/-! ## Readiness (R37, R297, R301, R319) -/

/-- The slot condition of R319: the instance that the task is bound to has opened. -/
def Entry.slotOpen (e : Entry) (now : Nat) : Bool :=
  match e.slot with
  | none => true
  | some b =>
    match b.inst with
    | none => false
    | some i => decide (i.1 ≤ now)

/-- Whether a task may issue. Work tasks wait while their region's effective CORES is 0 (R37); none of a domain
issues while it is being killed (R419). -/
def State.taskReady (s : State) (e : Entry) : Bool :=
  !e.issued && !e.done && !s.rcv.kills.any (fun x => x.1 == s.fdomOf e.ctx.region) && e.deps.isEmpty && e.slotOpen s.ptime &&
    (e.ctx.pure || (s.win.older e.seq).all (fun x => x.done && x.fault.isNone)) &&
    ((e.task.opcode != 0x10 && e.task.opcode != 0x11) || decide (0 < s.coreBudget e.ctx.region))

/-- The order of R301: earliest deadline, none last, then lowest sequence number. -/
def Entry.issueKey (e : Entry) : List Nat := [if e.ctx.deadline.isSome then 0 else 1, e.ctx.deadline.getD 0, e.seq]

def State.readyTasks (s : State) : List Entry :=
  (s.win.entries.filter s.taskReady).mergeSort (fun a b => !lexLt b.issueKey a.issueKey)

/-! ## Issue -/

/-- The issue of a task bound to frame n (R258), after the deadline row of a deadline before this clock: OPEN goes to RENDERING. -/
def State.boundIssue (s : State) (n : Nat) : State :=
  if s.frameDone n then s
  else
    let a := if s.frameDl n < s.ptime then s.frameLateRow n else s
    if a.frameSt n == fsOpen then a.frameGo n fsRendering 0 0 [] else a

/-- What the issue of every task does: its launch timestamp (R131), its domain's log (R407), what a bound task's issue
does to its frame (R258), and the operating point (R321). -/
def State.beginTask (s : State) (e : Entry) : State :=
  let f := s.fdomOf e.ctx.region
  let s1 := { s with rcv := { s.rcv with logged := KV.put (0, 0) f (s.logRing f) s.rcv.logged } }.updEntry e.seq (fun x =>
    { x with issued := true, issuedAt := s.now, ctx := x.ctx.atIssue s })
  let s2 : State := { s1 with colls := s1.colls.map (fun c => if c.seq == e.seq then { c with ctx := { c.ctx with launch := s.ptime } } else c) }
  let s3 := match e.ctx.frame with
    | some n => if isBound e.task then s2.boundIssue n else s2
    | none => s2
  s3.reOp

/-- What the read of a descriptor at issue comes to. -/
inductive TaskDesc where
  | ok (d : KDesc) (valid : Bool)
  | wait (s : State)
  | err (s : State)

/-- A kernel descriptor that a task names (R280, R293): misaligned, in the aperture or on a forbidden page, it is not
valid. -/
def State.taskDesc (s : State) (k : TaskCtx) (va : Nat) : TaskDesc :=
  if va % 128 ≠ 0 ∨ inAperture va then .ok {} false
  else
    match s.trRegion k.region va .read with
    | .bad _ => .ok {} false
    | .err l => .err (s.memErr k.seq l)
    | .page e lvl x => .wait (s.stall (taskKey k.seq) k.region { va := va, entry := e, lvl := lvl, e := x, kind := 4 })
    | .ok pa =>
      match (locRange (locPhys pa) 128).find? (fun l => s.bad.contains (l / 64 * 64)) with
      | some l => .err (s.memErr k.seq l)
      | none =>
        let bs := (locRange (locPhys pa) 128).map (s.rdUnit .system)
        .ok (descOf va bs) (descOk (descOf va bs) bs)

/-- Completes a task that issues with BAD_LAUNCH. -/
def State.badLaunch (s : State) (e : Entry) : State := s.complete e.seq (some (tfLaunch, 0))

/-- A new grid of a task enters the scheduler (R309). -/
def State.addGrid (s : State) (g : Grid) : State := { s with grids := s.grids ++ [g] }

/-- t.kern issues (R280, R309, R329). -/
def State.issueKern (s : State) (e : Entry) : State :=
  match s.taskDesc e.ctx (fieldOf e.block 0 8) with
  | .wait s1 => s1
  | .err s1 => (s1.beginTask e).complete e.seq none
  | .ok d valid =>
    let s1 := s.beginTask e
    let k := e.ctx.atIssue s
    let gx := fieldOf e.block 8 4
    let gy := fieldOf e.block 0xC 2
    let gz := fieldOf e.block 0xE 2
    let c := s.coreBudget k.region
    if !valid || d.kind != 0 || !dimsOk d gx gy gz || waveSizeOf d c == 0 || (k.det && (windowOf d c == 0 || d.persist)) then
      s1.badLaunch e
    else
      let r := s1.fresh
      let g : Grid := { mkGrid r.1 k d e.task.pb.toNat gx gy gz (waveSizeOf d c) (windowOf d c) with mark := s1.nextSer }
      ((r.2.addGrid g).updEntry e.seq (fun x => { x with waves := g.nWaves, grid := some g.id })).notePlaceable e.seq

/-- Clusters that a pass gets (R356): as many as its region's cores fill, the first enabled ones (DESIGN CHOICE; log entry 51). -/
def State.passClusters (s : State) (cores : Nat) : List Nat :=
  ((List.range Config.clusters).filter s.clusterOn).take (max 1 (cores / 4))

/-- t.draw issues (R355, R356). PERSIST asks nothing of a pass (R329). -/
def State.issueDraw (s : State) (e : Entry) : State :=
  match s.taskDesc e.ctx (fieldOf e.block 0 8), s.taskDesc e.ctx (fieldOf e.block 8 8) with
  | .wait s1, _ => s1
  | .err s1, _ => (s1.beginTask e).complete e.seq none
  | _, .wait s1 => s1
  | _, .err s1 => (s1.beginTask e).complete e.seq none
  | .ok d valid, .ok px pvalid =>
    let s1 := s.beginTask e
    let k := e.ctx.atIssue s
    let f (o n : Nat) : Nat := fieldOf e.block o n
    let gx := f 0x10 4
    let c := s.coreBudget k.region
    if !valid || !pvalid || d.kind != 1 || px.kind != 2 || px.gangX != 0 || decide (px.scratch < 32 * px.threads) ||
        !dimsOk d gx 1 1 || waveSizeOf d c == 0 || waveSizeOf px c == 0 ||
        (k.det && (windowOf d c == 0 || windowOf px c == 0)) then s1.badLaunch e
    else
      let p := s1.fresh
      let ga := p.2.fresh
      let gb := ga.2.fresh
      let x : Pass :=
        { id := p.1, seq := e.seq, ctx := k, pixel := px, args := e.task.pb.toNat, width := f 0x14 2, height := f 0x16 2,
          color := f 0x18 8, ds := f 0x20 8, cpitch := f 0x28 4, dpitch := f 0x2C 4, state := BitVec.ofNat 32 (f 0x30 4),
          clusters := s1.passClusters c, grid := gb.1 }
      let g : Grid := { mkGrid ga.1 k { d with persist := false } e.task.pb.toNat gx 1 1 (waveSizeOf d c) (windowOf d c) with pass := some p.1, mark := s.nextSer }
      let h : Grid := { id := gb.1, root := ga.1, task := k, desc := { px with persist := false }, args := e.task.pb.toNat, gx := x.binsX, gy := x.binsY, wd := windowOf px c,
                        pass := some p.1, mark := s.nextSer }
      let s2 : State := { gb.2 with passes := gb.2.passes ++ [x], grids := gb.2.grids ++ [g, h] }
      (s2.updEntry e.seq (fun y => { y with waves := g.nWaves, grid := some g.id, pass := some p.1 })).notePlaceable e.seq

/-- t.sig issues (R287): the release, the word, the interrupt. -/
def State.issueSig (s : State) (e : Entry) : State :=
  match s.tr e.ctx e.task.pa.toNat .write with
  | .page ea lvl x => s.stall (taskKey e.seq) e.ctx.region { va := e.task.pa.toNat, entry := ea, lvl := lvl, e := x, kind := 3 }
  | .bad _ => (s.beginTask e).complete e.seq (some (tfAccess, 1))
  | .err l => ((s.memErr e.seq l).beginTask e).complete e.seq (some (tfMemory, 0))
  | .ok pa =>
    let s1 := s.beginTask e
    let s2 := ((s1.publish .system .unit s1.issueView).wrPub .system .unit none (atLoc (locPhys pa) (dwordBytes e.task.pb))).unstall
      (taskKey e.seq)
    (if e.task.imm.getLsbD 31 then s2.irq (immBits e.task 7 0) else s2).complete e.seq none

/-- t.frame issues (R258, R289): its checks, then the OPEN update, and the deadline row when the deadline is past. -/
def State.issueFrame (s : State) (e : Entry) : State :=
  let s1 := s.beginTask e
  let f := e.ctx.frame.getD 0
  let st := fieldOf e.block 0xE 2
  if !s.frameDone f || !(st == 0xFFFF || (decide (64 ≤ st) && (s.stream? st).isSome)) then s1.complete e.seq (some (tfFrame, f))
  else
    let s2 := s1.frameWr f [(0, e.block), (0x30, leBytes 20 0)]
    let s3 : State := { s2 with frameReg := KV.put (0, 0) f (e.ctx.region, e.seq) s2.frameReg, firstOut := KV.del f s2.firstOut
                                win := { s2.win with tbarGone := s2.win.tbarGone.filter (fun x => x.2 != f) } }
    (if s3.frameDl f ≤ s3.ptime then s3.frameLateRow f else s3).complete e.seq none

/-- t.present issues (R258), after the deadline row of a deadline before this clock: READY, at which the frame's timed barriers arrive (R384). -/
def State.issuePresent (s : State) (e : Entry) : State :=
  let f := e.ctx.frame.getD 0
  let s0 := s.beginTask e
  let s1 := if s0.frameDl f < s0.ptime then s0.frameLateRow f else s0
  let open_ : Bool := s1.frameSt f == fsOpen || s1.frameSt f == fsRendering
  (if open_ then (s1.frameGo f fsReady 0 0 [(0x38, leBytes 8 s1.ptime)]).tbarFrame f true else s1).complete e.seq none

/-! ## t.stream (R261, R263, R289) -/

/-- Ports that a stream uses. -/
def streamPorts (bs : List Byte) : List Nat :=
  let p := fieldOf bs 0x16 1
  if p / 4 % 2 = 1 then [p % 4, p % 4 + 1] else [p % 4]

/-- A stream's rate in Gb/s, that is bits each ns; none where its period is 0. The spec does not say where a record holds the rate
of audio or ancillary data (log entry 152). -/
def streamRate (bs : List Byte) : Option Rat :=
  let sa := fieldOf bs 4 1
  if 3 ≤ sa then some ((Config.audioRate bs : Rat) / 1000000000)
  else if fieldOf bs 0x20 4 = 0 then none
  else some (((8 * lineBytes sa (fieldOf bs 5 1) (fieldOf bs 0 2) * fieldOf bs 2 2 * fieldOf bs 0x24 2 : Nat) : Rat) /
    ((fieldOf bs 0x20 4 : Nat) : Rat))

/-- An installed stream's record. -/
def State.streamBytes (s : State) (i : Nat) : List Byte := (locRange (locPhys (s.streamAddr i)) 128).map s.rdNew

/-- Whether a limit of R261 would be passed with a record installed as stream id: an audio format's, or the 100 Gb/s of a port. -/
def State.overLimit (s : State) (id : Nat) (bs : List Byte) : Bool :=
  (fieldOf bs 4 1 == 3 && Config.audioBeyond bs) || (streamPorts bs).any (fun p =>
    let all := bs :: ((s.streams.filter (fun m => m.id != id)).map (fun m => s.streamBytes m.id)).filter (fun r => (streamPorts r).contains p)
    all.any (fun r => (streamRate r).isNone) || decide ((100 : Rat) < all.foldl (fun a r => a + (streamRate r).getD 0) 0))

/-- Whether a stream register or an open frame names a stream (R289). -/
def State.streamBusy (s : State) (id : Nat) : Bool :=
  s.teams.any (fun t => t.warps.any (fun w => w.sq.any (fun b => b.2.any (fun x => x.stream == id)))) ||
    s.openFrames.any (fun f => s.frameStream f == id)

/-- Barrier objects of the record of a receive stream: one for each band, one for audio or ancillary data (R263, R266). -/
def bandCount (bs : List Byte) : Nat :=
  if 3 ≤ fieldOf bs 4 1 then 1 else fieldOf bs 2 2 / max (fieldOf bs 0x15 1) 1

def bandLoc (bs : List Byte) (i : Nat) : Nat := locChip (fieldOf bs 0x18 4 % 2 ^ 30 + 32 * i)

/-- A message of IGMP, which the house core sends (R18, R261). -/
def State.igmp (s : State) (m : OutMsg) : State := if s.houseUp then s.send m else s

/-- A stream removed: its band objects break, and its record no longer names a stream (R289). -/
def State.removeStream (s : State) (id : Nat) : State :=
  match s.stream? id with
  | none => s
  | some m =>
    let bs := s.streamBytes id
    let s1 := if id < 64 then ((List.range (bandCount bs)).foldl (fun a i => a.bandBreak m (bandLoc bs i)) s).igmp (.leave id) else s
    { (s1.streamWr id 0 (List.replicate 128 0)) with streams := s1.streams.filter (fun x => x.id != id) }

/-- The join of a receive stream that t.stream has installed, once the house core can send it; the task then completes (R289). -/
def State.joinTask (s : State) (e : Entry) : State :=
  if s.houseUp then (s.send (.join (immBits e.task 6 0))).complete e.seq none else s

/-- t.stream issues. -/
def State.issueStream (s : State) (e : Entry) : State :=
  let s1 := s.beginTask e
  let id := immBits e.task 6 0
  let own (i : Nat) : Bool := (s.chipProt e.ctx false (fieldOf e.block 0x18 4 % 2 ^ 30 + 32 * i) .write).isNone
  if s.streamBusy id then s1.complete e.seq (some (tfStreamBusy, id))
  else if immBits e.task 8 8 = 1 then (s1.removeStream id).complete e.seq none
  else if s.overLimit id e.block then s1.complete e.seq (some (tfStreamLimit, id))
  else if id < 64 ∧ !((List.range (bandCount e.block)).all own) then (s1.taskErr e.ctx 1).complete e.seq (some (tfEngine, 0))
  else
    let s2 := (s1.removeStream id).streamWr id 0 (e.block.take 0x28 ++ List.replicate 20 0 ++ e.block.drop 0x3C)
    let r := s2.free 16
    let s3 : State := { r.2 with streams := r.2.streams ++ [{ id := id, region := e.ctx.region, seq := e.seq, txSeq := r.1 }] }
    if id < 64 then ((List.range (bandCount e.block)).foldl (fun a i => a.barInit .x .unit none (bandLoc e.block i) 1) s3).joinTask e
    else s3.complete e.seq none

/-- One task issues; a task whose descriptor or word lies on a page that is not resident stays in the window. -/
def State.issueTask (s : State) (e : Entry) : State :=
  match e.task.opcode.toNat with
  | 0x10 => s.issueKern e
  | 0x11 => s.issueDraw e
  | 0x38 => s.issueSig e
  | 0x20 => s.issueFrame e
  | 0x21 => s.issuePresent e
  | 0x23 => s.issueStream e
  | 0x33 => (s.beginTask e).mapIssue e
  | 0x34 => s.issueBvh (fun a => a.beginTask e) e
  | 0x15 => (s.beginTask e).collIssue { e with ctx := { e.ctx with launch := s.ptime } }
  | 0x16 => (s.beginTask e).tbarIssue { e with ctx := { e.ctx with launch := s.ptime } }
  | _ => s.beginTask e

/-- The first of the ready tasks that can issue does. -/
def State.issueFirst (s : State) : List Entry → State
  | [] => s
  | e :: rest =>
    let s1 := s.issueTask e
    if (s1.entry? e.seq).any (fun x => !x.issued && !x.done) then s1.issueFirst rest else s1

/-- TASK_ISSUE (R297, R301). -/
def execTaskIssue (s : State) : Out := .next (s.issueFirst s.readyTasks)

/-! ## t.copy and t.fill (R234, R279, R283) -/

/-- What the landing of a burst of a task has come to: the elements done, the bytes written, the flags raised, and what stopped
the next element. `op` is the first serial number of what it lands, which is one landing (R194). -/
structure TaskBurst where
  s     : State
  n     : Nat
  op    : Nat
  ws    : List (Nat × Byte) := []
  flags : FpFlags := {}
  stop  : Option EngAt := none

/-- Lands at most `m` of the elements that `elem` gives: each one's address, bytes and flags. -/
def TaskBurst.run (k : TaskCtx) (elem : State → Nat → Except EngAt (Nat × List Byte × FpFlags)) (total : Nat) : Nat → TaskBurst → TaskBurst
  | 0, b => b
  | m + 1, b =>
    if total ≤ b.n then b
    else
      match elem b.s b.n with
      | .error e => { b with stop := some e }
      | .ok (va, bs, fl) =>
        match b.s.taskLocs k .write va bs.length with
        | .error e => { b with stop := some e }
        | .ok ls =>
          TaskBurst.run k elem total m { b with s := b.s.wrAll { task := some k.seq, op := b.op } (ls.zip bs), n := b.n + 1, ws := b.ws ++ ls.zip bs,
                                                flags := b.flags.join fl }

/-- Element i of a t.copy, under the reset value of MODE. -/
def copyElem (k : TaskCtx) (d : CopyDesc) (s : State) (i : Nat) : Except EngAt (Nat × List Byte × FpFlags) :=
  match s.taskRead k (d.srcAddr i) d.ssize with
  | .error e => .error e
  | .ok x =>
    if d.conv = 0xFF then .ok (d.dstAddr i, x, {})
    else
      let r := cvtCode d.conv .rne false false (wordOfBytes x)
      .ok (d.dstAddr i, leBytes d.dsize r.1.toNat, r.2)

/-- Word i of a t.fill, row by row. -/
def fillElem (bs : List Byte) (_ : State) (i : Nat) : Except EngAt (Nat × List Byte × FpFlags) :=
  let n := fieldOf bs 8 4 / 4
  .ok ((fieldOf bs 0 8 + i / n * fieldOf bs 0x10 8 + 4 * (i % n)) % 18446744073709551616, (bs.drop 0x18).take 4, {})

/-- The flags of a t.copy's conversions go to its domain's log once (R234). -/
def State.logTask (s : State) (k : TaskCtx) (f : FpFlags) : State :=
  let cause := logCause 0x1800 f
  if cause = 0 then s else s.logWrite (s.fdomOf k.region) { kind := 1, cause := cause, region := k.region, tseq := k.seq }

/-- A burst of at most 4 KiB of destination bytes lands; the last one completes the task. -/
def State.moveBurst (s : State) (e : Entry) (elem : State → Nat → Except EngAt (Nat × List Byte × FpFlags)) (total per : Nat) : State :=
  let b := TaskBurst.run e.ctx elem total (4096 / per) { s := s, n := e.pushed, op := s.nextSer, flags := e.flags }
  let s1 := (b.s.heal b.ws).updEntry e.seq (fun x => { x with pushed := b.n, flags := b.flags })
  match b.stop with
  | some x => s1.taskStop e.ctx x (fun a => a.logTask e.ctx b.flags)
  | none =>
    let s2 := s1.unstall (taskKey e.seq)
    if total ≤ b.n then (s2.logTask e.ctx b.flags).complete e.seq none else s2

/-! ## t.feed (R288) -/

/-- The header's chip-scratchpad address, plain or as the barrier address of R225 (log entry 52). -/
def feedHdr (t : TaskRec) : Option Nat :=
  if t.pa.toNat / 2 ^ 30 = 0 ∨ t.pa.toNat / 2 ^ 30 = 2 then some (t.pa.toNat % 2 ^ 30) else none

/-- Pushes records until all are in, or the queue is full, closed or broken. -/
def State.feedPush (s : State) (e : Entry) (hdr : Nat) : Nat → Nat → State
  | 0, n => s.updEntry e.seq (fun x => { x with pushed := n })
  | m + 1, n =>
    let q := s.qRead hdr
    let here := s.updEntry e.seq (fun x => { x with pushed := n })
    match q.pushStatus with
    | some 2 => here.complete e.seq (some (tfQBroken, n))
    | some 3 => here.complete e.seq (some (tfQClosed, n))
    | some _ => here
    | none =>
      match s.taskRead e.ctx ((e.task.pb.toNat + 16 * n) % 18446744073709551616) 16, s.taskLocs e.ctx .write (q.recAddr q.tail) 16 with
      | .error x, _ => here.taskStop e.ctx x (fun a => a)
      | _, .error x => here.taskStop e.ctx x (fun a => a)
      | .ok bs, .ok ls =>
        let s1 := s.wrPub .chip .unit none (ls.zip bs ++ atLoc (hdr + 0x2C) (leBytes 4 ((q.tail + 1) % 4294967296)))
        ((s1.qSignal .unit none hdr (s.stampFor e.ctx)).unstall (taskKey e.seq)).feedPush e hdr m (n + 1)

/-- t.feed goes on: records, then the closing. -/
def State.feedTask (s : State) (e : Entry) : State :=
  let count := immBits e.task 23 0
  let close := e.task.imm.getLsbD 31
  if count = 0 ∧ !close then s.complete e.seq none
  else
    match feedHdr e.task with
    | none => s.complete e.seq (some (tfAccess, 1))
    | some a =>
      if a % 64 ≠ 0 then s.complete e.seq (some (tfAccess, 0))
      else if Config.chipBytes < a + 64 ∨ (s.chipProt e.ctx false a .write).isSome then s.complete e.seq (some (tfAccess, 1))
      else if s.objErr (locChip a) then (s.memErr e.seq (locChip a)).complete e.seq (some (tfMemory, 0))
      else
        let hdr := locChip a
        let s1 := s.feedPush e hdr (min (count - e.pushed) (s.qRead hdr).cap) e.pushed
        match s1.entry? e.seq with
        | none => s1
        | some x =>
          if x.done || decide (x.pushed < count) then s1
          else if !close then s1.complete e.seq none
          else
            match (s1.qRead hdr).pushStatus with
            | some 2 => s1.complete e.seq (some (tfQBroken, count))
            | some 3 => s1.complete e.seq (some (tfQClosed, count))
            | _ =>
              let fl := s1.rdNewNat (hdr + 0x34) 4
              ((s1.wrPub .chip .unit none (atLoc (hdr + 0x34) (leBytes 4 (fl / 2 * 2 + 1)))).qSignal .unit none hdr
                (s1.stampFor e.ctx)).complete e.seq none

/-! ## Completion (R279, R302, R329) -/

/-- Whether the grids of a t.kern or t.draw have ended. -/
def State.workOver (s : State) (e : Entry) : Bool :=
  (s.gridsOf e).isEmpty && !s.passes.any (fun p => e.pass == some p.id)

/-- A t.kern or t.draw completes once its grids and pass have ended; that of a persistent kernel once every team of it has been
instantiated (R329). -/
def State.workTask (s : State) (e : Entry) : State :=
  match e.grid.bind s.grid? with
  | some g =>
    if g.desc.persist && g.started == g.teams then
      (s.updEntry e.seq (fun x => { x with waves := g.nWaves, wavesRun := g.nWaves })).complete e.seq none
    else s
  | none => if s.workOver e then s.complete e.seq none else s

/-- A t.fence completes once every older task has retired, with SYS after a release at system scope of everything published
(R279). -/
def State.fenceTask (s : State) (e : Entry) : State :=
  if (s.win.older e.seq).isEmpty then
    (if e.task.imm.getLsbD 0 then s.publish .system .unit s.issueView else s).complete e.seq none
  else s

/-- An issued task goes on with its work. -/
def State.taskWork (s : State) (e : Entry) : State :=
  match e.task.opcode.toNat with
  | 0x02 => s.fenceTask e
  | 0x10 | 0x11 => s.workTask e
  | 0x12 => let d := copyDesc e.block; s.moveBurst e (copyElem e.ctx d) d.total d.dsize
  | 0x13 => s.moveBurst e (fillElem e.block) (fieldOf e.block 8 4 / 4 * fieldOf e.block 0xC 4) 4
  | 0x14 => s.feedTask e
  | 0x23 => s.joinTask e
  | 0x15 | 0x16 =>
    match s.colls.find? (fun c => c.seq == e.seq) with
    | some c => s.collTry c.id false
    | none => if e.task.opcode = 0x16 then s.tbarIssue e else s
  | _ => s

/-- TASK_COMPLETION (R302): an issued task's work goes on, and completes it when it is done. -/
def execTaskCompletion (s : State) : Out :=
  match s.arg with
  | .idx seq =>
    match s.entry? seq with
    | none => .next s
    | some e => if !e.issued || e.done then .next s else .next (s.taskWork e)
  | _ => .next s

/-! ## t.wait (R287) -/

/-- The test of IMM[1:0]. -/
def waitTest (code x y : Nat) : Bool := if code = 0 then decide (y ≤ x) else if code = 1 then x == y else x != y

/-- T_WAIT_POLL. -/
def execTWaitPoll (s : State) : Out :=
  match s.arg with
  | .idx seq =>
    match s.entry? seq with
    | none => .next s
    | some e =>
      if !e.issued || e.done || e.task.opcode != 0x39 then .next s
      else
        match s.taskAt { e.ctx with pure := false } e.task.pa.toNat .read with
        | .page p => .next (s.stall (taskKey seq) e.ctx.region p)
        | .loc l =>
          if s.bad.contains (l / 64 * 64) then .next ((s.memErr seq l).complete seq (some (tfMemory, 0)))
          else
            let s1 := s.unstall (taskKey seq)
            .next (if waitTest (immBits e.task 1 0) (s.rdUnitNat .system l 8) e.task.pb.toNat then s1.complete seq none else s1)
        | .err l => .next ((s.memErr seq l).complete seq (some (tfMemory, 0)))
        | _ => .next (s.complete seq (some (tfAccess, 1)))
  | _ => .next s

/-- WAIT_TIMEOUT. -/
def execWaitTimeout (s : State) : Out :=
  match s.arg with
  | .idx seq =>
    match s.entry? seq with
    | none => .next s
    | some e =>
      let us := immBits e.task 31 8
      if !e.issued || e.done || e.task.opcode != 0x39 || us == 0 || decide (s.now < e.issuedAt + 1000 * us) then .next s
      else .next (s.complete seq (some (tfTimeout, 0)))
  | _ => .next s

end Sys2Proof.Machine
end

