-- ==== Sys2Proof/Machine/Launch.lean ====
section
/-! DEFINITION. Device launches and continuations: launch and cont (R325 to R328, R453), and the agent-only instructions
(R315). -/

namespace Sys2Proof.Machine

/-! ## Reading descriptors (R87, R88) -/

/-- Bytes of a record at a location, read through the view of a thread of the warp, which includes its own stores that are held
(R183, R196). Of a group it is the lowest lane's (DESIGN CHOICE; log entry 172). -/
def State.rdRec (s : State) (w : Warp) (lane l n : Nat) : List Byte := (locRange l n).map (s.rdThr w (w.thr lane))

/-- What a read of a kernel's descriptor by a running kernel comes to: the descriptor with whether it is valid and of kind
compute, or what the group waits for or stops on. A misplaced or forbidden descriptor is no valid one. -/
inductive DescRead where
  | ok (d : KDesc) (valid : Bool)
  | stop (o : KOut)

def State.kdescAt (s : State) (k : TaskCtx) (w : Warp) (lane va : Nat) : DescRead :=
  match s.recAt k va 128 with
  | .stop (.halt _) => .ok {} false
  | .stop o => .stop o
  | .loc l =>
    let bs := s.rdRec w lane l 128
    let d := descOf va bs
    .ok d (descOk d bs && d.kind == 0)

/-! ## launch (R325, R326) -/

/-- What a launch record asks for, with the checks that do not need its descriptor: reserved bytes and CTR (R225, R296). -/
def launchCtr (s : State) (t : Team) (k : TaskCtx) (bs : List Byte) : Except Unit (Option Nat) :=
  if !(bs.drop 0x1C).all (· == 0) then .error ()
  else
    let b : Word := BitVec.ofNat 32 (fieldOf bs 0x18 4)
    if b = 0xFFFFFFFF then .ok none
    else
      match s.barAddr t k b .write with
      | .error _ => .error ()
      | .ok (_, l) => .ok (some l)

/-- The queue entry of a sound launch; none where it fails (R326). A child is no t.kern: PERSIST asks nothing of it. -/
def launchEntry (s : State) (t : Team) (k : TaskCtx) (bs : List Byte) (d : KDesc) (valid : Bool) : Option LaunchRec :=
  match launchCtr s t k bs with
  | .error _ => none
  | .ok ctr =>
    let gx := fieldOf bs 0x10 4
    let gy := fieldOf bs 0x14 2
    let gz := fieldOf bs 0x16 2
    let c := s.coreBudget k.region
    if !valid || !dimsOk d gx gy gz || waveSizeOf d c == 0 || (k.det && windowOf d c == 0) then none
    else some { desc := { d with persist := false }, args := fieldOf bs 8 8, gx := gx, gy := gy, gz := gz, ctr := ctr,
                ci := t.callIdx.toNat, waveSize := waveSizeOf d c, wd := windowOf d c }

/-- The entry that a thread waited to enter in its team's queue. -/
def Thread.launchRec (th : Thread) : Option LaunchRec :=
  th.wait.bind (fun x => match x.on with
    | .launchQ _ r => some r
    | _ => none)

/-- An entry put before the first of a higher call index. -/
def insertCall (r : LaunchRec) : List LaunchRec → List LaunchRec
  | [] => [r]
  | x :: t => if r.ci < x.ci then r :: x :: t else x :: insertCall r t

/-- The launches of lower call index that still wait for a place in a team's queue. -/
def Team.callsBefore (t : Team) (ci : Nat) : List LaunchRec :=
  ((t.liveThreads.filterMap Thread.launchRec).filter (fun r => decide (r.ci < ci))).eraseDups

/-- Whether a call finds a place in its team's queue of 4 (R326). In deterministic mode the places that calls of lower index wait for
are theirs, so that the scheduler admits in ascending call index (R453). -/
def Team.hasPlace (t : Team) (det : Bool) (ci : Nat) : Bool :=
  decide (t.launchQ.length + (if det then (t.callsBefore ci).length else 0) < 4)

/-- An entry enters the team's queue, in deterministic mode by its call index (R453), and the lanes that launched it receive status
0; a full queue makes them wait (R326). -/
def State.enterLaunch (s : State) (c : Ctx) (d : BitVec 6) (lanes : List Nat) (r : LaunchRec) : State :=
  match s.team? c.team with
  | none => s
  | some t =>
    let det := (s.ctxOf t).det
    if t.hasPlace det r.ci then
      (s.updTeam c.team (fun u => { u with launchQ := if det then insertCall r u.launchQ else u.launchQ ++ [r] })).writeLanes c
        (lanes.map (fun x => (x, [(Reg.v d.toNat, 0)])))
    else s.park c lanes (.launchQ c.team r)

/-- The lanes that wake from a full queue enter what each launched before, in the order of the calls. -/
def State.enterWoken (s : State) (c : Ctx) (w : Warp) (d : BitVec 6) (lanes : List Nat) : State :=
  let recs := (lanes.filterMap (fun l => (w.thr l).launchRec)).foldl (fun a r => if a.contains r then a else a ++ [r]) []
  (recs.mergeSort (fun a b => decide (a.ci ≤ b.ci))).foldl (fun a r =>
    a.enterLaunch c d (lanes.filter (fun l => (w.thr l).launchRec == some r)) r) s

/-- launch (R326): once for the group, which takes the call index and raises the release before it waits for a place in a full
queue; lanes that wake from such a wait go on with the launch they made. -/
def execLaunch (o : SOp) : State → Out :=
  kernelOp (.launch o) (fun c0 t w s0 =>
    let s := s0.enterWoken c0 w o.d (c0.lanes.filter (fun l => (w.thr l).launchRec.isSome))
    let c : Ctx := { c0 with lanes := c0.lanes.filter (fun l => (w.thr l).launchRec.isNone) }
    let k := s.ctxOf t
    if c.lanes.isEmpty then .ok s
    else match s.recAt k (w.rkPair o.a.toNat).toNat 64 with
    | .stop x => x
    | .loc l =>
      let bs := s.rdRec w (minOf c.lanes) l 64
      match s.kdescAt k w (minOf c.lanes) (fieldOf bs 0 8) with
      | .stop x => x
      | .ok d valid =>
        let s1 := (s.evRelease c t k c.lanes { scope := .chip } none).updTeam t.id (fun u => { u with callIdx := u.callIdx + 1 })
        match launchEntry s t k bs d valid with
        | none => .ok (s1.writeLanes c (c.lanes.map (fun x => (x, [(Reg.v o.d.toNat, 1)]))))
        | some r => .ok (s1.enterLaunch c o.d c.lanes r))

/-! ## cont (R328) -/

/-- What a cont meets: the detail of cause LAUNCH, or none. -/
def contBad (t : Team) (bs : List Byte) (va : Nat) (d : KDesc) (valid : Bool) : Option Nat :=
  if !(bs.drop 0x10).all (· == 0) || !valid || d.scratch != t.desc.scratch || d.barriers != t.desc.barriers ||
      d.cluster != t.desc.cluster then some 1
  else
    match t.cont with
    | some (a, _, _) => if a = va then none else some 2
    | none => none

/-- cont (R328): the packet's kernel follows the team; the group's threads exit. -/
def execCont (o : SOp) : State → Out :=
  kernelOp (.cont o) (fun c t w s =>
    let k := s.ctxOf t
    let va := (w.rkPair o.a.toNat).toNat
    match s.recAt k va 32 with
    | .stop x => x
    | .loc l =>
      let bs := s.rdRec w (minOf c.lanes) l 32
      match s.kdescAt k w (minOf c.lanes) (fieldOf bs 0 8) with
      | .stop x => x
      | .ok d valid =>
        match contBad t bs va d valid with
        | some n => .halt { cause := 13, detail := n }
        | none =>
          .ok ((s.updTeam t.id (fun u => { u with cont := some (va, { d with persist := t.desc.persist }, fieldOf bs 8 8) })).exitLanes
            c t w k c.lanes))

/-! ## The agent-only instructions (R315) -/

/-- The halt of an agent whose instruction meets what its entry forbids: cause AGENT. -/
def agentHalt (detail : Nat) : KOut := .halt { cause := 17, detail := detail }

/-- ag.claim. -/
def execAgClaim (o : SOp) : State → Out :=
  kernelOp (.agClaim o) (fun c t w s =>
    let r := s.claim t.core (w.rk o.a.toNat).toNat
    .ok (r.2.writeLanes c (c.lanes.map (fun x => (x, [(Reg.k o.d.toNat, r.1)])))))

/-- ag.inst: instantiates a claimed team, or restores a saved one; the answer is its handle. -/
def execAgInst (o : SOp) : State → Out :=
  kernelOp (.agInst o) (fun c t w s =>
    let b := (w.rkPair o.b.toNat).toNat
    let answer (a : State) (id : Nat) : KOut :=
      .ok (a.writeLanes c (c.lanes.map (fun x =>
        (x, [(Reg.k o.d.toNat, BitVec.ofNat 32 (((a.team? id).map Team.handle).getD 0))]))))
    if w.rk o.a.toNat = 0xFFFFFFFF then
      match s.savedAt b with
      | none => agentHalt 1
      | some u =>
        if s.restoreFits u [] t.core then answer (s.restoreTeam u t.core) u.id else agentHalt 1
    else if w.rk (o.b.toNat + 1) ≠ 0 then agentHalt 1
    else
      match s.reservation t.core b (w.rk o.a.toNat).toNat with
      | none => agentHalt 1
      | some u => answer (s.agentInst u.id) u.id)

/-- ag.end: frees an ended team's resources, or starts its continuation (R328). -/
def execAgEnd (o : SOp) : State → Out :=
  kernelOp (.agEnd o) (fun _ t w s =>
    match s.byHandle t.core (w.rk o.a.toNat).toNat with
    | none => agentHalt 4
    | some u => if u.st = .ended then .ok (s.agentEnd u) else agentHalt 2)

/-- The bytes of a save area: their values are the core's own affair (R332; log entry 30). -/
def State.saveBytes (s : State) : Nat → Nat → State
  | 0, _ => s
  | n + 1, l => let r := s.free 8; (r.2.wrPub .chip .unit none (if physOk l then [(l, r.1)] else [])).saveBytes n (l + 1)

/-- ag.save: writes a halted team's state and frees its resources; the answer is the bytes written. -/
def execAgSave (o : SOp) : State → Out :=
  kernelOp (.agSave o) (fun c t w s =>
    match s.byHandle t.core (w.rk o.a.toNat).toNat with
    | none => agentHalt 4
    | some u =>
      if u.st ≠ .halted then agentHalt 3
      else
        let n := s.saveSize u
        let s1 := (s.saveBytes n (w.rkPair o.b.toNat).toNat).saveTeam u (w.rkPair o.b.toNat).toNat
        .ok (s1.writeLanes c (c.lanes.map (fun x => (x, [(Reg.k o.d.toNat, BitVec.ofNat 32 n)])))))

end Sys2Proof.Machine
end

