-- ==== Sys2Proof/Machine/Media.lean ====
section
/-! DEFINITION. Stream registers (R267 to R271), frames and their transmission (R258 to R262, R266), receive streams (R262,
R266), and the presentation clock (R253 to R255). -/

namespace Sys2Proof.Machine

/-! ## Pixels of a stream (R264, R265) -/

/-- What a stream record says of its pixels. -/
structure PixFmt where
  w        : Nat
  h        : Nat
  sampling : Nat
  depth    : Nat
  range    : PixRange
  pitch    : Nat

def State.pixFmt (s : State) (i : Nat) : PixFmt :=
  { w := s.streamField i 0 2, h := s.streamField i 2 2, sampling := s.streamField i 4 1, depth := s.streamField i 5 1,
    range := match s.streamField i 6 1 with
      | 0 => .narrow | 1 => .fullProtect | _ => .full
    pitch := s.streamField i 0x10 4 }

/-- Bytes of a pgroup and the pixels it covers. -/
def PixFmt.size (f : PixFmt) : Nat := (pgroup f.sampling f.depth).1
def PixFmt.cov (f : PixFmt) : Nat := (pgroup f.sampling f.depth).2
def PixFmt.lineBytes (f : PixFmt) : Nat := Machine.lineBytes f.sampling f.depth f.w

/-- The samples of pixel x in its pgroup, as Y, Cb, Cr or R, G, B: their places, with whether each is chroma. -/
def PixFmt.samples (f : PixFmt) (x : Nat) : List (Nat × Bool) :=
  match f.sampling with
  | 0 => [(if x % 2 = 0 then 1 else 3, false), (0, true), (2, true)]
  | 1 => [(3 * (x % f.cov) + 1, false), (3 * (x % f.cov), true), (3 * (x % f.cov) + 2, true)]
  | _ => [(3 * (x % f.cov), false), (3 * (x % f.cov) + 1, false), (3 * (x % f.cov) + 2, false)]

/-- The number that a pgroup's bytes hold, the first byte highest. -/
def beNat (bs : List Byte) : Nat := bs.foldl (fun n b => 256 * n + b.toNat) 0
def beBytes (n x : Nat) : List Byte := (leBytes n x).reverse

/-- Sample j of a pgroup. -/
def PixFmt.sample (f : PixFmt) (g j : Nat) : Nat := g / 2 ^ (8 * f.size - (j + 1) * f.depth) % 2 ^ f.depth
/-- A sample's value placed in a pgroup. -/
def PixFmt.place (f : PixFmt) (j v : Nat) : Nat := v * 2 ^ (8 * f.size - (j + 1) * f.depth)

/-- Byte offset of a pixel's pgroup in an image. -/
def PixFmt.offset (f : PixFmt) (x y : Nat) : Nat := y * f.pitch + x / f.cov * f.size

/-- A pgroup of black (R259): every component is the code of 0.0. -/
def PixFmt.black (f : PixFmt) : List Byte :=
  beBytes f.size (((List.range f.cov).flatMap f.samples).foldl (fun g j =>
    let v := f.place j.1 (pixEncode f.range f.depth j.2 0)
    g ||| v) 0)

/-! ## Stream registers (R267 to R271) -/

def Warp.sqAt (w : Warp) (i : Nat) : Option SqBind := KV.get none i w.sq
def State.setSq (s : State) (c : Ctx) (i : Nat) (b : Option SqBind) : State :=
  s.updWarp c.team c.warp (fun w => { w with sq := KV.put none i b w.sq })

/-- Whether a frame may be bound to a transmit id (R268). -/
def State.frameBindable (s : State) (f id : Nat) : Bool :=
  s.tables && !s.frameDone f && (s.frameSt f == fsOpen || s.frameSt f == fsRendering) && s.frameStream f == id

/-- sqbind (R268): once for the group. -/
def execSqbind (o : SOp) : State → Out :=
  kernelOp (.sqbind o) (fun c _ w s =>
    let a := (w.rk o.a.toNat).toNat
    let b := (w.rk o.b.toNat).toNat
    let id := a % 256
    if 256 ≤ a ∨ (s.stream? id).isNone then .halt { cause := 10, detail := 3 }
    else if id < 64 then .ok (s.setSq c o.d.toNat (some { stream := id, key := b % 2147483648 }))
    else if 1024 ≤ b ∨ !s.frameBindable b id then .halt { cause := 10, detail := 3 }
    else .ok (s.setSq c o.d.toNat (some { stream := id, key := b })))

/-- sqrel (R268). -/
def execSqrel (o : SOp) : State → Out := kernelOp (.sqrel o) (fun c _ _ s => .ok (s.setSq c o.d.toNat none))

/-- The binding of a register, with the checks of R271. -/
def withSq (w : Warp) (i : Nat) (rx : Bool) (f : SqBind → KOut) : KOut :=
  match w.sqAt i with
  | none => .halt { cause := 10, detail := 1 }
  | some b => if decide (b.stream < 64) != rx then .halt { cause := 10, detail := 2 } else f b

/-- The band object of a line (R263, R266). -/
def State.bandObj (s : State) (i b : Nat) : Nat := locChip (s.streamField i 0x18 4 % 2 ^ 30 + 32 * b)

/-- What sqrd finds for a lane (R269). -/
inductive SqSee where
  | outside | broken | wait (l phase : Nat)
  | read (l va dd : Nat)

def State.sqSee (s : State) (f : PixFmt) (b : SqBind) (th : Thread) (xy : Word) : SqSee :=
  let x := xy.toNat % 65536
  let y := xy.toNat / 65536
  if f.w ≤ x ∨ f.h ≤ y then .outside
  else
    let l := s.bandObj b.stream (y / s.streamField b.stream 0x15 1)
    let o := s.barRead l
    let dd := (o.phase + 2147483648 - b.key) % 2147483648
    let landed := decide (1 ≤ dd) && decide (dd < 1073741824)
    if (o.broken && !(th.barWoken == some true && landed)) || th.barWoken == some false then .broken
    else if landed then
      .read l ((s.streamField b.stream 8 8 + b.key % max (s.streamField b.stream 0x14 1) 1 * f.h * f.pitch + f.offset x y) % 18446744073709551616) dd
    else .wait l o.phase

/-- The quad of a pixel's pgroup. -/
def PixFmt.quad (f : PixFmt) (x : Nat) (bs : List Byte) : List Word :=
  (f.samples x).map (fun j => pixDecode f.range f.depth j.2 (f.sample (beNat bs) j.1))

/-- Writes of a quad with its status. -/
def quadWrites (d : BitVec 6) (q : List Word) (st : Nat) : List (Reg × Word) :=
  (q ++ [BitVec.ofNat 32 st]).mapIdx (fun j x => (Reg.v (d.toNat + j), x))

/-- sqrd (R269). The lanes that wait leave the group. Of a stream of audio or ancillary data, which has no pixels, the
components are free values. -/
def execSqrd (o : SOp) : State → Out :=
  kernelOp (.sqrd o) (fun c t w s =>
    let k := s.ctxOf t
    withSq w o.a.toNat true (fun b =>
      let f := s.pixFmt b.stream
      let xy (l : Nat) : Word := (w.thr l).rv o.b.toNat
      let see (l : Nat) : SqSee := s.sqSee f b (w.thr l) (xy l)
      let addrs : List (Nat × Nat) := c.lanes.flatMap (fun l => match see l with
        | .read _ va _ => (List.range f.size).map (fun i => (l, (va + i) % 18446744073709551616))
        | _ => [])
      (s.check t k .g .read 1 addrs).bind (fun ls =>
        let done := c.lanes.filter (fun l => match see l with
          | .wait _ _ => false
          | _ => true)
        let s1 := done.foldl (fun a l => match see l with
          | .read q _ _ => a.updThr c.team c.warp l
            (barAcquire (.core t.core) .chip (((w.thr l).barDone q b.key).getD (a.phaseCarries q b.key)))
          | _ => a) s
        let ws := done.map (fun l => (l, match see l with
          | .outside => quadWrites o.d [0, 0, 0] 3
          | .read _ _ dd =>
            let th := (s1.thr? c.team c.warp l).getD {}
            let bs := (ls.filter (fun p => p.1 == l)).map (fun p => s1.rdThr w th p.2)
            quadWrites o.d (if 3 ≤ f.sampling then (List.range 3).map (fun j => Config.freeValue 32 (s.freeCtr + 3 * l + j))
              else f.quad ((xy l).toNat % 65536) bs) (if dd < s.streamField b.stream 0x14 1 then 0 else 1)
          | _ => quadWrites o.d [0, 0, 0] 2))
        let s2 := if done.isEmpty then s1 else { s1 with freeCtr := s1.freeCtr + 192 }.commit { c with lanes := done } o.la.toNat (vGrp o.d 4) ws
        .ok (c.lanes.foldl (fun a l => match see l with
          | .wait q p => a.park c [l] (.bar q p)
          | _ => a) s2))))

/-- The samples that sqwr writes in a lane (R270): place and code. -/
def PixFmt.writes (f : PixFmt) (x : Nat) (q : List Word) : List (Nat × Nat) :=
  let all := ((f.samples x).zip q).map (fun p => (p.1.1, pixEncode f.range f.depth p.1.2 p.2))
  if f.sampling = 0 ∧ x % 2 = 1 then all.take 1 else all

/-- The bytes of a pgroup that a lane changes: index, mask and value. -/
def PixFmt.bits (f : PixFmt) (ws : List (Nat × Nat)) : List (Nat × Byte × Byte) :=
  let m := beBytes f.size (ws.foldl (fun g p => g ||| f.place p.1 (2 ^ f.depth - 1)) 0)
  let v := beBytes f.size (ws.foldl (fun g p => g ||| f.place p.1 p.2) 0)
  ((m.zip v).mapIdx (fun i p => (i, p))).filter (fun p => p.2.1 != 0)

/-- sqwr (R270). A pure task's sqwr faults whatever it would write (R296): at its lowest byte, or with none at the image's address (log
entry 175). -/
def execSqwr (o : SOp) : State → Out :=
  kernelOp (.sqwr o) (fun c t w s =>
    let k := s.ctxOf t
    withSq w o.d.toNat false (fun b =>
      let f := s.pixFmt b.stream
      let base := s.frameField b.key 0x20 8
      let acts : List (Nat × Nat × Byte × Byte) := c.lanes.flatMap (fun l =>
        let xy := ((w.thr l).rv o.b.toNat).toNat
        if f.w ≤ xy % 65536 ∨ f.h ≤ xy / 65536 ∨ 3 ≤ f.sampling then []
        else (f.bits (f.writes (xy % 65536) ((List.range 3).map (fun j => (w.thr l).rv (o.a.toNat + j))))).map (fun p =>
          (l, (base + f.offset (xy % 65536) (xy / 65536) + p.1) % 18446744073709551616, p.2)))
      if k.pure then
        .halt { cause := 4, detail := 8, lane := (acts.head?.map Prod.fst).getD (minOf c.lanes), faddr := (acts.head?.map (fun a => a.2.1)).getD base }
      else
      (s.check t k .g .write 1 (acts.map (fun a => (a.1, a.2.1)))).bind (fun ls =>
        let ps := (ls.zip acts).map (fun p => (p.1.1, p.1.2, p.2.2.2))
        .ok (c.lanes.foldl (fun a l =>
          let mine := (ps.filter (fun p => p.1 == l)).map (fun p => p.2)
          if mine.isEmpty then a
          else if k.det then a.hold c (.sqwr l mine)
          else a.wrPub .chip (.core t.core) (some t.grid) (mine.map (fun p => (p.1, (a.rdNew p.1 &&& ~~~ p.2.1) ||| (p.2.2 &&& p.2.1))))) s))))

/-! ## Frames (R258 to R260) -/

/-- FRAME_DEADLINE (R258). -/
def execFrameDeadline (s : State) : Out :=
  match s.arg with
  | .idx f => if s.tables ∧ f < 1024 ∧ s.frameDl f ≤ s.ptime then .next (s.frameLateRow f) else .next s
  | _ => .next s

/-- Tactive (R260). -/
def tActive (n m : Nat) : Nat := n * 49 / (m * 50)

/-- Open frames of a stream that have not reached their PTIME row. -/
def State.framesDue (s : State) (stream : Nat) : List Nat :=
  s.openFrames.filter (fun f => s.frameStream f == stream && decide (s.frameSt f ≠ fsPresented) && decide (s.frameSt f ≠ fsSubst))

/-- The image of a frame that starts (R258, R259): its address (none: black), the region it is read in, and BLACKED. -/
def State.frameImage (s : State) (f stream : Nat) : Option Nat × Nat × Bool :=
  let r := (KV.get (0, 0) f s.frameReg).1
  if s.frameSt f = fsReady then (some (s.frameField f 0x20 8), r, false)
  else
    match s.frameSubst f with
    | 0 =>
      if s.streamField stream 0x28 8 = 0 then (none, r, true)
      else if s.streamField stream 0x30 8 = 0 then (none, r, false)
      else (some (s.streamField stream 0x30 8), ((s.stream? stream).map MediaStream.lastRegion).getD 0, false)
    | 1 => (none, r, false)
    | _ => (some (s.frameField f 0x28 8), r, false)

/-- The PTIME row of a READY or LATE frame. One whose stream is not installed is DONE at once, as with STREAM 0xFFFF (DESIGN CHOICE; log
entry 181). -/
def State.framePresent (s : State) (f : Nat) : State :=
  let st := if s.frameSt f = fsReady then fsPresented else fsSubst
  let stream := s.frameStream f
  match s.stream? stream with
  | none => s.frameGo f st bDone 0 []
  | some m =>
    if m.stop.any (fun e => decide (s.framePtimeOf f < e + 1)) then (s.frameGo f st (bDone + bMissed) 0 []).tbarEgress f 0
    else
      let img := s.frameImage f stream
      let stop := s.framePtimeOf f + s.streamField stream 0x1C 4 + tActive (s.streamField stream 0x20 4) (s.streamField stream 0x24 2)
      let s1 := s.frameGo f st (if img.2.2 then bBlacked else 0) 0 []
      let s2 := (s1.streamWr stream 0x28 (leBytes 8 (s.streamField stream 0x28 8 + 1))).streamWr stream 0x30 (leBytes 8 (img.1.getD 0))
      let s3 := s2.updStream stream (fun x => { x with stop := some stop, lastRegion := img.2.1 })
      { s3 with txs := s3.txs ++ [{ frame := f, stream := stream, image := img.1, stop := stop, region := img.2.1 }] }

/-- FRAME_PTIME (R258, R260): frames of one stream in ascending PTIME, then index. A frame that has missed its deadline row
takes it first. -/
def execFramePtime (s : State) : Out :=
  match s.arg with
  | .idx f =>
    let stream := s.frameStream f
    if !s.tables ∨ 1024 ≤ f ∨ s.frameDone f ∨ s.frameSt f = fsPresented ∨ s.frameSt f = fsSubst ∨ s.ptime < s.framePtimeOf f ∨
        (stream ≠ 0xFFFF ∧ (s.framesDue stream).any (fun g => lexLt [s.framePtimeOf g, g] [s.framePtimeOf f, f])) then .next s
    else .next ((s.frameLateRow f).framePresent f)
  | _ => .next s

/-- A byte of an image as the stream engine sends it (R266): 0 where its page is forbidden or not resident. -/
def State.sendByte (s : State) (region va : Nat) : Byte × Bool × State :=
  match s.tr { region := region } (va % 18446744073709551616) .read with
  | .ok pa => if s.bad.contains (locPhys pa / 64 * 64) then (0, true, s.journal { kind := 7, code := 1, addr := locPhys pa }) else (s.rdNew (locPhys pa), false, s)
  | .page e lvl x =>
    (0, true, (s.demand region { va := va, entry := e, lvl := lvl, e := x, kind := 2 }).getD s)
  | .bad _ => (0, true, s)
  | .err l => (0, true, s.journal { kind := 7, code := 1, addr := l })

/-- Bytes of an image from an address. -/
def State.sendBytes (s : State) (region : Nat) : Nat → Nat → List Byte × Bool × State
  | _, 0 => ([], false, s)
  | va, n + 1 =>
    let r := s.sendByte region va
    let q := r.2.2.sendBytes region (va + 1) n
    (r.1 :: q.1, r.2.1 || q.2.1, q.2.2)

/-- RTP clock of a stream (R261). -/
def rtpClock (sampling : Nat) : Nat := if sampling = 3 then 48000 else 90000

/-- The ports, with their destinations, on which a transmit stream sends each packet: with DUAL both of the pair (R262). -/
def State.txPaths (s : State) (i : Nat) : List (Nat × Nat × Nat) :=
  let port := s.streamField i 0x16 1
  (port % 4, s.streamField i 0x40 4, s.streamField i 0x44 2) ::
    if port / 4 % 2 = 1 then [(port % 4 + 1, s.streamField i 0x50 4, s.streamField i 0x54 2)] else []

/-- A packet leaves on every port of its stream, with identical RTP headers (R262). -/
def State.sendRtp (s : State) (i f line off : Nat) (ts : Word) (bs : List Byte) : State :=
  let seq := ((s.stream? i).map MediaStream.txSeq).getD 0
  let s1 := (s.txPaths i).foldl (fun a p => a.send (.rtp {
    port := p.1, dstIp := p.2.1, dstPort := p.2.2, ptype := s.streamField i 0x46 1, seq := seq, ts := ts,
    ssrc := s.streamField i 0x4C 4, stream := i, frame := f, line := line, off := off, data := bs })) s
  s1.updStream i (fun m => { m with txSeq := m.txSeq + 1 })

/-- PACKET_EGRESS (R260, R261, R266): the next packet of a transmission leaves, n bytes of a line from an offset. -/
def execPacketEgress (s : State) : Out :=
  match s.arg with
  | .egress f line off n =>
    match s.txs.find? (fun x => x.frame == f) with
    | none => .next s
    | some tx =>
      let p := s.pixFmt tx.stream
      if s.ptime < s.framePtimeOf f + s.streamField tx.stream 0x1C 4 ∨ line ≠ tx.line ∨ off ≠ tx.off ∨ n = 0 ∨ p.h ≤ line ∨ p.lineBytes < off + n then .next s
      else
        let r := match tx.image with
          | none => ((List.range n).map (fun i => p.black.getD ((off + i) % p.size) 0), false, s)
          | some a => s.sendBytes tx.region (a + line * p.pitch + off) n
        let s1 := if r.2.1 && !tx.zeroed then r.2.2.taskErr { region := (KV.get (0, 0) f s.frameReg).1, seq := (KV.get (0, 0) f s.frameReg).2 } 1 else r.2.2
        let ts : Word := BitVec.ofNat 32 (s.framePtimeOf f * rtpClock p.sampling / 1000000000)
        let s2 := s1.sendRtp tx.stream f line off ts r.1
        let s3 : State := { s2 with txs := s2.txs.map (fun (x : Tx) => if x.frame == f then
          { x with sent := true, zeroed := x.zeroed || r.2.1, line := if off + n = p.lineBytes then line + 1 else line,
                   off := if off + n = p.lineBytes then 0 else off + n } else x) }
        .next (if tx.sent then s3 else (s3.frameWr f [(0x30, leBytes 8 s.ptime)]).tbarEgress f s.ptime)
  | _ => .next s

/-- TRANSMISSION_END (R258, R260): the last packet has left, and the end of the transmission has passed. -/
def execTransmissionEnd (s : State) : Out :=
  match s.arg with
  | .idx f =>
    match s.txs.find? (fun x => x.frame == f) with
    | none => .next s
    | some tx =>
      let p := s.pixFmt tx.stream
      if s.ptime ≤ tx.stop ∨ (p.sampling < 3 ∧ tx.line < p.h) then .next s
      else .next ({ s with txs := s.txs.filter (fun x => x.frame != f) }.frameGo f (s.frameSt f) bDone 0 [])
  | _ => .next s

/-! ## Receive streams (R262, R263, R266) -/

/-- An update of a stream's object: an engine access, so a granule of another domain is a forbidden page (R390). -/
def State.bandUpd (s : State) (m : MediaStream) (l : Nat) (u : BarUpd) (ents : List BarEntry) : State :=
  let o := s.barRead l
  if s.objBarred m.ctx l then s.taskErr m.ctx 1
  else if s.objErr l then ((s.memErr m.seq l).barBreak .x .unit l).taskErr m.ctx 4
  else if !o.broken && o.bad then (s.barBreak .x .unit l).taskErr m.ctx 2
  else s.barUpdate .x .unit none l s.ptime u ents

/-- Bytes and lines of a band. -/
def State.bandLines (s : State) (i b : Nat) : List Nat :=
  let n := s.streamField i 0x15 1
  (List.range n).map (fun j => b * n + j)
def State.bandBytes (s : State) (i : Nat) : Nat := s.streamField i 0x15 1 * (s.pixFmt i).lineBytes

/-- Whether a byte of a line has landed. -/
def RxBand.has (r : RxBand) (line x : Nat) : Bool := r.pieces.any (fun p => p.1 == line && decide (p.2.1 ≤ x) && decide (x < p.2.2))

/-- The band's newest bytes, as its phase carries them (R207). -/
def State.bandEntries (s : State) (i : Nat) (r : RxBand) : List BarEntry :=
  let f := s.pixFmt i
  let m := ((s.stream? i).map MediaStream.ctx).getD {}
  let slot := s.streamField i 8 8 + r.frame % max (s.streamField i 0x14 1) 1 * f.h * f.pitch
  (r.pieces.flatMap (fun p => match s.taskLocs m .write (slot + p.1 * f.pitch + p.2.1) (p.2.2 - p.2.1) with
    | .ok ls => ls
    | .error _ => [])).map (fun l => { engine := true, p := { scope := .chip, party := .unit, loc := l, ser := s.newestBelow l s.nextSer } })

/-- Counts n bytes of a band, and its arrival once its last packet has landed. -/
def State.bandCount (s : State) (m : MediaStream) (r : RxBand) (n : Nat) (arrive : Bool) (ents : List BarEntry) : State :=
  let l := s.bandObj m.id r.band
  let s1 := if n = 0 then s else s.bandUpd m l (.land n) ents
  if arrive then s1.bandUpd m l (.arrive 1 false) [] else s1

/-- A band is over: the frame after it in that band is counted with what has landed of it. -/
def State.bandNext (s : State) (i b : Nat) : Nat → State
  | 0 => s
  | fuel + 1 =>
    match s.stream? i with
    | none => s
    | some m =>
      let done := KV.get 0 b m.next
      match m.bands.find? (fun r => r.band == b && r.frame == done) with
      | none => s
      | some r =>
        if r.counted then
          if r.landed = s.bandBytes i ∧ r.last then
            (s.updStream i (fun x => { x with next := KV.put 0 b (done + 1) x.next, bands := x.bands.filter (fun y => !(y.band == b && y.frame == done)) })).bandNext i b fuel
          else s
        else
          let s1 := s.bandUpd m (s.bandObj i b) (.expect (s.bandBytes i)) []
          let s2 := s1.bandCount m r r.landed r.last (s.bandEntries i r)
          (s2.updStream i (fun x => { x with bands := x.bands.map (fun y => if y.band == b && y.frame == done then { y with counted := true } else y) })).bandNext
            i b fuel

/-- The clock at a frame's first packet, or the one that stands in for it (R266): that of the last earlier frame with one, with
the count of frames from it on. -/
def firstOf (m : MediaStream) : Nat → Nat → Option (Nat × Nat)
  | k, 0 => (match KV.get 0 0 m.first with
    | 0 => none
    | t + 1 => some (t, k))
  | k, f + 1 =>
    match KV.get 0 (f + 1) m.first with
    | 0 => firstOf m (k + 1) f
    | t + 1 => some (t, k)

/-- The number of the frame to which a timestamp belongs (R265; log entry 151): the first packet's is 0, another's lies as many
periods from the last known one as the timestamps do, rounded; none before frame 0. -/
def MediaStream.frameOf (m : MediaStream) (pn pm : Nat) (ts : Word) : Option Nat :=
  match m.rtpRef with
  | none => some 0
  | some (t, f) =>
    let n : Int := (f : Int) + (2 * (ts - t).toInt * pm * 1000000000 + 90000 * pn) / (2 * 90000 * pn)
    if n < 0 then none else some n.toNat

/-- A frame's first packet arrives: SEQ and LAST (R263). -/
def State.rxFirst (s : State) (i f : Nat) : State :=
  match s.stream? i with
  | none => s
  | some m =>
    if KV.get 0 f m.first ≠ 0 then s
    else
      let s1 := s.updStream i (fun x => { x with first := KV.put 0 f (s.ptime + 1) x.first })
      if s.streamField i 0x28 8 ≤ f then (s1.streamWr i 0x28 (leBytes 8 (f + 1))).streamWr i 0x30 (leBytes 8 s.ptime) else s1

/-- A landing that its engine cannot make: it waits for a page, or the object breaks (R236, R417). -/
def State.rxStop (s : State) (m : MediaStream) (b : Nat) (x : EngAt) : State :=
  match x with
  | .page p => s.stall (taskKey 18446744073709551616 + m.id) m.region p
  | _ => (s.taskErr m.ctx 1).bandBreak m (s.bandObj m.id b)

/-- A packet has landed: with DUAL its other copy no longer lands (R262). -/
def MediaStream.took (m : MediaStream) (seq : Half) : MediaStream := { m with seqs := (seq :: m.seqs).take 32768 }

/-- The band of a frame, with a piece of a line that has landed. -/
def RxBand.add (r : RxBand) (line off n : Nat) (last : Bool) : RxBand × Nat :=
  let fresh := (List.range n).countP (fun j => !r.has line (off + j))
  ({ r with landed := r.landed + fresh, pieces := r.pieces ++ [(line, off, off + n)], last := r.last || last }, fresh)

/-- A packet of video lands (R265, R266). -/
def State.rxVideo (s : State) (m : MediaStream) (p : RtpPacket) : State :=
  let f := s.pixFmt p.stream
  let b := p.line / s.streamField p.stream 0x15 1
  let n := p.data.length
  match m.frameOf (s.streamField p.stream 0x20 4) (s.streamField p.stream 0x24 2) p.ts with
  | none => s
  | some fr =>
  if f.h ≤ p.line ∨ f.lineBytes < p.off + n ∨ fr < KV.get 0 b m.next then s
  else
    let va := s.streamField p.stream 8 8 + fr % max (s.streamField p.stream 0x14 1) 1 * f.h * f.pitch + p.line * f.pitch + p.off
    match s.taskWrites m.ctx [(va, p.data)] with
    | .error x => s.rxStop m b x
    | .ok ws =>
      let s1 := ((s.rxFirst p.stream fr).wr {} ws).unstall (taskKey 18446744073709551616 + m.id)
      let old := (m.bands.find? (fun r => r.band == b && r.frame == fr)).getD { frame := fr, band := b }
      let r := old.add p.line p.off n p.last
      let rest := m.bands.filter (fun x => !(x.band == b && x.frame == fr))
      let s2 := s1.updStream p.stream (fun x => { x.took p.seq with
        bands := rest ++ [r.1], rtpRef := if x.rtpRef.any (fun q => decide (fr ≤ q.2)) then x.rtpRef else some (p.ts, fr) })
      let s3 := if old.counted then s2.bandCount m old r.2 (p.last && !old.last)
          (s2.bandEntries p.stream { old with pieces := [(p.line, p.off, p.off + n)] })
        else s2
      s3.bandNext p.stream b 1024

/-- A packet of audio or ancillary data lands in the next slot of its ring (R263), and is counted on the stream's object. Of the four
fields of the slot's header R263 gives the order and the 16 bytes in all: they take 4, 2, 2 and 8 (DESIGN CHOICE; log entry 176). -/
def State.rxSlot (s : State) (m : MediaStream) (p : RtpPacket) : State :=
  let n := s.streamField p.stream 0x28 8
  let va := s.streamField p.stream 8 8 + 2048 * (n % max (s.streamField p.stream 0x14 1) 1)
  let bs := leBytes 4 p.ts.toNat ++ leBytes 2 p.seq.toNat ++ leBytes 2 p.data.length ++ leBytes 8 s.ptime ++ p.data
  if 2048 < bs.length then s
  else
    match s.taskWrites m.ctx [(va, bs)] with
    | .error x => s.rxStop m 0 x
    | .ok ws =>
      let s1 := ((s.wr {} ws).unstall (taskKey 18446744073709551616 + m.id)).updStream p.stream (fun x => x.took p.seq)
      let s2 := (s1.streamWr p.stream 0x28 (leBytes 8 (n + 1))).streamWr p.stream 0x30 (leBytes 8 s.ptime)
      (s2.bandUpd m (s.bandObj p.stream 0) (.expect bs.length) []).bandCount m { frame := n, band := 0 } bs.length true
        ((serials s.nextSer ws).map (fun q => { engine := true, p := { scope := .chip, party := .unit, loc := q.1, ser := q.2 } }))

/-- Whether a receive stream takes a packet (R262, R263): it comes on the stream's port to its destination, or with DUAL on the
partner port to the second one, from a source and of a type that the record admits. -/
def State.rxTakes (s : State) (p : RtpPacket) : Bool :=
  let f (o n : Nat) : Nat := s.streamField p.stream o n
  let on (port ip udp : Nat) : Bool := p.port.toNat == port && p.dstIp.toNat == ip && p.dstPort.toNat == udp
  let port := f 0x16 1
  (on (port % 4) (f 0x40 4) (f 0x44 2) || (port / 4 % 2 == 1 && on (port % 4 + 1) (f 0x50 4) (f 0x54 2))) &&
    (f 0x48 4 == 0 || f 0x48 4 == p.srcIp.toNat) && (f 0x4C 4 == 0 || f 0x4C 4 == p.ssrc.toNat) && f 0x46 1 == p.ptype.toNat

/-- RTP_PACKET_RECEIVE (R262, R266): a packet that an installed stream takes lands, with DUAL once. -/
def execRtpPacketReceive (s : State) : Out :=
  match s.arg with
  | .rtp p =>
    match s.stream? p.stream with
    | none => .next s
    | some m =>
      let dual := s.streamField p.stream 0x16 1 / 4 % 2 == 1
      if 64 ≤ p.stream ∨ !s.rxTakes p ∨ (dual ∧ m.seqs.contains p.seq) then .next s
      else .next (if 3 ≤ s.streamField p.stream 4 1 then s.rxSlot m p else s.rxVideo m p)
  | _ => .next s

/-- RECEIVE_DEADLINE (R266): the oldest frame not complete in a band is completed without its missing bytes. -/
def execReceiveDeadline (s : State) : Out :=
  match s.arg with
  | .idx2 i b =>
    match s.stream? i with
    | none => .next s
    | some m =>
      let f := KV.get 0 b m.next
      let pn := s.streamField i 0x20 4
      let pm := max (s.streamField i 0x24 2) 1
      match firstOf m 0 f with
      | none => .next s
      | some t =>
        if 64 ≤ i ∨ 3 ≤ s.streamField i 4 1 ∨ s.streamField i 2 2 ≤ b * s.streamField i 0x15 1 ∨
            s.ptime < t.1 + (t.2 + 2) * pn / pm then .next s
        else
          let r := (m.bands.find? (fun x => x.band == b && x.frame == f)).getD { frame := f, band := b }
          let s1 := if r.counted then s else s.bandUpd m (s.bandObj i b) (.expect (s.bandBytes i)) []
          let part := (s.bandLines i b).countP (fun y => (List.range (s.pixFmt i).lineBytes).any (fun x => !r.has y x))
          let s2 := s1.bandCount m r (s.bandBytes i - (if r.counted then r.landed else 0)) (!(r.counted && r.last)) []
          let s3 := s2.streamWr i 0x38 (leBytes 4 ((s.streamField i 0x38 4 + part) % 4294967296))
          let s4 := if s.streamField i 0x28 8 ≤ f then s3.streamWr i 0x28 (leBytes 8 (f + 1)) else s3
          let s5 := s4.updStream i (fun x =>
            { x with next := KV.put 0 b (f + 1) x.next, bands := x.bands.filter (fun y => !(y.band == b && y.frame == f)) })
          .next (s5.bandNext i b 1024)
  | _ => .next s

/-! ## The presentation clock (R253 to R255) -/

/-- A change of the servo's state raises vector 4 (R433). -/
def State.servoTo (s : State) (st : ServoSt) : State :=
  if s.servo.st = st then s else ({ s with servo := { s.servo with st := st, inRange := 0 } }).irq 4

def State.setServo (s : State) (f : Servo → Servo) : State := { s with servo := f s.servo }

/-- The clock stepped by an offset (R254). -/
def State.stepClock (s : State) (off : Int) : State := { s with ptime := (((s.ptime : Int) - off) % 18446744073709551616).toNat }

/-- A frequency correction, in parts of 10^9, of at most 200 ppm: the spec gives its bound and no value (a free value). -/
def State.correct (s : State) : State :=
  let r := s.free 32
  r.2.setServo (fun v => { v with freq := ((r.1.toNat % 400001 : Nat) : Int) - 200000 })

/-- The state change that a measured offset makes (R254): LOCKED is lost beyond 1 us, and reached by 16 offsets in a row within
200 ns. -/
def State.servoJudge (s : State) (off : Int) : State :=
  match s.servo.st with
  | .locked => if 1000 < off.natAbs then s.servoTo .acquiring else s
  | .acquiring =>
    if off.natAbs ≤ 200 then
      if 16 ≤ s.servo.inRange + 1 then s.servoTo .locked else s.setServo (fun v => { v with inRange := v.inRange + 1 })
    else s.setServo (fun v => { v with inRange := 0 })
  | _ => s

/-- What the servo does to the clock on a measured offset (R254): a step beyond 1 ms while it acquires, else a correction. -/
def State.servoAct (s : State) (off : Int) : State :=
  if s.servo.st = .acquiring ∧ 1000000 < off.natAbs then s.stepClock off else s.correct

/-- What the arrival of a Sync changes (R254): a grandmaster chosen begins ACQUIRING, and the offset that the last two-step Sync
gave, known since its Follow_Up, makes its change. -/
def State.servoArrive (s : State) : State :=
  let s1 := if s.servo.st = .freerun ∨ s.servo.st = .holdover then s.servoTo .acquiring else s
  match s1.servo.pending with
  | none => s1
  | some off => (s1.servoJudge off).setServo (fun v => { v with pending := none })

/-- Whether the servo, which the house core runs, takes a message that came in on a port for a domain (R18, R19, R253). -/
def State.ptpOn (s : State) (port : BitVec 2) (domain : Nat) : Bool :=
  s.houseUp && s.servo.enable && port.toNat == s.servo.actPort && domain == s.servo.domain && s.servo.gm.isSome

/-- The time of a PTP timestamp (R106). -/
def ptpNs (t : PtpTime) : Nat := (t.sec.toNat * 1000000000 + t.ns.toNat) % 18446744073709551616

/-- The clock as a port's timestamp gives it, corrected for the port's fixed delay: on the way in, or out. -/
def State.stampIn (s : State) : Nat := (((s.ptime : Int) - Config.portDelay s.servo.actPort) % 18446744073709551616).toNat
def State.stampOut (s : State) : Nat := (((s.ptime : Int) + Config.portDelay s.servo.actPort) % 18446744073709551616).toNat

/-- The offset that a Sync's times give. -/
def State.syncOffset (s : State) (t1 t2 : Nat) : Int := timeDiff t2 t1 - s.servo.delay

/-- SYNC (R253, R254): a one-step Sync is measured at once; the time of a two-step one comes with its Follow_Up. -/
def execSync (s : State) : Out :=
  match s.arg with
  | .sync port domain twoStep t1 =>
    if !s.ptpOn port domain then .next s
    else
      let t2 := s.stampIn
      let s1 := s.servoArrive
      if twoStep then .next (s1.setServo (fun v => { v with t1 := none, t2 := t2 }))
      else
        let off := s.syncOffset (ptpNs t1) t2
        .next (((s1.setServo (fun v => { v with t1 := some (ptpNs t1), t2 := t2, offset := off })).servoJudge off).servoAct off)
  | _ => .next s

/-- FOLLOW_UP (R253, R254): the time of the last two-step Sync; the state changes that its offset makes come with the next Sync. -/
def execFollowUp (s : State) : Out :=
  match s.arg with
  | .portTime port domain t =>
    if !s.ptpOn port domain || s.servo.t1.isSome then .next s
    else
      let off := s.syncOffset (ptpNs t) s.servo.t2
      .next ((s.setServo (fun v => { v with t1 := some (ptpNs t), offset := off, pending := some off })).servoAct off)
  | _ => .next s

/-- DELAY_REQ (R253): a Delay_Req leaves with its time. -/
def execDelayReq (s : State) : Out :=
  if s.houseUp && s.servo.enable && s.servo.gm.isSome then
    .next ((s.setServo (fun v => { v with t3 := some s.stampOut })).send (.delayReq s.servo.actPort s.servo.domain s.stampOut))
  else .next s

/-- DELAY_RESP (R253): the end-to-end delay is half of both ways' times. -/
def execDelayResp (s : State) : Out :=
  match s.arg with
  | .portTime port domain t4 =>
    match s.servo.t1, s.servo.t3 with
    | some t1, some t3 =>
      if !s.ptpOn port domain then .next s
      else .next (s.setServo (fun v => { v with t4 := some (ptpNs t4), t3 := none,
                                                delay := (timeDiff v.t2 t1 + timeDiff (ptpNs t4) t3) / 2 }))
    | _, _ => .next s
  | _ => .next s

/-- The default best master clock algorithm's order: less is better. -/
def gmKey (g : GmData) : List Nat :=
  [g.priority1.toNat, g.clockClass.toNat, g.accuracy.toNat, g.variance.toNat, g.priority2.toNat, g.identity.toNat, g.stepsRemoved.toNat]

/-- ANNOUNCE (R253): the best master clock algorithm chooses. -/
def execAnnounce (s : State) : Out :=
  match s.arg with
  | .announce port domain gm =>
    if !s.houseUp || !s.servo.enable || port.toNat != s.servo.actPort || domain != s.servo.domain then .next s
    else
      let take : Bool := match s.servo.gm with
        | none => true
        | some g => g.identity == gm.identity || lexLt (gmKey gm) (gmKey g)
      .next (if take then s.setServo (fun v => { v with gm := some gm, gmid := gm.identity }) else s)
  | _ => .next s

/-- ANNOUNCE_TIMEOUT (R253, R254): the device moves to the partner port where it may and the partner answers; else a locked
servo goes to HOLDOVER. -/
def execAnnounceTimeout (s : State) : Out :=
  match s.arg with
  | .flag partner =>
    if !s.houseUp || !s.servo.enable || s.servo.gm.isNone then .next s
    else
      let s1 := s.setServo (fun v => { v with gm := none, pending := none, t1 := none, t3 := none })
      if s.servo.failover && partner then .next (s1.setServo (fun v => { v with actPort := v.actPort ^^^ 1 }))
      else .next (if s.servo.st = .locked then s1.servoTo .holdover else s1)
  | _ => .next s

/-- A write of PTP_CTL (R255). A DOMAIN above 127 is ignored; a port chosen anew is the one in use; ENABLE 0 returns the servo
to FREERUN. -/
def State.ptpCtl (s : State) (v : Word) : State :=
  let dom := v.toNat / 256 % 256
  let port := v.toNat / 2 % 4
  let s1 := s.setServo (fun x => { x with
    enable := v.getLsbD 0, failover := v.getLsbD 3, domain := if dom < 128 then dom else x.domain,
    port := port, actPort := if port = x.port && x.enable then x.actPort else port })
  if v.getLsbD 0 then s1
  else (s1.setServo (fun x => { x with gm := none, gmid := 0, pending := none, t1 := none, t3 := none, t4 := none })).servoTo .freerun

/-- PTP_ENABLE: a write of PTP_CTL with ENABLE set. -/
def execPtpEnable (s : State) : Out :=
  match s.arg with
  | .word v => if v.getLsbD 0 then s.regWr (fun a => a.ptpCtl v) else .next s
  | _ => .next s

/-- PTP_DISABLE: a write of PTP_CTL with ENABLE clear. -/
def execPtpDisable (s : State) : Out :=
  match s.arg with
  | .word v => if v.getLsbD 0 then .next s else s.regWr (fun a => a.ptpCtl v)
  | _ => .next s

end Sys2Proof.Machine
end

