-- ==== Sys2Proof/Machine/Place.lean ====
section
/-! DEFINITION. What the scheduler decides: the order of restores, waves and pixel teams (R307, R308, R359), placement (R311),
aging (R308), pre-emption (R51, R331), swap-out and restore (R50). -/

namespace Sys2Proof.Machine

/-! ## Hypotheses about room -/

/-- The state as it would be with some teams off their cores: their cluster shares stay lent (R44). -/
def State.without (s : State) (ids : List Nat) : State :=
  { s with teams := s.teams.map (fun t => if ids.contains t.id then { t with st := .saved } else t) }

/-- The pass whose pixel grid a grid is. -/
def State.pixelPass (s : State) (g : Grid) : Option Pass := s.passes.find? (fun p => p.grid == g.id)

/-- Whether a grid has teams, of its next wave or of its pixels, that the rules let be placed, room aside (R310, R359). -/
def State.mayRun (s : State) (g : Grid) : Bool :=
  match s.pixelPass g with
  | some p => !g.stopped && !(s.pixelNext p g).isEmpty && s.unpressed g
  | none => s.mayPlace g

/-- The cores that a grid's next teams would get now. -/
def State.coresFor (s : State) (g : Grid) : List Nat :=
  match s.pixelPass g with
  | some p => ((s.pixelNext p g).findSome? (fun j => (s.pixelCores p g j.bin).head?.map (fun c => c.1))).toList
  | none => s.waveCores g

/-- The cores that they need. -/
def State.coresNeeded (s : State) (g : Grid) : Nat := if (s.pixelPass g).isSome then 1 else g.cores

/-- Whether they find room: some core, or every core of a persistent wave, which is placed wholly or not at all (R311, R329). -/
def State.hasRoom (s : State) (g : Grid) : Bool :=
  if g.desc.persist then decide (s.coresNeeded g ≤ (s.coresFor g).length) else !(s.coresFor g).isEmpty

/-! ## Restores (R50, R308) -/

/-- Whether a saved team is eligible: some wait of it has ended, or it was pre-empted and some thread waits on nothing. -/
def Team.eligible (t : Team) : Bool :=
  t.st == .saved && (t.liveThreads.isEmpty || t.liveThreads.any (fun th =>
    match th.wait with
    | none => true
    | some x => x.woken.isSome))

/-- A core for each of some saved teams, no two alike, the team's old one first; none where one finds none. `taken` are the cores
given by now. -/
def State.restorePlan (s : State) : List Team → List Nat → Option (List (Team × Nat))
  | [], _ => some []
  | t :: rest, taken =>
    match (t.core :: List.range Config.cores).find? (fun c => !taken.contains c && s.restoreFits t taken c) with
    | none => none
    | some c => (s.restorePlan rest (c :: taken)).map (fun r => (t, c) :: r)

/-- The members of a team's gang that are off their cores, once none is still being saved; none else. -/
def State.gangSaved (s : State) (t : Team) : Option (List Team) :=
  let ts := s.gangTeams t
  if ts.any (fun u => u.st == .halted || u.st == .halting) then none else some (ts.filter (fun u => u.st == .saved))

/-- How an eligible team, with its gang, would be restored now (R41, R50). -/
def State.restoreHow (s : State) (t : Team) : Option (List (Team × Nat)) :=
  if t.eligible then (s.gangSaved t).bind (fun ts => s.restorePlan ts []) else none

/-- Whether a restore that could be made now comes before a key of R308. -/
def State.restoreBefore (s : State) (key : List Nat) : Bool :=
  s.teams.any (fun t =>
    ((s.grid? t.grid).map (fun h => lexLt (s.urgency h 0) key)).getD false && (s.restoreHow t).isSome)

/-! ## Placement (R308, R311) -/

/-- A grid's next wave is placed, if room qualifies. -/
def State.tryPlace (s : State) (g : Grid) : Option State :=
  match s.freeRec with
  | none => none
  | some i =>
    if s.hasRoom g then some (s.placeOn g i (s.waveCores g)) else none

/-- A grid's next teams are placed, if room qualifies: a wave after the shedding of R316, or a pixel team. -/
def State.tryGrid (s : State) (g : Grid) : Option State :=
  match s.pixelPass g with
  | some p => s.placePixels p
  | none => if g.hasNext then s.tryPlace g else none

/-- Grids that may run, most urgent first. -/
def State.placeList (s : State) : List Grid :=
  (s.grids.filter s.mayRun).mergeSort (fun a b => !lexLt (s.urgency b 1) (s.urgency a 1))

/-- The first of the grids whose teams can be placed gets them, unless a restore comes before it. -/
def State.placeFirst (s : State) : List Grid → State
  | [] => s
  | g :: rest =>
    let s1 := s.shed g
    match s1.grid? g.id with
    | none => s1
    | some g1 =>
      if s1.restoreBefore (s1.urgency g1 1) then s1
      else
        match s1.tryGrid g1 with
        | some s2 => s2
        | none => s1.placeFirst rest

/-- WAVE_PLACEMENT (R308, R311, R328, R359): a continuation whose resources fit by now, else the most urgent wave or pixel
team. -/
def execWavePlacement (s : State) : Out :=
  match s.teams.find? (fun t => t.st == .contWait && (t.cont.bind (fun x => (s.useOf t.core [t.id]).addTeam x.2.1)).isSome) with
  | some t => .next (s.continueTeam t)
  | none => .next (s.placeFirst s.placeList)

/-- AGING (R308): a task without a deadline whose next wave has been placeable and unplaced for 10 ms gains one. -/
def execAging (s : State) : Out :=
  match s.arg with
  | .idx seq =>
    match s.entry? seq with
    | none => .next s
    | some e =>
      match e.placeable with
      | none => .next s
      | some t =>
        if e.ctx.deadline.isNone ∧ e.agedDl.isNone ∧ t + 10000000 ≤ s.ptime then
          .next (s.updEntry seq (fun x => { x with agedDl := some (t + 10000000) }))
        else .next s
  | _ => .next s

/-! ## Pre-emption (R51, R331) -/

/-- Whether some thread of a team holds a pixel lock (R50, R363). -/
def Team.locked (t : Team) : Bool := t.warps.any (fun w => w.threads.any (fun th => th.pixLock))

/-- Whether a team may be halted: it is on its core, holds no pixel lock and has no halted warp (R50). -/
def Team.stoppable (t : Team) : Bool := t.st == .resident && !t.agent && !t.locked && t.warps.all (fun w => w.halt.isNone)

/-- Teams that may be pre-empted, in the order of R331: those of whose gang every member may be halted. -/
def State.victims (s : State) : List Team :=
  (s.teams.filter (fun t => (t.stoppable && (s.gangTeams t).all Team.stoppable) &&
    ((s.grid? t.grid).map (fun g => (s.sortDl g.task).isNone && !g.desc.persist)).getD false)).mergeSort (fun a b =>
      let key (t : Team) : List Nat := [((s.eff (s.ctxOf t).region).map Region.prio).getD 0, 18446744073709551615 - (s.ctxOf t).seq,
        18446744073709551615 - t.index]
      !lexLt (key b) (key a))

/-- Adds victims, whole gangs, until the teams' cores are there. -/
def State.chooseVictims (s : State) (g : Grid) : List Team → List Nat → List Nat
  | [], got => if (s.without got).hasRoom g then got else []
  | t :: rest, got =>
    if s.coresNeeded g ≤ ((s.without got).coresFor g).length then got
    else if got.contains t.id then s.chooseVictims g rest got
    else s.chooseVictims g rest (got ++ (s.gangTeams t).map Team.id)

/-- Halts every resident team of the victims' cores (R51): the victims, whose agents then save them; the other teams release as
at a halt, once their commands in flight have finished, and go on (R210). -/
def State.preEmpt (s : State) (ids : List Nat) : State :=
  let cores := ((s.teams.filter (fun t => ids.contains t.id)).map Team.core).eraseDups
  let others := s.teams.filter (fun t => cores.contains t.core && t.st == .resident && !t.agent && !ids.contains t.id)
  let s1 := others.foldl (fun a t => if a.quiet t then a.haltEffects t else a.updTeam t.id (fun u => { u with st := .pausing })) s
  let s2 := cores.foldl (fun a c => a.pushEvent c (eventWords 3 0 0)) s1
  ids.foldl (fun a id =>
    match a.team? id with
    | none => a
    | some t => (a.haltTeam id).pushEvent t.core (eventWords 4 t.handle (saveArea id))) s2

/-- Whether a grid's next teams pre-empt: their deadline is nearer than their region's slack, which is not 0, and they find no
room (R331). -/
def State.preEmpts (s : State) (g : Grid) : Bool :=
  s.mayRun g && s.pressed g && decide (((s.eff g.task.region).map Region.slack).getD 0 ≠ 0) && !s.hasRoom g

/-- PRE_EMPTION (R331): the most urgent of the waves that may pre-empt. -/
def execPreEmption (s : State) : Out :=
  match (s.grids.filter s.preEmpts).mergeSort (fun a b => !lexLt (s.urgency b 1) (s.urgency a 1)) with
  | [] => .next s
  | g :: _ => .next (s.preEmpt (s.chooseVictims g s.victims []))

/-! ## Swap-out and restore (R50) -/

/-- Whether every thread of a team that has not exited has waited SWAP_WAIT, and nothing keeps the team on its core
(R50). -/
def State.swappable (s : State) (t : Team) : Bool :=
  let wait := ((s.eff (s.ctxOf t).region).map Region.swapWait).getD 0
  t.st == .resident && !t.agent && wait != 0 && !t.locked && !t.liveThreads.isEmpty && t.warps.all (fun w => w.halt.isNone) &&
    s.copies.all (fun x => x.team != t.id) && s.quiet t &&
    t.liveThreads.all (fun th =>
      match th.wait with
      | none => false
      | some x => x.on != .yield && x.woken.isNone && decide (x.since + 1000 * wait ≤ s.now))

/-- Whether a placement waits for what some teams hold: it cannot be made now, and the scheduler would make it on a core of theirs
if they were gone. A wave whose teams are not all claimed counts too (R313). -/
def State.wanted (s : State) (ts : List Team) : Bool :=
  let cores := ts.map Team.core
  let s1 := s.without (ts.map Team.id)
  s.grids.any (fun g => s.mayRun g && !s.hasRoom g && s1.hasRoom g && (s1.coresFor g).any (fun c => cores.contains c)) ||
    s.waves.any (fun w => w.open_ &&
      ((s.grid? w.grid).map (fun g =>
        if g.desc.gangX = 0 then
          w.cores.any (fun c => cores.contains c && !s.fitsOn g.desc true c && s1.fitsOn g.desc true c)
        else (w.gangsLeft g.desc.gang).any (fun i =>
          (s.reserveGang g w i).isNone && ((s1.reserveGang g w i).map (fun r => r.2.any (fun c => cores.contains c))).getD false))).getD false) ||
    s.teams.any (fun t => (s.restoreHow t).isNone &&
      ((s1.restoreHow t).map (fun p => p.any (fun x => cores.contains x.2))).getD false)

/-- SWAP_OUT (R50): a team, or its whole gang, is halted and its agent told to save it. -/
def execSwapOut (s : State) : Out :=
  match s.arg with
  | .idx id =>
    match s.team? id with
    | none => .next s
    | some t =>
      let ts := s.gangTeams t
      if ts.all s.swappable ∧ s.wanted ts then
        .next (ts.foldl (fun a u => (a.haltTeam u.id).pushEvent u.core (eventWords 4 u.handle (saveArea u.id))) s)
      else .next s
  | _ => .next s

/-- Whether something that could be placed now comes before the restore of a team (R308): a wave, pixel team or other
restore. -/
def State.restoreLater (s : State) (t : Team) : Bool :=
  match s.grid? t.grid with
  | none => false
  | some h =>
    s.grids.any (fun g => s.mayRun g && lexLt (s.urgency g 1) (s.urgency h 0) && (s.tryGrid g).isSome) ||
      s.restoreBefore (s.urgency h 0)

/-- RESTORE (R50): the agent of a core that can take an eligible team is told to restore it; of a gang, the agents of cores for
all its members. -/
def execRestore (s : State) : Out :=
  match s.arg with
  | .idx2 id core =>
    match s.team? id with
    | none => .next s
    | some t =>
      let ts := s.gangTeams t
      if !(ts.any Team.eligible) ∨ s.restoreLater t then .next s
      else if t.desc.gangX = 0 then
        .next (if s.restoreFits t [] core then s.pushEvent core (eventWords 5 0 t.area) else s)
      else
        match (s.gangSaved t).bind (fun us => s.restorePlan us []) with
        | none => .next s
        | some plan => .next (plan.foldl (fun a p => a.pushEvent p.2 (eventWords 5 0 p.1.area)) s)
  | _ => .next s

end Sys2Proof.Machine
end

