-- ==== Sys2Proof/Machine/Rays.lean ====
section
/-! DEFINITION. Ray queries and leaf prediction (R333, R337 to R353). -/

namespace Sys2Proof.Machine

/-! ## What a query computes (R337 to R341) -/

/-- Words as f32 values. -/
def f32Vals (ws : List Word) : List Num := ws.map (fun w => value .f32 w.toNat)

/-- A ray: origin, direction and interval. -/
structure Ray where
  o    : List Num
  d    : List Num
  tmin : Num
  tmax : Num

/-- The ray of an octet (R347). -/
def rayOf (ws : List Word) : Ray :=
  let v := f32Vals ws
  { o := v.take 3, d := (v.drop 4).take 3, tmin := v.getD 3 (.nan false), tmax := v.getD 7 (.nan false) }

/-- The conditions of INVALID (R337). -/
def Ray.invalid (r : Ray) : Bool :=
  (r.o ++ r.d ++ [r.tmin, r.tmax]).any Num.isNan || r.o.any Num.isInf || r.d.all Num.isZero || ltNum r.tmax r.tmin

/-- A sum of products and a term, exact, then rne (R338). -/
def dotNum (ps : List (Num × Num)) (c : Num) : Num :=
  f32r (ps.foldl (fun (acc : Num × Bool) p =>
    let q := mulNum p.1 p.2
    let x := addNum .rne acc.1 q.1
    (x.1, acc.2 || q.2 || x.2)) (c, false))

/-- The ray in an instance's object space (R338). -/
def Ray.into (r : Ray) (m : List Word) : Ray :=
  let row (i : Nat) : List Num := f32Vals ((m.drop (4 * i)).take 4)
  { r with o := (List.range 3).map (fun i => dotNum ((row i).zip r.o) ((row i).getD 3 (.nan false))),
           d := (List.range 3).map (fun i => dotNum ((row i).zip r.d) (.fin false 0)) }

/-- The rational of a finite value. -/
def finRat : Num → Option Rat
  | .fin n m => some (if n then -m else m)
  | _ => none

/-- A rational rounded to f32; none where the result is infinite. -/
def rneRat (x : Rat) : Option Rat := finRat (f32r (.ofRat x false, false))

/-- The magnitude of a value. -/
def absNum : Num → Num
  | .nan s => .nan s
  | .inf _ => .inf false
  | .fin _ m => .fin false m

/-- kz of R339: the largest component, ties to the highest index. -/
def rayAxis (d : List Num) : Nat :=
  let a (i : Nat) : Num := absNum (d.getD i (.fin false 0))
  let j := if ltNum (a 1) (a 0) then 0 else 1
  if ltNum (a 2) (a j) then j else 2

/-- The shear of a ray (R339): kx, ky, kz, sx, sy, sz. -/
structure Shear where
  kx : Nat
  ky : Nat
  kz : Nat
  sx : Rat
  sy : Rat
  sz : Rat

def Ray.shear (r : Ray) : Option Shear :=
  let kz := rayAxis r.d
  let x0 := (kz + 1) % 3
  let y0 := (kz + 2) % 3
  let dz := r.d.getD kz (.fin false 0)
  let swap := dz.neg?
  let kx := if swap then y0 else x0
  let ky := if swap then x0 else y0
  let quot (a : Num) : Option Rat :=
    let q := divNum a dz
    finRat (f32r (q.1, q.2.1))
  match quot (r.d.getD kx (.fin false 0)), quot (r.d.getD ky (.fin false 0)), quot (.fin false 1) with
  | some sx, some sy, some sz => some { kx := kx, ky := ky, kz := kz, sx := sx, sy := sy, sz := sz }
  | _, _, _ => none

/-- A vertex relative to the ray, sheared: Px, Py, Pz. -/
def Shear.at (h : Shear) (o : List Num) (v : List Word) : Option (Rat × Rat × Rat) :=
  let e (i : Nat) : Option Rat :=
    match finRat (value .f32 (v.getD i 0).toNat), finRat (o.getD i (.nan false)) with
    | some a, some b => rneRat (a - b)
    | _, _ => none
  match e h.kx, e h.ky, e h.kz with
  | some ex, some ey, some ez =>
    match rneRat (ex - h.sx * ez), rneRat (ey - h.sy * ez), rneRat (h.sz * ez) with
    | some px, some py, some pz => some (px, py, pz)
    | _, _, _ => none
  | _, _, _ => none

/-- The test of R339: t, b1, b2 and front of a hit. An exact zero is +0 (log entry 61). -/
def Ray.tri (r : Ray) (v : List Word) : Option (Word × Word × Word × Bool) :=
  match r.shear with
  | none => none
  | some h =>
    match h.at r.o (v.take 3), h.at r.o ((v.drop 3).take 3), h.at r.o ((v.drop 6).take 3) with
    | some (ax, ay, az), some (bx, by', bz), some (cx, cy, cz) =>
      let u := cx * by' - cy * bx
      let w1 := ax * cy - ay * cx
      let w2 := bx * ay - by' * ax
      let det := u + w1 + w2
      if !((decide (0 ≤ u) && decide (0 ≤ w1) && decide (0 ≤ w2)) || (decide (u ≤ 0) && decide (w1 ≤ 0) && decide (w2 ≤ 0))) || det == 0 then none
      else
        let t := rne (.ofRat ((u * az + w1 * bz + w2 * cz) / det) false)
        let tv := value .f32 t
        let word (x : Rat) : Word := BitVec.ofNat 32 (rne (.ofRat (x / det) false))
        if tv.isInf || ltNum tv r.tmin || ltNum r.tmax tv then none
        else some (BitVec.ofNat 32 t, word w1, word w2, decide (det < 0))
    | _, _, _ => none

/-- The flags of a ray (R347). -/
def rfBack (f : Word) : Bool := f.getLsbD 8
def rfFront (f : Word) : Bool := f.getLsbD 9
def rfOpaque (f : Word) : Bool := f.getLsbD 10
def rfNoOpaque (f : Word) : Bool := f.getLsbD 11
def rfFast (f : Word) : Bool := f.getLsbD 12

/-- A candidate's opacity (R340). -/
def rayOpaque (geom : Bool) (iflags : Nat) (f : Word) : Bool :=
  if rfOpaque f then true
  else if rfNoOpaque f then false
  else if iflags % 2 = 1 then true
  else if iflags / 2 % 2 = 1 then false
  else geom

/-- The candidates of a bottom structure for a ray in its space (R339, R340). -/
def Bvh.cands (b : Bvh) (r : Ray) (f : Word) (inst iflags : Nat) : List RayHit :=
  b.geoms.zipIdx.flatMap (fun g => g.1.tris.zipIdx.filterMap (fun p =>
    match r.tri p.1 with
    | none => none
    | some (t, b1, b2, front) =>
      if iflags / 4 % 2 = 0 ∧ ((rfBack f ∧ !front) ∨ (rfFront f ∧ front)) then none
      else some { t := t, b1 := b1, b2 := b2, instance_ := BitVec.ofNat 32 inst, geom := BitVec.ofNat 32 g.2,
                  prim := BitVec.ofNat 32 p.2, front := front, opaque_ := rayOpaque g.1.isOpaque iflags f }))

/-- The order of keys (R340). -/
def RayHit.before (a b : RayHit) : Bool :=
  let x := value .f32 a.t.toNat
  let y := value .f32 b.t.toNat
  ltNum x y || (eqNum x y && lexLt [a.instance_.toNat, a.geom.toNat, a.prim.toNat] [b.instance_.toNat, b.geom.toNat, b.prim.toNat])

/-! ## Reading structures (R347) -/

/-- What the read of a structure comes to: its generation and what was captured of it; or the end of the query, with an
engine-error record where a page is at fault. -/
inductive BvhRead where
  | ok (hdr : List Byte) (b : Bvh)
  | error (page : Bool)

/-- Whether every page of n bytes at an address can be read. -/
def State.pagesOk (s : State) (k : TaskCtx) (va n : Nat) : Bool :=
  (List.range ((n + 4095) / 4096)).all (fun i =>
    match s.tr k (va + 4096 * i) .read with
    | .ok _ => true
    | _ => false)

/-- A structure whose header's bytes are read by `rd`. -/
def bvhBy (s : State) (k : TaskCtx) (rd : Nat → Byte) (va : Nat) : BvhRead :=
  match s.tr k va .read with
  | .ok pa =>
    let h := (locRange (locPhys pa) 128).map rd
    if !hdrReady h then .error false
    else
      match s.bvhs.find? (fun b => b.header == pa && b.gen == fieldOf h 0 4) with
      | none => .error true
      | some b => if s.pagesOk k (fieldOf h 0x10 8) (fieldOf h 0x18 8) then .ok h b else .error true
  | _ => .error true

/-- A block of n bytes of pages whose error cannot be corrected (R421), with the virtual address of its page. -/
def State.pagesErr (s : State) (k : TaskCtx) (va n : Nat) : Option (Nat × Nat) :=
  s.bad.findSome? (fun b => ((List.range ((n + 4095) / 4096)).find? (fun i =>
    match s.tr k (va + 4096 * i) .read with
    | .ok pa => decide (locPhys pa / 4096 = b / 4096)
    | _ => false)).map (fun i => (va + 4096 * i, b)))

/-- Such a block of a structure's header or of the bytes of its node area in use (R421), with the virtual address of its page. -/
def State.bvhErr (s : State) (k : TaskCtx) (va : Nat) : Option (Nat × Nat) :=
  match s.tr k va .read with
  | .ok pa =>
    match s.bad.find? (fun b => decide (locPhys pa ≤ b) && decide (b < locPhys pa + 128)) with
    | some b => some (va, b)
    | none =>
      let h := (locRange (locPhys pa) 128).map s.rdNew
      s.pagesErr k (fieldOf h 0x10 8) (fieldOf h 0x18 8)
  | _ => none

/-- A structure as a thread's query reads it, through the thread's view. -/
def bvhRead (s : State) (k : TaskCtx) (w : Warp) (th : Thread) (va : Nat) : BvhRead := bvhBy s k (s.rdThr w th) va

/-- The structures that a query uses: the header's own first, then the BOTTOM of each instance that its mask lets in
(R338), with the ray in each one's space. -/
structure RayPart where
  va     : Nat
  gen    : Nat
  inst   : Nat
  iflags : Nat
  ray    : Ray
  b      : Bvh

/-- Reads the instances that the mask lets in; an invalid ray in an instance's space meets nothing (R338). -/
def rayParts (s : State) (k : TaskCtx) (w : Warp) (th : Thread) (r : Ray) (mask : Nat) : List (BvhInst × Nat) → Except Bool (List RayPart)
  | [] => .ok []
  | (x, i) :: t =>
    if x.mask &&& mask = 0 then rayParts s k w th r mask t
    else
      match bvhRead s k w th x.bottom, rayParts s k w th r mask t with
      | .error p, _ => .error p
      | _, .error p => .error p
      | .ok h b, .ok l =>
        .ok ({ va := x.bottom, gen := fieldOf h 0 4, inst := i, iflags := x.iflags, ray := r.into x.m, b := b } :: l)

/-- The candidates of the parts, in ascending key. -/
def partCands (f : Word) (ps : List RayPart) : List RayHit :=
  (ps.flatMap (fun p => if p.ray.invalid then [] else p.b.cands p.ray f p.inst p.iflags)).mergeSort (fun a b => !b.before a)

/-- Whether the structures that a query meets, each as often as it meets it, hold triangles or instances enough for an issue to end
with CONTINUE (R348; log entry 62). -/
def bvhsBig (bs : List Bvh) : Bool :=
  decide (64 < bs.foldl (fun n b => n + b.insts.length) 0) ||
    decide (64 < bs.foldl (fun n b => b.geoms.foldl (fun m g => m + g.tris.length) n) 0)

/-- The values of a structure as words. -/
def Bvh.words (b : Bvh) : List Word :=
  b.geoms.flatMap (fun g => (if g.isOpaque then 1 else 0) :: g.tris.flatMap (fun t => t)) ++
    b.insts.flatMap (fun i => i.m ++ [BitVec.ofNat 32 i.mask, BitVec.ofNat 32 i.iflags])

/-! ## Events (R342, R343, R348) -/

/-- A query that has reached an event. `ctr` counts the free values taken. -/
structure RayStep where
  q     : RayQuery
  event : Nat
  ctr   : Nat
  page  : Bool := false

def RayQuery.endWith (q : RayQuery) (event ctr : Nat) : RayStep :=
  { q := { q with st := .done, cand := none, todo := [], tests := 0 }, event := event, ctr := ctr }

/-- CONTINUE. -/
def RayQuery.pause (q : RayQuery) (ctr : Nat) : RayStep := { q := { q with st := .run, cand := none, tests := q.tests + 64 }, event := 3, ctr := ctr }

def RayQuery.present (q : RayQuery) (c : RayHit) (ctr : Nat) : RayStep :=
  { q := { q with st := .ask, cand := some c, presented := q.presented + 1, tests := 0 }, event := 2, ctr := ctr }

/-- Exact mode (R342). -/
def RayQuery.exact (q : RayQuery) (ctr : Nat) : RayStep :=
  match q.todo with
  | [] => q.endWith 1 ctr
  | m :: r => if m.opaque_ then { q with hit := some m }.endWith 0 ctr else { q with todo := r }.present m ctr

/-- The triangle tests that the next event of exact mode takes at the least: no box test removes a candidate whose t is that of the
least key (R341). -/
def RayQuery.least (q : RayQuery) : Nat :=
  match q.todo with
  | [] => 0
  | m :: r => 1 + r.countP (fun c => !ltNum (value .f32 m.t.toNat) (value .f32 c.t.toNat))

/-- Fast mode (R343): the order in which candidates are found is free. `left` are the triangle tests that the issue has left; one that
lowers the bound or presents takes one. -/
def RayQuery.fast (q : RayQuery) (left : Nat) : Nat → Nat → RayStep
  | 0, ctr => q.endWith (if q.hit.isSome then 0 else 1) ctr
  | n + 1, ctr =>
    let i := (Config.freeValue 32 ctr).toNat % max q.todo.length 1
    match q.todo[i]? with
    | none => q.endWith (if q.hit.isSome then 0 else 1) ctr
    | some c =>
      let q1 := { q with todo := q.todo.eraseIdx i }
      if q.hit.any (fun h => !c.before h) then q1.fast left n (ctr + 1)
      else if left = 0 then q.pause (ctr + 1)
      else if c.opaque_ then { q1 with hit := some c }.fast (left - 1) n (ctr + 1)
      else q1.present c (ctr + 1)

/-- Runs a query to its event. An issue ends with CONTINUE where its event takes more than its 64 triangle tests; of big structures
it may too: a free choice, which in deterministic mode depends only on what R348 names. -/
def RayQuery.run (q : RayQuery) (det : Bool) (bs : List Bvh) (ctr : Nat) : RayStep :=
  let q1 := { q with issues := q.issues + 1 }
  let fast : Bool := rfFast q.flags && !det
  let pause : Bool :=
    bvhsBig bs &&
      (if det then Config.rayPause (q.ray ++ [q.flags] ++ bs.flatMap Bvh.words) q.presented q.issues else Config.freeValue 1 ctr == 1)
  if pause || (!fast && decide (q.tests + 64 < q.least)) then q1.pause (ctr + 1)
  else if fast then q1.fast 64 (q.todo.length + 1) (ctr + 1)
  else q1.exact (ctr + 1)

/-- Applies the recorded decision (R342, R343): some event where it ends the query. -/
def RayQuery.decide (q : RayQuery) (det : Bool) : RayQuery × Bool :=
  match q.st with
  | .told =>
    if q.decision = 1 then ({ q with cand := none }, false)
    else ({ q with hit := q.cand, cand := none }, q.decision == 2 || !(rfFast q.flags && !det))
  | _ => (q, false)

/-! ## Leaf prediction (R344, R345) -/

/-- A component of the key's position. -/
def leafPos (x : Num) (qexp : Int) : Int := min (max ((x.rat * pow2 (-qexp)).floor) (-2147483648)) 2147483647

/-- The key of a query (R344): set within the partition, and tag. A direction with an infinite component has none. -/
def leafKey (r : Ray) (qexp : Int) (asid va : Nat) : Option (Nat × Nat) :=
  if r.d.any Num.isInf then none
  else
    let d (i : Nat) : Rat := (r.d.getD i (.fin false 0)).rat
    let ab (x : Rat) : Rat := if x < 0 then -x else x
    let sg (x : Rat) : Rat := if x < 0 then -1 else 1
    let s := ab (d 0) + ab (d 1) + ab (d 2)
    let x := d 0 / s
    let y := d 1 / s
    let p := if d 2 < 0 then ((1 - ab y) * sg x, (1 - ab x) * sg y) else (x, y)
    let du := min ((p.1 + 1) * 128).floor.toNat 255
    let dv := min ((p.2 + 1) * 128).floor.toNat 255
    let c (i : Nat) : DWord := BitVec.ofInt 64 (leafPos (r.o.getD i (.fin false 0)) qexp) &&& 0xFFFF
    let lo := c 0 ||| (c 1 <<< 16) ||| (c 2 <<< 32) ||| (BitVec.ofNat 64 du <<< 48) ||| (BitVec.ofNat 64 dv <<< 56)
    let h := mix64 (lo ^^^ ((BitVec.ofNat 64 asid ||| (BitVec.ofNat 64 (va / 128 % 2 ^ 41) <<< 16)) * randG))
    some (h.toNat % 64, h.toNat / 2 ^ 32)

/-- A query's entry is used: the hit of R345 makes it the latest used. -/
def State.leafLook (s : State) (cluster set tag region va : Nat) (gens : List (Nat × Nat)) : State :=
  let top (x : LeafEntry) : Bool := x.top == va && (gens.find? (fun g => g.1 == x.bottom)).any (fun g => g.2 == x.bgen) &&
    (x.top == x.bottom || (gens.find? (fun g => g.1 == va)).any (fun g => g.2 == x.tgen))
  { s with leaves := s.leaves.map (fun x =>
      if x.cluster == cluster && x.set == set && x.tag == tag && x.region == region && top x then { x with used := s.tick } else x) }

/-- The entry that a HIT writes (R345): over one with equal tag, region and header, else an invalid way, else the least
recently used. -/
def State.leafWrite (s : State) (e : LeafEntry) : State :=
  let same (x : LeafEntry) : Bool := x.cluster == e.cluster && x.set == e.set
  let set := s.leaves.filter same
  let way :=
    match set.find? (fun x => x.tag == e.tag && x.region == e.region && x.top == e.top) with
    | some x => x.way
    | none =>
      match (List.range 4).find? (fun i => !set.any (fun x => x.way == i)) with
      | some i => i
      | none => (set.foldl (fun (a : Nat × Nat) x => if x.used < a.2 then (x.way, x.used) else a) (0, s.tick + 1)).1
  { s with leaves := { e with way := way, used := s.tick } :: s.leaves.filter (fun x => !(same x && x.way == way)) }

/-- What the ray unit keeps of a lane's query: its use of the table at rayq, and its entry when it ends with HIT. In
deterministic mode the table is neither read nor written. -/
def State.leafAct (s : State) (k : TaskCtx) (core : Nat) (hdr : List Byte) (q : RayQuery) (look hit : Bool) : State :=
  let va := (q.gens.headD (0, 0)).1
  if k.det then s
  else
    match leafKey (rayOf q.ray) (ifieldOf hdr 5 1) (fieldOf hdr 6 2) va with
    | none => s
    | some (set0, tag) =>
      let set := 64 * ((s.eff k.region).map Region.leaf).getD 0 + set0
      let s1 := if look then s.leafLook (core / 4) set tag k.region va q.gens else s
      match (if hit then q.hit else none) with
      | none => s1
      | some h =>
        let top := q.gens.headD (0, 0)
        let bot := if fieldOf hdr 4 1 = 0 then top
          else (((s.bvhs.find? (fun b => some b.header == (match s.tr k va .read with
            | .ok pa => some pa
            | _ => none) && b.gen == top.2)).bind (fun b => b.insts[h.instance_.toNat]?)).bind
              (fun i => q.gens.find? (fun g => g.1 == i.bottom))).getD top
        s1.leafWrite { cluster := core / 4, set := set, way := 0, tag := tag, region := k.region, asid := fieldOf hdr 6 2,
                       top := va, bottom := bot.1, tgen := top.2, bgen := bot.2,
                       leaf := h.geom.toNat * 4294967296 + h.prim.toNat, used := 0 }

/-! ## Instructions (R346 to R351) -/

/-- The engine-error record of a lane's query (R347, R408). -/
def State.rayErr (s : State) (c : Ctx) (t : Team) (w : Warp) (l : Nat) : State :=
  s.engineErr (s.ctxOf t) 5 7 w.idx t.index c.pc.toNat l

/-- A query started in a lane (R347, R348). -/
def rayStart (s : State) (k : TaskCtx) (w : Warp) (l : Nat) (ws : List Word) (f : Word) (va : Nat) : RayStep :=
  let q : RayQuery := { flags := f, ray := ws }
  let r := rayOf ws
  let th := w.thr l
  if r.invalid then q.endWith 4 s.freeCtr
  else
    match bvhRead s k w th va with
    | .error p => { q.endWith 5 s.freeCtr with page := p }
    | .ok h b =>
      let q1 := { q with gens := [(va, b.gen)] }
      let top : RayPart := { va := va, gen := b.gen, inst := 0, iflags := 0, ray := r, b := b }
      match (if fieldOf h 4 1 = 0 then (.ok [] : Except Bool (List RayPart)) else rayParts s k w th r (f.toNat % 256) b.insts.zipIdx) with
      | .error p => { q1.endWith 5 s.freeCtr with page := p }
      | .ok ps =>
        let q2 := { q1 with gens := (va, b.gen) :: ps.map (fun (p : RayPart) => (p.va, p.gen)),
                            todo := partCands f (if fieldOf h 4 1 = 0 then [top] else ps) }
        q2.run k.det (b :: ps.map RayPart.b) s.freeCtr

/-- A lane's query as a bundle leaves it, with the table and the log. -/
def State.rayPut (s : State) (c : Ctx) (t : Team) (w : Warp) (k : TaskCtx) (l : Nat) (look : Bool) (r : RayStep) : State :=
  let s1 : State := { s with freeCtr := r.ctr }.updThr c.team c.warp l (fun th => { th with rq := r.q })
  let hdr := match r.q.gens with
    | [] => none
    | (va, _) :: _ => match bvhRead s k w (w.thr l) va with
      | .ok h _ => some h
      | .error _ => none
  let s2 := match hdr with
    | some h => s1.leafAct k t.core h r.q look (r.event == 0)
    | none => s1
  if r.page then s2.rayErr c t w l else s2

/-- Runs the lanes in ascending order; the answer is the state and each lane's event. -/
def rayLanes (c : Ctx) (t : Team) (w : Warp) (k : TaskCtx) (look : Bool) (f : State → Nat → RayStep) :
    List Nat → State → State × List (Nat × Word)
  | [], s => (s, [])
  | l :: rest, s =>
    let r := f s l
    let x := rayLanes c t w k look f rest (s.rayPut c t w k l look r)
    (x.1, (l, BitVec.ofNat 32 r.event) :: x.2)

/-- A ray fault (R352) in the first lane that meets p. -/
def rayFault (lanes : List Nat) (detail : Nat) (p : Nat → Bool) (go : KOut) : KOut :=
  match lanes.find? p with
  | some l => .halt { cause := 11, detail := detail, lane := l }
  | none => go

/-- The lowest lane whose query reads a block with an error that cannot be corrected halts its warp before anything is written
(R421); `a` holds the queries with the structures that they read. -/
def rayEcc (s a : State) (c : Ctx) (k : TaskCtx) (go : KOut) : KOut :=
  match c.lanes.findSome? (fun l => ((a.thr? c.team c.warp l).bind (fun th => th.rq.gens.findSome? (fun g => s.bvhErr k g.1))).map
      (fun e => (l, e))) with
  | some (l, va, b) => .memErr { cause := 15, lane := l, faddr := va } b
  | none => go

/-- The octet of a lane. -/
def rayOctet (w : Warp) (l a : Nat) : List Word := (List.range 8).map (fun i => (w.thr l).rv (a + i))

/-- The header's KIND and STATE as a query takes them (R347). -/
def hdrOk (h : List Byte) : Bool := hdrReady h && decide (fieldOf h 4 1 < 2)

/-- rayq (R347): the header's address first, then each lane's flags, then the header as each lane reads it. -/
def execRayq (o : SOp) : State → Out :=
  kernelOp (.rayq o) (fun c t w s =>
    let k := s.ctxOf t
    let va := (w.rkPair o.b.toNat).toNat
    let fl (l : Nat) : Word := (w.thr l).rv o.d.toNat
    match s.recAt k va 128 with
    | .stop (.halt h) => .halt { h with lane := c.lanes.headD 0 }
    | .stop (.page ps) => .page (ps.map (fun p => { p with kind := 0 }))
    | .stop x => x
    | .loc x =>
      rayFault c.lanes 2 (fun l => decide (8192 ≤ (fl l).toNat) || (rfOpaque (fl l) && rfNoOpaque (fl l)))
        (rayFault c.lanes 3 (fun l => !hdrOk ((locRange x 128).map (s.rdThr w (w.thr l))))
          (let r := rayLanes c t w k true (fun a l => rayStart a k w l (rayOctet w l o.a.toNat) (fl l) va) c.lanes s
           rayEcc s r.1 c k
             (.ok (r.1.commit c o.la.toNat (vGrp o.d 1) (r.2.map (fun p => (p.1, [(Reg.v o.d.toNat, p.2)]))))))))

/-- The structures of a query read again (R347), their headers as they now are: none where a generation has changed, BUSY is set or a
structure cannot be read. -/
def rayAgain (s : State) (k : TaskCtx) : List (Nat × Nat) → Except Bool (List Bvh)
  | [] => .ok []
  | (va, gen) :: t =>
    match bvhBy s k s.rdNew va, rayAgain s k t with
    | .error p, _ => .error p
    | _, .error p => .error p
    | .ok _ b, .ok r => if b.gen = gen then .ok (b :: r) else .error false

/-- A lane's query goes on (R347, R348). -/
def rayNext (s : State) (k : TaskCtx) (w : Warp) (l : Nat) : RayStep :=
  let th := w.thr l
  let q := th.rq
  match rayAgain s k q.gens with
  | .error p => { q.endWith 5 s.freeCtr with page := p }
  | .ok bs =>
    let r := q.decide k.det
    if r.2 then r.1.endWith 0 s.freeCtr else r.1.run k.det bs s.freeCtr

/-- raynext (R348): legal in RUN and TOLD. -/
def execRaynext (o : SOp) : State → Out :=
  kernelOp (.raynext o) (fun c t w s =>
    rayFault c.lanes 1 (fun l => (w.thr l).rq.st != .run && (w.thr l).rq.st != .told)
      (let r := rayLanes c t w (s.ctxOf t) false (fun a l => rayNext a (s.ctxOf t) w l) c.lanes s
       rayEcc s s c (s.ctxOf t)
         (.ok (r.1.commit c o.la.toNat (vGrp o.d 1) (r.2.map (fun p => (p.1, [(Reg.v o.d.toNat, p.2)])))))))

/-- Records a decision in every lane (R349): 0 accept, 1 ignore, 2 end. -/
def rayTell (decision : Nat) (c : Ctx) (w : Warp) (s : State) : KOut :=
  rayFault c.lanes 1 (fun l => (w.thr l).rq.st != .ask)
    (.ok (s.mapThr c.team c.warp (fun l th =>
      if c.lanes.contains l then { th with rq := { th.rq with st := .told, decision := decision } } else th)))

/-- rayacc (R349). -/
def execRayacc (o : SOp) : State → Out := kernelOp (.rayacc o) (fun c _ w s => rayTell 0 c w s)

/-- rayign (R349). -/
def execRayign (o : SOp) : State → Out := kernelOp (.rayign o) (fun c _ w s => rayTell 1 c w s)

/-- rayend (R349). -/
def execRayend (o : SOp) : State → Out := kernelOp (.rayend o) (fun c _ w s => rayTell 2 c w s)

/-- The value of rayrd's selector (R350). -/
def rayVal (q : RayQuery) (hit : Bool) (sel : Nat) : Word :=
  let h := if hit then q.hit.getD {} else q.cand.getD {}
  match sel with
  | 0 => h.t
  | 1 => h.b1
  | 2 => h.b2
  | 3 => h.instance_
  | 4 => h.geom
  | 5 => h.prim
  | 6 => if h.front then 1 else 0
  | _ => BitVec.ofNat 32 q.presented

/-- rayrd (R350): .cand in ASK and TOLD only, and neither form in IDLE. -/
def execRayrd (o : SOp) : State → Out :=
  kernelOp (.rayrd o) (fun c _ w s =>
    let hit := o.b.getLsbD 0
    rayFault c.lanes 1 (fun l =>
        let st := (w.thr l).rq.st
        st == .idle || (!hit && st != .ask && st != .told))
      (.ok (s.commit c o.la.toNat (vGrp o.d 1)
        (c.lanes.map (fun l => (l, [(Reg.v o.d.toNat, rayVal (w.thr l).rq hit o.a.toNat)]))))))

/-- rtinv (R351). -/
def execRtinv (o : SOp) : State → Out :=
  kernelOp (.rtinv o) (fun c t w s =>
    let x := (w.rk o.a.toNat).toNat
    let region := (s.ctxOf t).region
    if x = 0xFFFFFFFF then .ok { s with leaves := s.leaves.filter (fun e => e.region != region) }
    else if 65536 ≤ x then .halt { cause := 11, detail := 2, lane := c.lanes.headD 0 }
    else .ok { s with leaves := s.leaves.filter (fun e => !(e.region == region && e.asid == x)) })

end Sys2Proof.Machine
end

