-- ==== Sys2Proof/Machine/Round.lean ====
section
/-! DEFINITION. Deterministic rounds: the end of a share (R182), the boundary with its held effects, flushes, admissions and
refilled slots (R180, R183 to R187, R453, R455), and the completion of pending instructions (R76). -/

namespace Sys2Proof.Machine

/-! ## Pending instructions and shares -/

/-- PENDING_WRITEBACK (R76): a pending instruction whose results are known writes them. -/
def execPendingWriteback (s : State) : Out :=
  match s.arg with
  | .idx3 t w i =>
    match (s.warp? t w).bind (fun v => v.pend[i]?) with
    | none => .next s
    | some p => .next (s.updWarp t w (fun v => v.complete (fun x => x == p)))
  | _ => .next s

/-- QUANTUM_EXPIRY (R182): the share of a warp whose retired count has risen by Q ends. -/
def execQuantumExpiry (s : State) : Out :=
  match s.arg with
  | .idx2 t w =>
    match s.team? t, s.warp? t w with
    | some u, some v =>
      let k := s.ctxOf u
      if k.det ∧ s.quantumOf k.region ≤ (v.retired - v.roundBase).toNat then
        .next (s.updWarp t w (fun x => { x with shareEnd := true }))
      else .next s
    | _, _ => .next s
  | _ => .next s

/-! ## The window's teams (R180) -/

/-- The team of a sequence number. -/
def State.seqTeam (s : State) (g : Nat) (seq : Nat) : Option Team :=
  s.teams.find? (fun t => t.grid == g && t.pos == seq && !t.agent)

/-- Whether the team of a sequence number was instantiated and is gone. -/
def State.seqGone (s : State) (g : Grid) (seq : Nat) : Bool :=
  (s.seqTeam g.id seq).isNone && decide (seq < g.nextPos) &&
    s.waves.all (fun w => w.grid != g.id || decide (seq < w.first) || decide (w.first + w.count ≤ seq) || w.taken.contains seq)

/-- Whether a team has come to its logical end: no thread is left, none of its warps is halted, and nothing follows it. -/
def Team.finished (t : Team) : Bool := t.liveThreads.isEmpty && t.warps.all (fun w => w.halt.isNone) && t.cont.isNone

/-- Whether a sequence number's team has ended (R180). -/
def State.seqOver (s : State) (g : Grid) (seq : Nat) : Bool :=
  s.seqGone g seq || ((s.seqTeam g.id seq).map Team.finished).getD false

/-- The numbers in the window, from slot r mod Wd on (R183). -/
def Grid.inOrder (g : Grid) : List Nat :=
  let n := g.round % max g.slots.length 1
  (g.slots.drop n ++ g.slots.take n).filterMap (fun x => x)

/-- Whether a slot lets the boundary be taken (R182): its team's warps have ended their shares, none is halted, its landings
are made, and no continuation of an earlier round is still to be instantiated. -/
def State.slotReady (s : State) (g : Grid) (seq : Nat) : Bool :=
  match s.seqTeam g.id seq with
  | none => s.seqGone g seq
  | some t =>
    t.st != .claimed && t.st != .contWait && !t.due && t.warps.all (fun w => w.halt.isNone && s.shareOver g.task w) &&
      s.copies.all (fun x => x.team != t.id || x.kind == 3) && s.gathers.all (fun x => x.team != t.id) &&
      s.matq.all (fun x => x.team != t.id)

/-- Whether a chunk of an operand stream of the grid could land now (R182, R244). -/
def State.chunkDue (s : State) (g : Nat) : Bool :=
  s.ssubs.any (fun x => x.grid == g && decide (0 < x.credits) &&
    ((x.pub.bind (fun i => s.spubs.find? (fun p => p.id == i))).map (fun p => decide (x.next < p.count))).getD false)

/-- Slots after a boundary: a gang whose teams have all ended gives its slots to the next one (R180); where several have, the
lowest slots come first (DESIGN CHOICE; log entry 139). -/
def refill (gone : Nat → Bool) (n limit : Nat) : Nat → Nat → List (Option Nat) → List (Option Nat) × Nat
  | 0, next, xs => (xs, next)
  | fuel + 1, next, xs =>
    match xs with
    | [] => ([], next)
    | _ =>
      let a := xs.take n
      let go := a.any Option.isSome && a.all (fun x => match x with
        | none => true
        | some q => gone q)
      let b : List (Option Nat) :=
        if !go then a else if next + n ≤ limit then (List.range n).map (fun i => some (next + i)) else a.map (fun _ => none)
      let r := refill gone n limit fuel (if go && decide (next + n ≤ limit) then next + n else next) (xs.drop n)
      (b ++ r.1, r.2)

/-- Whether the boundary would change anything: held effects, an expired share, an ended wait, a queued launch, or an ended
team. A round in which nothing can happen is not ended (log entry 41). -/
def State.roundDue (s : State) (g : Grid) : Bool :=
  let q := s.quantumOf g.task.region
  (refill (s.seqOver g) g.desc.gang g.limit g.slots.length g.nextSeq g.slots).1 != g.slots ||
    g.inOrder.any (fun n =>
      (match s.seqTeam g.id n with
       | none => false
       | some t =>
         !t.launchQ.isEmpty || (t.cont.isSome && t.liveThreads.isEmpty) ||
           t.warps.any (fun w => !w.held.isEmpty || decide (q ≤ (w.retired - w.roundBase).toNat) ||
             w.threads.any (fun th => (th.wait.map WaitRec.held).getD false))))

/-! ## Applying held effects (R183, R184, R455) -/

/-- Completes an instruction that waited for the boundary in some of its lanes (R76, R184), where its destination takes the values
given; it stays pending in the others. -/
def Warp.settle (w : Warp) (dst : Nat) (lanes : List Nat) (ws : List (Nat × List (Reg × Word))) : Warp :=
  let mine (p : Pend) : Bool := p.cmd.isNone && !p.ready && !p.done && p.regs.contains (.v dst) &&
    p.lanes.any (fun (x : Nat × Nat) => lanes.contains x.1)
  let now := w.pend.filter mine
  { w with pend := w.pend.flatMap (fun p =>
      if mine p then
        { p with lanes := p.lanes.filter (fun (x : Nat × Nat) => lanes.contains x.1), ready := true,
                 writes := ws.filter (fun x => (p.left x.1).isSome && lanes.contains x.1) } ::
          (let rest := p.lanes.filter (fun (x : Nat × Nat) => !lanes.contains x.1)
           if rest.isEmpty then [] else [{ p with lanes := rest }])
      else [p]) }.complete (fun p => now.any (fun x => x.regs == p.regs))

/-- The space whose default scope is S, for an operation that has only the scope to know. -/
def scopeSpace : Scope → Space
  | .core => .s
  | .cluster => .c
  | _ => .g

/-- The order of scopes (R197). -/
def Scope.rank : Scope → Nat
  | .dflt => 0 | .thread => 0 | .core => 1 | .cluster => 2 | .chip => 3 | .system => 4

/-- What applying an effect comes to: the state, the releases raised for the held reductions, and effects that stay held. -/
structure Applied where
  s    : State
  rels : List (Scope × Option (List (Nat × Nat))) := []
  left : List Held := []

/-- The release of each of a warp's lanes. -/
def State.releaseLanes (s : State) (t : Team) (w : Nat) (lanes : List Nat) (cov : Cover) : State :=
  lanes.foldl (fun a l =>
    match a.thr? t.id w l with
    | none => a
    | some th => a.release (.core t.core) th cov) s

/-- A failed check of R455: the update is dropped and the warp halts, once. -/
def State.roundHalt (s : State) (c : Ctx) (h : HaltInfo) : State :=
  match s.warp? c.team c.warp with
  | some w => if w.halt.isSome then s else s.haltWarp c h true
  | none => s

/-- A held arrival (R226, R228, R455). -/
def State.roundArrive (s : State) (c : Ctx) (t : Team) (g : Grid) (l : Nat) (lanes : List Nat) (drop : Bool) (rel : Option Scope)
    (dst : Nat) : Applied :=
  let o := s.barRead l
  let token (x : Word) (a : State) : State :=
    a.updWarp c.team c.warp (fun v => v.settle dst lanes (lanes.map (fun n => (n, [(Reg.v dst, x)]))))
  match o.arriveBad lanes.length drop with
  | some d => { s := token (o.token ||| 0x80000000) (s.roundHalt { c with lanes := lanes } { cause := 6, detail := d }) }
  | none =>
    let upd (a : State) (ents : List BarEntry) : State :=
      token o.token (a.barUpdate (locSpace l) (.core t.core) (some g.id) l (s.stampFor g.task) (.arrive lanes.length drop) ents)
    match rel with
    | some sc =>
      if o.broken then { s := upd s [] }
      else { s := upd (s.releaseLanes t c.warp lanes { scope := sc }) (s.arrivalEntries c t lanes { scope := sc }), rels := [(sc, none)] }
    | none => { s := upd s [] }

/-- A held push (R187, R248). A record page that is not resident keeps the boundary waiting. -/
def State.roundPush (s : State) (c : Ctx) (t : Team) (g : Grid) (hdr : Nat) (recs : List (Nat × List Word)) (dst : Nat) :
    Except (List PageNeed) Applied :=
  let q := s.qRead hdr
  let m := q.room recs.length
  let answer (a : State) (xs : List (Nat × Word)) : State :=
    a.updWarp c.team c.warp (fun v => v.settle dst (xs.map (fun p => p.1)) (xs.map (fun p => (p.1, [(Reg.v dst, p.2)]))))
  let lost (a : State) (h : HaltInfo) : Except (List PageNeed) Applied :=
    let r := a.free 32
    .ok { s := (answer r.2 (recs.map (fun p => (p.1, r.1)))).roundHalt { c with lanes := recs.map (fun p => p.1) } h }
  match qRecLocs s g.task hdr q .write q.tail m with
  | .error (.page ps) => .error ps
  | .error (.halt h) => lost s h
  | .error (.memErr h l) => lost (s.memErr g.task.seq l) h
  | .error (.ok a) => .ok { s := a }
  | .ok ls =>
    let s1 := s.releaseLanes t c.warp ((recs.take m).map (fun p => p.1)) { scope := .chip }
    let r := s1.qPushes (.core t.core) g.id hdr (recTable q.tail ls) recs
    let s2 := if m = 0 then r.2 else r.2.qSignal (.core t.core) (some g.id) hdr (s.stampFor g.task)
    .ok { s := answer s2 (r.1.map (fun p => (p.1, BitVec.ofNat 32 p.2))), rels := if m = 0 then [] else [(.chip, none)] }

/-- A held pop (R187, R249): lanes that find the queue empty and open stay held. -/
def State.roundPop (s : State) (c : Ctx) (g : Grid) (t : Team) (h : Held) (hdr : Nat) (lanes : List Nat) (quad dst : Nat) :
    Except (List PageNeed) Applied :=
  let q := s.qRead hdr
  let m := min lanes.length q.count
  let vd := BitVec.ofNat 6 quad
  let vs := BitVec.ofNat 6 dst
  let answer (a : State) (ws : List (Nat × List (Reg × Word))) : State :=
    a.updWarp c.team c.warp (fun v => v.settle dst (ws.map (fun p => p.1)) ws)
  let lost (a : State) (x : HaltInfo) : Except (List PageNeed) Applied :=
    let r := a.free 32
    .ok { s := (answer r.2 (lanes.map (fun l => (l, popWrites vd vs none r.1.toNat)))).roundHalt { c with lanes := lanes } x }
  match qRecLocs s g.task hdr q .read q.head m with
  | .error (.page ps) => .error ps
  | .error (.halt x) => lost s x
  | .error (.memErr x l) => lost (s.memErr g.task.seq l) x
  | .error (.ok a) => .ok { s := a }
  | .ok ls =>
    let res := lanes.mapIdx (fun i x => (x, QHdr.pop { q with head := (q.head + min i m) % 4294967296 } none))
    let waits := (res.filter (fun p => match p.2 with | .wait => true | _ => false)).map (fun p => p.1)
    let s1 := if m = 0 then s else
      s.wrPub .chip (.core t.core) (some g.id) (atLoc (hdr + 0x28) (leBytes 4 ((q.head + m) % 4294967296)))
    let ws := res.filterMap (fun p => match p.2 with
      | .take n => some (p.1, popWrites vd vs (some (wordsOfBytes 4 ((locRange (recTable q.head ls n) 16).map s.rdNew))) 0)
      | .status n => some (p.1, popWrites vd vs none n)
      | .wait => none)
    .ok { s := answer s1 ws, left := if waits.isEmpty then [] else [{ h with fx := .qpop hdr waits quad dst }] }

/-- The locations whose bytes a held effect reads, or writes in part, at the boundary. -/
def HeldFx.locs : HeldFx → List Nat
  | .store _ bs => bs.map Prod.fst
  | .atoms ops _ _ _ => ops.map AtomOp.loc
  | .barinit l _ | .arrive l _ _ _ _ | .expect l _ | .qpush l _ _ | .qpop l _ _ _ => [l]
  | .sqwr _ bits => bits.map Prod.fst
  | .landed _ _ _ _ | .reds _ _ _ | .release _ _ _ | .pixel _ _ | .unlock _ => []

/-- The registers that a held effect writes: the one that is pending, the lanes in which it is, and what each lane's results are. -/
def HeldFx.results : HeldFx → Option (Nat × List Nat × List (Nat × List Reg))
  | .atoms ops lanes dst _ => some (dst, lanes, ops.map (fun a => (a.lane, [.v dst])))
  | .arrive _ lanes _ _ dst => some (dst, lanes, lanes.map (fun l => (l, [.v dst])))
  | .qpush _ recs dst => some (dst, recs.map Prod.fst, recs.map (fun p => (p.1, [.v dst])))
  | .qpop _ lanes quad dst => some (dst, lanes, lanes.map (fun l => (l, .v dst :: (List.range 4).map (fun j => .v (quad + j)))))
  | _ => none

/-- A held effect meets an error that cannot be corrected (R421): it is dropped, its warp halts, and the registers that it left
pending complete with free values (DESIGN CHOICE; log entry 174). -/
def State.fxLost (s : State) (g : Grid) (c : Ctx) (fx : HeldFx) (l : Nat) : State :=
  match fx.results with
  | none => s.heldErr g c 0 l
  | some (dst, lanes, ws) =>
    let r := s.free 32
    (r.2.updWarp c.team c.warp (fun v => v.settle dst lanes (ws.map (fun p => (p.1, p.2.map (fun x => (x, r.1))))))).heldErr g c
      (lanes.headD 0) l

/-- Applies one held effect of a warp. -/
def State.applyFx (s : State) (g : Grid) (t : Team) (w : Nat) (h : Held) : Except (List PageNeed) Applied :=
  let c : Ctx := { team := t.id, warp := w, lanes := [], pc := h.pc, words := h.words }
  let P : Party := .core t.core
  match h.fx.locs.find? s.objErr with
  | some l => .ok { s := s.fxLost g c h.fx l }
  | none =>
  match h.fx with
  | .store lane bs => .ok { s := s.store c g.id lane bs }
  | .atoms ops lanes dst scope =>
    let r := s.atomics c (scopeSpace scope) P g.id true ops
    .ok { s := r.2.updWarp t.id w (fun v => v.settle dst lanes (r.1.map (fun p => (p.1, [(Reg.v dst, p.2)])))) }
  | .reds _ _ _ => .ok { s := s }
  | .release lanes cov flush => .ok { s := s.releaseLanes t w lanes cov, rels := [(cov.scope, flush)] }
  | .barinit l n =>
    .ok { s := if s.barBusy l then s.roundHalt c { cause := 6, detail := 6 } else s.barInit (locSpace l) P (some g.id) l n }
  | .arrive l lanes drop rel dst => .ok (s.roundArrive c t g l lanes drop rel dst)
  | .expect l n =>
    let o := s.barRead l
    .ok { s := if !o.broken && o.bad then s.roundHalt c { cause := 6, detail := 7 }
               else s.barUpdate (locSpace l) P (some g.id) l (s.stampFor g.task) (.expect n) [] }
  | .landed l n unit ents =>
    let x : EngCtx := { team := t.id, warp := w, pc := h.pc, unit := unit }
    if s.objErr l then .ok { s := ((s.memErr g.task.seq l).barBreak (locSpace l) P l).engRecord x 4 }
    else
      let r := s.barLand (locSpace l) P (some g.id) g.task l n ents
      .ok { s := if r.2 then r.1 else r.1.engRecord x 2 }
  | .qpush hdr recs dst => s.roundPush c t g hdr recs dst
  | .qpop hdr lanes quad dst => s.roundPop c g t h hdr lanes quad dst
  | .sqwr lane bits =>
    let ws := bits.map (fun p => (p.1, (s.rdNew p.1 &&& ~~~ p.2.1) ||| (p.2.2 &&& p.2.1)))
    .ok { s := (s.store c g.id lane ws).publish .chip P (serials s.nextSer ws) }
  | .pixel lane colour =>
    match s.warp? t.id w with
    | none => .ok { s := s }
    | some v =>
      match t.pixelAt v lane with
      | none => .ok { s := s }
      | some (j, x, y) => .ok { s := s.resolve j x y colour }
  | .unlock lane =>
    match s.warp? t.id w with
    | none => .ok { s := s }
    | some v =>
      match t.pixelAt v lane with
      | none => .ok { s := s }
      | some (j, x, y) => .ok { s := s.dropLock j x y }

/-- The effects of a warp in issue order. -/
def State.applyWarp (s : State) (g : Grid) (t : Team) (w : Nat) : List Held → Except (List PageNeed) Applied
  | [] => .ok { s := s }
  | h :: rest =>
    match s.applyFx g t w h with
    | .error e => .error e
    | .ok a =>
      match a.s.applyWarp g t w rest with
      | .error e => .error e
      | .ok b => .ok { s := b.s, rels := a.rels ++ b.rels, left := a.left ++ b.left }

/-- The warps of a team in ascending index. -/
def State.applyTeam (s : State) (g : Grid) (t : Team) : List Warp → Except (List PageNeed) Applied
  | [] => .ok { s := s }
  | w :: rest =>
    match (s.updWarp t.id w.idx (fun v => { v with held := [] })).applyWarp g t w.idx w.held with
    | .error e => .error e
    | .ok a =>
      match (a.s.updWarp t.id w.idx (fun v => { v with held := a.left })).applyTeam g t rest with
      | .error e => .error e
      | .ok b => .ok { s := b.s, rels := a.rels ++ b.rels }

/-- The window, slot by slot. -/
def State.applySlots (s : State) (g : Grid) : List Nat → Except (List PageNeed) Applied
  | [] => .ok { s := s }
  | n :: rest =>
    match s.seqTeam g.id n with
    | none => s.applySlots g rest
    | some t =>
      match s.applyTeam g t t.warps with
      | .error e => .error e
      | .ok a =>
        match a.s.applySlots g rest with
        | .error e => .error e
        | .ok b => .ok { s := b.s, rels := a.rels ++ b.rels }

/-- Whether a held effect is an access of a store or an atomic. -/
def HeldFx.isAccess : HeldFx → Bool
  | .store _ _ | .atoms _ _ _ _ | .sqwr _ _ => true
  | _ => false

/-! ## Held reductions (R185) -/

/-- The reductions that a team's warps held in this round, with their keys. -/
def heldReds (g : Grid) (t : Team) : List (List Nat × AtomOp × Scope × Nat) :=
  t.warps.flatMap (fun w => w.held.zipIdx.flatMap (fun p =>
    match p.1.fx with
    | .reds ops scope sp => ops.map (fun a => ([t.pos, w.idx, g.round, p.2, a.lane], a, scope, sp))
    | _ => []))

/-- The accesses that a grid's teams have issued and a deterministic grid holds, performed before the teams end (R216, R419): slot by
slot, the reductions last. -/
def State.performHeld (s : State) (g : Grid) : State :=
  let ts := (s.teams.filter (fun t => t.grid == g.id && !t.agent)).mergeSort (fun a b => decide (a.pos ≤ b.pos))
  let s1 := ts.foldl (fun a t => t.warps.foldl (fun b w => (w.held.filter (fun h => h.fx.isAccess)).foldl (fun x h =>
    match x.applyFx g t w.idx h with
    | .ok r => r.s
    | .error _ => x) b) a) s
  (s1.flushReds g (g.reds ++ ts.flatMap (heldReds g))).updGrid g.id (fun x => { x with reds := [] })

/-- What the end of a grid's teams at an instruction boundary finishes first: the commands in flight and the accesses issued (R51,
R216). -/
def State.finishGrids (s : State) (fin : State → Nat → State) (gs : List Grid) : State :=
  gs.foldl (fun a g =>
    (((a.teams.filter (fun t => t.grid == g.id && !t.agent)).map Team.id).foldl fin a).performHeld g) s

/-- Whether a release of the round flushes a reduction. -/
def flushes (r : Scope × Option (List (Nat × Nat))) (x : List Nat × AtomOp × Scope × Nat) : Bool :=
  decide (Scope.rank x.2.2.1 ≤ Scope.rank r.1) &&
    (match r.2 with
     | none => true
     | some ss => (locRange x.2.1.loc 4).all (fun l => ss.any (fun p => decide (p.1 ≤ l) && decide (l < p.2))))

/-! ## The boundary (R180, R183) -/

/-- A thread at the start of a round: its ended wait is over, its bundle count starts anew (R186), and its view includes every
applied write and what an acquire at system scope takes in (R183). -/
def Thread.newRound (tick : Nat) (ws : List (Nat × Nat)) (th : Thread) : Thread :=
  { th with wait := th.wait.map (fun x => { x with held := false }), issued := 0, ready := tick, view := moveView th.view ws }

/-- The teams of the window at the start of a round. -/
def State.startRound (s : State) (g : Grid) (seqs : List Nat) : State :=
  let mine := (s.hist.filter (fun h => h.by_.grid == some g.id)).map (fun h => (h.loc, h.ser))
  { s with teams := s.teams.map (fun t =>
      if t.grid == g.id && seqs.contains t.pos && !t.agent then
        let ws := s.acqWrites (.core t.core) { scope := .system } ++ mine
        { t with due := t.cont.isSome && t.liveThreads.isEmpty,
                 warps := t.warps.map (fun w => { w with shareEnd := false, roundBase := w.retired, qfences := [],
                                                         threads := w.threads.map (Thread.newRound s.tick ws) }) }
      else t) }

/-- The boundary of a round: held effects slot by slot, flushed reductions, admissions in sequence and call order, then the
slots and the next round. -/
def State.boundary (s : State) (g : Grid) : Except (List PageNeed) State :=
  let order := g.inOrder
  let new := order.flatMap (fun n => ((s.seqTeam g.id n).map (heldReds g)).getD [])
  match s.applySlots g order with
  | .error e => .error e
  | .ok a =>
    let reds := g.reds ++ new
    let go := reds.filter (fun x => a.rels.any (fun r => flushes r x))
    let keep := reds.filter (fun x => !a.rels.any (fun r => flushes r x))
    let s1 := (a.s.flushReds g go).updGrid g.id (fun x => { x with reds := keep })
    let seqs := order.mergeSort (fun a b => decide (a ≤ b))
    let s2 := seqs.foldl (fun a n => (List.range 4).foldl (fun b _ =>
      match b.seqTeam g.id n with
      | none => b
      | some t => b.enroll t) a) s1
    let r := refill (s2.seqOver g) g.desc.gang g.limit g.slots.length g.nextSeq g.slots
    .ok ((s2.startRound g order).updGrid g.id (fun x => { x with round := x.round + 1, slots := r.1, nextSeq := r.2, mark := s2.nextSer }))

/-- ROUND_BOUNDARY (R182, R183). -/
def execRoundBoundary (s : State) : Out :=
  match s.arg with
  | .idx id =>
    match s.grid? id with
    | none => .next s
    | some g =>
      if !g.task.det || !g.inOrder.all (s.slotReady g) || s.chunkDue g.id || !s.roundDue g then .next s
      else
        match s.boundary g with
        | .ok s1 => .next s1
        | .error ps => .next ((s.demands g.task.region ps).getD s)
  | _ => .next s

end Sys2Proof.Machine
end

