-- ==== Sys2Proof/Machine/Stream.lean ====
section
/-! DEFINITION. The control of the task stream (R273 to R275) and the Almanac (R317 to R320). -/

namespace Sys2Proof.Machine

/-! ## The stream's states (R274, R275) -/

/-- The stream enters a state that no task record shows, with its STREAM record (R425). -/
def State.enterSt (s : State) (st : StreamSt) : State :=
  { s with win := { s.win with st := st, fault := 0, finfo := 0, stalls := 0 } }.streamRecord

/-- Physical buffers bound to logical buffers go back to their free lists, in ascending order of logical number, and every
logical buffer becomes unbound, with no class. -/
def State.unbindAll (s : State) : State :=
  let s1 := (List.range 255).foldl (fun (a : State) n =>
    match a.win.mapOf n with
    | some p => a.freeBuf (p / 4096, p % 4096)
    | none => a) s
  { s1 with win := { s1.win with map := [], cls := [], writer := [] } }

/-- IDLE to RUNNING. -/
def State.startStream (s : State) : State :=
  let s1 := s.unbindAll
  { s1 with win := { s1.win with entries := [], stack := [], slot := none, decoded := 0, retired := 0, stopped := false,
                                 epoch := (s1.win.epoch + 1) % 4294967296 } }.enterSt .running

/-- ABORT of a stream that has stopped. The bound buffers are freed in ascending logical number, the order that R275 gives for an entry
into RUNNING (DESIGN CHOICE; log entry 177). -/
def State.abortStream (s : State) : State :=
  let s1 := s.unbindAll
  { s1 with win := { s1.win with enable := false } }.enterSt .idle

/-- RESUME of a stream that has stopped. -/
def State.resumeStream (s : State) : State :=
  { s with win := { s.win with enable := true, decoded := s.win.retired, stopped := false } }.enterSt .running

/-- A write of ENABLE. -/
def State.enableStream (s : State) (on : Bool) : State :=
  let s1 : State := { s with win := { s.win with enable := on } }
  match s.win.st, on with
  | .idle, true => s1.startStream
  | .running, false => s1.enterSt .draining
  | .draining, true => s1.enterSt .running
  | _, _ => s1

/-- Whether the stream is HALTED or FAULTED. -/
def Window.over (w : Window) : Bool := w.st == .halted || w.st == .faulted

/-- A write to TS_CTL: ABORT, RESUME where they act, else ENABLE. A write with ABORT and RESUME acts as ABORT alone. -/
def State.tsCtl (s : State) (v : Word) : State :=
  if v.getLsbD 2 && (v.getLsbD 1 || s.win.over) then (if s.win.over then s.abortStream else s)
  else if v.getLsbD 1 && s.win.over then s.resumeStream
  else s.enableStream (v.getLsbD 0)

/-- STREAM_ENABLE: a write to TS_CTL of ENABLE 1 alone. -/
def execStreamEnable (s : State) : Out :=
  match s.arg with
  | .word v => if v.toNat % 8 = 1 then s.regWr (fun a => a.tsCtl v) else .next s
  | _ => .next s

/-- STREAM_DISABLE: a write to TS_CTL of ENABLE 0 alone. -/
def execStreamDisable (s : State) : Out :=
  match s.arg with
  | .word v => if v.toNat % 8 = 0 then s.regWr (fun a => a.tsCtl v) else .next s
  | _ => .next s

/-- STREAM_RESUME: a write to TS_CTL with RESUME 1. -/
def execStreamResume (s : State) : Out :=
  match s.arg with
  | .word v => if v.getLsbD 1 then s.regWr (fun a => a.tsCtl v) else .next s
  | _ => .next s

/-- STREAM_ABORT: a write to TS_CTL with ABORT 1. -/
def execStreamAbort (s : State) : Out :=
  match s.arg with
  | .word v => if v.getLsbD 2 then s.regWr (fun a => a.tsCtl v) else .next s
  | _ => .next s

/-- STREAM_DRAINED: the window has emptied in DRAINING; the bindings are kept. -/
def execStreamDrained (s : State) : Out :=
  if s.win.st = .draining ∧ s.win.entries.isEmpty then .next (s.enterSt .idle) else .next s

/-- A write to TS_TAIL (R274): a value at or above 2^LOG2 is ignored. -/
def State.doorbell (s : State) (v : Word) : State :=
  let n := v.toNat % 1048576
  if n < 2 ^ s.win.log2 then { s with win := { s.win with tail := n } } else s

/-- DOORBELL (R208, R273). -/
def execDoorbell (s : State) : Out :=
  match s.arg with
  | .word v => s.regWr (fun a => a.doorbell v)
  | _ => .next s

/-! ## The Almanac (R317 to R320) -/

/-- The start of the cycle in which a time lies, from cycle 0 on. -/
def Almanac.cycleOf (a : Almanac) (now : Nat) : Option Nat :=
  if a.epoch.toNat ≤ now then some (a.epoch.toNat + (now - a.epoch.toNat) / a.cycle * a.cycle) else none

/-- What a cycle start latches (R318): every entry, EPOCH and CYCLE; an entry with VALID set that fails sets BAD. BADSLOT
keeps its value at a latching with no failure (log entry 53). -/
def Almanac.latch (a : Almanac) (now : Nat) : Almanac :=
  let bad := (a.slots.filter (fun p => p.2.ctl.getLsbD 31 && !p.2.valid a.cycle)).map (fun p => p.1)
  { a with latched := a.slots, lEpoch := a.epoch.toNat, lCycle := a.cycle, cycleAt := a.cycleOf now, bad := a.bad || !bad.isEmpty,
           badSlot := if bad.isEmpty then a.badSlot else minOf bad }

/-- A task bound to a slot of which no instance was known is bound to the next one (R319), which gives it its deadline
(R307). -/
def State.bindSlot (s : State) (e : Entry) : Entry :=
  match e.slot with
  | some b =>
    if b.inst.isSome ∨ e.done then e
    else
      let i := s.slotInst b.slot
      { e with slot := some { b with inst := i }, ctx := { e.ctx with deadline := minDl e.ctx.deadline (i.map (fun p => p.1 + p.2.1)) } }
  | none => e

/-- ALMANAC_CYCLE_START (R318): the cycle latched last has ended, or none has started yet. -/
def execAlmanacCycleStart (s : State) : Out :=
  let due : Bool := match s.alm.cycleAt with
    | none => decide (s.alm.epoch.toNat ≤ s.ptime)
    | some t => decide (t + s.alm.lCycle ≤ s.ptime) || decide (s.ptime < t)
  if !due then .next s
  else
    let s1 : State := { s with alm := s.alm.latch s.ptime }
    .next { s1 with win := { s1.win with entries := s1.win.entries.map s1.bindSlot } }

/-- The instance of a slot that is open by the latched entry. -/
def State.openNow (s : State) (i : Nat) : Option (Nat × Nat × Nat) :=
  let e := KV.get {} i s.alm.latched
  match s.alm.cycleAt with
  | none => none
  | some t0 =>
    if e.valid s.alm.lCycle then
      ((e.next t0 s.alm.lCycle s.ptime).filter (fun (t : Nat) => decide (t ≤ s.ptime))).map (fun t => (t, e.length.toNat, e.ctl.toNat % 8))
    else none

/-- INSTANCE_OPEN (R319): the instance keeps what was latched for its cycle. One whose predecessor's end has not been taken
yet opens after it. -/
def execInstanceOpen (s : State) : Out :=
  match s.arg with
  | .idx i =>
    if (KV.get (0, 0, 0) i s.alm.opened).2.1 ≠ 0 then .next s
    else
      match s.openNow i with
      | none => .next s
      | some o => .next { s with alm := { s.alm with opened := KV.put (0, 0, 0) i o s.alm.opened } }
  | _ => .next s

/-- Whether a task is a t.kern or t.draw. -/
def isWork (t : TaskRec) : Bool := t.opcode == 0x10 || t.opcode == 0x11

/-- A t.kern or t.draw that a slot's rule drops before it issues (R320). How many waves it would have had is not said: WAVES
is a free value (log entry 54). -/
def State.cutTask (s : State) (e : Entry) : State :=
  let r := s.free 32
  (r.2.updEntry e.seq (fun x => { x with waves := r.1.toNat, wavesRun := 0, cut := true })).complete e.seq none

/-- The waves of a task's grid that are not placed are dropped as R316 drops them; a persistent one is left (R329). -/
def State.dropWaves (s : State) (e : Entry) : State :=
  match e.grid with
  | none => s
  | some id => s.updGrid id (fun g =>
      if g.desc.persist then g else g.drop g.rem)

/-- The rule SHED (R320). -/
def State.ruleShed (s : State) (e : Entry) : State :=
  if !isWork e.task then s else if e.issued then s.dropWaves e else s.cutTask e

/-- Whether a task's persistent wave is not placed yet; no slot rule drops it (R329). -/
def State.persistDue (s : State) (e : Entry) : Bool := (s.gridsOf e).any (fun g => g.desc.persist && g.hasMore)

/-- The rule FAULT: what the task has running stops, and it completes with SLOT_OVERRUN. -/
def State.ruleFault (s : State) (e : Entry) (slot : Nat) : State :=
  let s1 := if e.issued && !s.persistDue e then (s.finishGrids State.matFinish (s.gridsOf e)).stopTask e else s
  let s2 := (s1.colls.filter (fun c => c.seq == e.seq)).foldl (fun a c => (a.collBar c true []).dropColl c.id) s1
  s2.complete e.seq (some (tfOverrun, slot))

/-- What the end of an instance means for one task bound to it that has not completed. -/
def State.slotAct (s : State) (rule slot : Nat) (e : Entry) : State :=
  let s1 : State := { s with alm := { s.alm with overruns := s.alm.overruns + 1 } }
  match rule with
  | 1 => s1.ruleShed e
  | 2 =>
    let s2 := s1.ruleShed e
    match e.ctx.frame with
    | some f => s2.frameLateRow f
    | none => s2
  | 3 => s1.ruleFault e slot
  | _ => s1

/-- What it means for a task bound to it, whose completion is taken first where its work is over. -/
def State.slotRule (s : State) (rule slot : Nat) (e : Entry) : State :=
  let s1 := if e.issued && isWork e.task then s.workTask e else s
  if (s1.entry? e.seq).any Entry.done then s1 else s1.slotAct rule slot e

/-- INSTANCE_END (R320). -/
def execInstanceEnd (s : State) : Out :=
  match s.arg with
  | .idx i =>
    let o := KV.get (0, 0, 0) i s.alm.opened
    if o.2.1 = 0 ∨ s.ptime < o.1 + o.2.1 then .next s
    else
      let s1 : State := { s with alm := { s.alm with opened := KV.put (0, 0, 0) i (0, 0, 0) s.alm.opened } }
      .next ((s.win.entries.filter (fun e => !e.done && e.slot.any (fun b => b.slot == i && b.inst.any (fun x => x.1 == o.1)))).foldl
        (fun a e => a.slotRule o.2.2 i e) s1)
  | _ => .next s

end Sys2Proof.Machine
end

