-- ==== Sys2Proof/Machine/Recovery.lean ====
section
/-! DEFINITION. Recovery (R405 to R427): the journal and log moves, the commands on halted warps, kills, broken objects, memory
errors and the scrubber, and the paging service (R400, R416). -/

namespace Sys2Proof.Machine

/-! ## Records that the device moves (R409, R411, R426) -/

/-- The journal's oldest staged record leaves for the ring; without a ring it is not stored (R423, R426). -/
def State.journalMove (s : State) : State :=
  match s.rcv.staging with
  | [] => s
  | r :: rest =>
    let base := s.rcv.jrBase.toNat / 4096 * 4096
    let s1 : State := { s with rcv := { s.rcv with staging := rest } }
    if base = 0 then s1 else s1.wrRec (base + 64 * (r.jseq % 2 ^ (s.rcv.jrBase.toNat % 32))) r.bytes

/-- JOURNAL_MOVE (R426): the house core moves a record. -/
def execJournalMove (s : State) : Out := .next (if s.houseUp then s.journalMove else s)

/-- HALT_RECORD_WRITE (R411). -/
def execHaltRecordWrite (s : State) : Out := .next s.haltRecWrite

/-- LOG_RECORD_TIMEOUT (R409): an open record is closed 64 µs after it opened. -/
def execLogRecordTimeout (s : State) : Out :=
  match s.arg with
  | .idx2 team warp =>
    match (s.warp? team warp).bind Warp.log with
    | some o => .next (if o.opened + 64000 ≤ s.now then s.closeLog team warp else s)
    | none => .next s
  | _ => .next s

/-! ## Kills (R419) -/

/-- Steps 1 to 7 of a kill: what domain f has is stopped, once the accesses and commands that its teams issued are performed, and its
incomplete tasks complete. The answer counts those that complete with DOMAIN_KILLED. -/
def State.killWork (s0 : State) (f : Nat) : Nat × State :=
  let s := s0.finishGrids State.matFinish (s0.grids.filter (fun g => s0.fdomOf g.task.region == f))
  let es := s.win.entries.filter (fun e => !e.done && s.fdomOf e.ctx.region == f)
  let s1 := s.stopGrids ((s.grids.filter (fun g => s.fdomOf g.task.region == f)).map Grid.id)
  let s2 : State := { s1 with passes := s1.passes.filter (fun p => s.fdomOf p.ctx.region != f),
                              rcv := { s1.rcv with heldHalts := s1.rcv.heldHalts.filter (fun r => fieldOf r 0x1C 2 != f) } }
  let s3 := (s2.colls.filter (fun c => s.fdomOf c.ctx.region == f)).foldl (fun a c => (a.collBar c true []).dropColl c.id) s2
  let s4 := (s3.fqPending.filter (fun n => s3.rdPhys (s3.fqAddr n + 0x12) 2 == f && s3.rdPhys (s3.fqAddr n + 0x1C) 2 == 0)).foldl
    (fun a n => a.wrRec (a.fqAddr n + 0x1C) (leBytes 2 2)) s3
  (es.countP (fun e => !e.marked),
   es.foldl (fun a e => ((a.updEntry e.seq (fun x => { x with killed := true })).unstall (taskKey e.seq)).complete e.seq none) s4)

/-- A kill of domain f starts; `by_` is the CODE of its KILL record. -/
def State.killStart (s : State) (f by_ : Nat) : State :=
  let r := s.killWork f
  { r.2 with rcv := { r.2.rcv with kills := r.2.rcv.kills ++ [(f, by_, r.1)] } }

/-- A write of FD_KILL, ignored while a kill is in progress. -/
def State.fdKillWr (s : State) (v : Word) : State :=
  if !s.rcv.kills.isEmpty then s
  else { s with rcv := { s.rcv with fdKill := v.setWidth 16 } }.killStart (v.toNat % 65536) 0

/-- FD_KILL (R419). -/
def execFdKill (s : State) : Out :=
  match s.arg with
  | .word v => s.regWr (fun a => a.fdKillWr v)
  | _ => .next s

/-- Whether the paging service has still to finish entries of a domain. -/
def State.killPages (s : State) (f : Nat) : Bool :=
  s.houseUp && s.rcv.paging && s.fqPending.any (fun n => s.rdPhys (s.fqAddr n + 0x12) 2 == f)

/-- KILL_COMPLETE (R419): tasks of the domain decoded meanwhile complete too; the KILL record is written, and BUSY clears. Where the
paging service runs, it finishes the domain's entries first. -/
def execKillComplete (s : State) : Out :=
  match s.rcv.kills with
  | [] => .next s
  | (f, by_, n) :: rest =>
    let r := s.killWork f
    if r.2.killPages f then .next { r.2 with rcv := { r.2.rcv with kills := (f, by_, n + r.1) :: rest } }
    else .next ({ r.2 with rcv := { r.2.rcv with kills := rest } }.journal { kind := 6, code := by_, fdom := f, info := n + r.1 })

/-! ## Halted warps (R412, R413) -/

/-- A write of HALT_CMD: ignored while BUSY; OP starts a command on ID. -/
def State.haltCmd (s : State) (v : Word) : State :=
  if s.rcv.haltBusy then s
  else
    let op := v.toNat / 2 ^ 30
    { s with rcv := { s.rcv with haltId := v.setWidth 16, haltOp := if op = 0 then s.rcv.haltOp else op, haltBusy := op != 0 } }

/-- The word that starts a command. -/
def haltWord (op : Nat) (id : Half) : Word := BitVec.ofNat 32 (op * 2 ^ 30 + id.toNat)

/-- HALT_RESUME. -/
def execHaltResume (s : State) : Out :=
  match s.arg with
  | .half id => s.regWr (fun a => a.haltCmd (haltWord 1 id))
  | _ => .next s

/-- HALT_SKIP. -/
def execHaltSkip (s : State) : Out :=
  match s.arg with
  | .half id => s.regWr (fun a => a.haltCmd (haltWord 2 id))
  | _ => .next s

/-- HALT_KILL. -/
def execHaltKill (s : State) : Out :=
  match s.arg with
  | .half id => s.regWr (fun a => a.haltCmd (haltWord 3 id))
  | _ => .next s

/-- The halted warp that an ID names: its team and its index. -/
def State.haltedWarp (s : State) (id : Half) : Option (Team × Warp) :=
  (s.teams.filter (fun t => !t.agent && t.st != .saved)).findSome? (fun t =>
    (t.warps.find? (fun w => w.halt.any (fun h => h.id == id))).map (fun w => (t, w)))

/-- HALT_COMMAND_DONE (R412). -/
def execHaltCommandDone (s : State) : Out :=
  if !s.rcv.haltBusy then .next s
  else
    let fin (a : State) (st : Nat) : State := { a with rcv := { a.rcv with haltBusy := false, haltStatus := st } }
    if s.rcv.haltId.getLsbD 15 then .next (fin s 2)
    else
      match s.haltedWarp s.rcv.haltId with
      | none => .next (fin s 1)
      | some (t, w) =>
        match s.rcv.haltOp with
        | 1 => .next (fin (s.resumeWarp t.id w.idx false) 0)
        | 2 => .next (fin (s.resumeWarp t.id w.idx true) 0)
        | _ => .next (fin (s.killStart (s.fdomOf (s.ctxOf t).region) 0) 0)

/-- Half of a doubleword that REG selects; none for other numbers. -/
def halfOf (x : DWord) (reg : Nat) : Word := if reg = 0 then x.setWidth 32 else if reg = 1 then (x >>> 32).setWidth 32 else 0
def setHalf (x : DWord) (reg : Nat) (v : Word) : DWord :=
  if reg = 0 then (x >>> 32 <<< 32) ||| v.setWidth 64 else if reg = 1 then (v.setWidth 64 <<< 32) ||| (x.setWidth 32).setWidth 64 else x

/-- The item of a halted warp that HALT_ACC selects (R413). -/
def haltItem (t : Team) (w : Warp) (acc : Word) : Word :=
  let l := acc.toNat / 65536 % 64
  let r := acc.toNat % 64
  let th := w.thr l
  match acc.toNat / 2 ^ 28 with
  | 0 => if th.live && decide (r < t.desc.vregs) then th.rv r else 0
  | 1 => w.rk r
  | 2 => if th.live then th.p.setWidth 32 ||| 0x80 else 0
  | 3 => if th.live then halfOf th.pc r else 0
  | 4 => w.mode
  | 5 => halfOf w.retired r
  | _ => 0

/-- HALT_DATA as it reads. -/
def State.haltData (s : State) : Word :=
  match s.haltedWarp s.rcv.haltId with
  | some (t, w) => haltItem t w s.rcv.haltAcc
  | none => 0

/-- A write of the item that HALT_ACC selects. A thread whose program counter is written waits for nothing. -/
def haltWrite (t : Team) (w : Warp) (acc v : Word) : Warp :=
  let l := acc.toNat / 65536 % 64
  let r := acc.toNat % 64
  let live := (w.thr l).live
  match acc.toNat / 2 ^ 28 with
  | 0 => if live && decide (r < t.desc.vregs) then w.updThr l (fun th => th.setV r v) else w
  | 1 => w.setK r v
  | 2 => if live then w.updThr l (fun th => { th with p := v.setWidth 7 }) else w
  | 3 => if live && decide (r < 2) then w.updThr l (fun th => { th with pc := setHalf th.pc r v, wait := none, last := none, conv := none }) else w
  | 4 => { w with mode := v &&& modeMask }
  | _ => w

def State.haltDataWr (s : State) (v : Word) : State :=
  match s.haltedWarp s.rcv.haltId with
  | some (t, w) => s.updWarp t.id w.idx (fun x => haltWrite t x s.rcv.haltAcc v)
  | none => s

/-- HALT_DATA_WRITE (R413). -/
def execHaltDataWrite (s : State) : Out :=
  match s.arg with
  | .word v => s.regWr (fun a => a.haltDataWr v)
  | _ => .next s

/-- OBJ_BREAK's effect (R417). -/
def State.objBreak (s : State) (v : Word) : State :=
  if barSpace v = some .x ∧ barOff v % 32 = 0 ∧ barOff v + 32 ≤ Config.chipBytes then s.barBreak .x .unit (locChip (barOff v)) else s

/-- OBJ_BREAK. -/
def execObjBreak (s : State) : Out :=
  match s.arg with
  | .word v => s.regWr (fun a => a.objBreak v)
  | _ => .next s

/-! ## The house core and its paging service (R19, R400, R416, R429) -/

/-- HOUSE_DIVERGED (R19): the house cores stop, and the host is told. -/
def execHouseDiverged (s : State) : Out :=
  if s.rcv.diverged then .next s
  else .next ({ s with rcv := { s.rcv with diverged := true, paging := false } }.irq 2)

/-- A hart after an instruction it retires; x0 stays 0. -/
def Hart.retire (h : Hart) (r : Retired) : Hart :=
  { pc := r.pc
    x := match r.x with
      | some (n, d) => if n = 0 then h.x else KV.put 0 n.val d h.x
      | none => h.x
    f := match r.f with
      | some (n, d) => KV.put 0 n.val d h.f
      | none => h.f
    fcsr := r.fcsr.getD h.fcsr }

/-- The pair retires an instruction (R18, R19): where the two results are the same it takes effect in both harts and in their SRAM;
on a mismatch both stop before it has any. -/
def State.retire (s : State) (a b : Retired) : Out :=
  if !s.houseRuns then .next s
  else if a = b then
    .next { s with house := { a := s.house.a.retire a, b := s.house.b.retire b,
                              sram := a.sram.foldl (fun m p => KV.put 0 p.1.toNat p.2 m) s.house.sram } }
  else execHouseDiverged s

/-- PAGING_SERVICE_START (R429). -/
def execPagingServiceStart (s : State) : Out :=
  if s.houseUp then .next { s with rcv := { s.rcv with paging := true } } else .next s

/-- Step 7 of R400: STATUS is written, HEAD rises, and what the entry held goes on. -/
def State.finishPage (s : State) (n entry status : Nat) : State :=
  let s1 := s.wrRec (s.fqAddr n + 0x1C) (leBytes 2 status)
  let s2 : State := { s1 with fq := { s1.fq with head := s1.fq.head + 1 }, stalled := s1.stalled.filter (fun e => e.2 != entry + 1) }
  { s2 with teams := s2.teams.map (fun t => t.mapAll (fun th => th.paged1 s2.tick entry)) }

/-- The bytes that fill a page: zeros, or a copy of what the demand entry's BACKING names. -/
def State.pageFill (s : State) (backing base size : Nat) : List (Nat × Byte) :=
  ((List.range size).map (fun i => (locPhys (base + i), if backing = 0 then (0 : Byte) else s.rdUnit .system (locPhys (backing + i))))).filter
    (fun p => physOk p.1)

/-- Whether a page's BACKING holds bytes that an error has lost. -/
def State.backingErr (s : State) (backing size : Nat) : Bool :=
  decide (backing ≠ 0) && (List.range (size / 64)).any (fun i => s.objErr (locPhys (backing + 64 * i)))

/-- The paging service meets bytes that an error has lost in its own entry (R405, R421): the error is recorded, the entry cannot be
finished as R400 says, HEAD rises and every stalled access walks again (DESIGN CHOICE; log entry 173). -/
def State.pageLost (s : State) (l : Nat) : State :=
  let s1 := s.journal { kind := 7, code := 1, addr := l }
  { s1 with fq := { s1.fq with head := s1.fq.head + 1 }, stalled := [],
            teams := s1.teams.map (fun t => t.mapAll (fun th => th.pageOver s1.tick)) }

/-- Steps 3 to 6 of R400 for the entry with number n, whose table entry holds e. A BACKING that an error has lost is not copied: the
error is recorded, and the domain is killed as at a lost save (R405, R421; DESIGN CHOICE, log entry 173). -/
def State.servePage (s : State) (n entry region fdom : Nat) (e : DWord) : State :=
  let size := pageSize (s.rdPhys (s.fqAddr n + 0x15) 1 % 4) (ebits e 7 6)
  let base := (s.fq.next.toNat + size - 1) / size * size
  if s.fq.lim.toNat < base + size ∨ (s.memRefuses region size).isSome then (s.killStart fdom 1).finishPage n entry 2
  else if s.backingErr (ebits e 51 12 * 4096) size then
    ((s.journal { kind := 7, code := 1, addr := ((locRange (ebits e 51 12 * 4096) size).find? (fun a => s.objErr (locPhys a))).getD 0 }).killStart
      fdom 2).finishPage n entry 2
  else
    let ws := s.pageFill (ebits e 51 12 * 4096) base size
    let s1 := (s.wrPub .chip .unit none ws).heal ws
    if BitVec.ofNat 64 (s1.rdPhys entry 8) ≠ e then { s1 with fq := { s1.fq with next := BitVec.ofNat 64 base } }.finishPage n entry 3
    else
      let leaf := 3 + ebits e 3 2 * 4 + ebits e 7 6 * 64 + base
      let s2 := s1.wrPub .chip .unit none (atLoc (locPhys entry) (leBytes 8 leaf))
      { s2 with fq := { s2.fq with next := BitVec.ofNat 64 (base + size) },
                mapped := KV.put 0 region (KV.get 0 region s2.mapped + size) s2.mapped }.finishPage n entry 1

/-- PAGE_FAULT_SERVICE (R400): the service finishes the oldest entry. -/
def execPageFaultService (s : State) : Out :=
  if !s.houseUp || !s.rcv.paging || s.fq.head == s.fq.tail then .next s
  else
    let n := s.fq.head.toNat
    let entry := s.rdPhys (s.fqAddr n + 8) 8
    if s.objErr (locPhys (s.fqAddr n)) then .next (s.pageLost (s.fqAddr n))
    else
    let region := s.rdPhys (s.fqAddr n + 0x10) 2
    let fdom := s.rdPhys (s.fqAddr n + 0x12) 2
    let e : DWord := BitVec.ofNat 64 (s.rdPhys entry 8)
    if s.rdPhys (s.fqAddr n + 0x1C) 2 ≠ 0 ∨ s.rcv.kills.any (fun x => x.1 == fdom) then .next (s.finishPage n entry 2)
    else if s.objErr (locPhys entry) then
      .next (((s.journal { kind := 7, code := 1, addr := entry }).killStart fdom 2).finishPage n entry 2)
    else if e.getLsbD 0 || !e.getLsbD 63 then .next (s.finishPage n entry 3)
    else .next (s.servePage n entry region fdom e)

/-- The words of the bundle at an address, as the halt record gives them. -/
def State.wordsAt (s : State) (k : TaskCtx) (pc : DWord) : List Half :=
  match s.bundle k pc with
  | .ok (hs, _) => hs
  | .error _ => []

/-- PAGE_TIMEOUT (R416): an access has stalled longer than PAGE_TO, and its warp halts with cause PAGE. LANE is the lowest lane of
the group whose own access is stalled, and FADDR its address (R411). The fault-queue entry stays. -/
def execPageTimeout (s : State) : Out :=
  match s.arg with
  | .idx2 team warp =>
    match s.team? team, s.warp? team warp with
    | some t, some w =>
      let stuck (l : Nat) : Option (List (Nat × Nat × Nat)) := (w.thr l).wait.bind (fun x => match x.on with
        | .page ns => if x.woken.isNone ∧ x.since + 1000 * s.rcv.pageTo < s.now ∧ ns.any (fun n => n.1 == l) then some ns else none
        | _ => none)
      match (List.range w.width).find? (fun l => (stuck l).isSome) with
      | none => .next s
      | some l =>
        if s.rcv.pageTo = 0 ∨ w.halt.isSome ∨ t.st ≠ .resident then .next s
        else
          let pc := (w.thr l).pc
          let g := (List.range w.width).filter (fun m => (w.thr m).pc == pc && (w.thr m).wait == (w.thr l).wait)
          let s1 := s.updWarp team warp (fun v => v.mapThr (fun m th => if g.contains m then { th with wait := th.last, last := none } else th))
          .next (s1.haltWarp { team := team, warp := warp, lanes := g, pc := pc, words := s.wordsAt (s.ctxOf t) pc }
            { cause := 16, lane := l, faddr := ((((stuck l).getD []).find? (fun n => n.1 == l)).map (fun n => n.2.2)).getD 0 } false)
    | _, _ => .next s
  | _ => .next s

/-! ## Memory errors (R420 to R422) -/

def State.bankOf (s : State) (core : Nat) : BankSt := KV.get {} core s.rcv.banks
def State.setBank (s : State) (core : Nat) (b : BankSt) : State :=
  { s with rcv := { s.rcv with banks := KV.put {} core b s.rcv.banks } }

/-- A unit corrects an error, which changes no value: it is told to the journal at most once per 1 ms, with the count since
(R420). Units 0 to 191 are the cores' scratchpads. -/
def State.correction (s : State) (unit : Nat) : State :=
  let m := KV.get (0, 0) unit s.rcv.merrs
  let put (x : Nat × Nat) : State := { s with rcv := { s.rcv with merrs := KV.put (0, 0) unit x s.rcv.merrs } }
  if m.1 ≠ 0 ∧ s.now + 1 < m.1 + 1000000 then put (m.1, m.2 + 1)
  else (put (s.now + 1, 0)).journal { kind := 7, code := 0, info := (m.2 + 1) * 4294967296 }

/-- A correction in a core's scratchpad (R420, R422). -/
def State.corrected (s : State) (core : Nat) : State :=
  let b := s.bankOf core
  (s.setBank core { b with corrected := min 255 (b.corrected + 1) }).correction core

/-- Domains of the teams resident on a core. -/
def State.coreDomains (s : State) (core : Nat) : List Nat :=
  ((s.teams.filter (fun t => t.holds core)).map (fun t => s.fdomOf (s.ctxOf t).region)).eraseDups

/-- A bank fails (R422): the first is decoded as an erasure from then on; with the second the core goes OFFLINE and its teams'
domains are killed. -/
def State.bankFail (s : State) (core bank : Nat) : State :=
  let b := s.bankOf core
  let s1 := s.journal { kind := 8, addr := core + 256 * bank }
  match b.failed with
  | none => s1.setBank core { b with failed := some bank, recent := [] }
  | some _ => (s.coreDomains core).foldl (fun a f => a.killStart f 2) (s1.setBank core { b with offline := true, recent := [] })

/-- SCRUB (R422): what the scrubber finds in a stripe: the bank it corrected, and whether the symbol was wrong again. -/
def execScrub (s : State) : Out :=
  match s.arg with
  | .scrub core bank again =>
    match bank with
    | none => .next s
    | some k =>
      let b := s.bankOf core
      if !s.coreExists core ∨ 34 ≤ k ∨ b.offline ∨ b.failed = some k then .next s
      else
        let s1 := if b.failed.isNone then s.corrected core else s
        let b1 := s1.bankOf core
        let recent := (k, s.now) :: b1.recent.filter (fun x => decide (s.now < x.2 + 1000000))
        let s2 := s1.setBank core { b1 with recent := recent }
        .next (if again || decide (16 ≤ recent.countP (fun x => x.1 == k)) then s2.bankFail core k else s2)
  | _ => .next s

/-- SP_STATUS of a core (R422). -/
def State.spStatus (s : State) (core : Nat) : Word :=
  let b := s.bankOf core
  if !s.coreExists core then 0 else BitVec.ofNat 32 (b.offline.toNat * 32768 + b.failed.isSome.toNat * 16384 + b.failed.getD 0x3F * 256 + b.corrected)

/-- SP_STATUS_READ (R422): the value, whose CORRECTED clears. -/
def execSpStatusRead (s : State) : Out :=
  match s.arg with
  | .idx core =>
    if !s.coreExists core ∨ s.recovering then .next (s.send (.read (leBytes 4 0)))
    else .next ((s.send (.read (wordBytes (s.spStatus core)))).setBank core { s.bankOf core with corrected := 0 })
  | _ => .next s

/-- The byte of a location as it stood before serial number n. -/
def State.byteBelow (s : State) (l n : Nat) : Byte := s.valAt l (s.newestBelow l n)

/-- A dirty line is dropped (R421): memory keeps what it held before some write, which a free value chooses, and the later writes
are lost with the line. -/
def State.loseLine (s : State) (pa : Nat) : State :=
  let r := s.free 64
  let cut := r.1.toNat % (s.nextSer + 1)
  let line := pa / 64 * 64
  { r.2 with
    mem := memPuts s.mem ((locRange (locPhys line) 64).map (fun l => (l, s.byteBelow l cut)))
    hist := s.hist.map (fun (h : HWrite) =>
      if line ≤ h.loc ∧ h.loc < line + 64 ∧ cut ≤ h.ser then { h with old := s.byteBelow h.loc cut, new := s.byteBelow h.loc cut } else h) }

/-- LOST_WRITE (R421). -/
def execLostWrite (s : State) : Out :=
  match s.arg with
  | .idx pa => if pa < Config.memBytes then .next ((s.loseLine pa).journal { kind := 7, code := 2, addr := pa }) else .next s
  | _ => .next s

end Sys2Proof.Machine
end

