-- ==== Sys2Proof/Machine/Reset.lean ====
section
/-! DEFINITION. The reset levels (R428, R429), firmware trust (R401, R402, R404), attestation (R403), and management and debug
(R440, R441). -/

namespace Sys2Proof.Machine

/-! ## Reset levels (R428) -/

/-- A write of BOOT_STATUS.STATE and REASON; a change of STATE raises vector 3 (R433). -/
def State.bootStatus (s : State) (st reason : Nat) : State :=
  let s1 : State := { s with trust := { s.trust with state := st, reason := reason } }
  if s.trust.state = st then s1 else s1.irq 3

/-- The RESET records that are due, once the house core runs (R428). -/
def State.resetRecords (s : State) : State :=
  if s.houseUp then
    s.rcv.resets.foldl (fun (a : State) n => a.journal { kind := 9, code := n }) { s with rcv := { s.rcv with resets := [] } }
  else s

/-- Every stream removed and every frame DONE (R428). -/
def State.endMedia (s : State) : State :=
  let s1 := s.streams.foldl (fun (a : State) m => a.removeStream m.id) s
  s1.openFrames.foldl (fun (a : State) f => a.frameGo f (a.frameSt f) bDone 0 []) s1

/-- What a level 1 reset resets and keeps (R428), without the record of the stream. -/
def State.computeCore (s : State) : State :=
  let s0 := s.endMedia
  let phys (l : Nat) : Bool := locTag l == 0
  let mine (h : HWrite) : Bool := phys h.loc
  let pub (p : Publ) : Bool := phys p.loc
  { s0 with
    cur := none, arg := .none, teams := [], grids := [], waves := [], copies := [], gathers := [], matq := [], spubs := [],
    ssubs := [], passes := [], leaves := [], heldEv := [], stalled := [], colls := [], collKept := [], collEarly := [],
    streams := [], txs := [], frameReg := [], firstOut := [], bars := [],
    win := { epoch := s0.win.epoch }
    alm := { s0.alm with latched := [], cycleAt := none, opened := [] }
    regions := s0.regions.filter (fun r => r.id == 0)
    mapped := s0.mapped.filter (fun e => e.1 == 0)
    invals := [{ root := none, lo := 0, hi := 2 ^ 64, ser := s0.nextSer }]
    xown := xownReset
    mem := s0.mem.filter (fun c => phys c.1)
    hist := s0.hist.filter mine
    publs := s0.publs.filter pub
    bad := s0.bad.filter phys
    rcv := { s0.rcv with
      haltHead := 0, haltTail := 0, haltBusy := false, haltStatus := 0, heldHalts := [], kills := [], agentHalted := false,
      agentCores := [], logged := [] } }

/-- What a level 1 reset resets and keeps; the stream's entry into IDLE has its record (R425). -/
def State.computeReset (s : State) : State := if s.win.st = .idle then s.computeCore else s.computeCore.streamRecord

/-- A reset of a level is in progress for a time that a free value gives (R429; log entry 120). -/
def State.resetting (s : State) (level : Nat) : State :=
  { s with rcv := { s.rcv with resetEnd := s.now + Config.resetTime level s.now } }

/-- A level 1 reset, with its record. -/
def State.level1 (s : State) : State :=
  let a := s.computeReset
  { a with rcv := { a.rcv with resets := a.rcv.resets ++ [1] } }.resetRecords

/-- A level 2 reset: level 1, the house core, the fault queue, the media ports and links, and the servo. -/
def State.level2 (s : State) : State :=
  let a := s.computeReset
  let b := (a.setServo (fun x => { x with gm := none, gmid := 0, freq := 0, pending := none, t1 := none, t3 := none, t4 := none })).servoTo .freerun
  let c : State := if b.linkUp = 0 then b else { b with linkUp := 0 }.irq 4
  { c with
    fq := { c.fq with head := c.fq.tail }
    trust := { c.trust with meas := List.replicate 8 0, phase := 0, msgsA := [], msgsB := [], msgsL := [] }
    house := { sram := c.house.sram }
    rcv := { c.rcv with diverged := false, paging := false, resets := c.rcv.resets ++ [2] } }.bootStatus 0 0

/-- A level 3 reset: everything but host memory, the flash and the count of HSS signatures. The fields that are the model's
own go on. -/
def State.level3 (s : State) : State :=
  { State.resetOf s.fuses with
    inbox := s.inbox, focus := s.focus, freeCtr := s.freeCtr, tick := s.tick, now := s.now, nextId := s.nextId, nextSer := s.nextSer,
    mem := s.mem.filter (fun c => decide (Config.hostBase ≤ c.1) && decide (c.1 < Config.hostEnd))
    irqs := s.irqs, out := s.out
    trust := { slot := s.trust.slot, hssUsed := s.trust.hssUsed } }

/-- RESET_CTL 11: a level 3 reset that keeps the host link, through which the changes of BOOT_STATUS.STATE, LINK_STATUS and
PTP_STATUS.STATE raise their vectors (R428, R433). -/
def State.deviceReset (s : State) : State :=
  let due (p : Bool) (v : Nat) (a : State) : State := if p then a.irq v else a
  due (s.servo.st != .freerun) 4 (due (s.linkUp != 0) 4 (due (s.trust.state != 0) 3 s.level3))

/-- A write of RESET_CTL (R429), ignored while BUSY is 1. -/
def State.resetCtl (s : State) (v : Word) : State :=
  if s.resetBusy then s
  else
    match v.toNat % 4 with
    | 1 => s.level1.resetting 1
    | 2 => s.level2.resetting 2
    | 3 => s.deviceReset.resetting 3
    | _ => s

/-- COMPUTE_RESET: RESET_CTL 01. -/
def execComputeReset (s : State) : Out := s.regWr (fun a => a.resetCtl 1)

/-- HOUSE_RESET: RESET_CTL 10. -/
def execHouseReset (s : State) : Out := s.regWr (fun a => a.resetCtl 2)

/-- DEVICE_RESET: RESET_CTL 11. -/
def execDeviceReset (s : State) : Out := s.regWr (fun a => a.resetCtl 3)

/-- FUNCTION_LEVEL_RESET: level 2 through PCIe. -/
def execFunctionLevelReset (s : State) : Out := .next (s.level2.resetting 2)

/-- CONVENTIONAL_RESET: level 3 through PCIe. -/
def execConventionalReset (s : State) : Out := .next (s.level3.resetting 3)

/-! ## Firmware images (R401, R402) -/

/-- The bytes of a digest, in digest order. -/
def digestBytes (d : BitVec 384) : List Byte := (leBytes 48 d.toNat).reverse

/-- M := SHA-384(M || d). -/
def extendMeas (m d : BitVec 384) : BitVec 384 := Config.sha384 (digestBytes m ++ digestBytes d)

/-- n bytes of an image from an offset. -/
def imgPart (img : List Byte) (o n : Nat) : List Byte := (img.drop o).take n

/-- Offset of the house image: the next multiple of 16 after the HSS signature. -/
def imgStart (img : List Byte) : Nat := (0x120 + fieldOf img 0x110 4 + 15) / 16 * 16
def imgHouse (img : List Byte) : List Byte := imgPart img (imgStart img) (fieldOf img 8 4)
def imgAgent (img : List Byte) : List Byte := imgPart img (imgStart img + fieldOf img 8 4) (fieldOf img 0xC 4)

/-- MEAS0 to MEAS7 after the boot ROM has read an image: steps 1 and 2 of R402. -/
def bootMeas (img : List Byte) : List (BitVec 384) :=
  [extendMeas 0 (Config.sha384 (imgHouse img)), extendMeas 0 (Config.sha384 (imgAgent img)), extendMeas 0 (Config.sha384 (img.take 16)),
   0, 0, 0, 0, 0]

/-- Steps 3 to 5 of R402: the REASON of R404, 0 where the image verifies. -/
def bootReason (img : List Byte) : Nat :=
  let house := fieldOf img 8 4
  let agent := fieldOf img 0xC 4
  let h := Config.sha384 (img.take 0xB0 ++ imgHouse img ++ imgAgent img)
  if fieldOf img 0 4 ≠ 0x5746394B ∨ house % 16 ≠ 0 ∨ 3145728 < house ∨ agent % 16 ≠ 0 ∨ 1048576 < agent ∨
      img.length < imgStart img + house + agent then 2
  else if Config.sha384 (imgPart img 0x10 96) ≠ Config.fusedEcKey ∨ Config.sha384 (imgPart img 0x70 64) ≠ Config.fusedLmsKey then 3
  else if fieldOf img 4 4 < Config.fusedSvn then 4
  else if !Config.ecdsaVerify (imgPart img 0x10 96) (imgPart img 0xB0 96) h then 5
  else if !Config.hssVerify (imgPart img 0x70 60) (imgPart img 0x120 (fieldOf img 0x110 4)) h then 6
  else 0

/-- Recovery mode (R404): the compute dies are held in reset, and the stream, the media ports and the links are off. -/
def State.enterRecovery (s : State) (reason : Nat) : State :=
  let a := s.computeReset
  let b : State := if a.linkUp = 0 then a else { a with linkUp := 0 }.irq 4
  b.bootStatus 2 reason

/-- The bytes of the root block as firmware initialises it (R32). -/
def rootBlock : List Byte :=
  leBytes 2 0 ++ leBytes 2 0 ++ leBytes 1 0 ++ leBytes 1 1 ++ leBytes 2 0 ++ leBytes 2 192 ++ leBytes 1 15 ++ leBytes 1 0 ++
    leBytes 1 0 ++ leBytes 1 0 ++ leBytes 2 0 ++ leBytes 8 Config.memBytes ++ leBytes 8 0 ++
    (List.replicate 6 (leBytes 2 4096)).flatten ++ leBytes 4 0 ++ leBytes 4 0 ++ leBytes 4 0 ++ leBytes 8 0xFFFFFFFFFFFFFFFF ++
    List.replicate 192 0

/-- What the house firmware sets up (R32, R256, R398): the tables' addresses, block 0, every frame DONE and no stream. -/
def State.firmware (s : State) (region frame stream fq : DWord) : State :=
  let s1 : State := { s with regionBase := region / 4096 * 4096, frameBase := frame / 4096 * 4096, streamBase := stream / 4096 * 4096,
                             fq := { s.fq with base := fq / 131072 * 131072 } }
  let s2 := s1.wrRec s1.regionBase.toNat rootBlock
  let s3 := (List.range 1024).foldl (fun (a : State) f => a.wrRec (a.frameAddr f + 0x18) (leBytes 4 bDone)) s2
  { s3.wrRec s3.streamBase.toNat (List.replicate 16384 0) with tables := true }

/-- The boot of the house core (R402): it starts only when the image verifies, and then writes the RESET records. -/
def State.boot (s : State) (flashOk : Bool) (region frame stream fq : DWord) : State :=
  if s.trust.state ≠ 0 then s
  else if !flashOk then ({ s with trust := { s.trust with meas := List.replicate 8 0 } } : State).enterRecovery 1
  else
    let s1 : State := { s with trust := { s.trust with meas := bootMeas s.trust.slot } }
    match bootReason s.trust.slot with
    | 0 => ((s1.bootStatus 1 0).firmware region frame stream fq).resetRecords
    | r => s1.enterRecovery r

/-- A digest that the house firmware extends into MEAS3 to MEAS7 (R402). -/
def State.measure (s : State) (i : Nat) (d : BitVec 384) : State :=
  if s.houseUp ∧ 3 ≤ i ∧ i < 8 then
    { s with trust := { s.trust with meas := updAt (fun m => extendMeas m d) i s.trust.meas } }
  else s

/-! ## Recovery of the firmware (R404) -/

/-- GO written with 1. -/
def State.recGo (s : State) : State := if s.trust.state = 2 then s.bootStatus 3 s.trust.reason else s

/-- RECOVERY_GO. -/
def execRecoveryGo (s : State) : Out := .next s.recGo

/-- The staged image: LEN bytes from physical address 0. -/
def State.staged (s : State) : List Byte := (locRange (locPhys 0) s.trust.len.toNat).map s.rdHost

/-- RECOVERY_VERIFY_DONE (R404): the result, and whether the flash took a good image. -/
def execRecoveryVerifyDone (s : State) : Out :=
  match s.arg with
  | .flag flashOk =>
    if s.trust.state ≠ 3 then .next s
    else
      let s1 : State := { s with trust := { s.trust with meas := bootMeas s.staged } }
      match bootReason s.staged with
      | 0 => .next (if flashOk then ({ s1 with trust := { s1.trust with slot := s.staged } } : State).level2 else s1.bootStatus 2 7)
      | r => .next (s1.bootStatus 2 r)
  | _ => .next s

/-! ## Attestation (R403)

Message layouts are those of SPDM 1.3 (PRESUMED; log entry 70). -/

/-- A message: version 1.3, code and two parameters, then its fields. -/
def spdmMsg (code p1 p2 : Nat) (rest : List Byte) : List Byte := leBytes 1 0x13 ++ leBytes 1 code ++ leBytes 1 p1 ++ leBytes 1 p2 ++ rest

/-- An ERROR response. -/
def spdmError (code : Nat) : List Byte := spdmMsg 0x7F code 0 []

def State.answer (s : State) (name : String) (msg : List Byte) : State := s.send (.spdm name msg)

/-- The house firmware answers, where it runs. -/
def State.spdm (s : State) (f : State → State) : Out := .next (if s.houseUp then f s else s)

/-- A request that needs phase p of the negotiation. -/
def State.spdmAt (s : State) (p : Nat) (f : State → State) : Out :=
  s.spdm (fun a => if a.trust.phase < p then a.answer "ERROR" (spdmError 4) else f a)

/-- GET_VERSION: version 1.3. It starts a negotiation. -/
def execGetVersion (s : State) : Out :=
  s.spdm (fun a =>
    let req := leBytes 1 0x10 ++ leBytes 1 0x84 ++ leBytes 2 0
    let rsp := leBytes 1 0x10 ++ leBytes 1 0x04 ++ leBytes 2 0 ++ leBytes 1 0 ++ leBytes 1 1 ++ leBytes 2 0x1300
    { a with trust := { a.trust with phase := 1, msgsA := req ++ rsp, msgsB := [], msgsL := [] } }.answer "VERSION" rsp)

/-- A step of the negotiation from phase p. -/
def State.negotiate (s : State) (p : Nat) (name : String) (req rsp : List Byte) : Out :=
  s.spdm (fun a =>
    if a.trust.phase ≠ p then a.answer "ERROR" (spdmError 4)
    else ({ a with trust := { a.trust with phase := p + 1, msgsA := a.trust.msgsA ++ req ++ rsp } } : State).answer name rsp)

/-- GET_CAPABILITIES: certificates, challenge, and signed measurements. -/
def execGetCapabilities (s : State) : Out :=
  s.negotiate 1 "CAPABILITIES" (spdmMsg 0xE1 0 0 (List.replicate 16 0))
    (spdmMsg 0x61 0 0 (leBytes 4 0 ++ leBytes 4 0x16 ++ leBytes 4 4096 ++ leBytes 4 4096))

/-- NEGOTIATE_ALGORITHMS: ECDSA P-384 with SHA-384. -/
def execNegotiateAlgorithms (s : State) : Out :=
  s.negotiate 2 "ALGORITHMS" (spdmMsg 0xE3 0 0 (leBytes 2 32 ++ leBytes 2 1 ++ leBytes 4 0x80 ++ leBytes 4 2 ++ List.replicate 16 0))
    (spdmMsg 0x63 0 0 (leBytes 2 36 ++ leBytes 2 1 ++ leBytes 4 4 ++ leBytes 4 0x80 ++ leBytes 4 2 ++ List.replicate 16 0))

/-- GET_DIGESTS: the digest of the chain in slot 0. -/
def execGetDigests (s : State) : Out :=
  s.spdmAt 3 (fun a =>
    let rsp := spdmMsg 0x01 1 1 (digestBytes (Config.sha384 (Config.certChain 0)))
    { a with trust := { a.trust with msgsB := a.trust.msgsB ++ spdmMsg 0x81 0 0 [] ++ rsp } }.answer "DIGESTS" rsp)

/-- GET_CERTIFICATE: n bytes of a slot's chain from an offset. -/
def execGetCertificate (s : State) : Out :=
  match s.arg with
  | .certificate slot off n =>
    s.spdmAt 3 (fun a =>
      let chain := Config.certChain slot
      if chain.isEmpty || decide (chain.length ≤ off) then a.answer "ERROR" (spdmError 1)
      else
        let part := imgPart chain off n
        let rsp := spdmMsg 0x02 slot 0 (leBytes 2 part.length ++ leBytes 2 (chain.length - off - part.length) ++ part)
        { a with trust := { a.trust with msgsB := a.trust.msgsB ++ spdmMsg 0x82 slot 0 (leBytes 2 off ++ leBytes 2 n) ++ rsp } }.answer
          "CERTIFICATE" rsp)
  | _ => .next s

/-- The HSS keys' signatures (R403). -/
def hssLimit : Nat := 2 ^ 40

/-- OpaqueData of one vendor element with Sernak's registry id: a status, 0 with the HSS signature over a transcript hash, 1 where the
key is exhausted. -/
def vendorElement (status : Nat) (sig : List Byte) : List Byte :=
  leBytes 1 Config.registryId.1 ++ leBytes 1 Config.registryId.2.length ++ Config.registryId.2 ++ leBytes 1 status ++
    leBytes 4 sig.length ++ sig

/-- The element of the response that the key's next signature signs. The hash is that of the transcript that the ECDSA signature
signs, with the signature's own bytes in the element as 0, since no signature is over itself (DEDUCED; log entry 70). -/
def State.hssElement (s : State) (msgs : List Byte → List Byte) : List Byte :=
  if s.trust.hssUsed < hssLimit then
    vendorElement 0 (Config.hssSign s.trust.hssUsed (digestBytes (Config.sha384 (msgs (vendorElement 0 (List.replicate Config.hssSigBytes 0))))))
  else vendorElement 1 []

/-- The device's nonce, which the spec leaves open (log entry 122). -/
def State.nonce (s : State) : List Byte := leBytes 32 (Config.freeValue 256 s.freeCtr).toNat

/-- One more signed response, where the HSS key has a signature left. -/
def State.signed (s : State) : State :=
  { s with freeCtr := s.freeCtr + 1, trust := { s.trust with hssUsed := min (s.trust.hssUsed + 1) hssLimit } }

/-- CHALLENGE: the chain's digest, a nonce, and both signatures over the transcript. -/
def execChallenge (s : State) : Out :=
  match s.arg with
  | .challenge slot nonce =>
    s.spdmAt 3 (fun a =>
      if (Config.certChain slot).isEmpty then a.answer "ERROR" (spdmError 1)
      else
        let req := spdmMsg 0x83 slot 0 (leBytes 32 nonce.toNat ++ leBytes 8 0)
        let head := spdmMsg 0x03 slot (2 ^ slot) (digestBytes (Config.sha384 (Config.certChain slot)) ++ a.nonce)
        let body (opq : List Byte) : List Byte := head ++ leBytes 2 opq.length ++ opq ++ leBytes 8 0
        let script (opq : List Byte) : List Byte := a.trust.msgsA ++ a.trust.msgsB ++ req ++ body opq
        let opq := a.hssElement script
        let rsp := body opq ++ Config.ecdsaSign (script opq)
        ({ a with trust := { a.trust with msgsB := [] } } : State).signed.answer "CHALLENGE_AUTH" rsp)
  | _ => .next s

/-- A measurement block: DMTF, a raw bit stream, of an index. -/
def measBlock (i : Nat) (d : BitVec 384) : List Byte :=
  leBytes 1 i ++ leBytes 1 1 ++ leBytes 2 51 ++ leBytes 1 0x80 ++ leBytes 2 48 ++ digestBytes d

/-- GET_MEASUREMENTS: index 0 gives their number, 1 to 8 one of them, 0xFF all; signed where asked. -/
def execGetMeasurements (s : State) : Out :=
  match s.arg with
  | .measurements index sign nonce =>
    s.spdmAt 3 (fun a =>
      let all := (a.trust.meas.zipIdx 1).map (fun p => measBlock p.2 p.1)
      let blocks := if index = 0xFF then all else (all.drop (index - 1)).take (if index = 0 then 0 else 1)
      if index ≠ 0 ∧ blocks.isEmpty then a.answer "ERROR" (spdmError 1)
      else
        let req := spdmMsg 0xE0 (if sign then 1 else 0) index (if sign then leBytes 32 nonce.toNat ++ leBytes 1 0 ++ leBytes 8 0 else leBytes 8 0)
        let rec_ := blocks.flatten
        let head := spdmMsg 0x60 (if index = 0 then 8 else 0) 0 (leBytes 1 blocks.length ++ leBytes 3 rec_.length ++ rec_ ++ a.nonce)
        let body (opq : List Byte) : List Byte := head ++ leBytes 2 opq.length ++ opq ++ leBytes 8 0
        let script (opq : List Byte) : List Byte := a.trust.msgsA ++ a.trust.msgsL ++ req ++ body opq
        if sign then
          let opq := a.hssElement script
          ({ a with trust := { a.trust with msgsL := [] } } : State).signed.answer "MEASUREMENTS" (body opq ++ Config.ecdsaSign (script opq))
        else
          ({ a with freeCtr := a.freeCtr + 1, trust := { a.trust with msgsL := a.trust.msgsL ++ req ++ body [] } } : State).answer
            "MEASUREMENTS" (body []))
  | _ => .next s

/-! ## Management and debug (R440, R441) -/

/-- Codes of PTP_STATUS.STATE (R255). -/
def servoCode (x : ServoSt) : Nat :=
  match x with
  | .freerun => 0 | .acquiring => 1 | .locked => 2 | .holdover => 3

/-- PLDM_REQUEST (R440): a sensor's value; no acknowledgement where the house core does not run. The die temperature is an
input that the spec leaves open (log entry 122). -/
def execPldmRequest (s : State) : Out :=
  match s.arg with
  | .sensor x =>
    if !s.houseUp then .next (s.send .nack)
    else
      match x with
      | .temperature => .next (({ s with freeCtr := s.freeCtr + 1 } : State).send (.pldm x (some (Config.freeValue 16 s.freeCtr).toNat)))
      | .power => .next (s.send (.pldm x (some s.power.watts)))
      | .operatingPoint => .next (s.send (.pldm x (some s.power.op)))
      | .ptpState => .next (s.send (.pldm x (some (servoCode s.servo.st))))
  | _ => .next s

/-- BYPASS: the one-bit register captures 0. -/
def execBypass (s : State) : Out := .next (s.send (.jtag 0))

/-- IDCODE (R441). -/
def execIdcode (s : State) : Out := .next (s.send (.jtag s.idcode))

/-- SAMPLE/PRELOAD: the boundary cells, whose values the spec leaves open (log entry 122); the device runs on. -/
def execSamplePreload (s : State) : Out :=
  .next (({ s with freeCtr := s.freeCtr + 1 } : State).send (.jtag (Config.freeValue 32 s.freeCtr)))

/-- EXTEST: the device is held in level 3 reset. -/
def execExtest (s : State) : Out := .next { s.level3 with extest := true }

/-- TEST_LOGIC_RESET: the hold ends. -/
def execTestLogicReset (s : State) : Out := .next { s with extest := false }

end Sys2Proof.Machine
end

