-- ==== Sys2Proof/Machine/Registers.lean ====
section
/-! DEFINITION. The control register window (R5, R29, R32, R33, R255, R256, R274, R317, R390, R398, R404, R406, R430 to R438),
and the host's accesses to device memory (R430 to R432). -/

namespace Sys2Proof.Machine

/-! ## Region synchronisation (R32, R33) -/

/-- A region control block's bytes (R34). -/
def blockOf (bs : List Byte) : Region :=
  let f (o n : Nat) : Nat := fieldOf bs o n
  { id := f 0 2, parent := f 2 2, depth := f 4 1, det := f 5 1 / 2 % 2 == 1, ov := BitVec.ofNat 16 (f 6 2), cores := f 8 2, opCeil := f 0xA 1,
    prio := f 0xB 1, dclass := f 0xC 1, leaf := f 0xD 1, fdom := f 0xE 2, mem := f 0x10 8, root := f 0x18 8,
    share := (List.range 6).map (fun i => f (0x20 + 2 * i) 2), slack := f 0x2C 4, quantum := f 0x30 4, swapWait := f 0x34 4,
    almMask := BitVec.ofNat 64 (f 0x38 8) }

/-- VALID of a block. -/
def blockValid (bs : List Byte) : Bool := fieldOf bs 5 1 % 2 == 1

/-- The FIELD condition. A DEPTH above 7 is FIELD where VALID is clear; DEPTH is checked on its own where it is set (log
entry 72). -/
def blockField (id : Nat) (bs : List Byte) : Bool :=
  let b := blockOf bs
  b.id != id || decide (4 ≤ fieldOf bs 5 1) || decide (8192 ≤ b.ov.toNat) || decide (192 < b.cores) || decide (16 ≤ b.opCeil) ||
    decide (8 ≤ b.prio) || decide (8 ≤ b.dclass) || decide (16 ≤ b.leaf) || b.mem % 4096 != 0 || b.root % 4096 != 0 ||
    (b.quantum != 0 && (decide (b.quantum < 64) || decide (65536 < b.quantum))) || resvBad bs 0x40 192 ||
    (!blockValid bs && decide (7 < b.depth)) || (id == 0 && b.parent != 0)

/-- Whether a region has a task in the window. -/
def State.regionInWindow (s : State) (id : Nat) : Bool := s.win.entries.any (fun e => e.ctx.region == id)

/-- Whether a region has a task in the window, a resident or swapped-out team, or a valid child. -/
def State.regionBusy (s : State) (id : Nat) : Bool :=
  s.regionInWindow id || s.teams.any (fun t => (s.ctxOf t).region == id) ||
    s.regions.any (fun r => r.parent == id && r.id != id)

/-- The STATUS of a synchronisation: the first check that fails. IN_USE looks at the block's own FDOM, PT_ROOT and LEAF_PART,
not at its effective ones (DESIGN CHOICE; log entry 135). -/
def State.syncStatus (s : State) (id : Nat) (bs : List Byte) : Nat :=
  let b := blockOf bs
  let valid := blockValid bs
  let old := s.region? id
  if blockField id bs then 3
  else if valid ∧ id ≠ 0 ∧ (b.parent = id ∨ (s.region? b.parent).isNone) then 1
  else if valid ∧ (7 < b.depth ∨ (id ≠ 0 ∧ ((s.region? b.parent).map (fun (p : Region) => p.depth + 1)) ≠ some b.depth)) then 2
  else if (!valid ∧ old.isSome ∧ (id = 0 ∨ s.regionBusy id)) ∨ (id = 0 ∧ b.depth ≠ 0) ∨
      (s.regionInWindow id ∧ old.any (fun o => o.fdom != b.fdom || o.root != b.root || o.leaf != b.leaf)) then 4
  else 0

/-- A write of REGION_SYNC. -/
def State.regionSyncWr (s : State) (v : Word) : State :=
  if s.syncBusy then s
  else if v.toNat / 65536 % 4096 ≠ 0 then { s with syncStat := 3 }
  else { s with syncId := v.setWidth 16, syncBusy := true }

/-- REGION_SYNC. -/
def execRegionSync (s : State) : Out :=
  match s.arg with
  | .word v => s.regWr (fun a => a.regionSyncWr v)
  | _ => .next s

/-- The bytes of the block named by REGION_SYNC. -/
def State.syncBlock (s : State) : List Byte :=
  (locRange (locPhys (s.regionBase.toNat / 4096 * 4096 + 256 * s.syncId.toNat)) 256).map (s.rdUnit .system)

/-- The block's bytes that an error has lost (R405, R421). -/
def State.syncLost (s : State) : Option Nat :=
  (locRange (locPhys (s.regionBase.toNat / 4096 * 4096 + 256 * s.syncId.toNat)) 256).find? s.objErr

/-- REGION_SYNC_COMPLETE (R33): the block is checked, and installed or rejected. A block that an error has lost is recorded (R421) and
rejected, with the status of a bad field (DESIGN CHOICE; log entry 173). -/
def execRegionSyncComplete (s : State) : Out :=
  if !s.syncBusy then .next s
  else
    let id := s.syncId.toNat
    match s.syncLost with
    | some l => .next { s.journal { kind := 7, code := 1, addr := l } with syncBusy := false, syncStat := 3 }
    | none =>
    let bs := s.syncBlock
    let st := s.syncStatus id bs
    let s1 : State := { s with syncBusy := false, syncStat := st }
    let rest := s.regions.filter (fun r => r.id != id)
    .next (if st ≠ 0 then s1 else if blockValid bs then { s1 with regions := rest ++ [blockOf bs] } else { s1 with regions := rest })

/-! ## Reading (R5, R430) -/

/-- The CORE entry and the others of the capability list (R435). -/
def State.capWord (s : State) (o : Nat) : Nat :=
  match o with
  | 0x40 => (0x700 + s.enabledCores) * 4294967296 + 0x00480101
  | 0x48 => 0x7F * 4294967296 + 0x00500102
  | 0x50 => (0x3F + 64 * 256) * 4294967296 + 0x00580103
  | 0x58 => 0x7 * 4294967296 + 0x00600104
  | 0x60 => 0x1 * 4294967296 + 0x00680105
  | 0x68 => 0x3 * 4294967296 + 0x00000106
  | _ => 0

/-- Dword j of the measurement registers, bytes in digest order (R404). -/
def State.measWord (s : State) (j : Nat) : DWord :=
  BitVec.ofNat 64 (fieldOf (digestBytes (s.trust.meas.getD (j / 8) 0)) (8 * (j % 8)) 8)

/-- The stall bits of TS_STATUS (R274, R277): EMPTY at TAIL and FULL with no entry free, each while it lasts; with neither, what
stalled the last decode. -/
def Window.stallBits (w : Window) : BitVec 5 :=
  if w.st ≠ .running ∨ w.stopped then 0
  else
    let empty : Bool := w.ringIndex == some w.tail
    let full : Bool := decide (512 ≤ w.entries.length)
    BitVec.ofNat 5 (empty.toNat + 2 * full.toNat) ||| (if empty || full then 0 else w.stalls &&& 0x1C)

/-- The 64-bit registers: none where no register of 64 bits lies at the offset. -/
def State.reg64 (s : State) (o : Nat) : Option DWord :=
  match o with
  | 0x0008 => some s.fuses
  | 0x0100 => some s.regionBase
  | 0x0200 => some s.frameBase
  | 0x0208 => some s.streamBase
  | 0x0220 => some (if s.servo.st = .freerun then 0 else s.servo.gmid)
  | 0x0300 => some (BitVec.ofNat 64 s.win.base)
  | 0x0308 => some (BitVec.ofNat 64 s.win.dpc)
  | 0x0320 => some (BitVec.ofNat 64 s.win.decoded)
  | 0x0328 => some (BitVec.ofNat 64 s.win.retired)
  | 0x0400 => some s.alm.epoch
  | 0x0500 => some s.fq.base
  | 0x0508 => some (s.fq.head ++ s.fq.tail)
  | 0x0510 => some s.fq.next
  | 0x0518 => some s.fq.lim
  | 0x0608 => some (s.trust.len ++ (0 : Word))
  | 0x1000 => some s.rcv.logTable
  | 0x1008 => some s.rcv.jrBase
  | 0x1010 => some (BitVec.ofNat 64 s.rcv.jseq)
  | 0x1018 => some s.rcv.haltBase
  | 0x1020 => some (s.rcv.haltHead ++ s.rcv.haltTail)
  | 0x4028 => some s.grpBase
  | _ =>
    if 0x40 ≤ o ∧ o ≤ 0x68 ∧ o % 8 = 0 then some (BitVec.ofNat 64 (s.capWord o))
    else if 0x5000 ≤ o ∧ o < 0x5200 ∧ o % 8 = 0 then some (s.measWord ((o - 0x5000) / 8))
    else none

/-- TS_STATUS.STATE's codes (R274). -/
def streamCode (x : StreamSt) : Nat :=
  match x with
  | .idle => 0 | .running => 1 | .draining => 2 | .halted => 3 | .faulted => 4

/-- Word i of a slot entry; reserved fields read 0 (R317). -/
def Slot.word (e : Slot) (i : Nat) : Word :=
  match i with
  | 0 => e.offset
  | 1 => e.periodN
  | 2 => e.periodM.setWidth 32
  | 3 => e.length
  | 4 => e.ctl &&& 0x80000007
  | _ => 0

/-- XOWN of granule g (R390). -/
def State.xownWord (s : State) (o : Nat) : Word :=
  BitVec.ofNat 32 (s.xownOf ((o - 0x2000) / 2) + 65536 * s.xownOf ((o - 0x2000) / 2 + 1))

/-- The 32-bit registers: none where no register of 32 bits lies at the offset. -/
def State.reg32 (s : State) (o : Nat) : Option Word :=
  let n (x : Nat) : Option Word := some (BitVec.ofNat 32 x)
  match o with
  | 0x0000 => some s.devIdent
  | 0x0108 => n (s.syncBusy.toNat * 2 ^ 31 + s.syncStat * 2 ^ 28 + s.syncId.toNat)
  | 0x0210 => n (s.servo.domain * 256 + s.servo.failover.toNat * 8 + s.servo.port * 2 + s.servo.enable.toNat)
  | 0x0214 => n (s.servo.actPort * 16 + servoCode s.servo.st)
  | 0x0218 => some (BitVec.ofInt 32 (max (-2147483648) (min 2147483647 s.servo.offset)))
  | 0x0310 => n s.win.log2
  | 0x0314 => n s.win.tail
  | 0x0318 => n s.win.enable.toNat
  | 0x031C => n (s.win.fault * 65536 + s.win.stallBits.toNat * 256 + streamCode s.win.st)
  | 0x0330 => some s.win.finfo
  | 0x0408 => n s.alm.cycle
  | 0x040C => n (s.alm.overruns.toNat * 65536 + s.alm.bad.toNat * 64 + s.alm.badSlot)
  | 0x0600 => n (s.trust.reason * 256 + s.trust.state)
  | 0x1028 => n (s.rcv.haltBusy.toNat * 2 ^ 29 + s.rcv.haltStatus * 2 ^ 27 + s.rcv.haltId.toNat)
  | 0x102C => some s.rcv.haltAcc
  | 0x1030 => some s.haltData
  | 0x1034 => n s.rcv.pageTo
  | 0x1038 => n ((!s.rcv.kills.isEmpty).toNat * 2 ^ 31 + s.rcv.fdKill.toNat)
  | 0x103C => some 0
  | 0x1040 => some (if s.resetBusy then 0x80000000 else 0)
  | 0x1044 => n (s.rcv.diverged.toNat * 4 + s.rcv.agentHalted.toNat * 2 + s.rcv.paging.toNat)
  | 0x4000 => n (s.power.qEnable.toNat * 2 ^ 31 + s.power.opCap * 65536 + s.power.limit)
  | 0x4004 => n (s.power.op * 2 ^ 20 + s.power.pcap * 65536 + s.power.watts % 1024)
  | 0x4020 => n s.linkCard.toNat
  | 0x4024 => n s.linkUp.toNat
  | _ =>
    if o % 4 ≠ 0 then none
    else if 0x0800 ≤ o ∧ o < 0x1000 then some ((KV.get {} ((o - 0x800) / 32) s.alm.slots).word (o % 32 / 4))
    else if 0x2000 ≤ o ∧ o < 0x2800 then some (s.xownWord o)
    else if 0x3000 ≤ o ∧ o < 0x3000 + 4 * Config.cores then some (s.spStatus ((o - 0x3000) / 4))
    else none

/-- Registers that answer in recovery mode (R404). -/
def trustReg (o : Nat) : Bool := o == 0 || o == 8 || o == 0xC || o == 0x600 || o == 0x608 || o == 0x60C || (decide (0x5000 ≤ o) && decide (o < 0x5200))

/-- What a 32-bit read of the window gives, side effects of RC fields aside: half of a 64-bit register also answers (log entry
73). -/
def State.regRead (s : State) (o : Nat) : Word :=
  if s.recovering ∧ !trustReg o then 0
  else
    match s.reg32 o with
    | some w => w
    | none =>
      match s.reg64 o with
      | some d => d.setWidth 32
      | none => if o % 8 = 4 then (((s.reg64 (o - 4)).getD 0) >>> 32).setWidth 32 else 0

/-- ALM_STATUS_READ (R317): the value, whose OVERRUNS clears. -/
def execAlmStatusRead (s : State) : Out :=
  let v := s.regRead 0x40C
  .next (if s.recovering then s.send (.read (wordBytes v))
    else { s with alm := { s.alm with overruns := 0 } }.send (.read (wordBytes v)))

/-! ## Writing (R5) -/

/-- The stream has started and not stopped: TS_BASE, TS_DPC and TS_SIZE ignore writes (R274). -/
def Window.going (w : Window) : Bool := w.st == .running || w.st == .draining

/-- FRAME_BASE and STREAM_BASE ignore writes while a frame is open or a stream installed (R256). -/
def State.mediaOn (s : State) : Bool := !s.openFrames.isEmpty || !s.streams.isEmpty

/-- A number with its low n bits cleared. -/
def clearLow (n : Nat) (v : DWord) : DWord := (v >>> n) <<< n

/-- A write of a whole 64-bit register. Bits [11:5] of TS_BASE read 0 (log entry 74). -/
def State.wr64 (s : State) (o : Nat) (v : DWord) : State :=
  let hi : Word := (v >>> 32).setWidth 32
  match o with
  | 0x0100 => { s with regionBase := clearLow 12 v }
  | 0x0200 => if s.mediaOn then s else { s with frameBase := clearLow 12 v }
  | 0x0208 => if s.mediaOn then s else { s with streamBase := clearLow 12 v }
  | 0x0300 => if s.win.going then s else { s with win := { s.win with base := (clearLow 12 v).toNat } }
  | 0x0308 => if s.win.going then s else { s with win := { s.win with dpc := (clearLow 5 v).toNat } }
  | 0x0400 => { s with alm := { s.alm with epoch := v } }
  | 0x0500 => { s with fq := { s.fq with base := clearLow 17 v } }
  | 0x0508 => { s with fq := { s.fq with head := hi } }
  | 0x0510 => { s with fq := { s.fq with next := clearLow 12 v } }
  | 0x0518 => { s with fq := { s.fq with lim := clearLow 12 v } }
  | 0x0608 =>
    let s1 : State := { s with trust := { s.trust with len := hi } }
    if v.getLsbD 0 then s1.recGo else s1
  | 0x1000 => { s with rcv := { s.rcv with logTable := clearLow 21 v } }
  | 0x1008 =>
    let log2 := v.toNat % 32
    { s with rcv := { s.rcv with
        jrBase := clearLow 12 v + (if 8 ≤ log2 ∧ log2 ≤ 20 then BitVec.ofNat 64 log2 else s.rcv.jrBase &&& 31) } }
  | 0x1018 => { s with rcv := { s.rcv with haltBase := clearLow 16 v } }
  | 0x1020 => { s with rcv := { s.rcv with haltHead := hi } }
  | 0x4028 => { s with grpBase := clearLow 18 v }
  | _ => s

/-- Word i of a slot entry written. -/
def Slot.put (e : Slot) (i : Nat) (v : Word) : Slot :=
  match i with
  | 0 => { e with offset := v }
  | 1 => { e with periodN := v }
  | 2 => { e with periodM := v.setWidth 16, resv := setAt e.resv 0 (v >>> 16) }
  | 3 => { e with length := v }
  | 4 => { e with ctl := v }
  | n => { e with resv := setAt e.resv (n - 4) v }

/-- A write of XOWN (R390): fixed granules ignore it. -/
def State.xownWr (s : State) (g : Nat) (v : Half) : State :=
  if (960 ≤ g ∧ g < 992) ∨ 1022 ≤ g then s else { s with xown := KV.put 0xFFFF#16 g v s.xown }

/-- A write of QUIET_CTL (R438, R439): a POWER out of range leaves that field; the target is weighed again at once. -/
def State.quietCtl (s : State) (v : Word) : State :=
  let w := v.toNat % 1024
  let p : Power := { s.power with qEnable := v.getLsbD 31, opCap := v.toNat / 65536 % 16,
                                  limit := if 100 ≤ w ∧ w ≤ 560 then w else s.power.limit }
  { s with power := p }.reOp

/-- QUIET_CTL_WRITE. -/
def execQuietCtlWrite (s : State) : Out :=
  match s.arg with
  | .word v => s.regWr (fun a => a.quietCtl v)
  | _ => .next s

/-- A write of a 32-bit register. -/
def State.wr32 (s : State) (o : Nat) (v : Word) : State :=
  match o with
  | 0x0108 => s.regionSyncWr v
  | 0x0210 => s.ptpCtl v
  | 0x0310 =>
    let n := v.toNat % 32
    if s.win.going || decide (n < 6) || decide (20 < n) then s else { s with win := { s.win with log2 := n } }
  | 0x0314 => s.doorbell v
  | 0x0318 => s.tsCtl v
  | 0x0408 =>
    let n := v.toNat % 2 ^ 30
    if 1000 ≤ n ∧ n ≤ 1000000000 then { s with alm := { s.alm with cycle := n } } else s
  | 0x040C => if v.getLsbD 6 then { s with alm := { s.alm with bad := false } } else s
  | 0x1028 => s.haltCmd v
  | 0x102C => { s with rcv := { s.rcv with haltAcc := v &&& 0xF03F003F } }
  | 0x1030 => s.haltDataWr v
  | 0x1034 => { s with rcv := { s.rcv with pageTo := v.toNat % 65536 } }
  | 0x1038 => s.fdKillWr v
  | 0x103C => s.objBreak v
  | 0x1040 => s.resetCtl v
  | 0x4000 => s.quietCtl v
  | 0x4020 => if s.colls.any (fun c => c.live) then s else { s with linkCard := v.setWidth 16 }
  | _ =>
    if o % 4 ≠ 0 then s
    else if 0x0800 ≤ o ∧ o < 0x1000 then
      let i := (o - 0x800) / 32
      { s with alm := { s.alm with slots := KV.put {} i ((KV.get {} i s.alm.slots).put (o % 32 / 4) v) s.alm.slots } }
    else if 0x2000 ≤ o ∧ o < 0x2800 then
      (s.xownWr ((o - 0x2000) / 2) (v.setWidth 16)).xownWr ((o - 0x2000) / 2 + 1) ((v >>> 16).setWidth 16)
    else s

/-- A 32-bit write of the window: a half of a 64-bit register is written with the other half as it reads (log entry 73). -/
def State.wrWord (s : State) (o : Nat) (v : Word) : State :=
  if o % 8 = 0 ∧ (s.reg64 o).isSome then s.wr64 o ((((s.reg64 o).getD 0) >>> 32 <<< 32) ||| v.setWidth 64)
  else if o % 8 = 4 ∧ (s.reg64 (o - 4)).isSome then s.wr64 (o - 4) (v ++ ((s.reg64 (o - 4)).getD 0).setWidth 32)
  else s.wr32 o v

/-- A write of n bytes: 8 reach a 64-bit register whole, or two 32-bit ones, the lower first; 2 reach an XOWN entry. -/
def State.regWrite (s : State) (o n : Nat) (v : DWord) : State :=
  if s.recovering ∧ !trustReg o then s
  else if o % n ≠ 0 then s
  else if n = 8 then
    (if (s.reg64 o).isSome then s.wr64 o v else (s.wrWord o (v.setWidth 32)).wrWord (o + 4) ((v >>> 32).setWidth 32))
  else if n = 4 then s.wrWord o (v.setWidth 32)
  else if n = 2 ∧ 0x2000 ≤ o ∧ o < 0x2800 then s.xownWr ((o - 0x2000) / 2) (v.setWidth 16)
  else s

/-- REGISTER_WRITE (R430). -/
def execRegisterWrite (s : State) : Out :=
  match s.arg with
  | .regWrite off n v => .next (s.regWrite off.toNat n v)
  | _ => .next s

/-! ## Device memory (R430, R432) -/

/-- Locations of an access of the host; none at 60 GiB or above. -/
def hostSpan (off n : Nat) : Option (List Nat) := if Config.memBytes < off + n ∨ Config.memBytes ≤ off then none else some (locRange (locPhys off) n)

/-- A read by the host: none of its data is passed on where a block has an error that cannot be corrected (R405, R421; log
entry 75). -/
def State.hostRead (s : State) (off n : Nat) : State :=
  match hostSpan off n with
  | none => s.send .unsupported
  | some ls =>
    match ls.find? (fun l => s.bad.contains (l / 64 * 64)) with
    | some l => (s.journal { kind := 7, code := 1, addr := l }).send .unsupported
    | none => s.send (.read (ls.map s.rdHost))

/-- A write by the host, published at system scope (R208). -/
def State.hostStore (s : State) (off : Nat) (bs : List Byte) : State :=
  match hostSpan off bs.length with
  | none => s.send .unsupported
  | some ls => (s.wrPub .system .host none (ls.zip bs)).heal (ls.zip bs)

/-- APERTURE_READ. -/
def execApertureRead (s : State) : Out :=
  match s.arg with
  | .aperture off n _ => .next (s.hostRead off n)
  | _ => .next s

/-- APERTURE_WRITE. -/
def execApertureWrite (s : State) : Out :=
  match s.arg with
  | .aperture off _ bs => .next (s.hostStore off bs)
  | _ => .next s

/-- CXL_MEM_ACCESS: the HDM-DB range is device memory. -/
def execCxlMemAccess (s : State) : Out :=
  match s.arg with
  | .cxl isWrite off n bs => .next (if isWrite then s.hostStore off bs else s.hostRead off n)
  | _ => .next s

/-- The host's writes to its own memory, which the device reaches (R431). -/
def State.hostWrite (s : State) (a : Nat) (bs : List Byte) : State :=
  if Config.hostEnd < Config.hostBase + a + bs.length then s
  else s.wrPub .system .host none (atLoc (locPhys (Config.hostBase + a)) bs)

end Sys2Proof.Machine
end

