-- ==== Sys2Proof/Machine/Short.lean ====
section
/-! DEFINITION. The 16-bit format (R55, R56): each has exactly the effect of its 32-bit form, single width, predicate 7, no prefix. -/

namespace Sys2Proof.Machine

/-- The operands of the 32-bit form of a 16-bit instruction (R56): vd is the destination and the first source. -/
def R16.a3 (o : R16) : A3 :=
  { pred := 7, width := .w1, vb := o.vb.setWidth 6, va := o.vd.setWidth 6, vd := o.vd.setWidth 6, m := {} }

/-- A 16-bit integer instruction over vd and vb. -/
def alu16 (i : Instr) (o : R16) (f : Word → Word → Word) : State → Out :=
  aluA3 i (R16.a3 o) (fun a b _ => f a b)

/-- A 16-bit floating-point instruction over vd and vb, under MODE (R119). -/
def alu16F (i : Instr) (o : R16) (f : FpCtl → Word → Word → Word × FpFlags) : State → Out :=
  aluF i (R16.a3 o) (fun k a b _ => f k a b)

/-- 16-bit mov (R56). -/
def execMov16 (o : R16) : State → Out := alu16 (.mov16 o) o (fun _ b => b)

/-- 16-bit iadd (R56). -/
def execIadd16 (o : R16) : State → Out := alu16 (.iadd16 o) o (iaddW false)

/-- 16-bit isub (R56). -/
def execIsub16 (o : R16) : State → Out := alu16 (.isub16 o) o (isubW false)

/-- 16-bit and (R56). -/
def execAnd16 (o : R16) : State → Out := alu16 (.and16 o) o (fun a b => a &&& b)

/-- 16-bit or (R56). -/
def execOr16 (o : R16) : State → Out := alu16 (.or16 o) o (fun a b => a ||| b)

/-- 16-bit xor (R56). -/
def execXor16 (o : R16) : State → Out := alu16 (.xor16 o) o (fun a b => a ^^^ b)

/-- 16-bit shl (R56). -/
def execShl16 (o : R16) : State → Out := alu16 (.shl16 o) o (shlW)

/-- 16-bit shr (R56). -/
def execShr16 (o : R16) : State → Out := alu16 (.shr16 o) o (shrW)

/-- 16-bit imin (R56). -/
def execImin16 (o : R16) : State → Out := alu16 (.imin16 o) o (iminW)

/-- 16-bit imax (R56). -/
def execImax16 (o : R16) : State → Out := alu16 (.imax16 o) o (imaxW)

/-- 16-bit fadd (R56). -/
def execFadd16 (o : R16) : State → Out := alu16F (.fadd16 o) o (fun k a b => patW (faddP .f32 k a.toNat b.toNat))

/-- 16-bit fsub (R56). -/
def execFsub16 (o : R16) : State → Out := alu16F (.fsub16 o) o (fun k a b => patW (fsubP .f32 k a.toNat b.toNat))

/-- 16-bit fmul (R56). -/
def execFmul16 (o : R16) : State → Out := alu16F (.fmul16 o) o (fun k a b => patW (fmulP .f32 k a.toNat b.toNat))

/-- 16-bit fmax (R56). -/
def execFmax16 (o : R16) : State → Out := alu16F (.fmax16 o) o (fun k a b => patW (fmaxP k a.toNat b.toNat))

/-- 16-bit fmin (R56). -/
def execFmin16 (o : R16) : State → Out := alu16F (.fmin16 o) o (fun k a b => patW (fminP k a.toNat b.toNat))

/-- 16-bit movi (R55, R56): the sign-extended imm5. -/
def execMovi16 (o : Movi16) : State → Out :=
  kernelOp (.movi16 o) (fun c _ _ s =>
    .ok (s.writeLanes c (c.lanes.map (fun l => (l, [(Reg.v o.vd.toNat, o.imm.signExtend 32)])))))

end Sys2Proof.Machine
end

