-- ==== Sys2Proof/Machine/Dispatch.lean ====
section
/-! DEFINITION. Dispatch: one arm per constructor of Instr, each a direct call of its meaning. -/

namespace Sys2Proof.Machine

def exec (i : Instr) (s : State) : Host.Outcome State Fault Refusal :=
  match i with
  | .mov16 o => Sys2Proof.Machine.execMov16 o s
  | .iadd16 o => Sys2Proof.Machine.execIadd16 o s
  | .isub16 o => Sys2Proof.Machine.execIsub16 o s
  | .and16 o => Sys2Proof.Machine.execAnd16 o s
  | .or16 o => Sys2Proof.Machine.execOr16 o s
  | .xor16 o => Sys2Proof.Machine.execXor16 o s
  | .shl16 o => Sys2Proof.Machine.execShl16 o s
  | .shr16 o => Sys2Proof.Machine.execShr16 o s
  | .imin16 o => Sys2Proof.Machine.execImin16 o s
  | .imax16 o => Sys2Proof.Machine.execImax16 o s
  | .fadd16 o => Sys2Proof.Machine.execFadd16 o s
  | .fsub16 o => Sys2Proof.Machine.execFsub16 o s
  | .fmul16 o => Sys2Proof.Machine.execFmul16 o s
  | .fmax16 o => Sys2Proof.Machine.execFmax16 o s
  | .fmin16 o => Sys2Proof.Machine.execFmin16 o s
  | .movi16 o => Sys2Proof.Machine.execMovi16 o s
  | .iadd o => Sys2Proof.Machine.execIadd o s
  | .isub o => Sys2Proof.Machine.execIsub o s
  | .imul o => Sys2Proof.Machine.execImul o s
  | .imulhi o => Sys2Proof.Machine.execImulhi o s
  | .imac o => Sys2Proof.Machine.execImac o s
  | .imin o => Sys2Proof.Machine.execImin o s
  | .imax o => Sys2Proof.Machine.execImax o s
  | .iminu o => Sys2Proof.Machine.execIminu o s
  | .imaxu o => Sys2Proof.Machine.execImaxu o s
  | .and o => Sys2Proof.Machine.execAnd o s
  | .or o => Sys2Proof.Machine.execOr o s
  | .xor o => Sys2Proof.Machine.execXor o s
  | .andn o => Sys2Proof.Machine.execAndn o s
  | .shl o => Sys2Proof.Machine.execShl o s
  | .shr o => Sys2Proof.Machine.execShr o s
  | .sar o => Sys2Proof.Machine.execSar o s
  | .rot o => Sys2Proof.Machine.execRot o s
  | .bfe o => Sys2Proof.Machine.execBfe o s
  | .bfi o => Sys2Proof.Machine.execBfi o s
  | .popc o => Sys2Proof.Machine.execPopc o s
  | .clz o => Sys2Proof.Machine.execClz o s
  | .brev o => Sys2Proof.Machine.execBrev o s
  | .bsel o => Sys2Proof.Machine.execBsel o s
  | .sel o => Sys2Proof.Machine.execSel o s
  | .icmp o => Sys2Proof.Machine.execIcmp o s
  | .iaddc o => Sys2Proof.Machine.execIaddc o s
  | .lea o => Sys2Proof.Machine.execLea o s
  | .mov o => Sys2Proof.Machine.execMov o s
  | .fadd o => Sys2Proof.Machine.execFadd o s
  | .fsub o => Sys2Proof.Machine.execFsub o s
  | .fmul o => Sys2Proof.Machine.execFmul o s
  | .ffma o => Sys2Proof.Machine.execFfma o s
  | .fmin o => Sys2Proof.Machine.execFmin o s
  | .fmax o => Sys2Proof.Machine.execFmax o s
  | .fcmp o => Sys2Proof.Machine.execFcmp o s
  | .fclass o => Sys2Proof.Machine.execFclass o s
  | .hadd2 o => Sys2Proof.Machine.execHadd2 o s
  | .hmul2 o => Sys2Proof.Machine.execHmul2 o s
  | .hfma2 o => Sys2Proof.Machine.execHfma2 o s
  | .bfma2 o => Sys2Proof.Machine.execBfma2 o s
  | .cvt o => Sys2Proof.Machine.execCvt o s
  | .fdiv o => Sys2Proof.Machine.execFdiv o s
  | .frcp o => Sys2Proof.Machine.execFrcp o s
  | .frsq o => Sys2Proof.Machine.execFrsq o s
  | .fsqrt o => Sys2Proof.Machine.execFsqrt o s
  | .fexp2 o => Sys2Proof.Machine.execFexp2 o s
  | .flog2 o => Sys2Proof.Machine.execFlog2 o s
  | .fsinp o => Sys2Proof.Machine.execFsinp o s
  | .fcosp o => Sys2Proof.Machine.execFcosp o s
  | .rand o => Sys2Proof.Machine.execRand o s
  | .iaddImm o => Sys2Proof.Machine.execIaddImm o s
  | .imulImm o => Sys2Proof.Machine.execImulImm o s
  | .iminImm o => Sys2Proof.Machine.execIminImm o s
  | .imaxImm o => Sys2Proof.Machine.execImaxImm o s
  | .iminuImm o => Sys2Proof.Machine.execIminuImm o s
  | .imaxuImm o => Sys2Proof.Machine.execImaxuImm o s
  | .andImm o => Sys2Proof.Machine.execAndImm o s
  | .orImm o => Sys2Proof.Machine.execOrImm o s
  | .xorImm o => Sys2Proof.Machine.execXorImm o s
  | .shlImm o => Sys2Proof.Machine.execShlImm o s
  | .shrImm o => Sys2Proof.Machine.execShrImm o s
  | .sarImm o => Sys2Proof.Machine.execSarImm o s
  | .rotImm o => Sys2Proof.Machine.execRotImm o s
  | .icmpImm o => Sys2Proof.Machine.execIcmpImm o s
  | .movImm o => Sys2Proof.Machine.execMovImm o s
  | .faddImm o => Sys2Proof.Machine.execFaddImm o s
  | .fmulImm o => Sys2Proof.Machine.execFmulImm o s
  | .fminImm o => Sys2Proof.Machine.execFminImm o s
  | .fmaxImm o => Sys2Proof.Machine.execFmaxImm o s
  | .ffmaImm o => Sys2Proof.Machine.execFfmaImm o s
  | .fcmpImm o => Sys2Proof.Machine.execFcmpImm o s
  | .leaImm o => Sys2Proof.Machine.execLeaImm o s
  | .ldG o => Sys2Proof.Machine.execLdG o s
  | .ldS o => Sys2Proof.Machine.execLdS o s
  | .ldC o => Sys2Proof.Machine.execLdC o s
  | .ldX o => Sys2Proof.Machine.execLdX o s
  | .ldL o => Sys2Proof.Machine.execLdL o s
  | .ldK o => Sys2Proof.Machine.execLdK o s
  | .stG o => Sys2Proof.Machine.execStG o s
  | .stS o => Sys2Proof.Machine.execStS o s
  | .stC o => Sys2Proof.Machine.execStC o s
  | .stX o => Sys2Proof.Machine.execStX o s
  | .stL o => Sys2Proof.Machine.execStL o s
  | .ldGSubword o => Sys2Proof.Machine.execLdGSubword o s
  | .ldSSubword o => Sys2Proof.Machine.execLdSSubword o s
  | .ldXSubword o => Sys2Proof.Machine.execLdXSubword o s
  | .stGSubword o => Sys2Proof.Machine.execStGSubword o s
  | .stSSubword o => Sys2Proof.Machine.execStSSubword o s
  | .stXSubword o => Sys2Proof.Machine.execStXSubword o s
  | .atomS o => Sys2Proof.Machine.execAtomS o s
  | .atomC o => Sys2Proof.Machine.execAtomC o s
  | .atomG o => Sys2Proof.Machine.execAtomG o s
  | .atomX o => Sys2Proof.Machine.execAtomX o s
  | .redS o => Sys2Proof.Machine.execRedS o s
  | .redG o => Sys2Proof.Machine.execRedG o s
  | .redX o => Sys2Proof.Machine.execRedX o s
  | .fenceR o => Sys2Proof.Machine.execFenceR o s
  | .phase o => Sys2Proof.Machine.execPhase o s
  | .prefetchG o => Sys2Proof.Machine.execPrefetchG o s
  | .cpy o => Sys2Proof.Machine.execCpy o s
  | .cpyMc o => Sys2Proof.Machine.execCpyMc o s
  | .cpyMm o => Sys2Proof.Machine.execCpyMm o s
  | .qfence o => Sys2Proof.Machine.execQfence o s
  | .osub o => Sys2Proof.Machine.execOsub o s
  | .opub o => Sys2Proof.Machine.execOpub o s
  | .caskres o => Sys2Proof.Machine.execCaskres o s
  | .caskrel o => Sys2Proof.Machine.execCaskrel o s
  | .mgather o => Sys2Proof.Machine.execMgather o s
  | .mma o => Sys2Proof.Machine.execMma o s
  | .mmaG o => Sys2Proof.Machine.execMmaG o s
  | .gmma o => Sys2Proof.Machine.execGmma o s
  | .tzero o => Sys2Proof.Machine.execTzero o s
  | .tmovR o => Sys2Proof.Machine.execTmovR o s
  | .tmovC o => Sys2Proof.Machine.execTmovC o s
  | .tld o => Sys2Proof.Machine.execTld o s
  | .tst o => Sys2Proof.Machine.execTst o s
  | .tcvt o => Sys2Proof.Machine.execTcvt o s
  | .tadd o => Sys2Proof.Machine.execTadd o s
  | .tscale o => Sys2Proof.Machine.execTscale o s
  | .bra o => Sys2Proof.Machine.execBra o s
  | .call o => Sys2Proof.Machine.execCall o s
  | .ret o => Sys2Proof.Machine.execRet o s
  | .jmp o => Sys2Proof.Machine.execJmp o s
  | .brx o => Sys2Proof.Machine.execBrx o s
  | .loop o => Sys2Proof.Machine.execLoop o s
  | .exit o => Sys2Proof.Machine.execExit o s
  | .barinit o => Sys2Proof.Machine.execBarinit o s
  | .arrive o => Sys2Proof.Machine.execArrive o s
  | .expect o => Sys2Proof.Machine.execExpect o s
  | .wait o => Sys2Proof.Machine.execWait o s
  | .bartest o => Sys2Proof.Machine.execBartest o s
  | .relayAt o => Sys2Proof.Machine.execRelayAt o s
  | .relayLo o => Sys2Proof.Machine.execRelayLo o s
  | .relayHi o => Sys2Proof.Machine.execRelayHi o s
  | .relaySw o => Sys2Proof.Machine.execRelaySw o s
  | .relayAtImm o => Sys2Proof.Machine.execRelayAtImm o s
  | .relayLoImm o => Sys2Proof.Machine.execRelayLoImm o s
  | .relayHiImm o => Sys2Proof.Machine.execRelayHiImm o s
  | .relaySwImm o => Sys2Proof.Machine.execRelaySwImm o s
  | .pollSome o => Sys2Proof.Machine.execPollSome o s
  | .pollEach o => Sys2Proof.Machine.execPollEach o s
  | .pollMask o => Sys2Proof.Machine.execPollMask o s
  | .peers o => Sys2Proof.Machine.execPeers o s
  | .gred o => Sys2Proof.Machine.execGred o s
  | .converge o => Sys2Proof.Machine.execConverge o s
  | .yield o => Sys2Proof.Machine.execYield o s
  | .movs o => Sys2Proof.Machine.execMovs o s
  | .time o => Sys2Proof.Machine.execTime o s
  | .cycles o => Sys2Proof.Machine.execCycles o s
  | .retired o => Sys2Proof.Machine.execRetired o s
  | .launch o => Sys2Proof.Machine.execLaunch o s
  | .cont o => Sys2Proof.Machine.execCont o s
  | .qpush o => Sys2Proof.Machine.execQpush o s
  | .qpop o => Sys2Proof.Machine.execQpop o s
  | .sqbind o => Sys2Proof.Machine.execSqbind o s
  | .sqrd o => Sys2Proof.Machine.execSqrd o s
  | .sqwr o => Sys2Proof.Machine.execSqwr o s
  | .sqrel o => Sys2Proof.Machine.execSqrel o s
  | .rayq o => Sys2Proof.Machine.execRayq o s
  | .raynext o => Sys2Proof.Machine.execRaynext o s
  | .rayacc o => Sys2Proof.Machine.execRayacc o s
  | .rayign o => Sys2Proof.Machine.execRayign o s
  | .rayend o => Sys2Proof.Machine.execRayend o s
  | .rayrd o => Sys2Proof.Machine.execRayrd o s
  | .rtinv o => Sys2Proof.Machine.execRtinv o s
  | .tex o => Sys2Proof.Machine.execTex o s
  | .texld o => Sys2Proof.Machine.execTexld o s
  | .texq o => Sys2Proof.Machine.execTexq o s
  | .texfb o => Sys2Proof.Machine.execTexfb o s
  | .emitv o => Sys2Proof.Machine.execEmitv o s
  | .emitp o => Sys2Proof.Machine.execEmitp o s
  | .pixout o => Sys2Proof.Machine.execPixout o s
  | .pixlock o => Sys2Proof.Machine.execPixlock o s
  | .pixunlock o => Sys2Proof.Machine.execPixunlock o s
  | .discard o => Sys2Proof.Machine.execDiscard o s
  | .brk o => Sys2Proof.Machine.execBrk o s
  | .agClaim o => Sys2Proof.Machine.execAgClaim o s
  | .agInst o => Sys2Proof.Machine.execAgInst o s
  | .agEnd o => Sys2Proof.Machine.execAgEnd o s
  | .agSave o => Sys2Proof.Machine.execAgSave o s
  | .tNop t => Sys2Proof.Machine.execTNop t s
  | .tHalt t => Sys2Proof.Machine.execTHalt t s
  | .tFence t => Sys2Proof.Machine.execTFence t s
  | .tJmp t => Sys2Proof.Machine.execTJmp t s
  | .tCall t => Sys2Proof.Machine.execTCall t s
  | .tRet t => Sys2Proof.Machine.execTRet t s
  | .tSlot t => Sys2Proof.Machine.execTSlot t s
  | .tKern t => Sys2Proof.Machine.execTKern t s
  | .tDraw t => Sys2Proof.Machine.execTDraw t s
  | .tCopy t => Sys2Proof.Machine.execTCopy t s
  | .tFill t => Sys2Proof.Machine.execTFill t s
  | .tFeed t => Sys2Proof.Machine.execTFeed t s
  | .tColl t => Sys2Proof.Machine.execTColl t s
  | .tTbar t => Sys2Proof.Machine.execTTbar t s
  | .tFrame t => Sys2Proof.Machine.execTFrame t s
  | .tPresent t => Sys2Proof.Machine.execTPresent t s
  | .tStream t => Sys2Proof.Machine.execTStream t s
  | .tPool t => Sys2Proof.Machine.execTPool t s
  | .tBuf t => Sys2Proof.Machine.execTBuf t s
  | .tRelease t => Sys2Proof.Machine.execTRelease t s
  | .tMap t => Sys2Proof.Machine.execTMap t s
  | .tBvh t => Sys2Proof.Machine.execTBvh t s
  | .tSig t => Sys2Proof.Machine.execTSig t s
  | .tWait t => Sys2Proof.Machine.execTWait t s
  | .illegalEncoding d => Sys2Proof.Machine.execIllegalEncoding d s
  | .reservedTaskOpcode t => Sys2Proof.Machine.execReservedTaskOpcode t s
  | .taskIssue => Sys2Proof.Machine.execTaskIssue s
  | .taskCompletion => Sys2Proof.Machine.execTaskCompletion s
  | .taskRetirement => Sys2Proof.Machine.execTaskRetirement s
  | .tWaitPoll => Sys2Proof.Machine.execTWaitPoll s
  | .waitTimeout => Sys2Proof.Machine.execWaitTimeout s
  | .doorbell => Sys2Proof.Machine.execDoorbell s
  | .streamEnable => Sys2Proof.Machine.execStreamEnable s
  | .streamDisable => Sys2Proof.Machine.execStreamDisable s
  | .streamResume => Sys2Proof.Machine.execStreamResume s
  | .streamAbort => Sys2Proof.Machine.execStreamAbort s
  | .streamDrained => Sys2Proof.Machine.execStreamDrained s
  | .regionSync => Sys2Proof.Machine.execRegionSync s
  | .regionSyncComplete => Sys2Proof.Machine.execRegionSyncComplete s
  | .haltResume => Sys2Proof.Machine.execHaltResume s
  | .haltSkip => Sys2Proof.Machine.execHaltSkip s
  | .haltKill => Sys2Proof.Machine.execHaltKill s
  | .haltCommandDone => Sys2Proof.Machine.execHaltCommandDone s
  | .haltDataWrite => Sys2Proof.Machine.execHaltDataWrite s
  | .fdKill => Sys2Proof.Machine.execFdKill s
  | .killComplete => Sys2Proof.Machine.execKillComplete s
  | .objBreak => Sys2Proof.Machine.execObjBreak s
  | .computeReset => Sys2Proof.Machine.execComputeReset s
  | .houseReset => Sys2Proof.Machine.execHouseReset s
  | .deviceReset => Sys2Proof.Machine.execDeviceReset s
  | .functionLevelReset => Sys2Proof.Machine.execFunctionLevelReset s
  | .conventionalReset => Sys2Proof.Machine.execConventionalReset s
  | .recoveryGo => Sys2Proof.Machine.execRecoveryGo s
  | .recoveryVerifyDone => Sys2Proof.Machine.execRecoveryVerifyDone s
  | .ptpEnable => Sys2Proof.Machine.execPtpEnable s
  | .ptpDisable => Sys2Proof.Machine.execPtpDisable s
  | .quietCtlWrite => Sys2Proof.Machine.execQuietCtlWrite s
  | .almStatusRead => Sys2Proof.Machine.execAlmStatusRead s
  | .spStatusRead => Sys2Proof.Machine.execSpStatusRead s
  | .registerWrite => Sys2Proof.Machine.execRegisterWrite s
  | .apertureRead => Sys2Proof.Machine.execApertureRead s
  | .apertureWrite => Sys2Proof.Machine.execApertureWrite s
  | .cxlMemAccess => Sys2Proof.Machine.execCxlMemAccess s
  | .getVersion => Sys2Proof.Machine.execGetVersion s
  | .getCapabilities => Sys2Proof.Machine.execGetCapabilities s
  | .negotiateAlgorithms => Sys2Proof.Machine.execNegotiateAlgorithms s
  | .getDigests => Sys2Proof.Machine.execGetDigests s
  | .getCertificate => Sys2Proof.Machine.execGetCertificate s
  | .challenge => Sys2Proof.Machine.execChallenge s
  | .getMeasurements => Sys2Proof.Machine.execGetMeasurements s
  | .pldmRequest => Sys2Proof.Machine.execPldmRequest s
  | .bypass => Sys2Proof.Machine.execBypass s
  | .idcode => Sys2Proof.Machine.execIdcode s
  | .samplePreload => Sys2Proof.Machine.execSamplePreload s
  | .extest => Sys2Proof.Machine.execExtest s
  | .testLogicReset => Sys2Proof.Machine.execTestLogicReset s
  | .sync => Sys2Proof.Machine.execSync s
  | .followUp => Sys2Proof.Machine.execFollowUp s
  | .delayReq => Sys2Proof.Machine.execDelayReq s
  | .delayResp => Sys2Proof.Machine.execDelayResp s
  | .announce => Sys2Proof.Machine.execAnnounce s
  | .announceTimeout => Sys2Proof.Machine.execAnnounceTimeout s
  | .rtpPacketReceive => Sys2Proof.Machine.execRtpPacketReceive s
  | .receiveDeadline => Sys2Proof.Machine.execReceiveDeadline s
  | .frameDeadline => Sys2Proof.Machine.execFrameDeadline s
  | .framePtime => Sys2Proof.Machine.execFramePtime s
  | .packetEgress => Sys2Proof.Machine.execPacketEgress s
  | .transmissionEnd => Sys2Proof.Machine.execTransmissionEnd s
  | .almanacCycleStart => Sys2Proof.Machine.execAlmanacCycleStart s
  | .instanceOpen => Sys2Proof.Machine.execInstanceOpen s
  | .instanceEnd => Sys2Proof.Machine.execInstanceEnd s
  | .wavePlacement => Sys2Proof.Machine.execWavePlacement s
  | .aging => Sys2Proof.Machine.execAging s
  | .preEmption => Sys2Proof.Machine.execPreEmption s
  | .swapOut => Sys2Proof.Machine.execSwapOut s
  | .restore => Sys2Proof.Machine.execRestore s
  | .teamEnd => Sys2Proof.Machine.execTeamEnd s
  | .gridEnd => Sys2Proof.Machine.execGridEnd s
  | .heldEventPush => Sys2Proof.Machine.execHeldEventPush s
  | .launchAdmission => Sys2Proof.Machine.execLaunchAdmission s
  | .powerSample => Sys2Proof.Machine.execPowerSample s
  | .opChangeSettled => Sys2Proof.Machine.execOpChangeSettled s
  | .roundBoundary => Sys2Proof.Machine.execRoundBoundary s
  | .quantumExpiry => Sys2Proof.Machine.execQuantumExpiry s
  | .pendingWriteback => Sys2Proof.Machine.execPendingWriteback s
  | .matrixCommandStart => Sys2Proof.Machine.execMatrixCommandStart s
  | .matrixCommandComplete => Sys2Proof.Machine.execMatrixCommandComplete s
  | .copyBurstLanding => Sys2Proof.Machine.execCopyBurstLanding s
  | .gatherRowLanding => Sys2Proof.Machine.execGatherRowLanding s
  | .streamChunkDelivery => Sys2Proof.Machine.execStreamChunkDelivery s
  | .pixelResolution => Sys2Proof.Machine.execPixelResolution s
  | .pixlockGrant => Sys2Proof.Machine.execPixlockGrant s
  | .binnedRasterisation => Sys2Proof.Machine.execBinnedRasterisation s
  | .passComplete => Sys2Proof.Machine.execPassComplete s
  | .bvhBuildComplete => Sys2Proof.Machine.execBvhBuildComplete s
  | .pageFaultService => Sys2Proof.Machine.execPageFaultService s
  | .pageTimeout => Sys2Proof.Machine.execPageTimeout s
  | .scrub => Sys2Proof.Machine.execScrub s
  | .houseDiverged => Sys2Proof.Machine.execHouseDiverged s
  | .logRecordTimeout => Sys2Proof.Machine.execLogRecordTimeout s
  | .haltRecordWrite => Sys2Proof.Machine.execHaltRecordWrite s
  | .journalMove => Sys2Proof.Machine.execJournalMove s
  | .collectiveArrival => Sys2Proof.Machine.execCollectiveArrival s
  | .collectiveAnnouncement => Sys2Proof.Machine.execCollectiveAnnouncement s
  | .collectiveChunk => Sys2Proof.Machine.execCollectiveChunk s
  | .collectiveDeadline => Sys2Proof.Machine.execCollectiveDeadline s
  | .collNoroot => Sys2Proof.Machine.execCollNoroot s
  | .egressReport => Sys2Proof.Machine.execEgressReport s
  | .tbarReportTimeout => Sys2Proof.Machine.execTbarReportTimeout s
  | .linkStateChange => Sys2Proof.Machine.execLinkStateChange s
  | .lostWrite => Sys2Proof.Machine.execLostWrite s
  | .pagingServiceStart => Sys2Proof.Machine.execPagingServiceStart s

end Sys2Proof.Machine
end

