-- ==== Sys2Proof/Machine/Step.lean ====
section
/-! DEFINITION. Step: one move of the machine, and withFetchWord. -/

namespace Sys2Proof.Machine

/-- Fetches and runs the bundle of a group. -/
def State.runGroup (s : State) (c : Ctx) : Out :=
  match s.fetch c with
  | .run i s1 => exec i s1
  | .stop s1 => .next s1

/-- Decodes and runs the next task record. -/
def State.runTask (s : State) : Out :=
  match s.nextTask with
  | some i => exec i { s with arg := .none }
  | none => .next s

/-- What the machine does of itself when no move is given: the group that the focus's quad issues next, else a pending
result, else the next task, else a nanosecond passes. -/
def State.runSelf (s : State) : Out :=
  match s.focus.bind (fun f => s.pick f.1 f.2) with
  | some c => s.runGroup c
  | none =>
    match s.readyPend with
    | some (t, w, i) => exec .pendingWriteback { s with arg := .idx3 t w i }
    | none =>
      if s.nextTask.isSome then s.runTask else .next (s.elapse 1)

/-- One move of the schedule, of a device that EXTEST does not hold. -/
def State.runWhat (s : State) : What → Out
  | .event i a => if isMove i then exec i { s with arg := a, cur := none } else .next s
  | .agent core => .next (s.agentStep core)
  | .issue core quad =>
    match s.pick core quad with
    | some c => s.runGroup c
    | none => .next s
  | .task => s.runTask
  | .upset l => .next (s.upset l)
  | .corrected unit => .next (s.correction (Config.cores + unit))
  | .boot ok region frame stream fq => .next (s.boot ok region frame stream fq)
  | .extend i d => .next (s.measure i d)
  | .hostWrite a bs => .next (s.hostWrite a bs)
  | .routeDown g tag rank => .next (s.routeDown g tag rank)
  | .house a b => s.retire a b

/-- The moves of the JTAG port. -/
def isJtag : Instr → Bool
  | .bypass | .idcode | .samplePreload | .extest | .testLogicReset => true
  | _ => false

/-- While EXTEST holds the device in reset, only the JTAG port moves (R441), and the host in its own memory. -/
def What.heldBack : What → Bool
  | .event i _ => !isJtag i
  | .hostWrite _ _ => false
  | _ => true

/-- One move of the schedule. -/
def State.runMove (s : State) (w : What) : Out := if s.extest && w.heldBack then .next s else s.runWhat w

/-- The next move of the schedule; with none, what the machine does of itself (log entry 1). -/
def State.move (s : State) : Out :=
  match s.inbox with
  | m :: rest => ({ s with inbox := rest }.elapse m.dt).runMove m.what
  | [] => s.runSelf

/-- One step: the next move, over a state in which the threads that are not ready are seen not to be (R47). -/
def step (s : State) : Host.Outcome State Fault Refusal := s.restamp.move

/-! ## withFetchWord -/

/-- Where withFetchWord places an instruction: virtual and physical address alike. -/
def probeAddr : Nat := 0x10000

/-- A team of one 16-wide warp with one thread at probeAddr, for a grid of region 0. -/
def probeTeam (agent : Bool) : Team :=
  { id := 1, grid := 1, core := 0, agent := agent,
    desc := { base := probeAddr, entry := probeAddr, warp := 16, vregs := 64, scratch := 65536, barriers := 32, lslice := 4096,
              tx := 1, ty := 1, tz := 1 },
    warps := [{ width := 16, threads := [{ live := true, exited := false, pc := BitVec.ofNat 64 probeAddr }] }],
    ranges := List.replicate 8 none }

/-- Region 0 with a page table at 0x1000 that maps the first GiB onto itself, writable and executable. -/
def probeMem (s : State) (bs : List Byte) : List Host.Cell :=
  memPuts s.mem (atLoc 0x1000 (leBytes 8 0x2001) ++ atLoc 0x2000 (leBytes 8 0xF) ++ atLoc probeAddr bs)

/-- s with an instruction of bits w stored where step fetches its next instruction. A kernel instruction stands in front of
a thread; a task record is the next of a running stream (log entry 11). -/
def State.withFetchWord (s : State) (nbits w : Nat) : State :=
  if nbits ≥ 256 then
    { s with inbox := [], focus := none, teams := [],
             mem := memPuts s.mem (atLoc probeAddr (leBytes 32 w)),
             win := { s.win with st := .running, enable := true, stopped := false, base := probeAddr, dpc := probeAddr,
                                 tail := 1, entries := [] } }
  else
    let agent :=
      match decodeTableWord nbits w with
      | some i => agentOnly i
      | none => false
    { s with inbox := [], focus := some (0, 0), teams := [probeTeam agent],
             grids := [{ id := 1, desc := (probeTeam agent).desc, nWaves := 1, waveSize := 1 }],
             regions := [{ Region.boot with root := 0x1000 }],
             mem := probeMem s (leBytes 16 w) }

end Sys2Proof.Machine
end

