-- ==== Sys2Proof/Safety.lean ====
section
/-! DEFINITION. Safety: the memory's canonical form, and the terms in which claims about a bundle are made: the values that a
list of register writes leaves, and what differs between the states before and after a bundle that only writes registers. -/

namespace Sys2Proof.Machine

/-- The canonical form of memory: locations strictly rising, and no byte equal to what an unlisted location reads as. -/
def Memory.wf (m : List Host.Cell) : Bool :=
  decide (m.Pairwise (fun x y => x.1 < y.1)) && m.all (fun e => e.2 != initByte e.1)

/-- The value that a lane's writes leave in a register: the last one's. -/
def lastReg (r : Reg) : List (Reg × Word) → Option Word
  | [] => none
  | (q, x) :: t => (lastReg r t).or (if q = r then some x else none)

/-- The value that the writes of all lanes leave in a register of lane l. -/
def lastWrite (l : Nat) (r : Reg) : List (Nat × List (Reg × Word)) → Option Word
  | [] => none
  | (j, rs) :: t => (lastWrite l r t).or (if j = l then lastReg r rs else none)

/-- The value that the writes leave in k[n], which every lane shares. -/
def lastWriteK (n : Nat) : List (Nat × List (Reg × Word)) → Option Word
  | [] => none
  | (_, rs) :: t => (lastWriteK n t).or (lastReg (.k n) rs)

/-- A thread of the group after its bundle (R47, R131): it stands after the bundle, its wait is over, and of its registers
only v and p may differ. A bundle that it tests again after a wait in it counts once. -/
def Thread.stepped (th th' : Thread) (c : Ctx) (tick : Nat) : Prop :=
  th' = { th with v := th'.v, p := th'.p, pc := c.pc + BitVec.ofNat 64 (2 * c.words.length), ready := tick + 1,
                  issued := if th.again then th.issued else th.issued + 1, wait := none }

/-- The bundle of group c of warp w has issued and written the registers of `ws`, and nothing else has changed: not memory,
not another unit, not another warp, not another lane. -/
structure Wrote (s s' : State) (c : Ctx) (w : Warp) (ws : List (Nat × List (Reg × Word))) : Prop where
  /-- Every part of the machine but the teams and the issue clock. -/
  rest : s' = { s with teams := s'.teams, tick := s.tick + 1 }
  /-- Every other team. -/
  teams : ∀ id, id ≠ c.team → s'.team? id = s.team? id
  /-- The team but for its warps, and every other warp of it. -/
  team : ∃ t t', s.team? c.team = some t ∧ s'.team? c.team = some t' ∧ t' = { t with warps := t'.warps } ∧
    ∀ i, i ≠ c.warp → t'.warps[i]? = t.warps[i]?
  /-- The warp: its k registers, and of its other fields only the threads, the retired count and the open windows. -/
  warp : ∃ w', s'.warp? c.team c.warp = some w' ∧
    w' = { w with threads := w'.threads, k := w'.k, retired := w'.retired, pend := w'.pend } ∧
    (∀ n, w'.rk n = (lastWriteK n ws).getD (w.rk n)) ∧
    (∀ l, l ∉ c.lanes → w'.thr l = w.thr l) ∧
    ∀ l ∈ c.lanes, (w.thr l).stepped (w'.thr l) c s.tick ∧
      (∀ n, (w'.thr l).rv n = (lastWrite l (.v n) ws).getD ((w.thr l).rv n)) ∧
      ∀ n, n < 7 → (w'.thr l).rp n = ((lastWrite l (.p n) ws).map (fun x => x != 0)).getD ((w.thr l).rp n)

/-- The bundle of group c has issued and produced the results `ws` for the registers `regs`: with lookahead 0 they are written,
with lookahead la they are pending with a window of la bundles in each lane of the group (R76). -/
def Produced (s s' : State) (c : Ctx) (w : Warp) (la : Nat) (regs : List Reg) (ws : List (Nat × List (Reg × Word))) : Prop :=
  if la = 0 then Wrote s s' c w ws
  else Wrote s s' c w [] ∧ ∃ w', s'.warp? c.team c.warp = some w' ∧
    w'.pend.getLast? = some { regs := regs, lanes := c.lanes.map (fun l => (l, la)), writes := ws }

end Sys2Proof.Machine
end

