-- ==== Sys2Proof/Certificates/Slice0/Obligations.lean ====
section
/-! DEFINITION. Obligations: the statements for the provers, with the tables of values that they compare the model with. -/

open Sys2Proof Sys2Proof.Machine

namespace Sys2Proof.Spec

/-! ## Values that the rules give (R111 to R119) -/

/-- The nearest 32-bit signed value: what saturation gives (R111). -/
def clamp32 (x : Int) : Word := BitVec.ofInt 32 (max (-2147483648) (min 2147483647 x))

/-- The 32-bit result of an exact integer: wrapped, or saturated (R111). -/
def narrow (sat : Bool) (x : Int) : Word := if sat then clamp32 x else BitVec.ofInt 32 x

/-- The integer instructions of class A3a with one result for each element: what each makes of a, b and the old vd. -/
def intA3 : Instr → Option (A3 × (Word → Word → Word → Word))
  | .iadd o => some (o, fun a b _ => narrow o.m.sat (a.toInt + b.toInt))
  | .isub o => some (o, fun a b _ => narrow o.m.sat (a.toInt - b.toInt))
  | .imul o => some (o, fun a b _ => narrow o.m.sat (a.toInt * b.toInt))
  | .imulhi o => some (o, fun a b _ => BitVec.ofInt 32 (a.toInt * b.toInt / 4294967296))
  | .imac o => some (o, fun a b d => narrow o.m.sat (a.toInt * b.toInt + d.toInt))
  | .imin o => some (o, fun a b _ => BitVec.ofInt 32 (min a.toInt b.toInt))
  | .imax o => some (o, fun a b _ => BitVec.ofInt 32 (max a.toInt b.toInt))
  | .iminu o => some (o, fun a b _ => BitVec.ofNat 32 (min a.toNat b.toNat))
  | .imaxu o => some (o, fun a b _ => BitVec.ofNat 32 (max a.toNat b.toNat))
  | .and o => some (o, fun a b _ => a &&& b)
  | .or o => some (o, fun a b _ => a ||| b)
  | .xor o => some (o, fun a b _ => a ^^^ b)
  | .andn o => some (o, fun a b _ => a &&& ~~~ b)
  | .shl o => some (o, fun a b _ => BitVec.ofNat 32 (a.toNat * 2 ^ b.toNat))
  | .shr o => some (o, fun a b _ => BitVec.ofNat 32 (a.toNat / 2 ^ b.toNat))
  | .sar o => some (o, fun a b _ => BitVec.ofInt 32 (a.toInt / 2 ^ b.toNat))
  | .rot o => some (o, fun a b _ => a.rotateLeft (b.toNat % 32))
  | .bfe o => some (o, fun a b _ => bfeW a b)
  | .bfi o => some (o, fun a b d => bfiW a b d)
  | .popc o => some (o, fun a _ _ => BitVec.ofNat 32 ((List.range 32).countP (fun i => a.getLsbD i)))
  | .clz o => some (o, fun a _ _ => BitVec.ofNat 32 (((List.range 32).reverse.takeWhile (fun i => !a.getLsbD i)).length))
  | .brev o => some (o, fun a _ _ => a.reverse)
  | .bsel o => some (o, fun a b d => bselW a b d)
  | .mov o => some (o, fun a _ _ => a)
  | _ => none

/-- The integer instructions of the 16-bit format: what each makes of vd and vb (R56). -/
def int16 : Instr → Option (R16 × (Word → Word → Word))
  | .mov16 o => some (o, fun _ b => b)
  | .iadd16 o => some (o, fun a b => BitVec.ofInt 32 (a.toInt + b.toInt))
  | .isub16 o => some (o, fun a b => BitVec.ofInt 32 (a.toInt - b.toInt))
  | .and16 o => some (o, fun a b => a &&& b)
  | .or16 o => some (o, fun a b => a ||| b)
  | .xor16 o => some (o, fun a b => a ^^^ b)
  | .shl16 o => some (o, fun a b => BitVec.ofNat 32 (a.toNat * 2 ^ b.toNat))
  | .shr16 o => some (o, fun a b => BitVec.ofNat 32 (a.toNat / 2 ^ b.toNat))
  | .imin16 o => some (o, fun a b => BitVec.ofInt 32 (min a.toInt b.toInt))
  | .imax16 o => some (o, fun a b => BitVec.ofInt 32 (max a.toInt b.toInt))
  | _ => none

/-- The integer instructions of class AI: what each makes of its register and its immediate (R64, R111, R119). -/
def intImm : Instr → Option (AiOp × (Word → Word → Word))
  | .iaddImm o => some (o, fun a b => narrow o.m.sat (a.toInt + b.toInt))
  | .imulImm o => some (o, fun a b => narrow o.m.sat (a.toInt * b.toInt))
  | .iminImm o => some (o, fun a b => BitVec.ofInt 32 (min a.toInt b.toInt))
  | .imaxImm o => some (o, fun a b => BitVec.ofInt 32 (max a.toInt b.toInt))
  | .iminuImm o => some (o, fun a b => BitVec.ofNat 32 (min a.toNat b.toNat))
  | .imaxuImm o => some (o, fun a b => BitVec.ofNat 32 (max a.toNat b.toNat))
  | .andImm o => some (o, fun a b => a &&& b)
  | .orImm o => some (o, fun a b => a ||| b)
  | .xorImm o => some (o, fun a b => a ^^^ b)
  | .shlImm o => some (o, fun a b => BitVec.ofNat 32 (a.toNat * 2 ^ b.toNat))
  | .shrImm o => some (o, fun a b => BitVec.ofNat 32 (a.toNat / 2 ^ b.toNat))
  | .sarImm o => some (o, fun a b => BitVec.ofInt 32 (a.toInt / 2 ^ b.toNat))
  | .rotImm o => some (o, fun a b => a.rotateLeft (b.toNat % 32))
  | .movImm o => some (o, fun _ b => b)
  | _ => none

/-- The writes of an A3 instruction: in each active lane and for each element j, vd + j takes the function of a, b and the old
vd (R109, R110). -/
def a3Writes (o : A3) (c : Ctx) (w : Warp) (f : Word → Word → Word → Word) : List (Nat × List (Reg × Word)) :=
  (active w c.lanes o.pred).map (fun l =>
    (l, (List.range o.width.n).map (fun j => (Reg.v (o.vd.toNat + j), f (o.a w l j) (o.b w l j) (o.d w l j)))))

/-- A write of one v register in each active lane. -/
def vWrites (pred : BitVec 3) (vd : Nat) (c : Ctx) (w : Warp) (f : Nat → Word) : List (Nat × List (Reg × Word)) :=
  (active w c.lanes pred).map (fun l => (l, [(Reg.v vd, f l)]))

/-- A write of one predicate in each active lane. -/
def pWrites (pred : BitVec 3) (pd : Nat) (c : Ctx) (w : Warp) (f : Nat → Bool) : List (Nat × List (Reg × Word)) :=
  (active w c.lanes pred).map (fun l => (l, [(Reg.p pd, if f l then 1 else 0)]))

/-- The conditions of R63 as integers compare (R116). -/
def icmpHolds (cond : BitVec 3) (a b : Word) : Bool :=
  match cond.toNat with
  | 0 => decide (a.toInt = b.toInt)
  | 1 => decide (a.toInt ≠ b.toInt)
  | 2 => decide (a.toInt < b.toInt)
  | 3 => decide (a.toInt ≤ b.toInt)
  | 4 => decide (a.toInt > b.toInt)
  | 5 => decide (a.toInt ≥ b.toInt)
  | 6 => decide (a.toNat < b.toNat)
  | _ => decide (a.toNat ≤ b.toNat)

end Sys2Proof.Spec

open Sys2Proof.Spec

/-! ## Encodings -/

/-- Words written out from the encodings of 03 (R55 to R74) and of 11 (R79) decode to the instructions they stand for: one
of each 32-bit class, one 16-bit word, one with a prefix, and a task record. -/
def Obligations.SpecWordsDecode : Prop :=
  (decode [0x0442#16]).1 = .ok (.iadd16 { vb := 1, vd := 2 }) ∧
  (decode (halvesOf 0xE0608801#32)).1 = .ok (.iadd { pred := 7, width := .w1, vb := 3, va := 1, vd := 4, m := {} }) ∧
  (decode (halvesOf 0x0002101D#32)).1 = .ok (.arrive { b := 0, a := 2, d := 4, m := {} }) ∧
  (decode (halvesOf 0x00040209#32)).1 = .ok (.cpy { la := 0, b := 0, a := 8, d := 1 }) ∧
  (decode (halvesOf 0x20C121DD#32)).1 = .ok (.sqrd { la := 2, b := 3, a := 1, d := 8 }) ∧
  decodeTask [0x00010010#32, 0, 0, 0, 0x80#32, 0, 0, 0] =
    some (.tKern { region := 1, resv := 0, det := false, xov := false, opq := false, eff := false, shed := false,
                   opcode := 0x10, bufs := 0, w2 := 0, imm := 0, pa := 0x80, pb := 0 })

/-- For every well-formed instruction that has words, decoding its encoding gives it back, with every operand, and takes
every halfword (R53, R54). -/
def Obligations.EncodeThenDecode : Prop :=
  ∀ i : Instr, i.wf = true → encode i ≠ [] → decode (encode i) = (.ok i, (encode i).length)

/-- A task record and its eight words carry the same bits (R79): words to record to words, and record to words to task. -/
def Sys2Proof.Spec.TaskRecordWords : Prop :=
  (∀ t : TaskRec, decodeTask t.words = some (taskOf t)) ∧
  (∀ w0 w1 w2 w3 w4 w5 w6 w7 : Word, (taskRecOf w0 w1 w2 w3 w4 w5 w6 w7).words = [w0, w1, w2, w3, w4, w5, w6, w7])

/-- What the prefix and format rules refuse (R55, R73, R75, R78): a 16-bit word with bit 15 set, a prefix in front of a 16-bit
word, and a prefix of kind 10 or 11 in front of any 32-bit word. -/
def Sys2Proof.Spec.MalformedBundles : Prop :=
  (∀ (h : Half) (r : List Half), h.getLsbD 0 = false → h.getLsbD 15 = true → (decode (h :: r)).1 = .error .reservedField) ∧
  (∀ (q : BitVec 26) (k : BitVec 2) (h : Half) (r : List Half), k.toNat < 2 → h.getLsbD 0 = false →
    (decode (halvesOf (prefixWord k q) ++ h :: r)).1 = .error .prefixCase) ∧
  (∀ (q : BitVec 26) (k : BitVec 2) (w : Word) (r : List Half), 2 ≤ k.toNat → w.getLsbD 0 = true → isPrefixWord w = false →
    (decode (halvesOf (prefixWord k q) ++ halvesOf w ++ r)).1 = .error .unassignedOp)

/-! ## Steps -/

/-- A step runs the decoded instruction: where the halfwords at the program counter of the group that its quad issues next
(R47) are a bundle of instruction i, the step is exec of i with that group as the issuing one; a schedule's issue move runs
it the same way after its time has passed. Every step first marks the threads that are not ready with the present clock
(State.restamp). -/
def Obligations.StepRunsDecodedBundle : Prop :=
  ∀ (s0 s : State) (c : Ctx) (t : Team) (hs : List Half) (i : Instr),
    s.team? c.team = some t → decode hs = (.ok i, hs.length) →
    (∀ j h, hs[j]? = some h → s.fetchHalf (s.ctxOf t) (c.pc + BitVec.ofNat 64 (2 * j)) = .ok h) →
    (∀ f : Nat × Nat, s = s0.restamp → s0.inbox = [] → s0.focus = some f → s.pick f.1 f.2 = some c →
      step s0 = exec i { s with cur := some { c with words := hs } }) ∧
    (∀ (core quad dt : Nat) (rest : List Move), s0.inbox = { dt := dt, what := .issue core quad } :: rest →
      s = ({ s0.restamp with inbox := rest }.elapse dt) → s0.extest = false → s.pick core quad = some c →
      step s0 = exec i { s with cur := some { c with words := hs } })

/-- A step with nothing to issue runs the task whose record stands at the decode address (R273, R276). -/
def Obligations.StepRunsDecodedTask : Prop :=
  ∀ (s : State) (t : TaskRec), s.inbox = [] → s.focus = none → s.readyPend = none → s.win.canDecode = true →
    s.taskWords = t.words → step s = exec (taskOf t) { s.restamp with arg := .none }

/-- After reset memory is in its canonical form: nothing is listed. -/
def Obligations.ResetMemoryCanonical : Prop := Memory.wf State.reset.mem = true

/-- Every step keeps memory in its canonical form (R191: one value for each byte of each space): locations strictly rising, and
none listed that reads as an unwritten one does. -/
def Obligations.StepKeepsMemoryCanonical : Prop :=
  ∀ s s' : State, Memory.wf s.mem = true → step s = .next s' → Memory.wf s'.mem = true

/-! ## The issue of a bundle, and integer results -/

/-- A bundle that issues advances its threads past it and raises the retired count by one (unless its threads wake from a wait to
issue it again); no register, no byte of memory and no other warp changes (R47, R131). -/
def Obligations.IssueAdvances : Prop :=
  ∀ (s : State) (i : Instr) (c : Ctx) (t : Team) (w : Warp), s.issue i = .go c t w →
    Wrote s (s.advance c w) c w [] ∧
    ∃ w', (s.advance c w).warp? c.team c.warp = some w' ∧
      ((∃ l ∈ c.lanes, (w.thr l).wait = none) → w'.retired = w.retired + 1)

/-- Integer and logic instructions of classes A3a, AI and the 16-bit format complete whenever they issue: every active lane's
destination takes the value the rules give, for every width, prefix and immediate form, and nothing else changes. -/
def Obligations.IntegerResults : Prop :=
  (∀ (i : Instr) (o : A3) (f : Word → Word → Word → Word), intA3 i = some (o, f) →
    ∀ (s : State) (c : Ctx) (t : Team) (w : Warp), s.issue i = .go c t w →
      ∃ s', exec i s = .next s' ∧ Wrote s s' c w (a3Writes o c w f)) ∧
  (∀ (i : Instr) (o : R16) (f : Word → Word → Word), int16 i = some (o, f) →
    ∀ (s : State) (c : Ctx) (t : Team) (w : Warp), s.issue i = .go c t w →
      ∃ s', exec i s = .next s' ∧
        Wrote s s' c w (vWrites 7 o.vd.toNat c w (fun l => f ((w.thr l).rv o.vd.toNat) ((w.thr l).rv o.vb.toNat)))) ∧
  (∀ (i : Instr) (o : AiOp) (f : Word → Word → Word), intImm i = some (o, f) →
    ∀ (s : State) (c : Ctx) (t : Team) (w : Warp), s.issue i = .go c t w →
      ∃ s', exec i s = .next s' ∧
        Wrote s s' c w (vWrites o.pred o.vd.toNat c w (fun l => f (opnd w l o.m.ka o.va 0) o.imm.int))) ∧
  (∀ (o : Movi16) (s : State) (c : Ctx) (t : Team) (w : Warp), s.issue (.movi16 o) = .go c t w →
    ∃ s', exec (.movi16 o) s = .next s' ∧ Wrote s s' c w (vWrites 7 o.vd.toNat c w (fun _ => o.imm.signExtend 32)))

/-- The fields that bfe and bfi take and place (R112): position P, length L cut at the word's end, the sign extension of bfe, and the
bits of the target that bfi keeps. -/
def Sys2Proof.Spec.BitFieldRules : Prop :=
  (∀ (o : A3) (s : State) (c : Ctx) (t : Team) (w : Warp),
    (s.issue (.bfe o) = .go c t w → ∃ s', exec (.bfe o) s = .next s' ∧ Wrote s s' c w (a3Writes o c w (fun a b _ => bfeW a b))) ∧
    (s.issue (.bfi o) = .go c t w → ∃ s', exec (.bfi o) s = .next s' ∧ Wrote s s' c w (a3Writes o c w (fun a b d => bfiW a b d)))) ∧
  ∀ (a c d : Word) (k : Nat), k < 32 →
    let P := c.toNat % 32
    let L := min (c.toNat / 256 % 64) (32 - P)
    (k < L → (bfeW a c).getLsbD k = a.getLsbD (P + k)) ∧
    (L ≤ k → (bfeW a c).getLsbD k = (decide (0 < L) && c.getLsbD 16 && a.getLsbD (P + L - 1))) ∧
    (bfiW a c d).getLsbD k = if P ≤ k ∧ k < P + L then a.getLsbD (k - P) else d.getLsbD k

/-- Each result byte of bsel is the byte of the dword b : a that its selector nibble names, or that byte's sign in all its bits
(R114). -/
def Sys2Proof.Spec.ByteSelectRule : Prop :=
  (∀ (o : A3) (s : State) (c : Ctx) (t : Team) (w : Warp), s.issue (.bsel o) = .go c t w →
    ∃ s', exec (.bsel o) s = .next s' ∧ Wrote s s' c w (a3Writes o c w (fun a b d => bselW a b d))) ∧
  ∀ (a b d : Word) (k : Nat), k < 4 →
    let n := d.toNat / 2 ^ (4 * k) % 16
    let x : Byte := BitVec.ofNat 8 ((a.toNat + 4294967296 * b.toNat) / 256 ^ (n % 8))
    (bselW a b d).extractLsb' (8 * k) 8 = if n < 8 then x else if x.msb then 0xFF#8 else 0#8

/-- Comparison, selection, carry and address forms of the integer classes: icmp writes its predicate and no v register, sel
chooses by its predicate in every lane, iaddc carries from element to element into its predicate, lea adds to a 64-bit
pair (R115 to R118). -/
def Obligations.CompareSelectCarry : Prop :=
  (∀ (o : Cmp) (s : State) (c : Ctx) (t : Team) (w : Warp), s.issue (.icmp o) = .go c t w →
    ∃ s', exec (.icmp o) s = .next s' ∧ Wrote s s' c w (pWrites o.pred o.pd.toNat c w (fun l =>
      icmpHolds o.cond (opnd w l o.m.ka o.va 0) (opnd w l o.m.kb o.vb 0)))) ∧
  (∀ (o : CmpImm) (s : State) (c : Ctx) (t : Team) (w : Warp), s.issue (.icmpImm o) = .go c t w →
    ∃ s', exec (.icmpImm o) s = .next s' ∧ Wrote s s' c w (pWrites o.pred o.pd.toNat c w (fun l =>
      icmpHolds o.cond (opnd w l o.m.ka o.va 0) o.imm.int))) ∧
  (∀ (o : A3) (s : State) (c : Ctx) (t : Team) (w : Warp), s.issue (.sel o) = .go c t w →
    ∃ s', exec (.sel o) s = .next s' ∧ Wrote s s' c w (c.lanes.map (fun l => (l, (List.range o.width.n).map (fun j =>
      (Reg.v (o.vd.toNat + j), if (w.thr l).rp o.pred.toNat then o.a w l j else o.b w l j)))))) ∧
  (∀ (o : A3) (s : State) (c : Ctx) (t : Team) (w : Warp), s.issue (.iaddc o) = .go c t w →
    ∃ (s' : State) (cy : Nat → Nat → Nat), exec (.iaddc o) s = .next s' ∧
      (∀ l, cy l 0 = if (w.thr l).rp o.pred.toNat then 1 else 0) ∧
      (∀ l j, cy l (j + 1) = ((o.a w l j).toNat + (o.b w l j).toNat + cy l j) / 4294967296) ∧
      Wrote s s' c w (c.lanes.map (fun l => (l, (List.range o.width.n).map (fun j =>
        (Reg.v (o.vd.toNat + j), BitVec.ofNat 32 ((o.a w l j).toNat + (o.b w l j).toNat + cy l j))) ++
        [(Reg.p o.pred.toNat, BitVec.ofNat 32 (cy l o.width.n))])))) ∧
  (∀ (o : A3) (s : State) (c : Ctx) (t : Team) (w : Warp), s.issue (.lea o) = .go c t w →
    ∃ s', exec (.lea o) s = .next s' ∧ Wrote s s' c w ((active w c.lanes o.pred).map (fun l =>
      (l, pairWrites o.vd (BitVec.ofInt 64 ((opndPair w l o.m.ka o.va).toInt + (opnd w l o.m.kb o.vb 0).toInt)))))) ∧
  (∀ (o : AiOp) (s : State) (c : Ctx) (t : Team) (w : Warp), s.issue (.leaImm o) = .go c t w →
    ∃ s', exec (.leaImm o) s = .next s' ∧ Wrote s s' c w ((active w c.lanes o.pred).map (fun l =>
      (l, pairWrites o.vd (BitVec.ofInt 64 ((opndPair w l o.m.ka o.va).toInt + o.imm.int.toInt))))))

/-! ## Floating point -/

namespace Sys2Proof.Spec

/-- The floating-point instructions of class A3b with a result for each element: what each makes of a, b and the old vd under
the captured controls (R120, R121, R123, R124). -/
def floatA3 : Instr → Option (A3 × (FpCtl → Word → Word → Word → Word × FpFlags))
  | .fadd o => some (o, fun k a b _ => patW (faddP .f32 k a.toNat b.toNat))
  | .fsub o => some (o, fun k a b _ => patW (fsubP .f32 k a.toNat b.toNat))
  | .fmul o => some (o, fun k a b _ => patW (fmulP .f32 k a.toNat b.toNat))
  | .ffma o => some (o, fun k a b d => patW (ffmaP .f32 k a.toNat b.toNat d.toNat))
  | .fdiv o => some (o, fun k a b _ => patW (fdivP .f32 k a.toNat b.toNat))
  | .fmin o => some (o, fun k a b _ => patW (fminP k a.toNat b.toNat))
  | .fmax o => some (o, fun k a b _ => patW (fmaxP k a.toNat b.toNat))
  | .fclass o => some (o, fun k a _ _ => (BitVec.ofNat 32 (fclassP k a.toNat), {}))
  | .hadd2 o => some (o, fun k a b _ => hadd2P k a b)
  | .hmul2 o => some (o, fun k a b _ => hmul2P k a b)
  | .hfma2 o => some (o, fun k a b d => hfma2P k a b d)
  | .bfma2 o => some (o, fun k a b d => bfma2P k a b d)
  | _ => none

/-- The floating-point instructions of the 16-bit format, as their A3b forms over vd and vb (R56). -/
def float16 : Instr → Option (R16 × (FpCtl → Word → Word → Word × FpFlags))
  | .fadd16 o => some (o, fun k a b => patW (faddP .f32 k a.toNat b.toNat))
  | .fsub16 o => some (o, fun k a b => patW (fsubP .f32 k a.toNat b.toNat))
  | .fmul16 o => some (o, fun k a b => patW (fmulP .f32 k a.toNat b.toNat))
  | .fmax16 o => some (o, fun k a b => patW (fmaxP k a.toNat b.toNat))
  | .fmin16 o => some (o, fun k a b => patW (fminP k a.toNat b.toNat))
  | _ => none

/-- The floating-point instructions of class AI (R64, R120, R121). -/
def floatImm : Instr → Option (AiOp × (FpCtl → Word → Word → Word → Word × FpFlags))
  | .faddImm o => some (o, fun k a b _ => patW (faddP .f32 k a.toNat b.toNat))
  | .fmulImm o => some (o, fun k a b _ => patW (fmulP .f32 k a.toNat b.toNat))
  | .fminImm o => some (o, fun k a b _ => patW (fminP k a.toNat b.toNat))
  | .fmaxImm o => some (o, fun k a b _ => patW (fmaxP k a.toNat b.toNat))
  | .ffmaImm o => some (o, fun k a b d => patW (ffmaP .f32 k a.toNat b.toNat d.toNat))
  | _ => none

/-- The instruction of group c completes with the register writes `ws`, then logs the lanes' flags `fl` under the MODE it
captured (R100, R101, R408); where no flag of it is logged, nothing but those registers changes. -/
def WritesAndLogs (i : Instr) (s : State) (c : Ctx) (w : Warp) (ws : List (Nat × List (Reg × Word))) (fl : List (Nat × FpFlags)) :
    Prop :=
  ∃ s1, Wrote s s1 c w ws ∧ exec i s = .next (s1.logArith c w.mode fl) ∧
    (logCause w.mode (joinFlags (fl.map (fun p => p.2))) = 0 → exec i s = .next s1)

/-- The special functions of R125. -/
def sfuOf : Instr → Option (Sfu × SfuFn)
  | .frcp o => some (o, .rcp)
  | .frsq o => some (o, .rsq)
  | .fsqrt o => some (o, .sqrt)
  | .fexp2 o => some (o, .exp2)
  | .flog2 o => some (o, .log2)
  | .fsinp o => some (o, .sinp)
  | .fcosp o => some (o, .cosp)
  | _ => none

end Sys2Proof.Spec

/-- Floating-point instructions with element results complete whenever they issue: the rounding mode, flushing and saturation are
the prefix's or else MODE's, the results stand in the active lanes' destinations, and the logged flags go to one record (R56, R64, R98,
R101, R103, R120, R121, R123, R124). That fdiv takes SAT is the model's choice (log entry 154). -/
def Sys2Proof.Spec.FloatResults : Prop :=
  (∀ (i : Instr) (o : A3) (f : FpCtl → Word → Word → Word → Word × FpFlags), floatA3 i = some (o, f) →
    ∀ (s : State) (c : Ctx) (t : Team) (w : Warp), s.issue i = .go c t w →
      WritesAndLogs i s c w (a3Writes o c w (fun a b d => (f (fpCtl w.mode o.m) a b d).1))
        ((active w c.lanes o.pred).map (fun l => (l, joinFlags ((List.range o.width.n).map (fun j =>
          (f (fpCtl w.mode o.m) (o.a w l j) (o.b w l j) (o.d w l j)).2)))))) ∧
  (∀ (i : Instr) (o : R16) (f : FpCtl → Word → Word → Word × FpFlags), float16 i = some (o, f) →
    ∀ (s : State) (c : Ctx) (t : Team) (w : Warp), s.issue i = .go c t w →
      WritesAndLogs i s c w
        (vWrites 7 o.vd.toNat c w (fun l => (f (fpCtl w.mode {}) ((w.thr l).rv o.vd.toNat) ((w.thr l).rv o.vb.toNat)).1))
        ((active w c.lanes 7).map (fun l =>
          (l, joinFlags [(f (fpCtl w.mode {}) ((w.thr l).rv o.vd.toNat) ((w.thr l).rv o.vb.toNat)).2])))) ∧
  (∀ (i : Instr) (o : AiOp) (f : FpCtl → Word → Word → Word → Word × FpFlags), floatImm i = some (o, f) →
    ∀ (s : State) (c : Ctx) (t : Team) (w : Warp), s.issue i = .go c t w →
      WritesAndLogs i s c w
        (vWrites o.pred o.vd.toNat c w (fun l =>
          (f (fpCtl w.mode o.m) (opnd w l o.m.ka o.va 0) o.imm.flt ((w.thr l).rv o.vd.toNat)).1))
        ((active w c.lanes o.pred).map (fun l =>
          (l, (f (fpCtl w.mode o.m) (opnd w l o.m.ka o.va 0) o.imm.flt ((w.thr l).rv o.vd.toNat)).2)))) ∧
  (∀ (o : Cvt) (s : State) (c : Ctx) (t : Team) (w : Warp), s.issue (.cvt o) = .go c t w →
    let r (l : Nat) := cvtCode o.code.toNat (selRm w.mode o.m.rm) (cvtSat w.mode o.m.sat o.code.toNat) (selFtz w.mode o.m.ftz)
      (opnd w l o.m.ka o.va 0)
    WritesAndLogs (.cvt o) s c w (vWrites o.pred o.vd.toNat c w (fun l => (r l).1))
      ((active w c.lanes o.pred).map (fun l => (l, (r l).2))))

/-- Floating-point comparison writes its predicate in the active lanes and no v register, for the register form and the
immediate form (R122). -/
def Sys2Proof.Spec.FloatCompares : Prop :=
  (∀ (o : Cmp) (s : State) (c : Ctx) (t : Team) (w : Warp), s.issue (.fcmp o) = .go c t w →
    let r (l : Nat) := fcmpP o.cond (fpCtl w.mode o.m) (opnd w l o.m.ka o.va 0).toNat (opnd w l o.m.kb o.vb 0).toNat
    WritesAndLogs (.fcmp o) s c w (pWrites o.pred o.pd.toNat c w (fun l => (r l).1))
      ((active w c.lanes o.pred).map (fun l => (l, (r l).2)))) ∧
  (∀ (o : CmpImm) (s : State) (c : Ctx) (t : Team) (w : Warp), s.issue (.fcmpImm o) = .go c t w →
    let r (l : Nat) := fcmpP o.cond (fpCtl w.mode o.m) (opnd w l o.m.ka o.va 0).toNat o.imm.flt.toNat
    WritesAndLogs (.fcmpImm o) s c w (pWrites o.pred o.pd.toNat c w (fun l => (r l).1))
      ((active w c.lanes o.pred).map (fun l => (l, (r l).2))))

/-- fmin and fmax (R121): of a NaN and a number, the number; of two NaNs the canonical NaN; of two numbers the lesser or the
greater, with -0 below +0; NV exactly for a signalling NaN. -/
def Sys2Proof.Spec.MinMaxRule : Prop :=
  ∀ (k : FpCtl) (a b : Nat), let x := fpA k .f32 a; let y := fpB k .f32 b
    (fminP k a b).2 = { nv := x.isSnan || y.isSnan } ∧ (fmaxP k a b).2 = { nv := x.isSnan || y.isSnan } ∧
    (x.isNan = true → y.isNan = true → (fminP k a b).1 = 0x7FC00000 ∧ (fmaxP k a b).1 = 0x7FC00000) ∧
    (x.isNan = true → y.isNan = false → (fminP k a b).1 = encodeNum .f32 y ∧ (fmaxP k a b).1 = encodeNum .f32 y) ∧
    (x.isNan = false → y.isNan = true → (fminP k a b).1 = encodeNum .f32 x ∧ (fmaxP k a b).1 = encodeNum .f32 x) ∧
    (x.isZero = true → y.isZero = true → (fminP k a b).1 = encodeNum .f32 (if x.neg? then x else y) ∧
      (fmaxP k a b).1 = encodeNum .f32 (if x.neg? then y else x)) ∧
    (x = .inf true → y.isNan = false → (fminP k a b).1 = encodeNum .f32 x ∧ (fmaxP k a b).1 = encodeNum .f32 y) ∧
    (x = .inf false → y.isNan = false → (fminP k a b).1 = encodeNum .f32 y ∧ (fmaxP k a b).1 = encodeNum .f32 x) ∧
    (y = .inf true → x.isNan = false → (fminP k a b).1 = encodeNum .f32 y ∧ (fmaxP k a b).1 = encodeNum .f32 x) ∧
    (y = .inf false → x.isNan = false → (fminP k a b).1 = encodeNum .f32 x ∧ (fmaxP k a b).1 = encodeNum .f32 y) ∧
    (x.isNan = false → y.isNan = false → x.isInf = false → y.isInf = false →
      (x.rat < y.rat → (fminP k a b).1 = encodeNum .f32 x ∧ (fmaxP k a b).1 = encodeNum .f32 y) ∧
      (y.rat < x.rat → (fminP k a b).1 = encodeNum .f32 y ∧ (fmaxP k a b).1 = encodeNum .f32 x))

/-- round_int (R102) for each mode: the floor toward zero, the ceiling away from it where the mode says so, and to nearest an
integer within a half, the even one of a tie. -/
def Sys2Proof.Spec.RoundIntRule : Prop :=
  ∀ (a : Rat), 0 ≤ a → ∀ neg : Bool,
    ((roundInt a .rz neg : Rat) ≤ a ∧ a < (roundInt a .rz neg : Rat) + 1) ∧
    ((roundInt a .rne neg : Rat) - 1 / 2 ≤ a ∧ a ≤ (roundInt a .rne neg : Rat) + 1 / 2) ∧
    (a = (floorNat a : Rat) + 1 / 2 → roundInt a .rne neg % 2 = 0) ∧
    (a ≤ (roundInt a .ru false : Rat) ∧ (roundInt a .ru false : Rat) < a + 1) ∧
    (roundInt a .ru true = roundInt a .rz neg) ∧ (roundInt a .rd false = roundInt a .rz neg) ∧
    (roundInt a .rd true = roundInt a .ru false)

/-- NaN and invalid operands of the basic operations (R91, R120): the result is the canonical NaN, and NV is raised for a
signalling operand and for an invalid operation. -/
def Sys2Proof.Spec.NanRule : Prop :=
  ∀ (k : FpCtl) (a b : Nat), k.sat = false → let x := fpA k .f32 a; let y := fpB k .f32 b
    (x.isNan = true ∨ y.isNan = true →
      (faddP .f32 k a b).1 = 0x7FC00000 ∧ (fsubP .f32 k a b).1 = 0x7FC00000 ∧ (fmulP .f32 k a b).1 = 0x7FC00000 ∧
      (fdivP .f32 k a b).1 = 0x7FC00000 ∧ (faddP .f32 k a b).2.nv = (x.isSnan || y.isSnan) ∧
      (fmulP .f32 k a b).2.nv = (x.isSnan || y.isSnan)) ∧
    (x = .inf true → y = .inf false → (faddP .f32 k a b).1 = 0x7FC00000 ∧ (faddP .f32 k a b).2.nv = true) ∧
    (x.isInf = true → y.isZero = true → (fmulP .f32 k a b).1 = 0x7FC00000 ∧ (fmulP .f32 k a b).2.nv = true) ∧
    (x.isZero = false → x.isInf = false → x.isNan = false → y.isZero = true →
      (fdivP .f32 k a b).1 = signed .f32 (x.neg? != y.neg?) 0x7F800000 ∧ (fdivP .f32 k a b).2.dz = true)

/-- Special functions and rand complete whenever they issue: the flags are logged, and the results of the active lanes are
written at once with lookahead 0 and are pending for their window otherwise (R76, R125 to R127). -/
def Obligations.LookaheadResults : Prop :=
  (∀ (i : Instr) (o : Sfu) (fn : SfuFn), Spec.sfuOf i = some (o, fn) →
    ∀ (s : State) (c : Ctx) (t : Team) (w : Warp), s.issue i = .go c t w →
      let k := fpCtl w.mode o.m
      let r (l : Nat) := sfuResult fn k.rm k.ftz (fpA k .f32 (opnd w l o.m.ka o.va 0).toNat)
      let fl := (active w c.lanes o.pred).map (fun l => (l, (r l).2))
      let ws := vWrites o.pred o.vd.toNat c w (fun l => BitVec.ofNat 32 (r l).1)
      exec i s = .next (((s.advance c w).logArith c w.mode fl).commit c o.la.toNat [.v o.vd.toNat] ws) ∧
      (logCause w.mode (joinFlags (fl.map (fun p => p.2))) = 0 →
        ∃ s', exec i s = .next s' ∧ Produced s s' c w o.la.toNat [.v o.vd.toNat] ws)) ∧
  (∀ (o : RandOp) (s : State) (c : Ctx) (t : Team) (w : Warp), s.issue (.rand o) = .go c t w →
    (∀ l ∈ active w c.lanes o.pred, (w.thr l).rctr + 1 ≠ 0) →
    exec (.rand o) s = .next (((s.advance c w).mapThr c.team c.warp (fun l th =>
        if (active w c.lanes o.pred).contains l then { th with rctr := th.rctr + 1 } else th)).commit c o.la.toNat [.v o.vd.toNat]
      (vWrites o.pred o.vd.toNat c w (fun l => randValue (t.gidx w l) (w.rk o.ka.toNat) (w.thr l).rctr))))

/-- A read or write of a special value (R129, R130): movs copies a special value to v or k, a register to a writable special
value, a lane's v to k, or k to k; MODE keeps its reserved bits clear (R99). -/
def Sys2Proof.Spec.SpecialValueMoves : Prop :=
  ∀ (o : SOp) (s : State) (c : Ctx) (t : Team) (w : Warp), s.issue (.movs o) = .go c t w →
    let l0 := c.lanes.headD 0
    (o.b.toNat = 0 → ∃ s', exec (.movs o) s = .next s' ∧
      Wrote s s' c w (c.lanes.map (fun l => (l, [(Reg.v o.d.toNat, specialVal s t w l o.a.toNat)])))) ∧
    (o.b.toNat = 1 → exec (.movs o) s = .next ((s.advance c w).mapThr c.team c.warp (fun l th =>
      if c.lanes.contains l then th.wrSpecial o.a.toNat ((w.thr l).rv o.d.toNat) else th))) ∧
    (o.b.toNat = 2 → ∃ s', exec (.movs o) s = .next s' ∧
      Wrote s s' c w [(l0, [(Reg.k o.d.toNat, specialVal s t w l0 o.a.toNat)])]) ∧
    (o.b.toNat = 3 → o.a.toNat = 21 → exec (.movs o) s = .next ((s.advance c w).updWarp c.team c.warp (fun v =>
      { v with mode := w.rk o.d.toNat &&& 0xF817 }))) ∧
    (o.b.toNat = 3 → o.a.toNat ≠ 21 → exec (.movs o) s = .next ((s.advance c w).mapThr c.team c.warp (fun l th =>
      if c.lanes.contains l then th.wrSpecial o.a.toNat (w.rk o.d.toNat) else th))) ∧
    (o.b.toNat = 4 → ∃ s', exec (.movs o) s = .next s' ∧
      Wrote s s' c w [(l0, [(Reg.k o.d.toNat, (w.thr l0).rv o.a.toNat)])]) ∧
    (o.b.toNat = 5 → ∃ s', exec (.movs o) s = .next s' ∧ Wrote s s' c w [(l0, [(Reg.k o.d.toNat, w.rk o.a.toNat)])])

/-- time, cycles and retired (R131): a u64 in a k pair. Retired is the warp's retired count; in deterministic mode cycles is
the same and time the task's launch timestamp; otherwise cycles never falls on a core, and time lies within 16 ns of the clock, and never before the warp's
last reading where that reading was itself no more than 16 ns ahead. -/
def Sys2Proof.Spec.ClockReads : Prop :=
  ∀ (o : SOp) (s : State) (c : Ctx) (t : Team) (w : Warp),
    let pair (x : DWord) : List (Nat × List (Reg × Word)) :=
      [(c.lanes.headD 0, [(Reg.k o.d.toNat, x.extractLsb' 0 32), (Reg.k (o.d.toNat + 1), x.extractLsb' 32 32)])]
    (s.issue (.retired o) = .go c t w → ∃ s', exec (.retired o) s = .next s' ∧ Wrote s s' c w (pair w.retired)) ∧
    (s.issue (.cycles o) = .go c t w → (s.ctxOf t).det = true →
      ∃ s', exec (.cycles o) s = .next s' ∧ Wrote s s' c w (pair w.retired)) ∧
    (s.issue (.cycles o) = .go c t w → (s.ctxOf t).det = false →
      ∃ x s1, KV.get 0 t.core s.clocks ≤ x ∧ Wrote s s1 c w (pair (BitVec.ofNat 64 x)) ∧
        exec (.cycles o) s = .next { s1 with freeCtr := s.freeCtr + 1, clocks := KV.put 0 t.core x s.clocks }) ∧
    (s.issue (.time o) = .go c t w → (s.ctxOf t).det = true →
      ∃ s', exec (.time o) s = .next s' ∧ Wrote s s' c w (pair (BitVec.ofNat 64 (s.ctxOf t).launch))) ∧
    (s.issue (.time o) = .go c t w → (s.ctxOf t).det = false →
      ∃ v s1, Wrote s s1 c w (pair (BitVec.ofNat 64 v)) ∧ w.lastTime ≤ v ∧ s.ptime ≤ v + 16 ∧
        (w.lastTime ≤ s.ptime + 16 → v ≤ s.ptime + 16) ∧
        exec (.time o) s = .next (({ s1 with freeCtr := s.freeCtr + 1 } : State).updWarp c.team c.warp (fun x => { x with lastTime := v })))

namespace Sys2Proof.Spec

/-- The lane that a relay reads in a segment of `seg` lanes (R133); none where that lane lies outside the segment. -/
def relayLane : RelayKind → Nat → Nat → Nat → Option Nat
  | .at, seg, l, x => some (seg * (l / seg) + x % seg)
  | .lo, seg, l, x => if seg * (l / seg) + x ≤ l then some (l - x) else none
  | .hi, seg, l, x => if l + x < seg * (l / seg) + seg then some (l + x) else none
  | .sw, seg, l, x => if (l ^^^ x) / seg = l / seg then some (l ^^^ x) else none

/-- A relay: each lane of the group takes va of the lane named, or its own where that lane is outside the segment or not in the
group. -/
def Relays (i : Instr) (s : State) (c : Ctx) (w : Warp) (r : RelayKind) (a d : BitVec 6) (seg : Nat) (x : Nat → Nat) : Prop :=
  ∃ s', exec i s = .next s' ∧ Wrote s s' c w (c.lanes.map (fun l =>
    (l, [(Reg.v d.toNat, (w.thr (((relayLane r seg l (x l)).filter (fun j => c.lanes.contains j)).getD l)).rv a.toNat)])))

/-- The register relays and the immediate relays. -/
def relayReg : Instr → Option (RelayKind × SOp)
  | .relayAt o => some (.at, o)
  | .relayLo o => some (.lo, o)
  | .relayHi o => some (.hi, o)
  | .relaySw o => some (.sw, o)
  | _ => none

def relayImm : Instr → Option (RelayKind × RelayImm)
  | .relayAtImm o => some (.at, o)
  | .relayLoImm o => some (.lo, o)
  | .relayHiImm o => some (.hi, o)
  | .relaySwImm o => some (.sw, o)
  | _ => none

end Sys2Proof.Spec

/-- The relays over the issuing group (R133), register and immediate forms, on a warp of a legal width. -/
def Sys2Proof.Spec.RelayResults : Prop :=
  (∀ (i : Instr) (r : RelayKind) (o : SOp), Spec.relayReg i = some (r, o) →
    ∀ (s : State) (c : Ctx) (t : Team) (w : Warp), s.issue i = .go c t w → 0 < w.width →
      Relays i s c w r o.a o.d w.width (fun l => ((w.thr l).rv o.b.toNat).toNat)) ∧
  (∀ (i : Instr) (r : RelayKind) (o : RelayImm), Spec.relayImm i = some (r, o) →
    ∀ (s : State) (c : Ctx) (t : Team) (w : Warp), s.issue i = .go c t w → 0 < w.width →
      Relays i s c w r o.a o.d (if o.seg = 0 then w.width else 2 ^ o.seg.toNat) (fun _ => o.val.toNat))

/-- Polls and peers over the issuing group (R134, R135): a predicate or a mask of lanes of the group, the same in every lane for
the polls, and gred's one value in every lane (R136). -/
def Sys2Proof.Spec.GroupResults : Prop :=
  ∀ (o : SOp) (s : State) (c : Ctx) (t : Team) (w : Warp),
    let src (l : Nat) : Bool := (w.thr l).rp (o.a.toNat % 8) != o.a.getLsbD 3
    let toAll (b : Bool) : List (Nat × List (Reg × Word)) := c.lanes.map (fun l => (l, [(Reg.p (o.d.toNat % 8), if b then 1 else 0)]))
    (s.issue (.pollSome o) = .go c t w →
      ∃ s', exec (.pollSome o) s = .next s' ∧ Wrote s s' c w (toAll (c.lanes.any src))) ∧
    (s.issue (.pollEach o) = .go c t w →
      ∃ s', exec (.pollEach o) s = .next s' ∧ Wrote s s' c w (toAll (c.lanes.all src))) ∧
    (s.issue (.pollMask o) = .go c t w → ∃ s', exec (.pollMask o) s = .next s' ∧
      Wrote s s' c w (c.lanes.map (fun l => (l, laneMask w.width o.d (c.lanes.filter src))))) ∧
    (s.issue (.peers o) = .go c t w → ∃ s', exec (.peers o) s = .next s' ∧
      Wrote s s' c w (c.lanes.map (fun l =>
        (l, laneMask w.width o.d (c.lanes.filter (fun j => (w.thr j).rv o.a.toNat = (w.thr l).rv o.a.toNat)))))) ∧
    (s.issue (.gred o) = .go c t w →
      let r := gredVal (o.b.toNat % 16) w.mode (c.lanes.map (fun l => (w.thr l).rv o.a.toNat))
      exec (.gred o) s = .next (((s.advance c w).logArith c w.mode [(c.lanes.headD 0, r.2)]).commit c o.la.toNat [.v o.d.toNat]
        (c.lanes.map (fun l => (l, [(Reg.v o.d.toNat, r.1)])))))

/-! ## Control transfer, exits and halts -/

/-- Transfers (R138 to R140): threads whose guard is true go to the target, which call and ret take with their return stack, and
the others go on after the bundle; loop counts its k register down once. -/
def Sys2Proof.Spec.Transfers : Prop :=
  ∀ (s : State) (c : Ctx) (t : Team) (w : Warp),
    let go (act : List Nat) (a : State) (target : DWord) : State :=
      a.mapThr c.team c.warp (fun l th => if act.contains l then { th with pc := target } else th)
    (∀ o : BraOp, s.issue (.bra o) = .go c t w → exec (.bra o) s =
      .next (go (active w c.lanes o.pred) (s.advance c w) (c.pc + 2 * o.off.signExtend 64))) ∧
    (∀ o : BraOp, s.issue (.call o) = .go c t w → (∀ l ∈ active w c.lanes o.pred, (w.thr l).rstack.length < 16) →
      exec (.call o) s = .next ((s.advance c w).mapThr c.team c.warp (fun l th =>
        if (active w c.lanes o.pred).contains l then
          { th with pc := c.pc + 2 * o.off.signExtend 64, rstack := (c.pc + 4) :: th.rstack }
        else th))) ∧
    (∀ o : GuardOp, s.issue (.ret o) = .go c t w → (∀ l ∈ active w c.lanes o.pred, (w.thr l).rstack ≠ []) →
      exec (.ret o) s = .next ((s.advance c w).mapThr c.team c.warp (fun l th =>
        if (active w c.lanes o.pred).contains l then { th with pc := th.rstack.headD 0, rstack := th.rstack.tail } else th))) ∧
    (∀ o : JmpOp, s.issue (.jmp o) = .go c t w → (w.rkPair o.k.toNat).getLsbD 0 = false → active w c.lanes o.pred ≠ [] →
      exec (.jmp o) s = .next (go (active w c.lanes o.pred) (s.advance c w) (w.rkPair o.k.toNat))) ∧
    (∀ o : BrxOp, s.issue (.brx o) = .go c t w → exec (.brx o) s =
      .next (go (active w c.lanes o.pred) (s.advance c w)
        (c.pc + 4 + 4 * BitVec.ofNat 64 (min (w.rk o.k.toNat).toNat o.n.toNat)))) ∧
    (∀ o : LoopOp, s.issue (.loop o) = .go c t w → active w c.lanes o.pred ≠ [] →
      let a := (s.advance c w).updWarp c.team c.warp (fun v => v.setK o.k.toNat (w.rk o.k.toNat - 1))
      exec (.loop o) s = .next
        (if w.rk o.k.toNat = 1 then a else go (active w c.lanes o.pred) a (c.pc + 2 * o.off.signExtend 64)))

/-- A guard that is false in every thread of the group lets a transfer or an exit only advance (R9, R138 to R141). -/
def Sys2Proof.Spec.GuardedOff : Prop :=
  ∀ (s : State) (c : Ctx) (t : Team) (w : Warp),
    (∀ o : JmpOp, s.issue (.jmp o) = .go c t w → active w c.lanes o.pred = [] → exec (.jmp o) s = .next (s.advance c w)) ∧
    (∀ o : LoopOp, s.issue (.loop o) = .go c t w → active w c.lanes o.pred = [] → exec (.loop o) s = .next (s.advance c w)) ∧
    (∀ o : GuardOp, s.issue (.exit o) = .go c t w → active w c.lanes o.pred = [] → exec (.exit o) s = .next (s.advance c w))

/-- Where a transfer halts its warp before it has any effect (R137, R138): a call at depth 16, a ret on an empty stack, an
odd target of jmp. -/
def Sys2Proof.Spec.TransferHalts : Prop :=
  ∀ (s : State) (c : Ctx) (t : Team) (w : Warp),
    (∀ (o : BraOp) (l : Nat), s.issue (.call o) = .go c t w →
      (active w c.lanes o.pred).find? (fun x => decide (16 ≤ (w.thr x).rstack.length)) = some l →
      exec (.call o) s = .next (s.haltWarp c { cause := 7, detail := 1, lane := l } false)) ∧
    (∀ (o : GuardOp) (l : Nat), s.issue (.ret o) = .go c t w →
      (active w c.lanes o.pred).find? (fun x => (w.thr x).rstack.isEmpty) = some l →
      exec (.ret o) s = .next (s.haltWarp c { cause := 7, detail := 2, lane := l } false)) ∧
    (∀ (o : JmpOp) (l : Nat) (r : List Nat), s.issue (.jmp o) = .go c t w → active w c.lanes o.pred = l :: r →
      (w.rkPair o.k.toNat).getLsbD 0 = true →
      exec (.jmp o) s = .next (s.haltWarp c { cause := 3, lane := l, faddr := (w.rkPair o.k.toNat).toNat } false))

/-- A halt (R410, R411): the warp holds its halt record, with the cause, detail, lane, address and the program counter of the
group; its threads, registers and pending results are as they were. -/
def Sys2Proof.Spec.HaltKeepsWarp : Prop :=
  ∀ (s : State) (c : Ctx) (t : Team) (w : Warp) (h : HaltInfo) (b : Bool), s.team? c.team = some t → s.warp? c.team c.warp = some w →
    ∃ x w', (s.haltWarp c h b).warp? c.team c.warp = some w' ∧ w' = { w with halt := some x, log := none } ∧
      x.cause = h.cause ∧ x.detail = h.detail ∧ x.lane = h.lane ∧ x.faddr = h.faddr ∧ x.code = h.code ∧ x.pc = c.pc ∧
      x.group = c.lanes ∧ x.boundary = b

/-- brk and an illegal encoding halt the warp at the bundle (R78, R146): cause BREAK with the code, the bundle counted as issued (the
model's choice, log entry 148), and cause ILLEGAL with the detail. -/
def Sys2Proof.Spec.BreakAndIllegalHalt : Prop :=
  ∀ (s : State) (c : Ctx) (t : Team) (w : Warp),
    (∀ o : SOp, s.issue (.brk o) = .go c t w →
      exec (.brk o) s = .next (((s.advance c w).mapThr c.team c.warp (fun l th => if c.lanes.contains l then { th with pc := c.pc } else th)).haltWarp
        c { cause := 14, code := o.d.toNat } false)) ∧
    (∀ d : Detail, s.issue (.illegalEncoding d) = .go c t w →
      exec (.illegalEncoding d) s = .next (s.haltWarp c { cause := 1, detail := Sys2Proof.Machine.Detail.code d } false))

/-- A bundle that names a pending register inside its window halts with cause LOOKAHEAD before it has any effect, whatever the
instruction (R76), and one whose fields the warp's width, registers or slot forbid halts with ILLEGAL (R78). -/
def Obligations.IssueHalts : Prop :=
  ∀ (s : State) (i : Instr) (c : Ctx) (t : Team) (w : Warp), s.cur = some c → s.team? c.team = some t →
    s.warp? c.team c.warp = some w → t.st = .resident → w.halt = none → issuable w c = true → encode i ≠ [] →
    (∀ d, dynDetail w.width t.desc.vregs t.agent i = some d →
      exec i s = .next (s.haltWarp c { cause := 1, detail := d } false)) ∧
    (dynDetail w.width t.desc.vregs t.agent i = none → c.lanes.any (fun l => w.violates l (uses w.width i)) = true →
      exec i s = .next (s.haltWarp c { cause := 2 } false))

/-- The participants of a converge at address a with mask m that stand at it once the lanes `ls` have arrived (R142). -/
def convAt (w : Warp) (ls : List Nat) (a : Nat) (m : Option DWord) : List Nat :=
  (List.range w.width).filter (fun j => maskHas m j && (w.thr j).live && (ls.contains j || (w.thr j).conv == some (a, m)))

/-- Whether the arrival of lanes `ls` completes the converge: every participant has arrived or exited, or has no thread (R142). -/
def convFull (w : Warp) (ls : List Nat) (a : Nat) (m : Option DWord) : Prop :=
  ∀ j < w.width, maskHas m j = true → (w.thr j).live = true → (w.thr j).exited = false →
    j ∈ ls ∨ (w.thr j).heldAt a = true

/-- exit, yield and converge (R141 to R145) complete: exit ends the active threads after their pending results and pixels and
leaves registers and memory alone; yield makes the group's threads ready again at the next clock; converge holds the group's
threads at the bundle's address until the last participant arrives, which frees them all, their views joined at once in default
mode; a wrong mask, or an arrival that leaves every thread held, halts the warp before it has any effect. -/
def Obligations.ExitYieldConverge : Prop :=
  ∀ (s : State) (c : Ctx) (t : Team) (w : Warp),
    (∀ o : GuardOp, s.issue (.exit o) = .go c t w → active w c.lanes o.pred ≠ [] →
      exec (.exit o) s = .next ((s.advance c w).exitLanes c t w (s.ctxOf t) (active w c.lanes o.pred))) ∧
    (∀ o : GuardOp, s.issue (.exit o) = .go c t w → active w c.lanes o.pred ≠ [] → t.job = none → w.pend = [] → w.log = none →
      (∀ l, (w.thr l).conv = none) →
      ∃ s' w', exec (.exit o) s = .next s' ∧ s'.warp? c.team c.warp = some w' ∧ s'.mem = s.mem ∧ w'.k = w.k ∧ w'.halt = w.halt ∧
        ∀ l < w.threads.length, (w'.thr l).v = (w.thr l).v ∧ (w'.thr l).p = (w.thr l).p ∧
          (w'.thr l).exited = ((active w c.lanes o.pred).contains l || (w.thr l).exited)) ∧
    (∀ o : SOp, s.issue (.yield o) = .go c t w → ∃ s', exec (.yield o) s = .next s' ∧ Wrote s s' c w []) ∧
    (∀ o : SOp, s.issue (.converge o) = .go c t w →
      let a := c.pc.toNat
      let m := convMask w o
      let mates := (convAt w c.lanes a m).map w.thr
      (∀ l, c.lanes.find? (convBad w a m) = some l →
        exec (.converge o) s = .next (s.haltWarp c { cause := 6, detail := 1, lane := l } false)) ∧
      ((∀ l ∈ c.lanes, convBad w a m l = false) → (∀ j < w.width, w.convDone j = false) →
        (¬ convFull w c.lanes a m →
          (∀ l < w.width, (w.thr l).live = true → (w.thr l).exited = false → l ∈ c.lanes ∨ (w.thr l).conv.isSome = true) →
          exec (.converge o) s = .next (s.haltWarp c { cause := 6, detail := 2, lane := minOf c.lanes } false)) ∧
        ((∃ l < w.width, (w.thr l).live = true ∧ (w.thr l).exited = false ∧ l ∉ c.lanes ∧ (w.thr l).conv = none) ∨
            (convFull w c.lanes a m ∧ ∀ l ∈ c.lanes, l < w.width) →
          ∃ s' w', exec (.converge o) s = .next s' ∧ s'.warp? c.team c.warp = some w' ∧ s'.mem = s.mem ∧ w'.k = w.k ∧
            (∀ l, (w'.thr l).v = (w.thr l).v ∧ (w'.thr l).p = (w.thr l).p) ∧
            (∀ l ∈ c.lanes, l < w.width →
              (¬ convFull w c.lanes a m → (w'.thr l).conv = some (a, m)) ∧
              (convFull w c.lanes a m → (w'.thr l).conv = none ∧
                ((s.ctxOf t).det = false → (w'.thr l).view = (joinViews mates (w.thr l)).view))))))


/-! ## Memory: loads, stores, atomics, fences -/

namespace Sys2Proof.Spec

/-- A team without what a bundle's issue and its memory events move: program counters, waits, windows, held effects, queue
fences, counts and views. What is left is every register, flag, tile, slice, stack and record of it. -/
def bare (t : Team) : Team :=
  { t with warps := t.warps.map (fun w => { w with retired := 0, pend := [], held := [], lastTime := 0, qfences := [], threads := w.threads.map (fun th =>
      { th with pc := 0, ready := 0, issued := 0, wait := none, view := [], seen := 0 }) }) }

/-- No register, flag, tile or slice of any team has changed. -/
def SameRegs (s s' : State) : Prop := s'.teams.map bare = s.teams.map bare

/-- A team without the slices of one warp's threads. -/
def unsliced (team warp : Nat) (t : Team) : Team :=
  if t.id = team then t.updWarp warp (fun w => { w with threads := w.threads.map (fun th => { th with slice := [] }) }) else t

/-- Nothing but the slices of one warp's threads has changed of what SameRegs names. -/
def SameButSlices (team warp : Nat) (s s' : State) : Prop :=
  s'.teams.map (fun t => bare (unsliced team warp t)) = s.teams.map (fun t => bare (unsliced team warp t))

/-- The value of a sub-word load (R67, R218): a byte or halfword, with zeros or its sign above it. -/
def subValue (size : BitVec 2) (bs : List Byte) : Word :=
  match size.toNat with
  | 0 => BitVec.ofNat 32 (leNat bs)
  | 1 => BitVec.ofInt 32 (if leNat bs < 128 then (leNat bs : Int) else leNat bs - 256)
  | 2 => BitVec.ofNat 32 (leNat bs)
  | _ => BitVec.ofInt 32 (if leNat bs < 32768 then (leNat bs : Int) else leNat bs - 65536)

/-- Bytes of a sub-word access. -/
def subBytes (size : BitVec 2) : Nat := if size.toNat < 2 then 1 else 2

/-- The loads: operands, space, bytes, registers, and what register j takes of the bytes (R67, R218). -/
def loadOf : Instr → Option (Mem × Space × Nat × Nat × (Nat → List Byte → Word))
  | .ldG o => some (o, .g, 4 * o.n, o.n, fun j bs => BitVec.ofNat 32 (leNat ((bs.drop (4 * j)).take 4)))
  | .ldS o => some (o, .s, 4 * o.n, o.n, fun j bs => BitVec.ofNat 32 (leNat ((bs.drop (4 * j)).take 4)))
  | .ldC o => some (o, .c, 4 * o.n, o.n, fun j bs => BitVec.ofNat 32 (leNat ((bs.drop (4 * j)).take 4)))
  | .ldX o => some (o, .x, 4 * o.n, o.n, fun j bs => BitVec.ofNat 32 (leNat ((bs.drop (4 * j)).take 4)))
  | .ldL o => some (o, .l, 4 * o.n, o.n, fun j bs => BitVec.ofNat 32 (leNat ((bs.drop (4 * j)).take 4)))
  | .ldK o => some (o, .k, 4 * o.n, o.n, fun j bs => BitVec.ofNat 32 (leNat ((bs.drop (4 * j)).take 4)))
  | .ldGSubword o => some (o, .g, subBytes o.size, 1, fun _ bs => subValue o.size bs)
  | .ldSSubword o => some (o, .s, subBytes o.size, 1, fun _ bs => subValue o.size bs)
  | .ldXSubword o => some (o, .x, subBytes o.size, 1, fun _ bs => subValue o.size bs)
  | _ => none

/-- The stores: operands, space and bytes (R67, R218). -/
def storeOf : Instr → Option (Mem × Space × Nat)
  | .stG o => some (o, .g, 4 * o.n)
  | .stS o => some (o, .s, 4 * o.n)
  | .stC o => some (o, .c, 4 * o.n)
  | .stX o => some (o, .x, 4 * o.n)
  | .stL o => some (o, .l, 4 * o.n)
  | .stGSubword o => some (o, .g, if o.size = 0 then 1 else 2)
  | .stSSubword o => some (o, .s, if o.size = 0 then 1 else 2)
  | .stXSubword o => some (o, .x, if o.size = 0 then 1 else 2)
  | _ => none

/-- The atomics and the reductions, with their spaces. -/
def atomForm : Instr → Option (Atom × Space)
  | .atomS o => some (o, .s)
  | .atomC o => some (o, .c)
  | .atomG o => some (o, .g)
  | .atomX o => some (o, .x)
  | _ => none

def redForm : Instr → Option (Atom × Space)
  | .redS o => some (o, .s)
  | .redG o => some (o, .g)
  | .redX o => some (o, .x)
  | _ => none

/-- Byte i of the registers that a store takes, from vd up, lowest byte first. -/
def storeByte (w : Warp) (l : Nat) (vd : BitVec 6) (i : Nat) : Byte := ((w.thr l).rv (vd.toNat + i / 4)).extractLsb' (8 * (i % 4)) 8

/-- What a store writes: n bytes at each lane's location, in ascending lane order (R216). -/
def storeWrites (w : Warp) (vd : BitVec 6) (n : Nat) (ls : List (Nat × Nat)) : List (Nat × Byte) :=
  ls.flatMap (fun p => (List.range n).map (fun i => (p.2 + i, storeByte w p.1 vd i)))

/-- The byte at a after the writes ws: the last one's, else d. -/
def lastByte (a : Nat) (ws : List (Nat × Byte)) (d : Byte) : Byte := ((ws.reverse.find? (fun q => q.1 == a)).map (fun q => q.2)).getD d

end Sys2Proof.Spec

/-- Loads complete whenever their accesses pass the checks (R213 to R218): each active lane's registers take the bytes that its
view gives at its address, at once or in their window; nothing else changes, and no byte of memory. With an acquire the
registers take what the view gives after it (R198). -/
def Obligations.Loads : Prop :=
  ∀ (i : Instr) (o : Mem) (sp : Space) (n r : Nat) (f : Nat → List Byte → Word), loadOf i = some (o, sp, n, r, f) →
    ∀ (s : State) (c : Ctx) (t : Team) (w : Warp) (ls : List (Nat × Nat)), s.issue i = .go c t w →
      (s.advance c w).check t (s.ctxOf t) sp .read n (laneAddrs sp w (active w c.lanes o.pred) o.m.ka o.va o.off) = .ok ls →
      let ws (a : State) (v : Warp) : List (Nat × List (Reg × Word)) := ls.map (fun p => (p.1, (List.range r).map (fun j =>
        (Reg.v (o.vd.toNat + j), f j (a.rdBytes (s.ctxOf t) sp (c.team, c.warp, p.1) v (v.thr p.1) p.2 n)))))
      let s1 := (s.advance c w).accEvents c t (s.ctxOf t) sp o.m (active w c.lanes o.pred)
      (∃ s', exec i s = .next s' ∧ ((isRel o.m.fence || isAcq o.m.fence) = false → Produced s s' c w o.la.toNat (vGrp o.vd r) (ws (s.advance c w) w))) ∧
      s1.mem = s.mem ∧ SameRegs s s1 ∧
      ∃ w1, s1.warp? c.team c.warp = some w1 ∧ exec i s = .next (s1.commit c o.la.toNat (vGrp o.vd r) (ws s1 w1))

/-- Stores complete whenever their accesses pass the checks (R216, R218): the bytes of the registers stand at the lanes' addresses,
the highest lane's where they overlap; every other byte of memory and every register is unchanged. A store to the slice changes
its thread's slice alone, no register and no byte of memory, and one of a deterministic team to any other space is held to the
round boundary with memory as it was (R183). -/
def Obligations.Stores : Prop :=
  ∀ (i : Instr) (o : Mem) (sp : Space) (n : Nat), storeOf i = some (o, sp, n) →
    ∀ (s : State) (c : Ctx) (t : Team) (w : Warp) (ls : List (Nat × Nat)), s.issue i = .go c t w →
      (s.advance c w).check t (s.ctxOf t) sp .write n (laneAddrs sp w (active w c.lanes o.pred) o.m.ka o.va o.off) = .ok ls →
      ∃ s' w', exec i s = .next s' ∧ s'.warp? c.team c.warp = some w' ∧
        s' = { s with teams := s'.teams, tick := s.tick + 1, mem := s'.mem, nextSer := s'.nextSer, hist := s'.hist, publs := s'.publs } ∧
        ((isRel o.m.fence || isAcq o.m.fence) = false → s'.publs = s.publs) ∧
        (sp ≠ .l → SameRegs s s') ∧
        (sp ≠ .l → (s.ctxOf t).det = false → ∀ a, s'.rdNew a = lastByte a (storeWrites w o.vd n ls) (s.rdNew a)) ∧
        (sp ≠ .l → (s.ctxOf t).det = true → s'.mem = s.mem ∧
          ((isRel o.m.fence || isAcq o.m.fence) = false → w'.held = w.held ++ ls.map (fun p =>
            { fx := .store p.1 ((List.range n).map (fun j => (p.2 + j, storeByte w p.1 o.vd j))), at_ := s.tick + 1, pc := c.pc, words := c.words }))) ∧
        (sp = .l → s'.mem = s.mem ∧ SameButSlices c.team c.warp s s' ∧ ∀ l a, KV.get 0 a (w'.thr l).slice =
          lastByte a (storeWrites w o.vd n (ls.filter (fun p => p.1 == l))) (KV.get 0 a (w.thr l).slice))

namespace Sys2Proof.Spec

/-- The space, the access, its size, guard and addressing of every instruction that accesses memory by lanes. -/
def accessOf : Instr → Option (Space × Acc × Nat × BitVec 3 × Bool × BitVec 6 × BitVec 26)
  | i =>
    match loadOf i, storeOf i, (atomForm i).or (redForm i) with
    | some (o, sp, n, _), _, _ => some (sp, .read, n, o.pred, o.m.ka, o.va, o.off)
    | _, some (o, sp, n), _ => some (sp, .write, n, o.pred, o.m.ka, o.va, o.off)
    | _, _, some (o, sp) => some (sp, .write, 4, o.pred, o.m.ka, o.va, o.off)
    | _, _, _ => none

end Sys2Proof.Spec

/-- Where an access halts or waits, before it has any effect (R214, R215): the lowest lane whose address is not a multiple of the
access's size halts with cause ALIGN; else the lowest lane that ends beyond its space with BOUNDS; what translation and
protection find halts, or waits for the pages. -/
def Obligations.AccessHalts : Prop :=
  ∀ (i : Instr) (sp : Space) (acc : Acc) (n : Nat) (pred : BitVec 3) (kx : Bool) (va : BitVec 6) (off : BitVec 26),
    accessOf i = some (sp, acc, n, pred, kx, va, off) →
    ∀ (s : State) (c : Ctx) (t : Team) (w : Warp), s.issue i = .go c t w →
      let las := laneAddrs sp w (active w c.lanes pred) kx va off
      (∀ p, las.find? (fun q => q.2 % n != 0) = some p →
        exec i s = .next (s.haltWarp c { cause := 3, lane := p.1, faddr := p.2 } false)) ∧
      (∀ p, sp ≠ .g → las.find? (fun q => q.2 % n != 0) = none → las.find? (fun q => decide (sp.range t < q.2 + n)) = some p →
        exec i s = .next (s.haltWarp c { cause := 5, lane := p.1, faddr := p.2 } false)) ∧
      (∀ h, (s.advance c w).check t (s.ctxOf t) sp acc n las = .halt h → exec i s = .next (s.haltWarp c h false)) ∧
      (∀ ps, (s.advance c w).check t (s.ctxOf t) sp acc n las = .page ps → exec i s = .next (s.pageWait c t ps)) ∧
      (∀ h l, (s.advance c w).check t (s.ctxOf t) sp acc n las = .memErr h l →
        exec i s = .next ((s.memErr (s.ctxOf t).seq l).haltWarp c h false))

/-- The kinds of read-modify-write (R220), as integers compute them, for the kinds that are not of floating point. -/
def Sys2Proof.Spec.AtomicRule : Prop :=
  ∀ (s : State) (sp : Space) (P : Party) (g : Option Nat) (a : AtomOp),
    let old : Word := BitVec.ofNat 32 (s.rdNewNat a.loc 4)
    let r := s.atomic sp P g a
    r.1 = old ∧
    (∀ l, r.2.rdNew l = if a.loc ≤ l ∧ l < a.loc + 4 then (atomNew a.kind old a.x a.new).extractLsb' (8 * (l - a.loc)) 8 else s.rdNew l) ∧
    r.2.teams = s.teams ∧
    (∀ j, j < 4 → { scope := if hostLoc (a.loc + j) then .system else sp.scope, party := P, loc := a.loc + j, ser := s.nextSer + j,
                    writer := P : Publ } ∈ r.2.publs) ∧
    atomNew 0 old a.x a.new = old + a.x ∧
    atomNew 2 old a.x a.new = BitVec.ofInt 32 (min old.toInt a.x.toInt) ∧
    atomNew 3 old a.x a.new = BitVec.ofInt 32 (max old.toInt a.x.toInt) ∧
    atomNew 4 old a.x a.new = BitVec.ofNat 32 (min old.toNat a.x.toNat) ∧
    atomNew 5 old a.x a.new = BitVec.ofNat 32 (max old.toNat a.x.toNat) ∧
    atomNew 6 old a.x a.new = old &&& a.x ∧ atomNew 7 old a.x a.new = old ||| a.x ∧ atomNew 8 old a.x a.new = old ^^^ a.x ∧
    atomNew 9 old a.x a.new = a.x ∧ atomNew 10 old a.x a.new = if old = a.x then a.new else old

namespace Sys2Proof.Spec

/-- What read-modify-writes in a row answer, and the bytes that they leave: each reads its word as those before it have left it, and puts
in its place what its kind makes of it. -/
def atomRun (rd : Nat → Byte) : List AtomOp → List (Nat × Word) × (Nat → Byte)
  | [] => ([], rd)
  | a :: rest =>
    let old : Word := rd (a.loc + 3) ++ rd (a.loc + 2) ++ rd (a.loc + 1) ++ rd a.loc
    let new : Word := atomNew a.kind old a.x a.new
    let q := atomRun (fun l => if a.loc ≤ l ∧ l < a.loc + 4 then new.extractLsb' (8 * (l - a.loc)) 8 else rd l) rest
    ((a.lane, old) :: q.1, q.2)

end Sys2Proof.Spec

/-- Atomics and reductions complete whenever their accesses pass the checks (R216, R219, R220): the lanes' operations run in ascending
lane order on their words, an atomic's results are the words that they find, and every byte outside the lanes' words and every
other register is unchanged. An atomic moves its thread's view to what it wrote (R203); a reduction leaves the views, which is the
model's choice (log entry 156). In deterministic mode they are held to the boundary, and an atomic's register stays pending
(R184, R185). -/
def Sys2Proof.Spec.AtomicsAndReductions : Prop :=
  ∀ (i : Instr) (o : Atom) (sp : Space) (s : State) (c : Ctx) (t : Team) (w : Warp) (ls : List (Nat × Nat)), s.issue i = .go c t w →
    (s.advance c w).check t (s.ctxOf t) sp .write 4 (laneAddrs sp w (active w c.lanes o.pred) o.m.ka o.va o.off) = .ok ls →
    let k := s.ctxOf t
    let act := active w c.lanes o.pred
    let cov : Cover := { scope := accScope o.m.scope sp }
    let s1 := if isRel o.m.fence then (s.advance c w).evRelease c t k act cov (some [spaceSpan t sp]) else s.advance c w
    let ops : List AtomOp := ls.map (fun p =>
      { kind := o.kind.toNat, loc := p.2, x := (w.thr p.1).rv o.vd.toNat, new := (w.thr p.1).rv (o.vd.toNat + 1), lane := p.1 })
    let q := atomRun s.rdNew ops
    let out (s' : State) : Prop := (∀ a, s'.rdNew a = q.2 a) ∧
      ∀ a, (∀ p ∈ ls, ¬ (p.2 ≤ a ∧ a < p.2 + 4)) → s'.rdNew a = s.rdNew a
    (atomForm i = some (o, sp) → k.det = false → ∃ s2 w2,
      exec i s = .next (s2.commit c o.la.toNat [.v o.vd.toNat] (q.1.map (fun p => (p.1, [(Reg.v o.vd.toNat, p.2)])))) ∧
      out s2 ∧ SameRegs s s2 ∧ s2.warp? c.team c.warp = some w2 ∧
      ∀ p ∈ ls, ∀ j, j < 4 → s.nextSer ≤ KV.get 0 (p.2 + j) (w2.thr p.1).view) ∧
    (redForm i = some (o, sp) → k.det = false → ∃ s' w', exec i s = .next s' ∧ out s' ∧ SameRegs s s' ∧
      s'.warp? c.team c.warp = some w' ∧ ∀ l, (w'.thr l).view = (w.thr l).view) ∧
    (atomForm i = some (o, sp) → k.det = true → ∃ s', exec i s = .next s' ∧ s'.mem = s.mem ∧ SameRegs s s' ∧
      s' = (s1.hold c (.atoms ops c.lanes o.vd.toNat sp.scope)).pendOn c o.la.toNat [.v o.vd.toNat] none) ∧
    (redForm i = some (o, sp) → k.det = true → ∃ s', exec i s = .next s' ∧ s'.mem = s.mem ∧ SameRegs s s' ∧
      s' = s1.hold c (.reds ops sp.scope sp.code))

/-- A release and an acquire that can synchronise (R199, R200): the acquirer's view moves to every write that the release named and
both cover; no view ever moves back (R196). -/
def Sys2Proof.Spec.ReleaseAcquire : Prop :=
  ∀ (s : State) (P Q : Party) (th th' : Thread) (c d : Cover),
    (∀ l n, (l, n) ∈ s.named th → c.has l = true → d.has l = true → canSync c.scope P d.scope Q = true →
      n ≤ KV.get 0 l ((s.release P th c).acquire Q d th').view) ∧
    (∀ l, KV.get 0 l th'.view ≤ KV.get 0 l (s.acquire Q d th').view) ∧
    (s.release P th c).mem = s.mem ∧ (s.release P th c).teams = s.teams

namespace Sys2Proof.Spec

/-- The events of a fence in the active lanes (R199, R200, R221, R222), by its kind: a release publishes, at the fence's scope, each write
that the lane's view names in its interval; an acquire moves the lane's view to each publication that can synchronise with it
there; no view goes back, no byte and no register changes. In deterministic mode the releases are held to the boundary, which
gives the views (R183). -/
def FenceLaw (s s' : State) (c : Ctx) (t : Team) (w : Warp) (f : FenceKind) (scope : Scope) (act : List Nat)
    (spans : Nat → Option (List (Nat × Nat))) : Prop :=
  let cov (l : Nat) : Cover := { scope := scope, spans := spans l }
  s'.mem = s.mem ∧ SameRegs s s' ∧ ∃ w', s'.warp? c.team c.warp = some w' ∧
    (∀ l, l ∉ act → (w'.thr l).view = (w.thr l).view) ∧
    ((s.ctxOf t).det = false →
      (f ≠ .acq → ∀ l ∈ act, ∀ x ∈ s.named (w.thr l), (cov l).has x.1 = true →
        { scope := scope, party := .core t.core, loc := x.1, ser := x.2, writer := s.writerOf x.2 : Publ } ∈ s'.publs) ∧
      (f = .acq → s'.publs = s.publs) ∧
      (f ≠ .rel → ∀ l ∈ act, ∀ p ∈ s.publs, p.reaches scope (.core t.core) = true → (cov l).has p.loc = true →
        p.ser ≤ KV.get 0 p.loc (w'.thr l).view) ∧
      (f = .rel → ∀ l, (w'.thr l).view = (w.thr l).view) ∧
      ∀ l a, KV.get 0 a (w.thr l).view ≤ KV.get 0 a (w'.thr l).view) ∧
    ((s.ctxOf t).det = true → s'.publs = s.publs ∧ (∀ l, (w'.thr l).view = (w.thr l).view) ∧
      w'.held = w.held ++ (if f = .acq then [] else act.map (fun l =>
        { fx := .release [l] (cov l) (spans l), at_ := s.tick + 1, pc := c.pc, words := c.words })))

end Sys2Proof.Spec

/-- fence.r, phase and prefetch.g complete whenever they issue (R221 to R223): no byte and no register changes; a release event of
each active lane publishes what its view names, in its interval or everywhere, and an acquire event moves its view to what has
been published there; prefetch.g only advances. -/
def Sys2Proof.Spec.Fences : Prop :=
  ∀ (s : State) (c : Ctx) (t : Team) (w : Warp),
    (∀ o : FenceR, s.issue (.fenceR o) = .go c t w → ∃ s', exec (.fenceR o) s = .next s' ∧
      FenceLaw s s' c t w o.m.fence (accScope o.m.scope (fenceSpace o.space)) (active w c.lanes o.pred)
        (fun l => some (fenceSpans (s.advance c w) t (s.ctxOf t) o w l))) ∧
    (∀ o : PhaseOp, s.issue (.phase o) = .go c t w → ∃ s', exec (.phase o) s = .next s' ∧
      FenceLaw s s' c t w o.m.fence (if o.m.scope = .dflt then .chip else o.m.scope) (active w c.lanes o.pred) (fun _ => none)) ∧
    (∀ o : Prefetch, s.issue (.prefetchG o) = .go c t w → ∃ s', exec (.prefetchG o) s = .next s' ∧ Wrote s s' c w [])

/-! ## Barrier objects -/

namespace Sys2Proof.Spec

/-- What an update of an object makes of it (R226): where nothing is left to arrive and no byte is outstanding, the next phase, with
the arrivals expected again, and as STAMP the later of the object's last completion and of the time of this one (R212). -/
def barNext (o o1 : BarObj) (last stamp : Nat) : BarObj :=
  if o1.left = 0 ∧ o1.bytes = 0 then
    { o1 with phase := (o.phase + 1) % 2147483648, left := o1.exp, stamp := max last stamp % 18446744073709551616 }
  else o1

end Sys2Proof.Spec

/-- barinit, arrive and expect on a sound object of a team that is not deterministic (R226 to R229): the object's next fields, the
token of each lane, and no other byte or register. -/
def Sys2Proof.Spec.BarrierUpdates : Prop :=
  ∀ (s : State) (c : Ctx) (t : Team) (w : Warp) (k : TaskCtx) (l : Nat) (sp : Space), k = s.ctxOf t → k.det = false →
    s.bad.contains (l / 64 * 64) = false →
    let out (s' : State) : Prop := ∀ a, ¬ (l ≤ a ∧ a < l + 32) → s'.rdNew a = s.rdNew a
    let ob := s.barRead l
    (∀ o : SImm, s.issue (.barinit o) = .go c t w → s.barAddr t k (w.rk o.a.toNat) .write = .ok (sp, l) →
      let n := if o.b = 0 then o.imm.toNat else (w.rk o.b.toNat).toNat
      0 < n → n ≤ 16777215 → s.barBusy l = false →
      ∃ s', exec (.barinit o) s = .next s' ∧ out s' ∧ SameRegs s s' ∧
        s'.barRead l = { broken := false, phase := 0, exp := n, left := n, resv := 0, bytes := 0, stamp := 0 }) ∧
    (∀ o : SImm, s.issue (.expect o) = .go c t w → s.barAddr t k (w.rk o.a.toNat) .write = .ok (sp, l) →
      ob.broken = false → ob.bad = false →
      let n := if o.b = 0 then o.imm.toNat else (w.rk o.b.toNat).toNat
      ob.bytes + n < 9223372036854775808 →
      ∃ s', exec (.expect o) s = .next s' ∧ out s' ∧ SameRegs s s' ∧
        s'.barRead l = barNext ob { ob with bytes := ob.bytes + n } (s.barRec l).stamp s.ptime) ∧
    (∀ o : SMod, s.issue (.arrive o) = .go c t w → s.barAddr t k (w.rk o.a.toNat) .write = .ok (sp, l) →
      let n := c.lanes.length
      let drop := o.b.getLsbD 0
      ob.broken = false → ob.bad = false → n ≤ ob.left → (drop = true → n < ob.exp) →
      ∃ s1 s' w', exec (.arrive o) s = .next s' ∧ out s' ∧ SameRegs s s1 ∧
        s' = s1.writeLanes c (c.lanes.map (fun x => (x, [(Reg.v o.d.toNat, BitVec.ofNat 32 ob.phase)]))) ∧
        s'.warp? c.team c.warp = some w' ∧ (∀ x ∈ c.lanes, (w'.thr x).rv o.d.toNat = BitVec.ofNat 32 ob.phase) ∧
        s'.barRead l = barNext ob { ob with left := ob.left - n, exp := if drop then ob.exp - n else ob.exp } (s.barRec l).stamp s.ptime)

/-- The barrier instructions on a broken object and in deterministic mode (R183, R226, R228): a broken object keeps its bytes, and the token
of an arrival has bit 31; a deterministic team's updates are held to the boundary, with memory as it was. -/
def Sys2Proof.Spec.BarrierBrokenAndHeld : Prop :=
  ∀ (s : State) (c : Ctx) (t : Team) (w : Warp) (k : TaskCtx) (l : Nat) (sp : Space), k = s.ctxOf t → s.bad.contains (l / 64 * 64) = false →
    (∀ o : SImm, s.issue (.expect o) = .go c t w → s.barAddr t k (w.rk o.a.toNat) .write = .ok (sp, l) → k.det = false →
      (s.barRead l).broken = true → exec (.expect o) s = .next (s.advance c w)) ∧
    (∀ o : SMod, s.issue (.arrive o) = .go c t w → s.barAddr t k (w.rk o.a.toNat) .write = .ok (sp, l) → k.det = false →
      (s.barRead l).broken = true → ∃ s' w', exec (.arrive o) s = .next s' ∧ s'.mem = s.mem ∧ s'.warp? c.team c.warp = some w' ∧
        ∀ x ∈ c.lanes, (w'.thr x).rv o.d.toNat = BitVec.ofNat 32 ((s.barRead l).phase + 2147483648)) ∧
    (∀ o : SImm, s.issue (.barinit o) = .go c t w → s.barAddr t k (w.rk o.a.toNat) .write = .ok (sp, l) → k.det = true →
      0 < simmCount o w → simmCount o w ≤ 16777215 → exec (.barinit o) s = .next ((s.advance c w).hold c (.barinit l (simmCount o w)))) ∧
    (∀ o : SImm, s.issue (.expect o) = .go c t w → s.barAddr t k (w.rk o.a.toNat) .write = .ok (sp, l) → k.det = true →
      exec (.expect o) s = .next ((s.advance c w).hold c (.expect l (simmCount o w)))) ∧
    (∀ o : SMod, s.issue (.arrive o) = .go c t w → s.barAddr t k (w.rk o.a.toNat) .write = .ok (sp, l) → k.det = true →
      ∃ s', exec (.arrive o) s = .next s' ∧ s'.mem = s.mem ∧ SameRegs s s')

/-- Where barrier instructions halt (R225, R227, R228, R231): an address that names no space, is not a multiple of 32 or leaves the space; a
bad count of barinit; a barinit under a waiter; more arrivals than are left; a drop of every arrival; fields that no object has. -/
def Obligations.BarrierHalts : Prop :=
  ∀ (s : State) (c : Ctx) (t : Team) (w : Warp) (k : TaskCtx) (b : Word) (acc : Acc), k = s.ctxOf t →
    (barSpace b = none → s.barAddr t k b acc = .error { cause := 6, detail := 3 }) ∧
    (∀ sp, barSpace b = some sp → barOff b % 32 ≠ 0 → s.barAddr t k b acc = .error { cause := 3, faddr := b.toNat }) ∧
    (∀ sp, barSpace b = some sp → barOff b % 32 = 0 → sp.range t < barOff b + 32 →
      s.barAddr t k b acc = .error { cause := 5, faddr := b.toNat }) ∧
    (∀ (o : SImm) (h : HaltInfo), s.issue (.barinit o) = .go c t w → s.barAddr t k (w.rk o.a.toNat) .write = .error h →
      exec (.barinit o) s = .next (s.haltWarp c h false)) ∧
    (∀ (o : SImm) (h : HaltInfo), s.issue (.expect o) = .go c t w → s.barAddr t k (w.rk o.a.toNat) .write = .error h →
      exec (.expect o) s = .next (s.haltWarp c h false)) ∧
    (∀ (o : SMod) (h : HaltInfo), s.issue (.arrive o) = .go c t w → s.barAddr t k (w.rk o.a.toNat) .write = .error h →
      exec (.arrive o) s = .next (s.haltWarp c h false)) ∧
    (∀ (o : SMod) (h : HaltInfo), s.issue (.wait o) = .go c t w → s.barAddr t k (w.rk o.a.toNat) .read = .error h →
      exec (.wait o) s = .next (s.haltWarp c h false)) ∧
    (∀ (o : SMod) (h : HaltInfo), s.issue (.bartest o) = .go c t w → s.barAddr t k (w.rk o.a.toNat) .read = .error h →
      exec (.bartest o) s = .next (s.haltWarp c h false)) ∧
    (∀ (o : SImm) (sp : Space) (l : Nat), s.issue (.barinit o) = .go c t w → s.barAddr t k (w.rk o.a.toNat) .write = .ok (sp, l) →
      s.bad.contains (l / 64 * 64) = false → (simmCount o w = 0 ∨ 16777215 < simmCount o w) →
      exec (.barinit o) s = .next (s.haltWarp c { cause := 6, detail := 4 } false)) ∧
    (∀ (o : SImm) (sp : Space) (l : Nat), s.issue (.barinit o) = .go c t w → s.barAddr t k (w.rk o.a.toNat) .write = .ok (sp, l) →
      s.bad.contains (l / 64 * 64) = false → 0 < simmCount o w → simmCount o w ≤ 16777215 → k.det = false →
      (s.advance c w).barBusy l = true → exec (.barinit o) s = .next (s.haltWarp c { cause := 6, detail := 6 } false)) ∧
    (∀ (o : SMod) (sp : Space) (l d : Nat), s.issue (.arrive o) = .go c t w → s.barAddr t k (w.rk o.a.toNat) .write = .ok (sp, l) →
      s.bad.contains (l / 64 * 64) = false → k.det = false → (s.barRead l).broken = false →
      d = (if (s.barRead l).bad then 7 else if (s.barRead l).left < c.lanes.length then 5 else 4) →
      ((s.barRead l).bad = true ∨ (s.barRead l).left < c.lanes.length ∨
        (o.b.getLsbD 0 = true ∧ (s.barRead l).exp ≤ c.lanes.length)) →
      exec (.arrive o) s = .next (s.haltWarp c { cause := 6, detail := d } false))

/-- wait and bartest (R230) on an object that is broken or sound: a lane whose token's phase is over completes (0 for wait, 2 for
bartest), one whose token or object is broken takes 1, bartest of a phase that is not over takes 0; in wait such a lane
waits at the bundle. No byte changes. -/
def Obligations.WaitAndTest : Prop :=
  ∀ (o : SMod) (s : State) (c : Ctx) (t : Team) (w : Warp) (l : Nat) (sp : Space) (test : Bool) (i : Instr),
    i = (if test then .bartest o else .wait o) → s.issue i = .go c t w →
    s.barAddr t (s.ctxOf t) (w.rk o.a.toNat) .read = .ok (sp, l) → s.bad.contains (l / 64 * 64) = false →
    ((s.barRead l).broken = true ∨ (s.barRead l).bad = false) →
    ∃ s' w', exec i s = .next s' ∧ s'.mem = s.mem ∧ s'.warp? c.team c.warp = some w' ∧
      ∀ x ∈ c.lanes, (w.thr x).wait = none →
        let tok := (w.thr x).rv o.b.toNat
        let ob := s.barRead l
        (tok.getLsbD 31 = true ∨ ob.broken = true → (w'.thr x).rv o.d.toNat = 1) ∧
        (tok.getLsbD 31 = false → ob.broken = false → ob.phase ≠ tok.toNat % 2147483648 →
          (w'.thr x).rv o.d.toNat = if test then 2 else 0) ∧
        (tok.getLsbD 31 = false → ob.broken = false → ob.phase = tok.toNat % 2147483648 → test = true →
          (w'.thr x).rv o.d.toNat = 0) ∧
        (tok.getLsbD 31 = false → ob.broken = false → ob.phase = tok.toNat % 2147483648 → test = false →
          (w'.thr x).pc = c.pc ∧ ∃ r, (w'.thr x).wait = some r ∧ r.on = .bar l ob.phase ∧ r.woken = none)

/-! ## Engines: the Cask, the matrix engine, copies, streams -/

namespace Sys2Proof.Spec

/-- Nothing but program counters, waits, windows, held effects, counts and views has changed in the teams, and no byte of
memory. -/
def Quiet (s s' : State) : Prop := s'.mem = s.mem ∧ SameRegs s s'

/-- Two ranges that a product may take (R159, R161): a listed pair of formats, and lengths within its class. -/
def fitting (a b : CaskRec) : Bool := (pairCap a.fmt b.fmt).any (fun cap => (sumLen a b).any (fun kp => decide (kp ≤ cap)))

/-- The matrix instructions whose operands meet the checks (R148, R152, R164 to R168, R171, R172): lookahead, destinations, and
the command that the engine accepts. -/
def matReady (t : Team) (w : Warp) : Instr → Option (Nat × List Reg × MatOp)
  | .mma o =>
    match t.range? o.a.toNat, t.range? o.b.toNat with
    | some a, some b =>
      if o.d.toNat < t.desc.tiles ∧ a.rows = 64 ∧ b.rows = 64 ∧ fitting a b = true then
        some (o.la.toNat, [.t o.d.toNat], .mma o.d.toNat a b false)
      else none
    | _, _ => none
  | .mmaG o =>
    match t.range? o.a.toNat, t.range? o.b.toNat with
    | some a, some b =>
      if o.d.toNat < t.desc.tiles ∧ a.index ≠ 0xFFFFFFFF ∧ b.rows = 64 ∧ fitting a b = true then
        some (o.la.toNat, [.t o.d.toNat], .mma o.d.toNat a b true)
      else none
    | _, _ => none
  | .gmma o =>
    let x := (w.rk o.a.toNat).toNat
    let y := (w.rk o.b.toNat).toNat
    match t.range? (x % 8), t.range? (x / 8 % 8) with
    | some a, some b =>
      let n := x / 64 % 16
      if o.d.toNat + 3 < t.desc.tiles ∧ x < 1024 ∧ y < 512 ∧ 1 ≤ n ∧ n ≤ 8 ∧ y % 16 < a.klen / 64 ∧ y / 16 % 16 < b.klen / 64 ∧
          n ≤ a.klen / 64 ∧ n ≤ b.klen / 64 ∧ (pairCap a.fmt b.fmt).any (fun cap => decide (n ≤ cap / 256)) = true ∧
          a.window = true ∧ b.window = true ∧ t.desc.gangX = 4 ∧ t.desc.gangY = 4 then
        some (o.la.toNat, (List.range 4).map (fun i => .t (o.d.toNat + i)),
          .gmma o.d.toNat a b n (y % 16) (y / 16 % 16) (y / 256 % 2 == 1))
      else none
    | _, _ => none
  | .tzero o => if o.d.toNat < t.desc.tiles then some (o.la.toNat, [.t o.d.toNat], .tzero o.d.toNat) else none
  | .tmovR o =>
    let x := (w.rk o.b.toNat).toNat
    if o.a.toNat < t.desc.tiles ∧ x < 16384 ∧ x / 64 % 4 = 0 then
      some (o.la.toNat, [.v o.d.toNat], .tmov true o.d.toNat o.a.toNat (x / 256 % 64) (x % 64))
    else none
  | .tmovC o =>
    let x := (w.rk o.b.toNat).toNat
    if o.a.toNat < t.desc.tiles ∧ x < 16384 ∧ x / 64 % 4 = 0 then
      some (o.la.toNat, [.v o.d.toNat], .tmov false o.d.toNat o.a.toNat (x / 256 % 64) (x % 64))
    else none
  | .tcvt o =>
    if o.d.toNat < t.desc.tiles ∧ o.a.toNat < t.desc.tiles then
      some (o.la.toNat, [.t o.d.toNat], .tcvt o.d.toNat o.a.toNat o.b.toNat)
    else none
  | .tadd o =>
    if o.d.toNat < t.desc.tiles ∧ o.a.toNat < t.desc.tiles ∧ o.b.toNat < t.desc.tiles then
      some (o.la.toNat, [.t o.d.toNat], .tadd o.d.toNat o.a.toNat o.b.toNat)
    else none
  | .tscale o =>
    if o.d.toNat < t.desc.tiles ∧ o.a.toNat < t.desc.tiles then
      some (o.la.toNat, [.t o.d.toNat], .tscale o.d.toNat o.a.toNat (w.rk o.b.toNat))
    else none
  | .caskrel o => some (0, [], .caskrel o.d.toNat)
  | _ => none

/-- The engine of the team's core has accepted a command: it stands last in the queue, its destinations are pending, and nothing
else has changed (R149, R76). -/
structure Accepted (s s' : State) (c : Ctx) (t : Team) (w : Warp) (la : Nat) (regs : List Reg) (op : MatOp) : Prop where
  rest : s' = { s with teams := s'.teams, tick := s.tick + 1, nextId := s.nextId + 1, matq := s.matq ++
    [{ id := s.nextId, core := t.core, team := c.team, warp := c.warp, lanes := c.lanes, pc := c.pc, mode := w.mode, op := op,
       at_ := s.tick + 1 }] }
  same : SameRegs s s'
  pend : regs ≠ [] → ∃ w', s'.warp? c.team c.warp = some w' ∧
    w'.pend.getLast? = some { regs := regs, lanes := c.lanes.map (fun l => (l, la)), ready := false, cmd := some s.nextId }

/-- The locations of a tile's elements that tld and tst find (R169): of the 64 rows and columns from the address, PITCH and the
element's size apart. -/
def tileAt (s : State) (t : Team) (w : Warp) (o : XOp) (acc : Acc) (z : Nat) (ls : List (Nat × Nat)) : Prop :=
  let x := (w.rk o.b.toNat).toNat
  let a := (w.rkPair o.a.toNat).toNat
  let sp : Space := if x / 2 ^ 30 = 0 then .g else if x / 2 ^ 30 = 1 then .s else .x
  let addrs := (List.range 64).flatMap (fun i => (List.range 64).map (fun j =>
    let y := a + i * (x % 2 ^ 24) + j * z
    if x / 2 ^ 30 = 0 then y % 18446744073709551616 else y))
  x / 2 ^ 30 ≠ 3 ∧ x / 2 ^ 28 % 4 ≠ 3 ∧ x / 2 ^ 24 % 16 = 0 ∧ (x / 2 ^ 30 = 0 ∨ a < 4294967296) ∧
    z = (if x / 2 ^ 28 % 4 = 0 then 4 else if x / 2 ^ 28 % 4 = 1 then 2 else 1) ∧ a % z = 0 ∧ x % 2 ^ 24 % z = 0 ∧
    s.check t (s.ctxOf t) sp acc z (addrs.map (fun y => (0, y))) = .ok ls

end Sys2Proof.Spec

/-- The matrix instructions complete whenever their operands meet their checks (R148, R149, R164 to R172): the engine accepts the
command with its captured records and MODE, and the destinations are pending. tld reads its elements at issue; that it reads them
through the lowest lane's view is the model's choice (log entry 89). tst keeps its locations. -/
def Sys2Proof.Spec.MatrixCommands : Prop :=
  (∀ (i : Instr) (s : State) (c : Ctx) (t : Team) (w : Warp) (la : Nat) (regs : List Reg) (op : MatOp), s.issue i = .go c t w →
    matReady t w i = some (la, regs, op) → ∃ s', exec i s = .next s' ∧ Accepted s s' c t w la regs op) ∧
  (∀ (o : XOp) (s : State) (c : Ctx) (t : Team) (w : Warp) (z : Nat) (ls : List (Nat × Nat)), s.issue (.tld o) = .go c t w →
    o.d.toNat < t.desc.tiles → tileAt (s.advance c w) t w o .read z ls →
    ∃ s', exec (.tld o) s = .next s' ∧ Accepted s s' c t w o.la.toNat [.t o.d.toNat] (.tld o.d.toNat
      (ls.map (fun p => (locRange p.2 z).map (fun a => (a, s.rdThr w (w.thr (c.lanes.headD 0)) a)))))) ∧
  (∀ (o : XOp) (s : State) (c : Ctx) (t : Team) (w : Warp) (z : Nat) (ls : List (Nat × Nat)), s.issue (.tst o) = .go c t w →
    o.d.toNat < t.desc.tiles → tileAt (s.advance c w) t w o .write z ls →
    ∃ s', exec (.tst o) s = .next s' ∧ Accepted s s' c t w 0 [] (.tst o.d.toNat (ls.map (fun p => locRange p.2 z))))

/-- Where matrix instructions halt with cause MATRIX before they have any effect (R148, R173): a tile that the team does not have, a
range that is not reserved, a pair of formats that is not listed. -/
def Sys2Proof.Spec.MatrixHalts : Prop :=
  ∀ (s : State) (c : Ctx) (t : Team) (w : Warp) (o : XOp),
    let h (d : Nat) : Host.Outcome State Fault Refusal := .next (s.haltWarp c { cause := 8, detail := d } false)
    (t.desc.tiles ≤ o.d.toNat →
      (s.issue (.mma o) = .go c t w → exec (.mma o) s = h 1) ∧ (s.issue (.mmaG o) = .go c t w → exec (.mmaG o) s = h 1) ∧
      (s.issue (.gmma o) = .go c t w → exec (.gmma o) s = h 1) ∧ (s.issue (.tzero o) = .go c t w → exec (.tzero o) s = h 1) ∧
      (s.issue (.tld o) = .go c t w → exec (.tld o) s = h 1) ∧ (s.issue (.tst o) = .go c t w → exec (.tst o) s = h 1) ∧
      (s.issue (.tcvt o) = .go c t w → exec (.tcvt o) s = h 1) ∧ (s.issue (.tadd o) = .go c t w → exec (.tadd o) s = h 1) ∧
      (s.issue (.tscale o) = .go c t w → exec (.tscale o) s = h 1)) ∧
    (t.desc.tiles ≤ o.a.toNat →
      (s.issue (.tmovR o) = .go c t w → exec (.tmovR o) s = h 1) ∧ (s.issue (.tmovC o) = .go c t w → exec (.tmovC o) s = h 1)) ∧
    (o.d.toNat < t.desc.tiles → (t.range? o.a.toNat = none ∨ t.range? o.b.toNat = none) →
      (s.issue (.mma o) = .go c t w → exec (.mma o) s = h 2) ∧ (s.issue (.mmaG o) = .go c t w → exec (.mmaG o) s = h 2)) ∧
    (∀ a b : CaskRec, o.d.toNat < t.desc.tiles → t.range? o.a.toNat = some a → t.range? o.b.toNat = some b → pairCap a.fmt b.fmt = none →
      (s.issue (.mma o) = .go c t w → exec (.mma o) s = h 4) ∧ (s.issue (.mmaG o) = .go c t w → exec (.mmaG o) s = h 4))

namespace Sys2Proof.Spec

/-- A tile's element with its products added in blocks of 16 positions in ascending order (R162, R163). -/
def accRow (acc : Word) (ps : List (Machine.Num × Machine.Num)) : Word :=
  (List.range ((ps.length + 15) / 16)).foldl (fun x b => (accBlock x ((ps.drop (16 * b)).take 16)).1) acc

/-- The operands of a block and what it is added to, exact: the accumulator and the sum of the products (R163). -/
def blockSum (acc : Word) (ps : List (Machine.Num × Machine.Num)) : Rat :=
  ps.foldl (fun x p => x + p.1.rat * p.2.rat) (value .f32 acc.toNat).rat

/-- A value that is neither a NaN nor an infinity. -/
def finite : Machine.Num → Bool
  | .fin _ _ => true
  | _ => false

/-- The bytes that tst writes, by the locations of its elements in ascending i and then j (R169). -/
def tstWrites (t : Team) (d : Nat) (locs : List (List Nat)) : List (Nat × Byte) :=
  locs.zipIdx.flatMap (fun p => p.1.zipIdx.map (fun q => (q.1, (t.tile d (p.2 / 64) (p.2 % 64)).extractLsb' (8 * q.2) 8)))

end Sys2Proof.Spec

/-- The engine starts the oldest command of a core with the Cask's bytes of that moment, and completes it (R149, R157, R160 to R163,
R166 to R172): the tile's elements are those that the operation makes of the old ones, tmov's registers take the tile's row
or column and are no longer pending, tst's locations take the elements' bytes, and the command leaves the queue. Each block
of a product is the exact sum with the accumulator, rounded once. -/
def Obligations.MatrixMoves : Prop :=
  (∀ (s : State) (core : Nat) (m : MatCmd) (t : Team), s.arg = .idx core → s.matHead core = some m → m.started = false →
    s.team? m.team = some t → ∃ q, exec .matrixCommandStart s = .next { s with matq := q } ∧ q.length = s.matq.length ∧
      ∀ x ∈ s.matq, (x.id = m.id → { x with started := true, bytes := t.cask } ∈ q) ∧ (x.id ≠ m.id → x ∈ q)) ∧
  (∀ (s : State) (core : Nat) (m : MatCmd) (t : Team), s.arg = .idx core → s.matHead core = some m → m.started = true →
    s.team? m.team = some t → ∃ s', exec .matrixCommandComplete s = .next s' ∧
      s'.matq.map MatCmd.id = (s.matq.filter (fun x => x.id != m.id)).map MatCmd.id ∧
      (m.op.isTst = false → s'.matq = s.matq.filter (fun x => x.id != m.id)) ∧
      (∃ t', s'.team? m.team = some t' ∧ t'.tiles = (m.op.onTiles t m.mode (mixRead m.bytes t.cask s.freeCtr)).1.tiles) ∧
      (∀ (w : Warp) (row : Bool) (v a i0 x : Nat), t.st = .resident → s.warp? m.team m.warp = some w → m.op = .tmov row v a i0 x →
        (∃ p ∈ w.pend, p.cmd = some m.id ∧ p.done = false) → ∃ w', s'.warp? m.team m.warp = some w' ∧
          (∀ p ∈ w'.pend, p.cmd = some m.id → p.done = true) ∧
          ∀ l ∈ m.lanes, l < w.threads.length →
            (w'.thr l).rv v = if row then t.tile a x ((i0 + l) % 64) else t.tile a ((i0 + l) % 64) x) ∧
      (∀ (w : Warp) (d : Nat) (locs : List (List Nat)), t.st = .resident → s.warp? m.team m.warp = some w → w.log = none → m.op = .tst d locs →
        ((s.ctxOf t).det = false → ∀ a, s'.rdNew a = lastByte a (tstWrites t d locs) (s.rdNew a)) ∧
        ((s.ctxOf t).det = true → s'.mem = s.mem))) ∧
  (∀ (acc : Word) (ps : List (Machine.Num × Machine.Num)), finite (value .f32 acc.toNat) = true → (∀ p ∈ ps, finite p.1 = true ∧ finite p.2 = true) →
    (blockSum acc ps ≠ 0 → (accBlock acc ps).1 = BitVec.ofNat 32 (roundF (.ofRat (blockSum acc ps) false) .f32 .rne false false).1) ∧
    (blockSum acc ps = 0 → (accBlock acc ps).1.toNat % 2147483648 = 0)) ∧
  (∀ (t : Team) (mode : Word) (rd : Nat → Nat → Nat) (d a b i j : Nat) (k : Word), i < 64 → j < 64 →
    (((MatOp.tzero d).onTiles t mode rd).1.tile d i j = 0) ∧
    (∀ cells : List (List (Nat × Byte)), ((MatOp.tld d cells).onTiles t mode rd).1.tile d i j =
      BitVec.ofNat 32 (leNat ((cells.getD (64 * i + j) []).map (fun p => p.2)))) ∧
    (∀ code, ((MatOp.tcvt d a code).onTiles t mode rd).1.tile d i j =
      (cvtCode code (modeRm mode) (cvtSat mode false code) (modeFtz mode) (t.tile a i j)).1) ∧
    (∀ (ra rb : CaskRec) (g : Bool), max ra.klen rb.klen ≤ 2048 →
      let ix := rd (ra.index + 2 * i) 2
      let row : Option Nat := if g then (if ix < ra.rows then some ix else none) else some i
      ((MatOp.mma d ra rb g).onTiles t mode rd).1.tile d i j = accRow (t.tile d i j) ((List.range (max ra.klen rb.klen)).map (fun p =>
        ((row.map (fun r => elemOf rd ra r (if rb.dmap.isEmpty then p else expand rb.dmap p))).getD (.fin false 0),
         elemOf rd rb j (if ra.dmap.isEmpty then p else expand ra.dmap p))))) ∧
    (∀ (ra rb : CaskRec) (n sa sb q : Nat) (g : Bool), n ≤ 16 → q < 4 →
      ((MatOp.gmma d ra rb n sa sb g).onTiles t mode rd).1.tile (d + q) i j = accRow (t.tile (d + q) i j) ((List.range (64 * n)).map (fun p =>
        (elemOf rd ra (i + 64 * (q / 2)) (64 * ((sa + p / 64) % (ra.klen / 64)) + p % 64),
         elemOf rd rb (j + 64 * (q % 2)) (64 * ((sb + p / 64) % (rb.klen / 64)) + p % 64))))) ∧
    (((MatOp.tadd d a b).onTiles t mode rd).1.tile d i j = BitVec.ofNat 32
      (faddP .f32 { rm := modeRm mode, sat := false, ftz := modeFtz mode, absa := false, nega := false, absb := false, negb := false,
                    negc := false } (t.tile a i j).toNat (t.tile b i j).toNat).1) ∧
    (((MatOp.tscale d a k).onTiles t mode rd).1.tile d i j = BitVec.ofNat 32
      (fmulP .f32 { rm := modeRm mode, sat := false, ftz := modeFtz mode, absa := false, nega := false, absb := false, negb := false,
                    negc := false } (t.tile a i j).toNat k.toNat).1) ∧
    (∀ e, e ≠ d → ∀ x y, x < 64 → y < 64 → ((MatOp.tadd d a b).onTiles t mode rd).1.tile e x y = t.tile e x y))

namespace Sys2Proof.Spec

/-- A descriptor that the checks of R235 pass for a form: aligned, well-formed, within its spaces, and with a barrier that the team
may name. -/
def copyFine (s : State) (t : Team) (form : CpyForm) (bs : List Byte) : Prop :=
  let d := copyDesc bs
  d.src % d.ssize = 0 ∧ d.dst % d.dsize = 0 ∧ copyDescOk bs = true ∧ copySideOk t d.sspace d.src d.ssize d d.sstr = true ∧
    copySideOk t d.dspace d.dst d.dsize d d.dstr = true ∧ (form ≠ .mc → d.members = 0) ∧ (form ≠ .mm → fieldOf bs 0x68 8 = 0) ∧
    (form = .mm → fieldOf bs 0x68 8 % 16 = 0 ∧ d.dspace = 4) ∧
    (form = .mc → d.dspace = 1 ∧ d.members ≠ 0 ∧ t.desc.gangX ≠ 0 ∧ d.members < 2 ^ (t.desc.gangX * t.desc.gangY) ∧
      ∃ b l, d.bar = some b ∧ s.barAddr t (s.ctxOf t) (BitVec.ofNat 32 b) .write = .ok (.s, l)) ∧
    (∀ b, d.bar = some b → ∃ r, s.barAddr t (s.ctxOf t) (BitVec.ofNat 32 b) .write = .ok r)

/-- The command that a form puts into the queue of k[D] mod 4 (R235). -/
def copyCmd (s : State) (c : Ctx) (t : Team) (w : Warp) (o : XOp) (kind : Nat) (d : CopyDesc) (f : Option (MatOp × Nat)) : CopyCmd :=
  { id := s.nextId, core := t.core, q := o.d.toNat % 4, team := c.team, warp := c.warp, lane := c.lanes.headD 0, kind := kind, pc := c.pc,
    mode := w.mode, d := d, follow := f, round := ((s.grid? t.grid).map Grid.round).getD 0, at_ := s.tick + 1 }

end Sys2Proof.Spec

/-- cpy, cpy.mc, cpy.mm and qfence complete whenever their records pass the checks (R235, R237, R238, R240): the command stands last in
its queue with the descriptor it captured; no byte and no register changes. cpy.mm's follow-on takes the tile that its
word names, pending from here under the number that its copy hands to the matrix engine; qfence puts a mark that waits for
the earlier commands of its queues that have not landed and are on the core (R239), and in deterministic mode the warp
keeps it too. -/
def Obligations.CopyCommands : Prop :=
  ∀ (s : State) (c : Ctx) (t : Team) (w : Warp) (o : XOp) (l : Nat),
    let k := s.ctxOf t
    let a := s.advance c w
    let bs := a.recBytes k c t w l 128
    let d := copyDesc bs
    (s.issue (.cpy o) = .go c t w → (s.advance c w).recAt (s.ctxOf t) (w.rkPair o.a.toNat).toNat 128 = .loc l → copyFine s t .plain bs →
      ∃ s', exec (.cpy o) s = .next s' ∧ Quiet s s' ∧ s'.copies = s.copies ++ [copyCmd s c t w o 0 d none]) ∧
    (s.issue (.cpyMc o) = .go c t w → (s.advance c w).recAt (s.ctxOf t) (w.rkPair o.a.toNat).toNat 128 = .loc l → copyFine s t .mc bs →
      ∃ s', exec (.cpyMc o) s = .next s' ∧ Quiet s s' ∧ s'.copies = s.copies ++ [copyCmd s c t w o 1 d none]) ∧
    (∀ (f : Nat) (x : XOp) (g : Bool) (ra rb : CaskRec), s.issue (.cpyMm o) = .go c t w →
      (s.advance c w).recAt (s.ctxOf t) (w.rkPair o.a.toNat).toNat 128 = .loc l → copyFine s t .mm bs →
      (s.advance c w).recAt (s.ctxOf t) (fieldOf bs 0x68 8) 16 = .loc f →
      let fs := a.recBytes k c t w f 16
      fieldOf fs 4 4 = 0 → fieldOf fs 8 8 = 0 →
      (decode (halvesOf (BitVec.ofNat 32 (fieldOf fs 0 4)))).1 = .ok (if g then .mmaG x else .mma x) →
      matReady t w (if g then .mmaG x else .mma x) = some (0, [.t x.d.toNat], .mma x.d.toNat ra rb g) →
      ∃ s', exec (.cpyMm o) s = .next s' ∧ Quiet s s' ∧
        s'.copies = s.copies ++ [copyCmd s c t w o 2 d (some (.mma x.d.toNat ra rb g, s.nextId + 1))] ∧
        ∃ w', s'.warp? c.team c.warp = some w' ∧ w'.pend.getLast? =
          some { regs := [.t x.d.toNat], lanes := c.lanes.map (fun y => (y, 0)), ready := false, cmd := some (s.nextId + 1) }) ∧
    (s.issue (.qfence o) = .go c t w → ∃ s' w', exec (.qfence o) s = .next s' ∧ Quiet s s' ∧ s'.warp? c.team c.warp = some w' ∧
      w'.qfences = w.qfences ++ (if k.det then [(o.d.toNat % 16, s.tick + 1)] else []) ∧
      ∃ m, s'.copies = s.copies ++ m ∧ m.map CopyCmd.q = (List.range 4).filter (fun q => o.d.getLsbD q) ∧
        ∀ x ∈ m, x.kind = 3 ∧ x.core = t.core ∧
          x.after = (s.copies.filter (fun y => y.core == t.core && o.d.getLsbD y.q && decide (y.q < 4) && y.kind != 3 && !y.landed && !y.off)).map CopyCmd.id)

/-- One element of a copy without conversion (R234): the bytes of the source stand at the destination of the issuing team, every
other byte is unchanged, and the command counts the element. -/
def Sys2Proof.Spec.CopyElements : Prop :=
  ∀ (b : Burst) (t : Team) (l l' : Nat), b.cmd.kind = 0 → b.cmd.d.conv = 0xFF → b.cmd.d.ssize = b.cmd.d.dsize → b.stop = none →
    (b.s.ctxOf t).det = false →
    b.s.engAt t (b.s.ctxOf t) b.cmd.d.sspace (b.cmd.d.srcAddr b.cmd.next) b.cmd.d.ssize .read = .loc l →
    b.s.engAt t (b.s.ctxOf t) b.cmd.d.dspace (b.cmd.d.dstAddr b.cmd.next) b.cmd.d.dsize .write = .loc l' →
    let b' := b.elem t (b.s.warp? b.cmd.team b.cmd.warp)
    (∀ i, i < b.cmd.d.ssize → b'.s.rdNew (l' + i) = b.s.rdNew (l + i)) ∧
    (∀ a, ¬ (l' ≤ a ∧ a < l' + b.cmd.d.ssize) → b'.s.rdNew a = b.s.rdNew a) ∧
    b'.cmd = { b.cmd with next := b.cmd.next + 1, flags := b'.cmd.flags } ∧ b'.n = b.n + b.cmd.d.dsize ∧ b'.stop = none ∧
    b'.s.teams = b.s.teams

/-- caskres, mgather, opub and osub complete whenever their records pass the checks (R153 to R158, R242, R243): the reservation, the
gather, the publication or the subscription stands, with what was captured; no byte and no register changes, and of a
team's ranges only the one that caskres names. -/
def Obligations.CaskAndStreamCommands : Prop :=
  ∀ (s : State) (c : Ctx) (t : Team) (w : Warp) (o : XOp) (l : Nat),
    let k := s.ctxOf t
    (∀ w1 : Warp, s.issue (.caskres o) = .go c t w → (s.advance c w).recAt k (w.rkPair o.a.toNat).toNat 32 = .loc l →
      let s1 := (s.advance c w).evAcquire c t k c.lanes { scope := .chip, spans := some [(l, l + 32)] }
      s1.warp? c.team c.warp = some w1 →
      let bs := (locRange l 32).map (s1.rdThr w1 (w1.thr (c.lanes.headD 0)))
      caskRecOk bs (caskRecOf o.d.toNat bs t.rdCask) t.desc.cask t.rdCask = true → o.d.toNat < t.ranges.length →
      ∃ s2 s' t', SameRegs s s2 ∧ s2.mem = s.mem ∧ exec (.caskres o) s = .next s' ∧
        s' = s2.updTeam c.team (fun u => { u with ranges := (u.setRange o.d.toNat (some (caskRecOf o.d.toNat bs t.rdCask))).ranges }) ∧
        s'.team? c.team = some t' ∧ t'.range? o.d.toNat = some (caskRecOf o.d.toNat bs t.rdCask) ∧
        ∀ n, n ≠ o.d.toNat → t'.range? n = t.range? n) ∧
    (∀ (r : CaskRec) (ls : List Nat), s.issue (.mgather o) = .go c t w →
      (s.advance c w).recAt k (w.rkPair o.a.toNat).toNat 32 = .loc l → t.range? o.d.toNat = some r →
      let bs := (s.advance c w).recBytes k c t w l 32
      let n := (w.rk o.b.toNat).toNat
      let first := fieldOf bs 0x14 2
      let sc := fieldOf bs 0x1C 4
      fieldOf bs 8 8 % 4 = 0 → 0 < n → n ≤ 64 → first + n ≤ r.rows → fieldOf bs 0x16 2 = 0 → (r.blk = 0 → sc = 0x80000000) →
      fieldOf bs 0x18 4 % 32 = 0 → fieldOf bs 0x18 4 + 32 ≤ Space.range t .s →
      wordLocs (s.advance c w) k ((List.range n).map (fun i => (fieldOf bs 8 8 + 4 * i) % 18446744073709551616)) = .ok ls →
      ∃ s', exec (.mgather o) s = .next s' ∧ Quiet s s' ∧ s'.gathers = s.gathers ++
        [{ id := s.nextId, core := t.core, team := c.team, warp := c.warp, pc := c.pc, range := r, rowBase := fieldOf bs 0 8,
           pitch := fieldOf bs 0x10 4, index := ls.map (fun x => leNat ((s.advance c w).recBytes k c t w x 4)), first := first,
           bar := fieldOf bs 0x18 4, scOff := if sc = 0x80000000 then none else some (BitVec.ofNat 32 sc).toInt,
           round := ((s.grid? t.grid).map Grid.round).getD 0, at_ := s.tick + 1 }]) ∧
    (s.issue (.opub o) = .go c t w → (s.advance c w).recAt k (w.rkPair o.a.toNat).toNat 32 = .loc l →
      let bs := (s.advance c w).recBytes k c t w l 32
      let name := (w.rk o.d.toNat).toNat
      let subs := (w.rk o.b.toNat).toNat
      let rows := fieldOf bs 0x10 2
      let rb := fieldOf bs 0x12 2
      name < 256 → 0 < subs → subs < 64 → 0 < rows → rows ≤ 128 → rb % 64 = 0 → 0 < rb → rb ≤ 4096 → 0 < fieldOf bs 0x14 2 →
      fieldOf bs 0x16 2 = 0 → fieldOf bs 0x1C 4 = 0 → fieldOf bs 0x18 4 = 0xFFFFFFFF →
      s.spubs.any (fun p => p.grid == t.grid && p.name == name) = false →
      ∃ s' p, exec (.opub o) s = .next s' ∧ Quiet s s' ∧ p ∈ s'.spubs ∧ p.grid = t.grid ∧ p.name = name ∧ p.src = fieldOf bs 0 8 ∧
        p.cpitch = fieldOf bs 8 4 ∧ p.rpitch = fieldOf bs 0xC 4 ∧ p.rows = rows ∧ p.rowBytes = rb ∧ p.count = fieldOf bs 0x14 2 ∧
        p.subs = subs) ∧
    (s.issue (.osub o) = .go c t w → (w.rk o.d.toNat).getLsbD 31 = true →
      let x := (w.rk o.d.toNat).toNat
      ∀ y : StreamSub, x / 256 % 2 ^ 23 = 0 → w.rk o.a.toNat = 0 → w.rk (o.a.toNat + 1) = 0 → (w.rk o.b.toNat).toNat < 65536 →
        (s.ssubs.filter (fun z => z.team == c.team)).find? (fun z => z.name == x % 256) = some y →
        y.credits + (w.rk o.b.toNat).toNat ≤ y.w →
        exec (.osub o) s = .next { s.advance c w with ssubs := s.ssubs.map (fun z =>
          if z.id == y.id then { z with credits := z.credits + (w.rk o.b.toNat).toNat } else z) }) ∧
    (∀ q : Space × Nat, s.issue (.osub o) = .go c t w →
      let x := (w.rk o.d.toNat).toNat
      x < 2 ^ 20 → x / 2 ^ 19 = 1 → x / 2 ^ 12 % 16 = 0 → (w.rk o.b.toNat).toNat < 16 →
      s.barAddr t k (w.rk o.a.toNat) .write = .ok q → (s.ssubs.filter (fun z => z.team == c.team)).length < 8 →
      (s.ssubs.filter (fun z => z.team == c.team)).any (fun z => z.name == x % 256) = false →
      ∃ s' y, exec (.osub o) s = .next s' ∧ Quiet s s' ∧ y ∈ s'.ssubs ∧ y.team = c.team ∧ y.name = x % 256 ∧ y.w = x / 256 % 16 + 1 ∧
        y.credits = y.w ∧ y.base = (w.rk (o.a.toNat + 1)).toNat ∧ y.bar = (w.rk o.a.toNat).toNat ∧ y.first = (w.rk o.b.toNat).toNat)

/-! ## Launches, agents, queues, stream registers -/

namespace Sys2Proof.Spec

/-- The calls of lower index than ci that a team's threads wait to enter (R326, R453). -/
def callsWaiting (t : Team) (ci : Nat) : Nat :=
  (((t.liveThreads.filterMap (fun th => th.wait.bind (fun x => match x.on with
    | .launchQ _ r => some r
    | _ => none))).filter (fun r => decide (r.ci < ci))).eraseDups).length

/-- The queue with a call put in: last, or in deterministic mode before the first of a higher call index (R326, R453). -/
def enqueued (det : Bool) (q : List LaunchRec) (r : LaunchRec) : List LaunchRec :=
  if det then q.takeWhile (fun x => decide (x.ci ≤ r.ci)) ++ r :: q.dropWhile (fun x => decide (x.ci ≤ r.ci)) else q ++ [r]

/-- ag.claim of a record whose wave stands (R312, R315): of a gang wave the next reserved team of the core that has not been told, else the
next ticket, where a team fits. `b` is the state before, `x` the answer and `b'` the state in which it is written. -/
def ClaimLaw (b b' : State) (core : Nat) (wv : Wave) (g : Grid) (x : Word) : Prop :=
  let gang := b.teams.find? (fun u => u.wave == wv.id && u.core == core && u.st == .claimed && !u.told)
  let n := b.rdNewNat (recLoc wv.recIdx) 4
  (g.desc.gangX ≠ 0 → gang = none → x = 0xFFFFFFFF ∧ b' = b) ∧
  (∀ u, g.desc.gangX ≠ 0 → gang = some u → x = BitVec.ofNat 32 u.index ∧ b'.mem = b.mem ∧
    ∃ u', b'.team? u.id = some u' ∧ u'.told = true) ∧
  (g.desc.gangX = 0 → (b.useOf core []).addTeam g.desc = none → x = 0xFFFFFFFE ∧ b' = b) ∧
  (g.desc.gangX = 0 → ((b.useOf core []).addTeam g.desc).isSome = true →
    b'.rdNewNat (recLoc wv.recIdx) 4 = (n + 1) % 4294967296 ∧
    (∀ a, ¬ (recLoc wv.recIdx ≤ a ∧ a < recLoc wv.recIdx + 4) → b'.rdNew a = b.rdNew a) ∧
    (wv.count ≤ n → x = 0xFFFFFFFF ∧ b'.teams = b.teams) ∧
    (n < wv.count → x = BitVec.ofNat 32 (wv.first + n) ∧ ∃ u, b'.teams = b.teams ++ [u] ∧ u.id = b.nextId ∧ u.core = core ∧ u.st = .claimed ∧
      u.grid = g.id ∧ u.wave = wv.id ∧ u.pos = wv.first + n ∧ u.desc = g.desc))

/-- ag.end of a team without a continuation (R312, R315, R328): the team is gone, ENDED of its wave's record has risen by one, and the wave
is gone with its last team. `b` is the state before; what the core then does with the room that is free begins from `b'`. -/
def EndLaw (b b' : State) (u : Team) : Prop :=
  b'.team? u.id = none ∧ (∀ v ∈ b.teams, v.id ≠ u.id → v ∈ b'.teams) ∧
  (b.wave? u.wave = none → b'.mem = b.mem) ∧
  ∀ wv, b.wave? u.wave = some wv →
    let l := recLoc wv.recIdx + 0xC
    let n := (b.rdNewNat l 4 + 1) % 4294967296
    b'.rdNewNat l 4 = n ∧ (∀ a, ¬ (l ≤ a ∧ a < l + 4) → b'.rdNew a = b.rdNew a) ∧
    (wv.count ≤ n → b'.wave? wv.id = none) ∧ (n < wv.count → b'.wave? wv.id = some wv)

/-- A continuation's team stands in the place of the one that ended, or waits for its resources (R328). -/
def ContinueLaw (b b' : State) (u : Team) (d : KDesc) (args : Nat) : Prop :=
  b'.mem = b.mem ∧ ∃ u', b'.team? u.id = some u' ∧ u'.index = u.index ∧ u'.pos = u.pos ∧ u'.grid = u.grid ∧ u'.wave = u.wave ∧
    u'.core = u.core ∧ u'.handle = u.handle ∧
    if ((b.useOf u.core [u.id]).addTeam d).isSome then u'.st = .resident ∧ u'.desc = d ∧ u'.args = args ∧ u'.cont = none
    else u'.st = .contWait ∧ u'.cont = u.cont

/-- The reserved team is instantiated, and resident with the last of its gang (R41, R315). -/
def InstLaw (b b' : State) (u : Team) (g : Grid) : Prop :=
  b'.mem = b.mem ∧ (∃ g', b'.grid? g.id = some g' ∧ g'.started = g.started + 1) ∧
  ∃ u', b'.team? u.id = some u' ∧ u'.handle = u.handle ∧ u'.core = u.core ∧ u'.index = u.index ∧ u'.desc = u.desc ∧
    u'.st = if (b.gangTeams u).all (fun v => v.id == u.id || v.st == .formed || v.st == .ended || v.st == .contWait) then .resident else .formed

end Sys2Proof.Spec

/-- launch, cont and the agent's instructions (R315, R325 to R328, R453): a launch takes a call index and raises its release; a sound one
then enters the team's queue and answers 0, a bad one answers 1, and with no place in the queue the group waits, to enter
the same entry when it wakes, with no further call index; in deterministic mode the places that lower calls wait for are
theirs. cont's threads exit with the packet's kernel to follow. ag.claim raises the ticket and reserves a team, or answers that
none is left or fits; ag.inst makes the reserved team resident and answers its handle; ag.end frees an ended team and raises
ENDED, or starts its continuation; ag.save answers the bytes of a halted one. Records are read through the lowest lane's view,
which is the model's choice (log entry 172). -/
def Obligations.LaunchesAndAgents : Prop :=
  ∀ (s : State) (c : Ctx) (t : Team) (w : Warp) (o : SOp) (l : Nat) (d : KDesc) (v : Bool),
    let k := s.ctxOf t
    let a := s.advance c w
    let bs (n : Nat) := (locRange l n).map (a.rdThr w (w.thr (minOf c.lanes)))
    let status (b : State) (n : Word) : State := b.writeLanes c (c.lanes.map (fun x => (x, [(Reg.v o.d.toNat, n)])))
    let answer (b : State) (n : Word) : State := b.writeLanes c (c.lanes.map (fun x => (x, [(Reg.k o.d.toNat, n)])))
    let entered (b : State) (u : Team) (r : LaunchRec) : State :=
      if u.launchQ.length + (if k.det then callsWaiting u r.ci else 0) < 4 then
        status (b.updTeam c.team (fun x => { x with launchQ := enqueued k.det x.launchQ r })) 0
      else b.park c c.lanes (.launchQ c.team r)
    (s.issue (.launch o) = .go c t w → (∀ x ∈ c.lanes, (w.thr x).launchRec = none) → a.recAt k (w.rkPair o.a.toNat).toNat 64 = .loc l →
      a.kdescAt k w (minOf c.lanes) (fieldOf (bs 64) 0 8) = .ok d v →
      let s1 := (a.evRelease c t k c.lanes { scope := .chip } none).updTeam t.id (fun u => { u with callIdx := u.callIdx + 1 })
      (∀ r u, launchEntry a t k (bs 64) d v = some r → s1.team? c.team = some u → exec (.launch o) s = .next (entered s1 u r)) ∧
      (launchEntry a t k (bs 64) d v = none → exec (.launch o) s = .next (status s1 1))) ∧
    (∀ r u, s.issue (.launch o) = .go c t w → (∀ x ∈ c.lanes, (w.thr x).launchRec = some r) → a.team? c.team = some u →
      exec (.launch o) s = .next (entered a u r)) ∧
    (s.issue (.cont o) = .go c t w → a.recAt k (w.rkPair o.a.toNat).toNat 32 = .loc l →
      a.kdescAt k w (minOf c.lanes) (fieldOf (bs 32) 0 8) = .ok d v → contBad t (bs 32) (w.rkPair o.a.toNat).toNat d v = none →
      exec (.cont o) s = .next ((a.updTeam t.id (fun u =>
        { u with cont := some ((w.rkPair o.a.toNat).toNat, { d with persist := t.desc.persist }, fieldOf (bs 32) 8 8) })).exitLanes
          c t w k c.lanes)) ∧
    (s.issue (.agClaim o) = .go c t w → ∃ b x, exec (.agClaim o) s = .next (answer b x) ∧
      (a.waves.find? (fun y => recOff y.recIdx == (w.rk o.a.toNat).toNat) = none → x = 0xFFFFFFFF ∧ b = a) ∧
      ∀ wv g, a.waves.find? (fun y => recOff y.recIdx == (w.rk o.a.toNat).toNat) = some wv → a.grid? wv.grid = some g →
        ClaimLaw a b t.core wv g x) ∧
    (∀ (u : Team) (g : Grid), s.issue (.agInst o) = .go c t w → w.rk o.a.toNat ≠ 0xFFFFFFFF → w.rk (o.b.toNat + 1) = 0 →
      a.reservation t.core (w.rkPair o.b.toNat).toNat (w.rk o.a.toNat).toNat = some u → a.team? u.id = some u → u.agent = false →
      a.grid? u.grid = some g →
      ∃ b, exec (.agInst o) s = .next (answer b (BitVec.ofNat 32 u.handle)) ∧ InstLaw a b u g) ∧
    (∀ u : Team, s.issue (.agInst o) = .go c t w → w.rk o.a.toNat = 0xFFFFFFFF → a.savedAt (w.rkPair o.b.toNat).toNat = some u →
      a.team? u.id = some u → a.restoreFits u [] t.core = true → a.savedErr u = none →
      ∃ b u', exec (.agInst o) s = .next (answer b (BitVec.ofNat 32 u'.handle)) ∧ b.team? u.id = some u' ∧ u'.core = t.core ∧
        (u'.st = .resident ∨ u'.st = .formed)) ∧
    (∀ u : Team, s.issue (.agEnd o) = .go c t w → a.byHandle t.core (w.rk o.a.toNat).toNat = some u → u.st = .ended →
      (u.cont = none → ∃ b, exec (.agEnd o) s = .next (b.retryCore u.core) ∧ EndLaw a b u) ∧
      (∀ va e args, u.cont = some (va, e, args) → a.team? u.id = some u → ∃ b, exec (.agEnd o) s = .next b ∧ ContinueLaw a b u e args)) ∧
    (∀ u : Team, s.issue (.agSave o) = .go c t w → a.byHandle t.core (w.rk o.a.toNat).toNat = some u → u.st = .halted →
      s.scratchErr u = none →
      ∃ s1 : State, (s1.team? u.id).map Team.st = some .saved ∧ exec (.agSave o) s = .next (answer s1 (BitVec.ofNat 32 (a.saveSize u)))) ∧
    (∀ u : Team, s.issue (.agEnd o) = .go c t w → a.byHandle t.core (w.rk o.a.toNat).toNat = some u → u.st ≠ .ended →
      exec (.agEnd o) s = .next (s.haltWarp c { cause := 17, detail := 2 } false)) ∧
    (s.issue (.agEnd o) = .go c t w → a.byHandle t.core (w.rk o.a.toNat).toNat = none →
      exec (.agEnd o) s = .next (s.haltWarp c { cause := 17, detail := 4 } false))

namespace Sys2Proof.Spec

/-- The header that k[a] names passes the checks of R225 and R248 at location l. -/
def queueAt (s : State) (t : Team) (b : Word) (l : Nat) : Prop :=
  b.toNat / 2 ^ 30 = 2 ∧ b.toNat % 64 = 0 ∧ barOff b + 64 ≤ Config.chipBytes ∧ s.chipProt (s.ctxOf t) t.agent (barOff b) .write = none ∧
    l = locChip (barOff b) ∧ s.bad.contains (l / 64 * 64) = false

end Sys2Proof.Spec

/-- qpush and qpop (R248, R249, R250): lanes in ascending order push as long as the queue is sound, open and not full: each stores its
record and answers 0, TAIL rises by their number, and the embedded phase completes once; the lanes after them answer 2, 3 or 1
on a broken, closed or full queue, and no byte outside the records and the header changes. Pops take the records from HEAD on,
which rises by their number; the lanes that find the queue empty answer 3 where it is closed, 2 where it is broken or they
woke from a break, and else wait on the embedded phase. In deterministic mode both are held to the boundary, with the
registers pending. -/
def Obligations.Queues : Prop :=
  ∀ (s : State) (c : Ctx) (t : Team) (w : Warp) (o : SOp) (l : Nat), queueAt s t (w.rk o.a.toNat) l →
    let a := s.advance c w
    let k := s.ctxOf t
    let q := s.qRead l
    let n := c.lanes.length
    let held (s' : State) (fx : HeldFx) (p : Pend) : Prop := Quiet s s' ∧ ∃ w', s'.warp? c.team c.warp = some w' ∧
      w'.held = w.held ++ [{ fx := fx, at_ := s.tick + 1, pc := c.pc, words := c.words }] ∧ w'.pend.getLast? = some p
    (q.pushStatus = if q.bar.broken then some 2 else if q.closed then some 3 else if q.count = q.cap then some 1 else none) ∧
    (∀ ls, s.issue (.qpush o) = .go c t w → k.det = false →
      let m := if q.pushStatus.isSome then 0 else min n ((q.cap + 4294967296 - q.count) % 4294967296)
      let ws := (List.range m).flatMap (fun i => (List.range 16).map (fun j =>
        (ls.getD i 0 + j, ((w.thr (c.lanes.getD i 0)).rv (o.b.toNat + j / 4)).extractLsb' (8 * (j % 4)) 8)))
      qRecLocs a k l q .write q.tail m = .ok ls → (∀ p ∈ ls, p + 16 ≤ l ∨ l + 64 ≤ p) →
      ∃ s1 : State, exec (.qpush o) s = .next (s1.writeLanes c (c.lanes.mapIdx (fun i x =>
          (x, [(Reg.v o.d.toNat, if i < m then 0 else BitVec.ofNat 32 (q.pushStatus.getD 1))])))) ∧ SameRegs s s1 ∧
        (∀ b, ¬ (l ≤ b ∧ b < l + 64) → s1.rdNew b = lastByte b ws (s.rdNew b)) ∧ (m = 0 → s1.mem = s.mem) ∧
        (s1.qRead l).tail = (q.tail + m) % 4294967296 ∧ (s1.qRead l).head = q.head ∧
        (m ≠ 0 → (s1.qRead l).bar.phase = (q.bar.phase + 1) % 2147483648)) ∧
    (∀ ls, s.issue (.qpop o) = .go c t w → k.det = false →
      let m := min n q.count
      let broke (x : Nat) : Bool := q.bar.broken || ((w.thr x).wait.bind WaitRec.woken) == some false
      let waits := if q.closed then [] else (c.lanes.drop m).filter (fun x => !broke x)
      let done := c.lanes.filter (fun x => !waits.contains x)
      let ws : List (Nat × List (Reg × Word)) := (c.lanes.take m).mapIdx (fun i x => (x, (List.range 4).map (fun j =>
          (Reg.v (o.d.toNat + j), BitVec.ofNat 32 (s.rdNewNat (ls.getD i 0 + 4 * j) 4))) ++ [(Reg.v o.b.toNat, 0)])) ++
        ((c.lanes.drop m).filter (fun x => q.closed || broke x)).map (fun x => (x, [(Reg.v o.b.toNat, if q.closed then 3 else 2)]))
      c.lanes.Nodup → qRecLocs a k l q .read q.head m = .ok ls →
      ∃ s1 : State, SameRegs s s1 ∧ (m = 0 → s1.mem = s.mem) ∧ (s1.qRead l).head = (q.head + m) % 4294967296 ∧
        (∀ b, ¬ (l + 0x28 ≤ b ∧ b < l + 0x2C) → s1.rdNew b = s.rdNew b) ∧
        let s2 := s1.updWarp c.team c.warp (fun v => v.commit done o.la.toNat (vGrp o.d 4 ++ vGrp o.b 1) ws)
        exec (.qpop o) s = .next (if waits = [] then s2 else s2.park c waits (.bar l q.bar.phase))) ∧
    (s.issue (.qpush o) = .go c t w → k.det = true → ∃ s', exec (.qpush o) s = .next s' ∧
      held s' (.qpush l (c.lanes.map (fun x => (x, (List.range 4).map (fun j => (w.thr x).rv (o.b.toNat + j))))) o.d.toNat)
        { regs := [.v o.d.toNat], lanes := c.lanes.map (fun x => (x, 0)), ready := false }) ∧
    (s.issue (.qpop o) = .go c t w → k.det = true → ∃ s', exec (.qpop o) s = .next s' ∧
      held s' (.qpop l c.lanes o.d.toNat o.b.toNat)
        { regs := vGrp o.d 4 ++ vGrp o.b 1, lanes := c.lanes.map (fun x => (x, o.la.toNat)), ready := false })

/-- Stream registers (R268 to R271, R296): sqbind binds a register to a receive stream's frame or to an open frame of a transmit stream,
sqrel unbinds it; sqrd and sqwr of an unbound register halt with detail 1, of one of the wrong direction with detail 2. A
pixel outside the picture reads as zeros with status 3 and takes no write. sqrd of a pixel whose band has landed takes its
samples through the lane's view with status 0 or, past the buffer's slots, 1; of one whose band's object is broken it answers
status 2, and of one that has not landed the lanes wait on the object. sqwr replaces the pixel's bits, lane after lane, and
no other bit; in deterministic mode it is held to the boundary, and in a pure task it halts with PURE. -/
def Obligations.StreamRegisters : Prop :=
  ∀ (s : State) (c : Ctx) (t : Team) (w : Warp) (o : SOp),
    let a := (w.rk o.a.toNat).toNat
    let b := (w.rk o.b.toNat).toNat
    let k := s.ctxOf t
    let x (l : Nat) : Nat := ((w.thr l).rv o.b.toNat).toNat % 65536
    let y (l : Nat) : Nat := ((w.thr l).rv o.b.toNat).toNat / 65536
    let quad (l : Nat) (ws : List Word) (st : Word) : Nat × List (Reg × Word) := (l, (ws ++ [st]).mapIdx (fun j v => (Reg.v (o.d.toNat + j), v)))
    (s.issue (.sqbind o) = .go c t w → a < 256 → (s.stream? a).isSome = true → a < 64 →
      exec (.sqbind o) s = .next ((s.advance c w).setSq c o.d.toNat (some { stream := a, key := b % 2147483648 }))) ∧
    (s.issue (.sqbind o) = .go c t w → a < 256 → (s.stream? a).isSome = true → 64 ≤ a → b < 1024 → s.frameBindable b a = true →
      exec (.sqbind o) s = .next ((s.advance c w).setSq c o.d.toNat (some { stream := a, key := b }))) ∧
    (s.issue (.sqbind o) = .go c t w → (256 ≤ a ∨ s.stream? a = none) →
      exec (.sqbind o) s = .next (s.haltWarp c { cause := 10, detail := 3 } false)) ∧
    (s.issue (.sqrel o) = .go c t w → exec (.sqrel o) s = .next ((s.advance c w).setSq c o.d.toNat none)) ∧
    (s.issue (.sqrd o) = .go c t w → w.sqAt o.a.toNat = none →
      exec (.sqrd o) s = .next (s.haltWarp c { cause := 10, detail := 1 } false)) ∧
    (s.issue (.sqwr o) = .go c t w → w.sqAt o.d.toNat = none →
      exec (.sqwr o) s = .next (s.haltWarp c { cause := 10, detail := 1 } false)) ∧
    (∀ q : SqBind, s.issue (.sqrd o) = .go c t w → w.sqAt o.a.toNat = some q → 64 ≤ q.stream →
      exec (.sqrd o) s = .next (s.haltWarp c { cause := 10, detail := 2 } false)) ∧
    (∀ q : SqBind, s.issue (.sqwr o) = .go c t w → w.sqAt o.d.toNat = some q → q.stream < 64 →
      exec (.sqwr o) s = .next (s.haltWarp c { cause := 10, detail := 2 } false)) ∧
    (∀ q : SqBind, s.issue (.sqrd o) = .go c t w → w.sqAt o.a.toNat = some q → q.stream < 64 →
      let f := s.pixFmt q.stream
      let obj (l : Nat) : Nat := s.bandObj q.stream (y l / s.streamField q.stream 0x15 1)
      let slots := s.streamField q.stream 0x14 1
      let dd (l : Nat) : Nat := ((s.barRead (obj l)).phase + 2147483648 - q.key) % 2147483648
      let landed (l : Nat) : Prop := 1 ≤ dd l ∧ dd l < 1073741824
      let va (l : Nat) : Nat := (s.streamField q.stream 8 8 + q.key % max slots 1 * f.h * f.pitch + f.offset (x l) (y l)) % 18446744073709551616
      ((∀ l ∈ c.lanes, f.w ≤ x l ∨ f.h ≤ y l) → ∃ s1 : State, Quiet s s1 ∧
        exec (.sqrd o) s = .next (s1.commit c o.la.toNat (vGrp o.d 4) (c.lanes.map (fun l => quad l [0, 0, 0] 3)))) ∧
      ((∀ l ∈ c.lanes, x l < f.w ∧ y l < f.h ∧ (w.thr l).wait = none) →
        ((∀ l ∈ c.lanes, (s.barRead (obj l)).broken = true) → ∃ s1 : State, Quiet s s1 ∧
          exec (.sqrd o) s = .next (s1.commit c o.la.toNat (vGrp o.d 4) (c.lanes.map (fun l => quad l [0, 0, 0] 2)))) ∧
        ((∀ l ∈ c.lanes, (s.barRead (obj l)).broken = false ∧ ¬ landed l) → ∃ s' w', exec (.sqrd o) s = .next s' ∧ Quiet s s' ∧
          s'.warp? c.team c.warp = some w' ∧ ∀ l ∈ c.lanes, (w'.thr l).pc = c.pc ∧
            ∃ r, (w'.thr l).wait = some r ∧ r.on = .bar (obj l) (s.barRead (obj l)).phase ∧ r.woken = none) ∧
        (∀ ls, (∀ l ∈ c.lanes, (s.barRead (obj l)).broken = false ∧ landed l) → f.sampling < 3 →
          (s.advance c w).check t k .g .read 1 (c.lanes.flatMap (fun l =>
            (List.range f.size).map (fun i => (l, (va l + i) % 18446744073709551616)))) = .ok ls →
          ∃ (s1 : State) (w1 : Warp), Quiet s s1 ∧ s1.warp? c.team c.warp = some w1 ∧
            (∀ l ∈ c.lanes, ∀ e ∈ s.phaseCarries (obj l) q.key, e.engine = true → e.p.ser ≤ KV.get 0 e.p.loc (w1.thr l).view) ∧
            exec (.sqrd o) s = .next (s1.commit c o.la.toNat (vGrp o.d 4) (c.lanes.map (fun l =>
              quad l (f.quad (x l) ((ls.filter (fun p => p.1 == l)).map (fun p => s1.rdThr w (w1.thr l) p.2)))
                (if dd l < slots then 0 else 1))))))) ∧
    (∀ q : SqBind, s.issue (.sqwr o) = .go c t w → w.sqAt o.d.toNat = some q → 64 ≤ q.stream →
      let f := s.pixFmt q.stream
      let acts : List (Nat × Nat × Byte × Byte) := c.lanes.flatMap (fun l =>
        (f.bits (f.writes (x l) ((List.range 3).map (fun j => (w.thr l).rv (o.a.toNat + j))))).map (fun p =>
          (l, (s.frameField q.key 0x20 8 + f.offset (x l) (y l) + p.1) % 18446744073709551616, p.2)))
      (k.pure = true → ∃ h : HaltInfo, h.cause = 4 ∧ h.detail = 8 ∧ exec (.sqwr o) s = .next (s.haltWarp c h false)) ∧
      (k.pure = false → (∀ l ∈ c.lanes, f.w ≤ x l ∨ f.h ≤ y l) → exec (.sqwr o) s = .next (s.advance c w)) ∧
      (∀ ls, k.pure = false → f.sampling < 3 → (∀ l ∈ c.lanes, x l < f.w ∧ y l < f.h) →
        (s.advance c w).check t k .g .write 1 (acts.map (fun p => (p.1, p.2.1))) = .ok ls →
        (∀ l ∈ c.lanes, ((ls.filter (fun p => p.1 == l)).map (fun p => p.2)).Nodup) →
        ∃ s', exec (.sqwr o) s = .next s' ∧ SameRegs s s' ∧
          (k.det = true → s'.mem = s.mem) ∧
          (k.det = false → ∀ b, s'.rdNew b = ((ls.zip acts).filter (fun p => p.1.2 == b)).foldl (fun v p =>
            (v &&& ~~~ p.2.2.2.1) ||| (p.2.2.2.2 &&& p.2.2.2.1)) (s.rdNew b))))

/-! ## Rays, textures and the raster instructions -/

namespace Sys2Proof.Spec

/-- The state of a query that has reached an event (R342, R343, R347, R348): HIT and MISS end it, with and without a hit; CANDIDATE presents
one; CONTINUE leaves it to go on; INVALID and STALE end it. -/
def EventState (n : Nat) (q : RayQuery) : Prop :=
  n < 6 ∧ (n = 0 → q.st = .done ∧ q.hit.isSome = true) ∧ (n = 1 → q.st = .done ∧ q.hit = none) ∧
  (n = 2 → q.st = .ask ∧ q.cand.isSome = true) ∧ (n = 3 → q.st = .run ∧ q.cand = none) ∧ (4 ≤ n → q.st = .done)

/-- The event of exact mode over the candidates that are left, in ascending key (R342): a miss where there is none, else the first: the hit
where it is opaque, or presented. -/
def ExactLaw (n : Nat) (q q' : RayQuery) : Prop :=
  match q.todo with
  | [] => n = 1 ∧ q'.st = .done ∧ q'.hit = q.hit
  | m :: rest =>
    if m.opaque_ then n = 0 ∧ q'.st = .done ∧ q'.hit = some m
    else n = 2 ∧ q'.st = .ask ∧ q'.cand = some m ∧ q'.todo = rest ∧ q'.presented = q.presented + 1

/-- What a lane's raynext makes of its query (R342, R343, R347, R348), at event n: a generation that has changed ends it with STALE; an
acceptance that ends the query makes the candidate its hit; a query of exact mode goes on with the next candidate, or
after as many tests as an issue takes; ray and flags stay. -/
def NextLaw (det : Bool) (n : Nat) (q q' : RayQuery) : Prop :=
  let exact : Bool := !rfFast q.flags || det
  let ends : Bool := q.st == .told && q.decision != 1 && (q.decision == 2 || exact)
  q'.ray = q.ray ∧ q'.flags = q.flags ∧ q'.gens = q.gens ∧ n ≠ 4 ∧
  ((q.st = .told → q.cand.isSome = true) → (exact = true → q.hit = none) → EventState n q') ∧
  (n ≠ 5 → ends = true → n = 0 ∧ q'.st = .done ∧ q'.hit = q.cand) ∧
  (n ≠ 5 → ends = false → exact = true → n = 3 ∨ ExactLaw n q q')

end Sys2Proof.Spec

/-- Ray instructions (R340, R342, R346 to R351): rayq starts a query in every lane once its header and flags are sound, and answers INVALID
for a ray that is; raynext runs it on in RUN and TOLD, where no block of memory has an error that cannot be corrected (R421);
the event that they answer says where the query stands, and of a structure of triangles in exact mode it is the first
candidate in ascending key. rayacc, rayign and rayend record their decision in ASK; rayrd reads the candidate or the
committed hit; rtinv forgets the region's entries, all or of one asid. In another state raynext, rayacc, rayign, rayend
and rayrd halt with cause RAY in the lowest lane that stands in it. -/
def Obligations.Rays : Prop :=
  ∀ (s : State) (c : Ctx) (t : Team) (w : Warp) (o : SOp),
    let k := s.ctxOf t
    let a := s.advance c w
    let tell (n : Nat) : State := a.mapThr c.team c.warp (fun l th =>
      if c.lanes.contains l then { th with rq := { th.rq with st := .told, decision := n } } else th)
    let bad (l : Nat) : Host.Outcome State Fault Refusal := .next (s.haltWarp c { cause := 11, detail := 1, lane := l } false)
    let events (s1 : State) (e : List Nat) : State := s1.commit c o.la.toNat (vGrp o.d 1)
      ((c.lanes.zip e).map (fun p => (p.1, [(Reg.v o.d.toNat, BitVec.ofNat 32 p.2)])))
    let kept (s1 : State) (w1 : Warp) : Prop := s1.warp? c.team c.warp = some w1 ∧ w1.k = w.k ∧
      (∀ l, (w1.thr l).v = (w.thr l).v ∧ (w1.thr l).p = (w.thr l).p) ∧ ∀ l, l ∉ c.lanes → (w1.thr l).rq = (w.thr l).rq
    ((∀ l ∈ c.lanes, (w.thr l).rq.st = .ask) →
      (s.issue (.rayacc o) = .go c t w → exec (.rayacc o) s = .next (tell 0)) ∧
      (s.issue (.rayign o) = .go c t w → exec (.rayign o) s = .next (tell 1)) ∧
      (s.issue (.rayend o) = .go c t w → exec (.rayend o) s = .next (tell 2))) ∧
    (∀ l, c.lanes.find? (fun x => (w.thr x).rq.st != .ask) = some l →
      (s.issue (.rayacc o) = .go c t w → exec (.rayacc o) s = bad l) ∧
      (s.issue (.rayign o) = .go c t w → exec (.rayign o) s = bad l) ∧
      (s.issue (.rayend o) = .go c t w → exec (.rayend o) s = bad l)) ∧
    (∀ l, s.issue (.raynext o) = .go c t w → c.lanes.find? (fun x => (w.thr x).rq.st != .run && (w.thr x).rq.st != .told) = some l →
      exec (.raynext o) s = bad l) ∧
    (∀ l, s.issue (.rayrd o) = .go c t w → c.lanes.find? (fun x => (w.thr x).rq.st == .idle ||
        (!o.b.getLsbD 0 && (w.thr x).rq.st != .ask && (w.thr x).rq.st != .told)) = some l → exec (.rayrd o) s = bad l) ∧
    (s.issue (.rayrd o) = .go c t w → (∀ l ∈ c.lanes, (w.thr l).rq.st ≠ .idle ∧
        (o.b.getLsbD 0 = false → (w.thr l).rq.st = .ask ∨ (w.thr l).rq.st = .told)) →
      ∃ s', exec (.rayrd o) s = .next s' ∧ Produced s s' c w o.la.toNat (vGrp o.d 1)
        (c.lanes.map (fun l => (l, [(Reg.v o.d.toNat, rayVal (w.thr l).rq (o.b.getLsbD 0) o.a.toNat)])))) ∧
    (s.issue (.rtinv o) = .go c t w → w.rk o.a.toNat = 0xFFFFFFFF →
      exec (.rtinv o) s = .next { s.advance c w with leaves := s.leaves.filter (fun e => e.region != (s.ctxOf t).region) }) ∧
    (s.issue (.rtinv o) = .go c t w → (w.rk o.a.toNat).toNat < 65536 → exec (.rtinv o) s = .next { s.advance c w with
      leaves := s.leaves.filter (fun e => !(e.region == (s.ctxOf t).region && e.asid == (w.rk o.a.toNat).toNat)) }) ∧
    (∀ (f : Word) (ps : List RayPart) (m : RayHit), m ∈ partCands f ps ↔
      ∃ p ∈ ps, p.ray.invalid = false ∧ m ∈ p.b.cands p.ray f p.inst p.iflags) ∧
    (∀ x : Nat, s.issue (.rayq o) = .go c t w → s.bad = [] → c.lanes.Nodup →
      let va := (w.rkPair o.b.toNat).toNat
      let fl (l : Nat) : Word := (w.thr l).rv o.d.toNat
      let ray (l : Nat) : List Word := (List.range 8).map (fun i => (w.thr l).rv (o.a.toNat + i))
      a.recAt k va 128 = .loc x →
      (∀ l ∈ c.lanes, (fl l).toNat < 8192 ∧ (rfOpaque (fl l) && rfNoOpaque (fl l)) = false ∧
        hdrOk ((locRange x 128).map (s.rdThr w (w.thr l))) = true) →
      ∃ (s1 : State) (w1 : Warp) (e : List Nat), e.length = c.lanes.length ∧ kept s1 w1 ∧ exec (.rayq o) s = .next (events s1 e) ∧
        (∀ (i l n : Nat), c.lanes[i]? = some l → e[i]? = some n → EventState n (w1.thr l).rq ∧ (w1.thr l).rq.flags = fl l ∧
          (w1.thr l).rq.ray = ray l ∧ (n = 4 ↔ (rayOf (ray l)).invalid = true)) ∧
        (∀ (h : Nat → List Byte) (b : Nat → Bvh), (∀ l ∈ c.lanes, bvhRead a k w (w.thr l) va = .ok (h l) (b l) ∧ fieldOf (h l) 4 1 = 0 ∧
            bvhsBig [b l] = false) →
          ∀ (i l n : Nat), c.lanes[i]? = some l → e[i]? = some n → (rayOf (ray l)).invalid = false → (rfFast (fl l) && !k.det) = false →
            (w1.thr l).rq.gens = [(va, (b l).gen)] ∧
            let todo := partCands (fl l) [{ va := va, gen := (b l).gen, inst := 0, iflags := 0, ray := rayOf (ray l), b := b l }]
            todo.length ≤ 64 → ExactLaw n { todo := todo } (w1.thr l).rq)) ∧
    (s.issue (.raynext o) = .go c t w → s.bad = [] → c.lanes.Nodup → (∀ l ∈ c.lanes, (w.thr l).rq.st = .run ∨ (w.thr l).rq.st = .told) →
      ∃ (s1 : State) (w1 : Warp) (e : List Nat), e.length = c.lanes.length ∧ kept s1 w1 ∧ exec (.raynext o) s = .next (events s1 e) ∧
        ∀ (i l n : Nat), c.lanes[i]? = some l → e[i]? = some n → NextLaw k.det n (w.thr l).rq (w1.thr l).rq)

/-- Texture instructions (R364 to R366) with a sound descriptor: texq answers the descriptor's field; texld the texel at the wrapped
position and tex the filtered quad, or NaNs for coordinates that are not finite, each with a status that says whether a
texel is absent; texfb sets the feedback bit of every tile that tex would touch, in its word of the map, and changes no
other bit of memory and no register; in deterministic mode it is held to the boundary (R185). -/
def Obligations.Textures : Prop :=
  (∀ (d : TexDesc) (u v : Word) (ts : List (Nat × Nat)) (fx fy : Machine.Num) (x : Nat × Nat), d.fbmap ≠ 0 → d.tiled = true →
    texSample d u v = .at ts fx fy →
    (x ∈ texfbBits d u v ↔ ∃ p ∈ ts, x = ((d.fbmap + 4 * (((p.2 / d.th) * d.tilesX + p.1 / d.tw) / 32)) % 18446744073709551616,
      ((p.2 / d.th) * d.tilesX + p.1 / d.tw) % 32))) ∧
  ∀ (s : State) (c : Ctx) (t : Team) (w : Warp) (b : BitVec 6) (x : Nat), (s.advance c w).recAt (s.ctxOf t) (w.rkPair b.toNat).toNat 64 = .loc x →
    (∀ l ∈ c.lanes, texDescOk (laneDesc s w l x) = true) →
    let k := s.ctxOf t
    let desc (l : Nat) : TexDesc := texDesc (laneDesc s w l x)
    let regs (o : BitVec 6) (l : Nat) (q : List Word) (absent : Bool) : Nat × List (Reg × Word) :=
      (l, (q ++ [if absent then 1 else 0]).mapIdx (fun j y => (Reg.v (o.toNat + j), y)))
    (∀ o : SOp, o.b = b → s.issue (.texq o) = .go c t w → ∃ s', exec (.texq o) s = .next s' ∧
      Produced s s' c w o.la.toNat (vGrp o.d 1) (c.lanes.map (fun l =>
        (l, [(Reg.v o.d.toNat, BitVec.ofNat 32 (texqVal (desc l) o.a.toNat))])))) ∧
    (∀ (o : TexLd) (ls : List (Nat × Nat)), o.b = b → s.issue (.texld o) = .go c t w → o.pre.toNat < 4096 →
      let p (l : Nat) : Nat × Nat := texldAt (desc l) ((w.thr l).rv o.a.toNat) o.pre
      Chk.joinAll (c.lanes.map (fun l => texStops (s.advance c w) k l (desc l) [p l])) = .ok ls →
      ∃ s', exec (.texld o) s = .next s' ∧ Produced s s' c w o.la.toNat (vGrp o.d 5) (c.lanes.map (fun l =>
        regs o.d l (texel (s.advance c w) k w l (desc l) (p l)).1 (texel (s.advance c w) k w l (desc l) (p l)).2))) ∧
    (∀ (o : SOp) (ls : List (Nat × Nat)), o.b = b → s.issue (.tex o) = .go c t w →
      let smp (l : Nat) : Sample := texSample (desc l) ((w.thr l).rv o.a.toNat) ((w.thr l).rv (o.a.toNat + 1))
      Chk.joinAll (c.lanes.map (fun l => match smp l with
        | .at ts _ _ => texStops (s.advance c w) k l (desc l) ts
        | .nan => .ok [])) = .ok ls →
      ∃ s', exec (.tex o) s = .next s' ∧ Produced s s' c w o.la.toNat (vGrp o.d 5) (c.lanes.map (fun l => match smp l with
        | .nan => regs o.d l (List.replicate 4 0x7FC00000) false
        | .at ts fx fy =>
          let rs : List (List Word × Bool) := ts.map (texel (s.advance c w) k w l (desc l))
          regs o.d l (filterQuad (rs.map Prod.fst) fx fy) (rs.any Prod.snd)))) ∧
    (∀ (o : SOp) (ls : List (Nat × Nat)), o.b = b → s.issue (.texfb o) = .go c t w →
      let acts := c.lanes.flatMap (fun l =>
        (texfbBits (desc l) ((w.thr l).rv o.a.toNat) ((w.thr l).rv (o.a.toNat + 1))).map (fun q => (l, q)))
      (s.advance c w).check t k .g .write 4 (acts.map (fun a => (a.1, a.2.1))) = .ok ls →
      ∃ s', exec (.texfb o) s = .next s' ∧ SameRegs s s' ∧ (k.det = true → s'.mem = s.mem) ∧
        (k.det = false → ∀ a, s'.rdNew a = (ls.zip acts).foldl (fun v p =>
          if p.1.2 ≤ a ∧ a < p.1.2 + 4 then v ||| (BitVec.ofNat 32 (2 ^ p.2.2.2)).extractLsb' (8 * (a - p.1.2)) 8 else v) (s.rdNew a)))

namespace Sys2Proof.Spec

/-- Whether a pixel of a pass is the one that a lane works on (R359). -/
def pixOf (t : Team) (w : Warp) (p : Pass) (r : PixRes) (l : Nat) : Bool :=
  (t.pixelAt w l).any (fun q => q.1.pass == p.id && r.key == q.1.key && r.x == q.2.1 && r.y == q.2.2)

/-- The passes differ only in their pixels, each of which is what f makes of it. -/
def PixelsBy (s s' : State) (f : Pass → PixRes → PixRes) : Prop :=
  ∀ p, s.pass? p.id = some p → s'.pass? p.id = some { p with pixels := p.pixels.map (f p) }

/-- What a primitive of emitp holds (R362): its key, its three vertices and its number. -/
def primFields (q : Prim) : List Nat × List Vertex × Word := (q.key, q.v, q.pid)

end Sys2Proof.Spec

/-- Raster instructions (R362, R363, R367): emitv appends its lanes' vertices and answers their numbers, emitp its primitives to the pass;
pixout gives the lanes' pixels their colours, discard ends the threads, whose pixels are resolved with no colour and whose
locks are free; pixlock gives a lane the lock of its pixel where every earlier primitive's pixel there is resolved, applied
and free, and lets it wait where one is not; pixunlock publishes the lane's view at cluster scope and frees the lock. In
deterministic mode pixout is held to the boundary. A team of another kind halts with detail 1. No byte of memory
changes but those that the back end applies as pixlock catches up with it. -/
def Obligations.RasterInstructions : Prop :=
  ∀ (s : State) (c : Ctx) (t : Team) (w : Warp) (o : SOp),
    let k := s.ctxOf t
    let a := s.advance c w
    let bad (n : Nat) : Host.Outcome State Fault Refusal :=
      .next (s.haltWarp c { cause := 12, detail := n, lane := minOf c.lanes } false)
    let px := c.lanes.filter (fun l => (t.pixelAt w l).isSome)
    let words (l : Nat) : List Word := (List.range 4).map (fun j => (w.thr l).rv (o.a.toNat + j))
    let sameRegs (w' : Warp) : Prop := w'.k = w.k ∧ ∀ l, (w'.thr l).v = (w.thr l).v ∧ (w'.thr l).p = (w.thr l).p
    (t.desc.kind ≠ 1 → (s.issue (.emitv o) = .go c t w → exec (.emitv o) s = bad 1) ∧
      (s.issue (.emitp o) = .go c t w → exec (.emitp o) s = bad 1)) ∧
    (t.desc.kind ≠ 2 → (s.issue (.pixout o) = .go c t w → exec (.pixout o) s = bad 1) ∧
      (s.issue (.discard o) = .go c t w → exec (.discard o) s = bad 1) ∧
      (s.issue (.pixlock o) = .go c t w → exec (.pixlock o) s = bad 1) ∧
      (s.issue (.pixunlock o) = .go c t w → exec (.pixunlock o) s = bad 1)) ∧
    (s.issue (.emitv o) = .go c t w → t.desc.kind = 1 → w.verts.length + c.lanes.length ≤ 1024 →
      ∃ s' w', exec (.emitv o) s = .next s' ∧ s'.mem = s.mem ∧ s'.warp? c.team c.warp = some w' ∧
        w'.verts = w.verts ++ c.lanes.map (fun l =>
          let r (b : BitVec 6) (n : Nat) : List Word := (List.range n).map (fun j => (w.thr l).rv (b.toNat + j))
          ({ pos := r o.a 3, attr := r o.b 4 } : Vertex)) ∧
        (∀ (i l : Nat), c.lanes[i]? = some l → c.lanes.Nodup → (w'.thr l).rv o.d.toNat = BitVec.ofNat 32 (w.verts.length + i))) ∧
    (s.issue (.emitp o) = .go c t w → t.desc.kind = 1 → w.prims + c.lanes.length ≤ 65536 →
      (∀ l ∈ c.lanes, ∀ j, j < 3 → ((w.thr l).rv (o.a.toNat + j)).toNat < w.verts.length) →
      ∃ s' w', exec (.emitp o) s = .next s' ∧ s'.mem = s.mem ∧ SameRegs (a.updWarp c.team c.warp (fun v : Warp =>
          { v with prims := v.prims + c.lanes.length })) s' ∧ s'.warp? c.team c.warp = some w' ∧
        w'.prims = w.prims + c.lanes.length ∧
        ∀ id p, (s.grid? t.grid).bind Grid.pass = some id → s.pass? id = some p → ∃ p', s'.pass? id = some p' ∧
          p'.prims.map primFields = p.prims.map primFields ++ c.lanes.mapIdx (fun i l =>
            ([t.index, w.idx, w.prims + i], (List.range 3).map (fun j => w.verts.getD ((w.thr l).rv (o.a.toNat + j)).toNat {}),
              (w.thr l).rv (o.a.toNat + 3)))) ∧
    (s.issue (.pixout o) = .go c t w → t.desc.kind = 2 → c.lanes.Nodup → (∀ l ∈ px, (w.thr l).pixDone = false) →
      ∃ s' w', exec (.pixout o) s = .next s' ∧ s'.mem = s.mem ∧ s'.warp? c.team c.warp = some w' ∧ sameRegs w' ∧
        (∀ l, (w'.thr l).pixDone = ((w.thr l).pixDone || px.contains l)) ∧
        (k.det = false → PixelsBy s s' (fun p r => match px.find? (pixOf t w p r) with
          | some l => if r.colour.isNone then { r with colour := some (some (words l)) } else r
          | none => r)) ∧
        (k.det = true → PixelsBy s s' (fun _ r => r) ∧ w'.held = w.held ++ px.map (fun l =>
          { fx := .pixel l (some (words l)), at_ := s.tick + 1, pc := c.pc, words := c.words }))) ∧
    (s.issue (.discard o) = .go c t w → t.desc.kind = 2 → k.det = false → w.log = none → (∀ l, (w.thr l).conv = none) →
      ∃ s' w', exec (.discard o) s = .next s' ∧ s'.mem = s.mem ∧ s'.warp? c.team c.warp = some w' ∧
        (∀ l, (w'.thr l).exited = ((w.thr l).exited || c.lanes.contains l)) ∧
        PixelsBy s s' (fun p r =>
          { r with colour := if c.lanes.any (fun l => pixOf t w p r l && !(w.thr l).pixDone) && r.colour.isNone then some none else r.colour,
                   holder := if c.lanes.any (fun l => pixOf t w p r l && (w.thr l).pixLock) then none else r.holder })) ∧
    (s.issue (.pixlock o) = .go c t w → t.desc.kind = 2 → (∀ l ∈ px, (w.thr l).granted = true) → exec (.pixlock o) s = .next a) ∧
    (s.issue (.pixlock o) = .go c t w → t.desc.kind = 2 → c.lanes.Nodup → (∀ l ∈ px, (w.thr l).pixLock = false ∧ (w.thr l).wait = none) →
      (∃ s' w', exec (.pixlock o) s = .next s' ∧ s'.warp? c.team c.warp = some w' ∧ sameRegs w' ∧
        ∀ l ∈ px, ((w'.thr l).pixLock = true ∧ (w'.thr l).wait = none) ∨
          ((w'.thr l).pixLock = false ∧ (w'.thr l).pc = c.pc ∧ ∃ j x y r, t.pixelAt w l = some (j, x, y) ∧ (w'.thr l).wait = some r ∧
            r.on = .pixel x y ∧ r.woken = none)) ∧
      (∀ l j x y p, px = [l] → t.pixelAt w l = some (j, x, y) → s.pass? j.pass = some p →
        (∀ r ∈ p.pixels, r.x = x → r.y = y → r.applied = false → r.colour = none) →
        let free := s.settled p j.key = true ∧
          ∀ r ∈ p.pixels, r.x = x → r.y = y → lexLt r.key j.key = true → r.applied = true ∧ r.holder = none
        (free → ∃ s' w', exec (.pixlock o) s = .next s' ∧ s'.mem = s.mem ∧ s'.warp? c.team c.warp = some w' ∧ (w'.thr l).pixLock = true ∧
          (∀ q ∈ p.lockPubs, q.1 = x → q.2.1 = y → q.2.2.ser ≤ KV.get 0 q.2.2.loc (w'.thr l).view) ∧
          PixelsBy s s' (fun p' r => if pixOf t w p' r l then { r with holder := some (t.id, c.warp, l) } else r)) ∧
        (¬ free → exec (.pixlock o) s = .next (a.park c [l] (.pixel x y))))) ∧
    (s.issue (.pixunlock o) = .go c t w → t.desc.kind = 2 → c.lanes.Nodup → (∀ l ∈ px, (w.thr l).pixLock = true) →
      ∃ s' w', exec (.pixunlock o) s = .next s' ∧ s'.mem = s.mem ∧ s'.warp? c.team c.warp = some w' ∧ sameRegs w' ∧
        (∀ l, (w'.thr l).pixLock = ((w.thr l).pixLock && !px.contains l)) ∧
        (k.det = false → (∀ l ∈ px, ∀ x ∈ s.named (w.thr l),
            { scope := .cluster, party := .core t.core, loc := x.1, ser := x.2, writer := s.writerOf x.2 : Publ } ∈ s'.publs) ∧
          PixelsBy s s' (fun p r => if px.any (pixOf t w p r) then { r with holder := none } else r)))

/-! ## The task window -/

namespace Sys2Proof.Spec

/-- What the rules ask of a task instruction at decode, and what it does there: its record, its class, flags and operand
check (R80, R279), its blocks, the address decode goes on at (none where the task faults), whether it completes at
decode, and the window's own fields that it changes. -/
structure TaskLaw where
  t      : TaskRec
  form   : TaskForm
  blocks : State → Prop := fun _ => True
  next   : State → Option Nat := fun s => some (s.win.nextAddr s.win.dpc)
  fin    : Bool := false
  eff    : State → Window → Window := fun _ w => w

/-- A block that can be read and has no failing field. -/
def blockPass (s : State) (t : TaskRec) (va n al : Nat) (bad : List Byte → List (Nat × Bool)) : Prop :=
  ∃ bs, s.blockAt t.region.toNat va n al = .ok s bs ∧ badField (bad bs) = none

/-- The declaration list that PB names passes, where PB names one (R281). -/
def declPass (s : State) (t : TaskRec) : Prop :=
  t.pb = 0 ∨ blockPass s t t.pb.toNat 64 64 (fun bs => declBad bs 0)

def control (bufs : Nat) (bad : TaskRec → Bool) : TaskForm := { cls := .control, bufs := bufs, bad := bad }
def effects (bad : TaskRec → Bool) : TaskForm := { cls := .effectful, eff := true, bad := bad }
def declared (shed : Bool) (bad : TaskRec → Bool) : TaskForm :=
  { cls := .declared, eff := true, det := true, opq := true, shed := shed, frame := true, bufs := 4, bad := bad }

/-- The frame of a timed barrier has not gone READY or LATE. -/
def framePending (s : State) (t : TaskRec) : Prop :=
  let f := (taskFrame t).getD 0
  s.frameField f 0x38 8 = 0 ∧ s.frameSt f ≠ 4 ∧ s.frameSt f ≠ 5

/-- The table of the task instructions (R79, R80, R279 to R291). -/
def taskLaw : Instr → Option TaskLaw
  | .tNop t => some { t := t, form := control 0 (opBad 0 0 0), fin := true }
  | .tHalt t => some { t := t, form := control 0 (opBad 0xFFFFFFFF 0 0), fin := true, eff := fun _ w => { w with stopped := true } }
  | .tFence t => some { t := t, form := control 0 (opBad 1 0 0) }
  | .tJmp t => some
      { t := t, fin := true,
        form := control 1 (fun t => opBad 0x1FFFFFF 32 0 t || (if (taskBuf t 0).isNone then t.imm != 0 else t.imm.toNat % 4 != 0))
        next := fun s =>
          match taskBuf t 0 with
          | none => some t.pa.toNat
          | some n =>
            match s.jmpTaken t n with
            | .ok _ j => some (if j then t.pa.toNat else s.win.nextAddr s.win.dpc)
            | _ => none }
  | .tCall t => some
      { t := t, fin := true, form := control 0 (opBad 0 32 0)
        next := fun s => if s.win.stack.length < 8 then some t.pa.toNat else none
        eff := fun _ w => { w with stack := w.nextAddr w.dpc :: w.stack } }
  | .tRet t => some
      { t := t, fin := true, form := control 0 (opBad 0 0 0), next := fun s => s.win.stack.head?
        eff := fun _ w => { w with stack := w.stack.tail } }
  | .tSlot t => some
      { t := t, fin := true, form := control 0 (fun t => opBad 0xFF 0 0 t || (decide (63 < immBits t 7 0) && immBits t 7 0 != 0xFF))
        eff := fun _ w => { w with slot := if immBits t 7 0 = 0xFF then none else some (immBits t 7 0) } }
  | .tKern t => some
      { t := t, form := declared true (opBad 0 128 1), blocks := fun s => blockPass s t t.pa.toNat 128 128 launchBad }
  | .tDraw t => some
      { t := t, form := declared true (opBad 0 128 1), blocks := fun s => blockPass s t t.pa.toNat 128 128 passBad }
  | .tCopy t => some
      { t := t, form := declared false (opBad 0 1 64)
        blocks := fun s => blockPass s t t.pa.toNat 128 128 copyBad ∧ declPass s t }
  | .tFill t => some
      { t := t, form := declared false (opBad 0 1 64)
        blocks := fun s => blockPass s t t.pa.toNat 32 32 fillBad ∧ declPass s t }
  | .tFeed t => some
      { t := t, form := effects (fun t => opBad 0x80FFFFFF 1 16 t || decide (4294967296 ≤ t.pa.toNat)) }
  | .tSig t => some
      { t := t, form := effects (fun t => opBad 0x800000FF 8 1 t ||
          (t.imm.getLsbD 31 && (decide (immBits t 7 0 < 8) || decide (63 < immBits t 7 0)))) }
  | .tWait t => some { t := t, form := effects (fun t => opBad 0xFFFFFF03 8 1 t || immBits t 1 0 == 3) }
  | .tColl t => some
      { t := t, form := { effects (opBad 0 1 0) with det := true }
        blocks := fun s => blockPass s t t.pa.toNat 128 128 (collBad false) }
  | .tTbar t => some
      { t := t, form := { effects (opBad 0 1 0) with needs := true }
        blocks := fun s => blockPass s t t.pa.toNat 128 128 (collBad true) ∧ framePending s t
        eff := fun _ w => { w with tbarGone := w.tbarGone.erase (w.dpc, (taskFrame t).getD 0) } }
  | .tFrame t => some
      { t := t, form := { effects (opBad 0 1 0) with needs := true }
        blocks := fun s => blockPass s t t.pa.toNat 48 1 frameTmplBad }
  | .tPresent t => some { t := t, form := { effects (opBad 0 0 0) with needs := true } }
  | .tStream t => some
      { t := t, form := effects (fun t => opBad 0x17F 128 0 t || ((immBits t 8 8 == 1) != (t.pa == 0)))
        blocks := fun s => immBits t 8 8 = 1 ∨ blockPass s t t.pa.toNat 128 128 (streamBad (decide (immBits t 6 0 < 64))) }
  | .tPool t => some
      { t := t, fin := true, form := { cls := .window, bad := opBad 0x3F 32 0 }
        blocks := fun s =>
          (∃ es, s.readPools t.region.toNat t.pa.toNat (immBits t 5 0) 6 0 = .ok s es ∧ badField (poolBad s.win.pools es) = none) ∧
          ∀ c, c < 6 → t.imm.getLsbD c = true → s.poolBusy c = false
        eff := fun s w =>
          match s.readPools t.region.toNat t.pa.toNat (immBits t 5 0) 6 0 with
          | .ok _ es =>
            { w with pools := (List.range 6).map (fun c => match es.getD c none with
                       | some bs => (fieldOf bs 0 8, fieldOf bs 8 4)
                       | none => w.pools.getD c (0, 0))
                     free := (List.range 6).map (fun c => match es.getD c none with
                       | some bs => List.range (fieldOf bs 8 4)
                       | none => w.free.getD c []) }
          | _ => w }
  | .tBuf t => some
      { t := t, fin := true, form := { cls := .window, bad := fun t => opBad 0x7FF 0 0 t || immBits t 7 0 == 255 || decide (5 < immBits t 10 8) }
        eff := fun _ w => { w with cls := KV.put none (immBits t 7 0) (some (immBits t 10 8)) w.cls
                                   map := KV.put none (immBits t 7 0) none w.map
                                   writer := KV.put none (immBits t 7 0) none w.writer } }
  | .tRelease t => some
      { t := t, fin := true, form := { cls := .window, bad := fun t => opBad 0xFF 0 0 t || immBits t 7 0 == 255 }
        eff := fun _ w => { w with map := KV.put none (immBits t 7 0) none w.map
                                   writer := KV.put none (immBits t 7 0) none w.writer } }
  | .tMap t => some
      { t := t, form := effects (opBad 0 1 0)
        blocks := fun s => s.rootOf t.region.toNat ≠ 0 ∧
          ∃ bs, s.blockAt t.region.toNat t.pa.toNat 64 64 = .ok s bs ∧ badField ((mapBlock bs).bad bs) = none }
  | .tBvh t => some
      { t := t, form := effects (fun t => opBad 3 1 1 t || immBits t 1 0 == 3)
        blocks := fun s => t.pa.toNat % 128 = 0 ∧ blockPass s t t.pb.toNat 64 64 bvhBad }
  | _ => none

/-- The checks of R276 and R278 that every task passes before its blocks are read. -/
structure Checked (s : State) (t : TaskRec) (f : TaskForm) : Prop where
  decoding : s.win.canDecode = true
  readable : s.bad.contains (s.win.dpc / 64 * 64) = false
  there    : physOk s.win.dpc = true
  legal    : f.detail t = none
  region   : (s.region? t.region.toNat).isSome = true

/-- The checks that come after the blocks: the slot's mask, the frame, and the buffers' renaming (R258, R276, R286, R292). -/
structure Bindable (s : State) (t : TaskRec) (f : TaskForm) : Prop where
  slot    : ∀ n, s.boundSlot f t = some n → (((s.eff t.region.toNat).map Region.almMask).getD 0).getLsbD n = true
  frame   : s.frameBad t = none
  buffers : f.bufs = 4 → ∀ e : Entry, e.task = t → e.seq = s.win.decoded → e.ctx.region = t.region.toNat →
    ∃ s2 e2, s.rename f e = .ok s2 e2

/-- Task t entered as entry e without a fault, and decode goes on at `next`. -/
structure Entered (s s' : State) (t : TaskRec) (e : Entry) (fin : Bool) (next : Nat) : Prop where
  entries : s'.win.entries = s.win.entries ++ [e]
  task    : e.task = t
  seq     : e.seq = s.win.decoded
  addr    : e.addr = s.win.dpc
  region  : e.ctx.region = t.region.toNat
  frame   : e.ctx.frame = taskFrame t
  sound   : e.fault = none ∧ e.sound = true ∧ e.done = fin
  deps    : ∀ x ∈ s.win.entries, x.done = false → isControl x.task.opcode = false → isControl t.opcode = false →
    dependsOn x e = true → x.seq ∈ e.deps
  dpc     : s'.win.dpc = next
  decoded : s'.win.decoded = s.win.decoded + 1
  teams   : s'.teams = s.teams
  memory  : taskFrame t = none → s'.mem = s.mem

/-- Task t entered with a task fault, and decode stopped after it (R276). -/
def FaultEntered (s s' : State) (t : TaskRec) (code info : Nat) : Prop :=
  (∃ e : Entry, s'.win.entries = s.win.entries ++ [e] ∧ e.task = t ∧ e.seq = s.win.decoded ∧ e.addr = s.win.dpc ∧
    e.fault = some (code, BitVec.ofNat 32 info) ∧ e.done = true) ∧
  s'.win.stopped = true ∧ s'.win.decoded = s.win.decoded + 1 ∧ s'.mem = s.mem ∧ s'.teams = s.teams

end Sys2Proof.Spec

/-- Every task instruction that passes the checks of decode enters the window (R276): its entry follows the others with the
next sequence number, its older tasks' dependences (R298), its frame and region; decode goes on at the next record, or where
t.jmp, t.call and t.ret say (R285); t.halt stops decode; control and window tasks complete at once, and change the call
stack, the slot, the pools and the logical buffers as R285 to R291 say. A task that names no buffers changes nothing else
of the window, and one without a frame no byte of memory. -/
def Obligations.TaskDecodes : Prop :=
  ∀ (i : Instr) (r : TaskLaw) (s : State) (next : Nat), taskLaw i = some r → Checked s r.t r.form → r.blocks s →
    Bindable s r.t r.form → r.next s = some next →
    ∃ (s' : State) (e : Entry), exec i s = .next s' ∧ Entered s s' r.t e r.fin next ∧
      ((r.form.bufs ≠ 4 ∨ ∀ k, k < 4 → taskBuf r.t k = none) →
        s'.win = { r.eff s s.win with entries := s.win.entries ++ [e], decoded := s.win.decoded + 1, dpc := next, stalls := 0 })

/-- A write slot of BUFS that no read slot names takes the first free physical buffer of its buffer's class, is mapped to
it with this task as its writer, and hands the one it was mapped to on to be freed at retirement; a buffer that a read
slot names and a write slot names too stays where it is (R292). -/
def Sys2Proof.Spec.TaskBuffers : Prop :=
  (∀ (s : State) (e : Entry) (k n c p : Nat) (rest : List Nat), taskBuf e.task k = some n → s.win.clsOf n = some c →
    taskBuf e.task 0 ≠ some n → taskBuf e.task 1 ≠ some n → s.win.free.getD c [] = p :: rest → c < s.win.free.length →
    s.poolRefuses e.ctx.region c = none →
    ∃ (s' : State) (e' : Entry), s.renameWrite e k = .ok s' e' ∧ s'.win.mapOf n = some (c * 4096 + p) ∧
      s'.win.writerOf n = some e.seq ∧ s'.win.free.getD c [] = rest ∧ e'.taken = e.taken ++ [(c, p)] ∧
      (∀ q, s.win.mapOf n = some q → (q / 4096, q % 4096) ∈ e'.frees) ∧
      (∀ m, m ≠ n → s'.win.mapOf m = s.win.mapOf m ∧ s'.win.writerOf m = s.win.writerOf m)) ∧
  (∀ (s : State) (e : Entry) (k n c : Nat), taskBuf e.task k = some n → s.win.clsOf n = some c →
    (taskBuf e.task 0 = some n ∨ taskBuf e.task 1 = some n) →
    ∃ (s' : State) (e' : Entry), s.renameWrite e k = .ok s' e' ∧ s'.win.map = s.win.map ∧ s'.win.free = s.win.free ∧
      s'.win.writerOf n = some e.seq ∧ e'.taken = e.taken ∧ e'.frees = e.frees)

/-- Where a task faults at decode (R276, R278, R279, R285, R304): a record that cannot be read, for a bad block or an address
that reaches nothing (the model's reading of R431, log entry 155), an illegal record with
its detail, a region that is not installed, a block that is not aligned, a full or an empty call stack, a slot outside the
region's mask, a frame that is DONE, or SEALED for a task other than t.tbar (R258; t.frame is asked neither). The task is entered with its fault and decode stops. -/
def Obligations.TaskFaults : Prop :=
  (∀ (i : Instr) (r : TaskLaw) (s : State), taskLaw i = some r → s.win.canDecode = true →
    (s.bad.contains (s.win.dpc / 64 * 64) = true → ∃ s', exec i s = .next s' ∧ FaultEntered s s' r.t 19 0) ∧
    (s.bad.contains (s.win.dpc / 64 * 64) = false → physOk s.win.dpc = false → ∃ s', exec i s = .next s' ∧ FaultEntered s s' r.t 9 1) ∧
    (s.bad.contains (s.win.dpc / 64 * 64) = false → physOk s.win.dpc = true →
      (∀ d, r.form.detail r.t = some d → ∃ s', exec i s = .next s' ∧ FaultEntered s s' r.t 1 d) ∧
      (r.form.detail r.t = none →
        (s.region? r.t.region.toNat = none → ∃ s', exec i s = .next s' ∧ FaultEntered s s' r.t 4 r.t.region.toNat) ∧
        ((s.region? r.t.region.toNat).isSome = true →
          (r.blocks s → ∀ n, s.boundSlot r.form r.t = some n →
            (((s.eff r.t.region.toNat).map Region.almMask).getD 0).getLsbD n = false →
            ∃ s', exec i s = .next s' ∧ FaultEntered s s' r.t 8 n) ∧
          (r.blocks s → ∀ f, taskFrame r.t = some f → r.t.opcode ≠ 0x20 →
            (s.frameCtl f / 512 % 2 = 1 ∨ (s.frameCtl f / 256 % 2 = 1 ∧ r.t.opcode ≠ 0x16)) →
            (∀ n, s.boundSlot r.form r.t = some n → (((s.eff r.t.region.toNat).map Region.almMask).getD 0).getLsbD n = true) →
            ∃ s', exec i s = .next s' ∧ FaultEntered s s' r.t 7 f))))) ∧
  (∀ (s : State) (t : TaskRec), s.win.canDecode = true → s.bad.contains (s.win.dpc / 64 * 64) = false → physOk s.win.dpc = true →
    ∃ s', exec (.reservedTaskOpcode t) s = .next s' ∧ FaultEntered s s' t 1 1) ∧
  (∀ (s : State) (t : TaskRec) (i : Instr) (r : TaskLaw), taskLaw i = some r → r.t = t → Checked s t r.form →
    ((i = .tCopy t ∨ i = .tColl t ∨ i = .tTbar t) → t.pa.toNat % 128 ≠ 0 → ∃ s', exec i s = .next s' ∧ FaultEntered s s' t 9 0) ∧
    (i = .tFill t → t.pa.toNat % 32 ≠ 0 → ∃ s', exec i s = .next s' ∧ FaultEntered s s' t 9 0) ∧
    (i = .tMap t → s.rootOf t.region.toNat ≠ 0 → t.pa.toNat % 64 ≠ 0 → ∃ s', exec i s = .next s' ∧ FaultEntered s s' t 9 0) ∧
    (i = .tMap t → s.rootOf t.region.toNat = 0 → ∃ s', exec i s = .next s' ∧ FaultEntered s s' t 10 0) ∧
    (i = .tBvh t → (t.pa.toNat % 128 ≠ 0 ∨ t.pb.toNat % 64 ≠ 0) → ∃ s', exec i s = .next s' ∧ FaultEntered s s' t 9 0) ∧
    (i = .tCall t → taskOf t = i → 8 ≤ s.win.stack.length → ∃ s', exec i s = .next s' ∧ FaultEntered s s' t 11 s.win.stack.length) ∧
    (i = .tRet t → taskOf t = i → s.win.stack = [] → ∃ s', exec i s = .next s' ∧ FaultEntered s s' t 11 0))

/-! ## The window's moves, and the stream -/

namespace Sys2Proof.Spec

/-- Memory after the writes ws: every byte written takes the last value written to it, and every other one stays. -/
def Stored (s s' : State) (ws : List (Nat × Byte)) : Prop := ∀ a, s'.rdNew a = lastByte a ws (s.rdNew a)

/-- Task seq completes with a fault or without one (R302): it takes the time, a marked task MEMORY_ERROR and a killed one
DOMAIN_KILLED; the others lose their dependences on it; nothing else of the window changes, and no memory or register. -/
def Completed (s s' : State) (seq : Nat) (fault : Option (Nat × Nat)) : Prop :=
  s'.win = { s.win with entries := s.win.entries.map (fun x =>
    if x.seq = seq then
      (if x.done then x else
        { x with done := true, tdone := s.ptime,
                 fault := if x.marked then some (19, 0)
                          else if x.killed then some (18, BitVec.ofNat 32 (s.fdomOf x.task.region.toNat))
                          else fault.map (fun p => (p.1, BitVec.ofNat 32 p.2)) })
    else { x with deps := x.deps.filter (fun d => d != seq) }) } ∧
  s'.mem = s.mem ∧ s'.teams = s.teams

/-- Opcodes whose issue starts nothing but the task itself: t.fence, t.copy, t.fill, t.feed and t.wait. -/
def plainIssue (op : Byte) : Bool := [0x02, 0x12, 0x13, 0x14, 0x39].contains op.toNat

/-- A move without operands, and a move with operands a. -/
def At (s : State) (a : Arg) : State := { s with arg := a }

end Sys2Proof.Spec

/-- TASK_ISSUE takes the ready task with the earliest deadline, then the lowest sequence number, those without a deadline last
(R301): nothing where none is ready; the first of them issues, with its launch time. A t.sig writes its doubleword when it
issues and completes; a t.kern whose descriptor passes starts its grid, and one whose descriptor fails completes with
BAD_LAUNCH (R280, R287). Where the task's frame is past its deadline, the frame's own move comes first (R258), of which
nothing is said here. -/
def Sys2Proof.Spec.TaskIssueMoves : Prop :=
  (∀ s : State, s.readyTasks = [] → exec .taskIssue s = .next s) ∧
  (∀ (s : State) (e : Entry) (rest : List Entry), s.readyTasks = e :: rest →
    e ∈ s.win.entries ∧ s.taskReady e = true ∧ ∀ x ∈ s.win.entries, s.taskReady x = true → lexLt x.issueKey e.issueKey = false) ∧
  (∀ (s : State) (e : Entry) (rest : List Entry), s.readyTasks = e :: rest → plainIssue e.task.opcode = true →
    (∀ n, e.ctx.frame = some n → s.ptime ≤ s.frameDl n) →
    ∃ s', exec .taskIssue s = .next s' ∧ s'.teams = s.teams ∧ (e.ctx.frame = none → s'.mem = s.mem) ∧
      s'.win = { s.win with entries := s.win.entries.map (fun x =>
        if x.seq = e.seq then { x with issued := true, issuedAt := s.now, ctx := { x.ctx with launch := s.ptime, issueSer := s.nextSer, issuePubs := s.publs.length } } else x) }) ∧
  (∀ (s : State) (e : Entry) (rest : List Entry) (pa : Nat), s.readyTasks = e :: rest → e.task.opcode = 0x38 → e.ctx.frame = none →
    s.tr e.ctx e.task.pa.toNat .write = .ok pa →
    ∃ s', exec .taskIssue s = .next s' ∧ Stored s s' (atLoc (locPhys pa) (dwordBytes e.task.pb)) ∧ s'.teams = s.teams ∧
      (e.task.imm.getLsbD 31 = true → s'.irqs = s.irqs ++ [immBits e.task 7 0]) ∧
      ∀ x ∈ s'.win.entries, x.seq = e.seq → x.done = true) ∧
  (∀ (s : State) (e : Entry) (rest : List Entry) (d : KDesc) (ok : Bool), s.readyTasks = e :: rest → e.task.opcode = 0x10 →
    s.taskDesc e.ctx (fieldOf e.block 0 8) = .ok d ok → (∀ n, e.ctx.frame = some n → s.ptime ≤ s.frameDl n) →
    let gx := fieldOf e.block 8 4
    let gy := fieldOf e.block 0xC 2
    let gz := fieldOf e.block 0xE 2
    let c := s.coreBudget e.ctx.region
    let good : Prop := ok = true ∧ d.kind = 0 ∧ dimsOk d gx gy gz = true ∧ waveSizeOf d c ≠ 0 ∧
      (e.ctx.det = true → windowOf d c ≠ 0 ∧ d.persist = false)
    ∃ s', exec .taskIssue s = .next s' ∧
      (good → ∃ g : Grid, s'.grids = s.grids ++ [g] ∧ g.desc = d ∧ g.gx = gx ∧ g.gy = gy ∧ g.gz = gz ∧ g.args = e.task.pb.toNat ∧
        g.task.seq = e.ctx.seq ∧ g.task.region = e.ctx.region) ∧
      (¬ good → s'.grids = s.grids ∧ ∀ x ∈ s'.win.entries, x.seq = e.seq → x.done = true))

/-- TASK_COMPLETION completes a task whose work is done, and nothing else (R279, R302, R329): a t.fence once no older task
is left, with SYS after a release at system scope; a t.kern or t.draw once its grids and pass have ended. T_WAIT_POLL
completes a t.wait whose doubleword passes the test of IMM[1:0] (0 at least, 1 equal, 2 not equal), and WAIT_TIMEOUT one
whose time in microseconds has run, with WAIT_TIMEOUT (R287); one whose doubleword, or a table entry on the way to it, is
bad completes with MEMORY_ERROR (R302). -/
def Sys2Proof.Spec.TaskCompletionMoves : Prop :=
  (∀ (s : State) (e : Entry), s.entry? e.seq = some e → (e.issued = false ∨ e.done = true) →
    exec .taskCompletion (At s (.idx e.seq)) = .next (At s (.idx e.seq)) ∧ exec .tWaitPoll (At s (.idx e.seq)) = .next (At s (.idx e.seq)) ∧
    exec .waitTimeout (At s (.idx e.seq)) = .next (At s (.idx e.seq))) ∧
  (∀ (s : State) (e : Entry), s.entry? e.seq = some e → e.issued = true → e.done = false →
    (e.task.opcode = 0x02 →
      ((∀ x ∈ s.win.entries, ¬ x.seq < e.seq) → ∃ s', exec .taskCompletion (At s (.idx e.seq)) = .next s' ∧ Completed s s' e.seq none ∧
        (e.task.imm.getLsbD 0 = true → ∀ w ∈ s.issueView,
          ∃ p ∈ s'.publs, p.scope = .system ∧ p.party = .unit ∧ p.loc = w.1 ∧ p.ser = w.2)) ∧
      ((∃ x ∈ s.win.entries, x.seq < e.seq) → exec .taskCompletion (At s (.idx e.seq)) = .next (At s (.idx e.seq)))) ∧
    ((e.task.opcode = 0x10 ∨ e.task.opcode = 0x11) → e.grid.bind s.grid? = none →
      (∀ g ∈ s.grids, e.grid ≠ some g.root) → (∀ p ∈ s.passes, e.pass ≠ some p.id) →
      ∃ s', exec .taskCompletion (At s (.idx e.seq)) = .next s' ∧ Completed s s' e.seq none) ∧
    (e.task.opcode = 0x39 →
      (∀ l, s.taskAt { e.ctx with pure := false } e.task.pa.toNat .read = .loc l → s.bad.contains (l / 64 * 64) = false →
        let x := s.rdUnitNat .system l 8
        let y := e.task.pb.toNat
        let holds : Prop := if immBits e.task 1 0 = 0 then y ≤ x else if immBits e.task 1 0 = 1 then x = y else x ≠ y
        ∃ s', exec .tWaitPoll (At s (.idx e.seq)) = .next s' ∧
          (holds → Completed s s' e.seq none) ∧ (¬ holds → s'.win = s.win ∧ s'.mem = s.mem ∧ s'.teams = s.teams)) ∧
      (∀ l, (s.taskAt { e.ctx with pure := false } e.task.pa.toNat .read = .err l ∨
          (s.taskAt { e.ctx with pure := false } e.task.pa.toNat .read = .loc l ∧ s.bad.contains (l / 64 * 64) = true)) →
        ∃ s', exec .tWaitPoll (At s (.idx e.seq)) = .next s' ∧
          ∃ x, s'.entry? e.seq = some x ∧ x.done = true ∧ x.fault = some (19, 0)) ∧
      (let us := e.task.imm.toNat / 256
       if us = 0 ∨ s.now < e.issuedAt + 1000 * us then exec .waitTimeout (At s (.idx e.seq)) = .next (At s (.idx e.seq))
       else ∃ s', exec .waitTimeout (At s (.idx e.seq)) = .next s' ∧ Completed s s' e.seq (some (15, 0)))))

/-- TASK_RETIREMENT retires the head task once it has completed (R302): the entry leaves, RETIRED counts it, its completion
record is written where it names one (R284), the buffers it held for freeing go back to their lists; a t.halt leaves the stream
HALTED after its record with its IMM as information and raises vector 0. A head that has not completed stays, and one whose
fault domain is being killed waits for the kill to end (R419, R452). -/
def Sys2Proof.Spec.TaskRetires : Prop :=
  (∀ s : State, (∀ e, s.win.entries.head? = some e → e.done = false ∨ ∃ x ∈ s.rcv.kills, x.1 = s.fdomOf e.ctx.region) →
    exec .taskRetirement s = .next s) ∧
  (∀ (s : State) (e : Entry) (rest : List Entry), s.win.entries = e :: rest → e.done = true → e.fault = none →
    (∀ x ∈ s.rcv.kills, x.1 ≠ s.fdomOf e.ctx.region) →
    ((e.recAddr = 0 ∨ (inAperture e.recAddr = false ∧ ∃ pa, s.trRegion e.ctx.region e.recAddr .write = .ok pa)) →
    ∃ s', exec .taskRetirement s = .next s' ∧ s'.win.retired = s.win.retired + 1 ∧
      s'.win.entries = rest.filter (fun x => x.seq != e.seq) ∧ s'.teams = s.teams ∧
      (e.frees = [] → s'.win.free = s.win.free) ∧
      (∀ p, e.frees = [p] → p.1 < s.win.free.length → s'.win.free.getD p.1 [] = p.2 :: s.win.free.getD p.1 []) ∧
      (e.recAddr = 0 → e.ctx.frame = none → s'.mem = s.mem) ∧
      (∀ pa, e.recAddr ≠ 0 → s.trRegion e.ctx.region e.recAddr .write = .ok pa → e.ctx.frame = none →
        Stored s s' (atLoc (locPhys pa) e.record)) ∧
      (if e.task.opcode = 1 then
        s'.win.st = .halted ∧ s'.win.dpc = s.win.nextAddr e.addr ∧ s'.win.finfo = e.task.imm ∧ s'.win.fault = 0 ∧ s'.irqs = s.irqs ++ [0]
       else s'.win.st = s.win.st ∧ s'.win.dpc = s.win.dpc ∧ s'.irqs = s.irqs)))

/-- The task fault of the head task is precise (R303): the stream is FAULTED with the fault's code and information, the decode
address is that of the faulting record, no younger task is left in the window, and vector 0 is raised; while the task's fault
domain is being killed, the report waits (R419). -/
def Sys2Proof.Spec.PreciseFault : Prop :=
  ∀ (s : State) (e : Entry) (rest : List Entry) (code : Nat) (info : Word), s.win.entries = e :: rest → e.done = true →
    e.fault = some (code, info) → (∀ x ∈ s.rcv.kills, x.1 ≠ s.fdomOf e.ctx.region) →
    ∃ s', exec .taskRetirement s = .next s' ∧ s'.win.st = .faulted ∧ s'.win.dpc = e.addr ∧ s'.win.fault = code ∧ s'.win.finfo = info ∧
      s'.win.retired = s.win.retired ∧ (∀ x ∈ s'.win.entries, x.seq < e.seq) ∧ s'.irqs = s.irqs ++ [0]

/-- The stream's control (R273 to R275): the doorbell moves the tail below the ring's size only; ENABLE starts an IDLE
stream with an empty window, nothing bound and its counts at 0, and takes a DRAINING one back; ENABLE 0 drains a RUNNING
one; RESUME and ABORT act on a stream that is HALTED or FAULTED, ABORT before RESUME; a drained stream is IDLE and keeps its
bindings. In recovery mode none of the writes has an effect (R404). -/
def Obligations.StreamControl : Prop :=
  (∀ (s : State) (v : Word), s.recovering = false →
    let n := v.toNat % 1048576
    exec .doorbell (At s (.word v)) = .next (if n < 2 ^ s.win.log2 then { At s (.word v) with win := { s.win with tail := n } } else At s (.word v))) ∧
  (∀ (s : State) (v : Word), s.recovering = false → v.toNat % 8 = 1 →
    (s.win.st = .idle → ∃ s', exec .streamEnable (At s (.word v)) = .next s' ∧ s'.win.st = .running ∧ s'.win.enable = true ∧
      s'.win.entries = [] ∧ s'.win.stack = [] ∧ s'.win.slot = none ∧ s'.win.decoded = 0 ∧ s'.win.retired = 0 ∧ s'.win.stopped = false ∧
      s'.win.dpc = s.win.dpc ∧ s'.win.tail = s.win.tail ∧ s'.win.epoch = (s.win.epoch + 1) % 4294967296 ∧ s'.mem = s.mem ∧
      ∀ n, s'.win.mapOf n = none ∧ s'.win.clsOf n = none) ∧
    (s.win.st = .draining → ∃ s', exec .streamEnable (At s (.word v)) = .next s' ∧ s'.win.st = .running ∧
      s'.win.entries = s.win.entries ∧ s'.win.dpc = s.win.dpc) ∧
    (s.win.st = .running → exec .streamEnable (At s (.word v)) = .next { At s (.word v) with win := { s.win with enable := true } })) ∧
  (∀ (s : State) (v : Word), s.recovering = false → v.toNat % 8 = 0 →
    (s.win.st = .running → ∃ s', exec .streamDisable (At s (.word v)) = .next s' ∧ s'.win.st = .draining ∧ s'.win.enable = false ∧
      s'.win.entries = s.win.entries ∧ s'.win.dpc = s.win.dpc ∧ s'.win.map = s.win.map) ∧
    (s.win.st ≠ .running → exec .streamDisable (At s (.word v)) = .next { At s (.word v) with win := { s.win with enable := false } })) ∧
  (∀ (s : State) (v : Word), s.recovering = false → (s.win.st = .halted ∨ s.win.st = .faulted) → v.getLsbD 1 = true → v.getLsbD 2 = false →
    ∃ s', exec .streamResume (At s (.word v)) = .next s' ∧ s'.win.st = .running ∧ s'.win.enable = true ∧ s'.win.decoded = s.win.retired ∧
      s'.win.stopped = false ∧ s'.win.dpc = s.win.dpc ∧ s'.win.map = s.win.map ∧ s'.win.fault = 0) ∧
  (∀ (s : State) (v : Word), s.recovering = false → (s.win.st = .halted ∨ s.win.st = .faulted) → v.getLsbD 2 = true →
    ∃ s', exec .streamAbort (At s (.word v)) = .next s' ∧ s'.win.st = .idle ∧ s'.win.enable = false ∧ s'.win.dpc = s.win.dpc ∧
      ∀ n, s'.win.mapOf n = none) ∧
  (∀ s : State, s.win.st = .draining → s.win.entries = [] →
    ∃ s', exec .streamDrained s = .next s' ∧ s'.win.st = .idle ∧ s'.win.map = s.win.map ∧ s'.win.enable = s.win.enable) ∧
  (∀ s : State, ¬ (s.win.st = .draining ∧ s.win.entries = []) → exec .streamDrained s = .next s) ∧
  (∀ (s : State) (v : Word) (i : Instr), s.recovering = true → i ∈ [.doorbell, .streamEnable, .streamDisable, .streamResume, .streamAbort] →
    exec i (At s (.word v)) = .next (At s (.word v)))

/-! ## Registers, regions, and the host's accesses -/

namespace Sys2Proof.Spec

/-- What a write of n bytes to a register does (R5, R32, R255, R256, R274, R317, R390, R398, R406, R411, R413, R416, R423, R434,
R437): the registers whose write changes their field and nothing else, and read-only ones. -/
def regLaw (s : State) (o n : Nat) (v : DWord) : Option State :=
  let lo (m : Nat) : DWord := v / BitVec.ofNat 64 (2 ^ m) * BitVec.ofNat 64 (2 ^ m)
  let hi : Word := v.extractLsb' 32 32
  let going : Bool := s.win.st == .running || s.win.st == .draining
  let media : Bool := s.openFrames != [] || s.streams != []
  match o, n with
  | 0x0100, 8 => some { s with regionBase := lo 12 }
  | 0x0200, 8 => some (if media then s else { s with frameBase := lo 12 })
  | 0x0208, 8 => some (if media then s else { s with streamBase := lo 12 })
  | 0x0300, 8 => some (if going then s else { s with win := { s.win with base := (lo 12).toNat } })
  | 0x0308, 8 => some (if going then s else { s with win := { s.win with dpc := (lo 5).toNat } })
  | 0x0310, 4 => some (if going ∨ v.toNat % 32 < 6 ∨ 20 < v.toNat % 32 then s else { s with win := { s.win with log2 := v.toNat % 32 } })
  | 0x0400, 8 => some { s with alm := { s.alm with epoch := v } }
  | 0x0408, 4 => some (if 1000 ≤ v.toNat % 2 ^ 30 ∧ v.toNat % 2 ^ 30 ≤ 1000000000 then { s with alm := { s.alm with cycle := v.toNat % 2 ^ 30 } } else s)
  | 0x040C, 4 => some (if v.getLsbD 6 then { s with alm := { s.alm with bad := false } } else s)
  | 0x0500, 8 => some { s with fq := { s.fq with base := lo 17 } }
  | 0x0508, 8 => some { s with fq := { s.fq with head := hi } }
  | 0x0510, 8 => some { s with fq := { s.fq with next := lo 12 } }
  | 0x0518, 8 => some { s with fq := { s.fq with lim := lo 12 } }
  | 0x1000, 8 => some { s with rcv := { s.rcv with logTable := lo 21 } }
  | 0x1018, 8 => some { s with rcv := { s.rcv with haltBase := lo 16 } }
  | 0x1020, 8 => some { s with rcv := { s.rcv with haltHead := hi } }
  | 0x1034, 4 => some { s with rcv := { s.rcv with pageTo := v.toNat % 65536 } }
  | 0x4020, 4 => some (if s.colls.any (fun c => c.live) then s else { s with linkCard := v.extractLsb' 0 16 })
  | 0x4028, 8 => some { s with grpBase := lo 18 }
  | 0x0008, 8 | 0x0220, 8 | 0x0320, 8 | 0x0328, 8 | 0x1010, 8 => some s
  | 0x0000, 4 | 0x0214, 4 | 0x0218, 4 | 0x031C, 4 | 0x0330, 4 | 0x1044, 4 | 0x4004, 4 | 0x4024, 4 => some s
  | _, _ => none

/-- The offsets of the registers of R404, which answer in recovery mode. -/
def trustOff (o : Nat) : Bool := [0x0000, 0x0008, 0x000C, 0x0600, 0x0608, 0x060C].contains o || (decide (0x5000 ≤ o) && decide (o < 0x5200))

end Sys2Proof.Spec

/-- Writes of the register window reach the field their register gives and nothing else: reserved low bits read 0, values
outside their range and writes in a state that forbids them are ignored, read-only registers keep their values (R5, R256,
R274, R317, R437); the two granules that XOWN fixes keep their owners and any other takes the one written (R390); in
recovery mode only the registers of R404 take writes. -/
def Sys2Proof.Spec.RegisterWrites : Prop :=
  (∀ (s t : State) (off : BitVec 24) (n : Nat) (v : DWord), s.recovering = false → regLaw (At s (.regWrite off n v)) off.toNat n v = some t →
    exec .registerWrite (At s (.regWrite off n v)) = .next t) ∧
  (∀ (s : State) (g : Nat) (v : DWord) (off : BitVec 24), s.recovering = false → g < 1024 → off.toNat = 0x2000 + 2 * g →
    ∃ t, exec .registerWrite (At s (.regWrite off 2 v)) = .next t ∧
      t.xownOf g = (if (960 ≤ g ∧ g < 992) ∨ 1022 ≤ g then s.xownOf g else v.toNat % 65536) ∧ ∀ h, h ≠ g → t.xownOf h = s.xownOf h) ∧
  (∀ (s : State) (off : BitVec 24) (n : Nat) (v : DWord), s.recovering = true → trustOff off.toNat = false →
    exec .registerWrite (At s (.regWrite off n v)) = .next (At s (.regWrite off n v)))

/-- A write of REGION_SYNC starts the synchronisation of its region unless one runs; reserved bits give FIELD (R32, R33). It
installs the block, or removes the region where VALID is clear, when every check passes, and otherwise leaves the
regions with the number of the first check that fails: FIELD, then PARENT, then DEPTH. That block 0 with a DEPTH above 7 gives
DEPTH is the model's reading (log entry 72), that bits 11 to 5 of TS_BASE read 0 another (log entry 74), and a block that an
error has lost gives FIELD (log entry 173). -/
def Sys2Proof.Spec.RegionSynchronisation : Prop :=
  (∀ (s : State) (v : Word), s.recovering = false →
    exec .regionSync (At s (.word v)) = .next
      (if s.syncBusy then At s (.word v)
       else if v.toNat / 65536 % 4096 ≠ 0 then { At s (.word v) with syncStat := 3 }
       else { At s (.word v) with syncId := v.extractLsb' 0 16, syncBusy := true })) ∧
  (∀ s : State, s.syncBusy = false → exec .regionSyncComplete s = .next s) ∧
  (∀ s : State, s.syncBusy = true → s.syncLost ≠ none → ∃ t, exec .regionSyncComplete s = .next t ∧ t.syncBusy = false ∧
    t.syncStat = 3 ∧ t.regions = s.regions ∧ t.mem = s.mem ∧ t.teams = s.teams) ∧
  (∀ s : State, s.syncBusy = true → s.syncLost = none →
    let id := s.syncId.toNat
    let bs := s.syncBlock
    let b := blockOf bs
    ∃ t, exec .regionSyncComplete s = .next t ∧ t.syncBusy = false ∧ t.mem = s.mem ∧ t.teams = s.teams ∧ t.win = s.win ∧
      (t.syncStat ≠ 0 → t.regions = s.regions) ∧
      (t.syncStat = 0 → (t.region? id = if blockValid bs then some b else none) ∧ ∀ j, j ≠ id → t.region? j = s.region? j) ∧
      (b.id ≠ id ∨ 192 < b.cores ∨ 16 ≤ b.opCeil ∨ 8 ≤ b.prio ∨ 8 ≤ b.dclass ∨ 16 ≤ b.leaf ∨ b.mem % 4096 ≠ 0 ∨ b.root % 4096 ≠ 0 ∨
        (b.quantum ≠ 0 ∧ (b.quantum < 64 ∨ 65536 < b.quantum)) → t.syncStat = 3) ∧
      (blockField id bs = false → blockValid bs = true → id = 0 → 7 < b.depth → t.syncStat = 2) ∧
      (blockField id bs = false → blockValid bs = true → id ≠ 0 →
        (b.parent = id ∨ s.region? b.parent = none → t.syncStat = 1) ∧
        (∀ p, b.parent ≠ id → s.region? b.parent = some p → (7 < b.depth ∨ b.depth ≠ p.depth + 1) → t.syncStat = 2) ∧
        (∀ p, b.parent ≠ id → s.region? b.parent = some p → b.depth ≤ 7 → b.depth = p.depth + 1 →
          (∀ e ∈ s.win.entries, e.ctx.region ≠ id) → t.syncStat = 0)))

/-- The reads that clear: ALM_STATUS answers OVERRUNS, BAD and BADSLOT and clears OVERRUNS; SP_STATUS answers its core's OFFLINE,
FAILED, FAILBANK and CORRECTED and clears CORRECTED (R317, R422). QUIET_CTL takes its enable and cap, and a power limit
from 100 W to 560 W only; with no task running the target is the operating point, or the cap where that is lower (R321,
R438, R439). -/
def Sys2Proof.Spec.StatusReads : Prop :=
  (∀ s : State, s.recovering = false → exec .almStatusRead s = .next
    { s with alm := { s.alm with overruns := 0 }
             out := s.out ++ [.read (wordBytes (BitVec.ofNat 32 (s.alm.overruns.toNat * 65536 + s.alm.bad.toNat * 64 + s.alm.badSlot)))] }) ∧
  (∀ (s : State) (core : Nat), s.recovering = false → s.coreExists core = true →
    let b := s.bankOf core
    ∃ t, exec .spStatusRead (At s (.idx core)) = .next t ∧
      t.out = s.out ++ [.read (wordBytes (BitVec.ofNat 32 (b.offline.toNat * 32768 + b.failed.isSome.toNat * 16384 +
        b.failed.getD 0x3F * 256 + b.corrected)))] ∧
      t.bankOf core = { b with corrected := 0 } ∧ (∀ c, c ≠ core → t.bankOf c = s.bankOf c) ∧ t.mem = s.mem ∧ t.teams = s.teams) ∧
  (∀ (s : State) (v : Word), s.recovering = false →
    let w := v.toNat % 1024
    ∃ t, exec .quietCtlWrite (At s (.word v)) = .next t ∧ t.power.qEnable = v.getLsbD 31 ∧ t.power.opCap = v.toNat / 65536 % 16 ∧
      t.power.limit = (if 100 ≤ w ∧ w ≤ 560 then w else s.power.limit) ∧ t.power.op = s.power.op ∧ t.power.pcap = s.power.pcap ∧
      ((∀ e ∈ s.win.entries, e.issued = false ∨ e.done = true) →
        t.power.target = min s.power.op (min (if v.getLsbD 31 then v.toNat / 65536 % 16 else 15) s.power.pcap)) ∧
      t.mem = s.mem ∧ t.teams = s.teams ∧ t.win = s.win)

/-- The host's accesses of device memory, through the aperture and by CXL.mem alike (R430, R432): a read answers the bytes there
and changes nothing, a write stores its bytes and nothing else, and an access past the end of memory is an unsupported
request without an effect on memory. That CXL.mem is served in recovery mode as otherwise is the model's choice (log entry 123). -/
def Sys2Proof.Spec.HostAccesses : Prop :=
  (∀ (s : State) (off n : Nat) (bs : List Byte), off < Config.memBytes → off + n ≤ Config.memBytes →
    (∀ l ∈ locRange (locPhys off) n, s.bad.contains (l / 64 * 64) = false) →
    (∃ t, exec .apertureRead (At s (.aperture off n bs)) = .next t ∧ t.out = s.out ++ [.read ((locRange (locPhys off) n).map s.rdHost)] ∧
      t.mem = s.mem ∧ t.teams = s.teams) ∧
    (∃ t, exec .cxlMemAccess (At s (.cxl false off n bs)) = .next t ∧ t.out = s.out ++ [.read ((locRange (locPhys off) n).map s.rdHost)] ∧
      t.mem = s.mem ∧ t.teams = s.teams)) ∧
  (∀ (s : State) (off n : Nat) (bs : List Byte), off < Config.memBytes → off + bs.length ≤ Config.memBytes →
    (∃ t, exec .apertureWrite (At s (.aperture off n bs)) = .next t ∧ Stored s t (atLoc (locPhys off) bs) ∧ t.out = s.out ∧ t.teams = s.teams) ∧
    (∃ t, exec .cxlMemAccess (At s (.cxl true off n bs)) = .next t ∧ Stored s t (atLoc (locPhys off) bs) ∧ t.out = s.out ∧ t.teams = s.teams)) ∧
  (∀ (s : State) (off n : Nat) (bs : List Byte),
    (Config.memBytes < off + n → exec .apertureRead (At s (.aperture off n bs)) =
      .next { At s (.aperture off n bs) with out := s.out ++ [.unsupported] }) ∧
    (Config.memBytes < off + bs.length → exec .apertureWrite (At s (.aperture off n bs)) =
      .next { At s (.aperture off n bs) with out := s.out ++ [.unsupported] }) ∧
    (Config.memBytes < off + n → exec .cxlMemAccess (At s (.cxl false off n bs)) =
      .next { At s (.cxl false off n bs) with out := s.out ++ [.unsupported] }) ∧
    (Config.memBytes < off + bs.length → exec .cxlMemAccess (At s (.cxl true off n bs)) =
      .next { At s (.cxl true off n bs) with out := s.out ++ [.unsupported] }))

/-! ## Reset, trust and attestation -/

/-- The state after reset: what the registers read (those the host firmware sets excepted), an empty window, nothing
resident, the clock at 0 (R5, R32, R252, R255, R274, R317, R390, R404, R406, R411, R423, R428, R434, R438). -/
def Obligations.ResetValues : Prop :=
  (∀ p ∈ [(0x0000, 0x40013000), (0x0008, 0xFFFFFFFF), (0x000C, 0x0000FFFF), (0x0108, 0), (0x0210, 0x7F08), (0x0214, 0), (0x0218, 0), (0x0220, 0), (0x0300, 0), (0x0308, 0), (0x0310, 6), (0x0314, 0), (0x0318, 0),
      (0x031C, 0), (0x0320, 0), (0x0328, 0), (0x0330, 0), (0x0400, 0), (0x0408, 0x3B9ACA00), (0x040C, 0), (0x0508, 0), (0x0600, 0),
      (0x060C, 0), (0x1000, 0), (0x1008, 0x0C), (0x1010, 0), (0x1018, 0), (0x1020, 0), (0x1028, 0), (0x102C, 0), (0x1034, 0), (0x1038, 0),
      (0x1040, 0), (0x1044, 0), (0x2000, 0xFFFFFFFF), (0x2780, 0xFFFEFFFE), (0x27BC, 0xFFFEFFFE), (0x27C0, 0xFFFFFFFF), (0x27FC, 0xFFFEFFFE),
      (0x3000, 0x3F00), (0x32FC, 0x3F00), (0x4000, 0x000F0230), (0x4004, 0x00FF0000), (0x4020, 0), (0x4024, 0), (0x5000, 0), (0x51C0, 0)],
    State.reset.regRead p.1 = BitVec.ofNat 32 p.2) ∧
  State.reset.win.st = .idle ∧ State.reset.win.entries = [] ∧ State.reset.teams = [] ∧ State.reset.grids = [] ∧
  State.reset.ptime = 0 ∧ State.reset.colls = [] ∧ State.reset.streams = [] ∧ State.reset.passes = [] ∧
  State.reset.regions.map Region.id = [0]

/-- The levels of reset (R428, R429). Level 1 ends every team, grid, pass, collective and stream and empties the window, keeps only
region 0, the trust and Almanac registers, and (with no stream and no open frame) every byte of device and host memory.
Level 2, also by a function-level reset, does the same and has the house core boot again, the servo FREERUN and the links
down. Level 3, also by a conventional reset, sets every register to its reset value and keeps host memory alone. The writes
of RESET_CTL have no effect in recovery mode, nor while a reset is in progress; how long that is, that level 1 and 2 keep the EPOCH
count and that level 2 sets HEAD to TAIL are log entry 120's, that device memory reads as at reset after level 3 log entry 4's, that
REGION_BASE and GRP_BASE are then 0 log entry 6's, and that the house SRAM stays at level 2 log entry 158's. -/
def Obligations.Resets : Prop :=
  let ended (t : State) : Prop := t.teams = [] ∧ t.grids = [] ∧ t.waves = [] ∧ t.passes = [] ∧ t.colls = [] ∧ t.streams = [] ∧ t.txs = [] ∧
    t.copies = [] ∧ t.matq = [] ∧ t.gathers = [] ∧ t.stalled = [] ∧ t.win.st = .idle ∧ t.win.entries = [] ∧ t.win.enable = false ∧
    t.alm.latched = [] ∧ t.alm.cycleAt = none ∧ t.rcv.haltHead = 0 ∧ t.rcv.haltTail = 0 ∧ t.rcv.kills = [] ∧ t.rcv.agentHalted = false ∧
    ∀ r ∈ t.regions, r.id = 0
  let keeps (s t : State) : Prop := t.win.epoch = s.win.epoch ∧ t.frameBase = s.frameBase ∧ t.regionBase = s.regionBase ∧
    t.alm.slots = s.alm.slots ∧ t.alm.epoch = s.alm.epoch ∧ t.alm.cycle = s.alm.cycle ∧ t.power.limit = s.power.limit ∧ t.ptime = s.ptime ∧
    t.rcv.logTable = s.rcv.logTable ∧ t.rcv.jrBase = s.rcv.jrBase ∧ s.rcv.jseq ≤ t.rcv.jseq ∧ t.fuses = s.fuses ∧
    (s.streams = [] → s.openFrames = [] → ∀ l, locTag l = 0 → t.rdNew l = s.rdNew l)
  (∀ s : State, s.recovering = false → s.now ≥ s.rcv.resetEnd →
    (∃ t, exec .computeReset s = .next t ∧ ended t ∧ keeps s t ∧ t.trust = s.trust ∧ t.servo = s.servo ∧
      t.fq = s.fq ∧ t.linkUp = s.linkUp) ∧
    (∃ t, exec .houseReset s = .next t ∧ ended t ∧ keeps s t ∧ t.trust.state = 0 ∧ t.servo.st = .freerun ∧ t.linkUp = 0 ∧
      t.trust.meas = List.replicate 8 0 ∧ t.house = { sram := s.house.sram } ∧ t.rcv.paging = false ∧ t.rcv.diverged = false ∧ t.fq.head = t.fq.tail)) ∧
  (∀ s : State, ∃ t, exec .functionLevelReset s = .next t ∧ ended t ∧ keeps s t ∧ t.trust.state = 0 ∧
    t.trust.meas = List.replicate 8 0 ∧ t.servo.st = .freerun ∧ t.linkUp = 0) ∧
  (∀ (s : State) (i : Instr), (i = .conventionalReset ∨ (i = .deviceReset ∧ s.recovering = false ∧ s.now ≥ s.rcv.resetEnd)) →
    ∃ t, exec i s = .next t ∧ t.fuses = s.fuses ∧ t.regions = State.reset.regions ∧ t.win = {} ∧ t.alm = {} ∧ t.power = {} ∧ t.servo = {} ∧ t.fq = {} ∧
      t.rcv = { State.reset.rcv with resetEnd := t.rcv.resetEnd } ∧ s.now ≤ t.rcv.resetEnd ∧ t.xown = State.reset.xown ∧ t.teams = [] ∧ t.grids = [] ∧ t.streams = [] ∧ t.passes = [] ∧ t.colls = [] ∧
      t.ptime = 0 ∧ t.regionBase = 0 ∧ t.grpBase = 0 ∧ t.trust.state = 0 ∧ t.trust.slot = s.trust.slot ∧
      (∀ l, Config.hostBase ≤ l → l < Config.hostEnd → t.rdNew l = s.rdNew l) ∧
      (∀ l, l < Config.memBytes → t.rdNew l = State.reset.rdNew l)) ∧
  (∀ (s : State) (i : Instr), (s.recovering = true ∨ s.now < s.rcv.resetEnd) → (i = .computeReset ∨ i = .houseReset ∨ i = .deviceReset) → exec i s = .next s)

/-! ## Firmware, attestation, management and debug -/

/-- The recovery of firmware (R404): GO starts the verification in RECOVERY only; a staged image that verifies and is written
restarts the house core from it; one that does not verify, or cannot be written, leaves RECOVERY with its reason (WRITE is
7), and the measurements are those of the staged image until that restart, which starts them at zero (R402). Without its magic an image fails with FORMAT (R401). -/
def Sys2Proof.Spec.FirmwareRecovery : Prop :=
  (∀ s : State, (s.trust.state = 2 → ∃ t, exec .recoveryGo s = .next t ∧ t.trust.state = 3 ∧ t.trust.reason = s.trust.reason ∧
      t.irqs = s.irqs ++ [3] ∧ t.mem = s.mem) ∧ (s.trust.state ≠ 2 → exec .recoveryGo s = .next s)) ∧
  (∀ (s : State) (ok : Bool), s.trust.state ≠ 3 → exec .recoveryVerifyDone (At s (.flag ok)) = .next (At s (.flag ok))) ∧
  (∀ (s : State) (ok : Bool), s.trust.state = 3 → ∃ t, exec .recoveryVerifyDone (At s (.flag ok)) = .next t ∧
    t.trust.meas = (if bootReason s.staged = 0 ∧ ok = true then List.replicate 8 0 else bootMeas s.staged) ∧
    (bootReason s.staged = 0 → ok = true → t.trust.slot = s.staged ∧ t.trust.state = 0) ∧
    (bootReason s.staged = 0 → ok = false → t.trust.slot = s.trust.slot ∧ t.trust.state = 2 ∧ t.trust.reason = 7) ∧
    (bootReason s.staged ≠ 0 → t.trust.slot = s.trust.slot ∧ t.trust.state = 2 ∧ t.trust.reason = bootReason s.staged)) ∧
  (∀ img : List Byte, fieldOf img 0 4 ≠ 0x5746394B → bootReason img = 2)

/-- The attestation requests (R403) where the house core runs: negotiation goes in order from GET_VERSION, a step out of order is
answered with UnexpectedRequest, the digests, certificates, challenge and measurements need it done; a challenge's answer
ends in the ECDSA signature over the transcript and uses one HSS signature; no request touches memory or a team. Where it
does not run there is no answer. The layouts are log entry 70's. -/
def Sys2Proof.Spec.Attestation : Prop :=
  let err : OutMsg := .spdm "ERROR" (spdmError 4)
  let quiet (s t : State) : Prop := t.mem = s.mem ∧ t.teams = s.teams ∧ t.win = s.win ∧ t.trust.meas = s.trust.meas
  (∀ (s : State) (i : Instr) (a : Arg), s.houseUp = false →
    (i ∈ [.getVersion, .getCapabilities, .negotiateAlgorithms, .getDigests, .getCertificate, .challenge, .getMeasurements] →
      exec i (At s a) = .next (At s a))) ∧
  (∀ s : State, s.houseUp = true →
    (∃ t m, exec .getVersion s = .next t ∧ t.trust.phase = 1 ∧ t.out = s.out ++ [.spdm "VERSION" m] ∧ quiet s t) ∧
    (if s.trust.phase = 1 then ∃ t m, exec .getCapabilities s = .next t ∧ t.trust.phase = 2 ∧ t.out = s.out ++ [.spdm "CAPABILITIES" m] ∧ quiet s t
     else exec .getCapabilities s = .next { s with out := s.out ++ [err] }) ∧
    (if s.trust.phase = 2 then ∃ t m, exec .negotiateAlgorithms s = .next t ∧ t.trust.phase = 3 ∧ t.out = s.out ++ [.spdm "ALGORITHMS" m] ∧ quiet s t
     else exec .negotiateAlgorithms s = .next { s with out := s.out ++ [err] }) ∧
    (s.trust.phase < 3 → exec .getDigests s = .next { s with out := s.out ++ [err] }) ∧
    (3 ≤ s.trust.phase → ∃ t, exec .getDigests s = .next t ∧ quiet s t ∧ t.trust.phase = s.trust.phase ∧
      t.out = s.out ++ [.spdm "DIGESTS" ([0x13, 0x01, 1, 1] ++ digestBytes (Config.sha384 (Config.certChain 0)))])) ∧
  (∀ (s : State) (slot off n : Nat), s.houseUp = true → 3 ≤ s.trust.phase → off < (Config.certChain slot).length →
    ∃ t m, exec .getCertificate (At s (.certificate slot off n)) = .next t ∧ quiet s t ∧
      t.out = s.out ++ [.spdm "CERTIFICATE" (m ++ ((Config.certChain slot).drop off).take n)]) ∧
  (∀ (s : State) (slot : Nat) (nonce : BitVec 256), s.houseUp = true → 3 ≤ s.trust.phase → Config.certChain slot ≠ [] →
    ∃ t req body, exec .challenge (At s (.challenge slot nonce)) = .next t ∧ quiet s t ∧
      t.out = s.out ++ [.spdm "CHALLENGE_AUTH" (body ++ Config.ecdsaSign (s.trust.msgsA ++ s.trust.msgsB ++ req ++ body))] ∧
      t.trust.hssUsed = min (s.trust.hssUsed + 1) (2 ^ 40)) ∧
  (∀ (s : State) (index : Nat) (nonce : BitVec 256), s.houseUp = true → 3 ≤ s.trust.phase → s.trust.meas.length = 8 → 1 ≤ index → index ≤ 8 →
    (∃ t req body, exec .getMeasurements (At s (.measurements index true nonce)) = .next t ∧ quiet s t ∧
      t.out = s.out ++ [.spdm "MEASUREMENTS" (body ++ Config.ecdsaSign (s.trust.msgsA ++ s.trust.msgsL ++ req ++ body))] ∧
      t.trust.hssUsed = min (s.trust.hssUsed + 1) (2 ^ 40)) ∧
    (∃ t pre post, exec .getMeasurements (At s (.measurements index false nonce)) = .next t ∧ quiet s t ∧
      t.out = s.out ++ [.spdm "MEASUREMENTS" (pre ++ digestBytes (s.trust.meas.getD (index - 1) 0) ++ post)] ∧
      t.trust.hssUsed = s.trust.hssUsed))

/-- Management and debug (R440, R441): PLDM answers the sensors' values where the house core runs and is not acknowledged
where it does not; BYPASS shifts 0 and IDCODE the device's code out of the JTAG port; EXTEST holds the device in its
reset state, where only the moves of the JTAG port and the host's writes of its own memory have an effect and the presentation
clock stands, until TEST_LOGIC_RESET. That PLDM is not acknowledged while the house core boots, and that the temperature and
the boundary cells are free values, are the model's choices (log entry 122). -/
def Obligations.ManagementAndDebug : Prop :=
  (∀ (s : State) (x : Sensor), s.houseUp = false → exec .pldmRequest (At s (.sensor x)) = .next { At s (.sensor x) with out := s.out ++ [.nack] }) ∧
  (∀ s : State, s.houseUp = true →
    (exec .pldmRequest (At s (.sensor .power)) = .next { At s (.sensor .power) with out := s.out ++ [.pldm .power (some s.power.watts)] }) ∧
    (exec .pldmRequest (At s (.sensor .operatingPoint)) =
      .next { At s (.sensor .operatingPoint) with out := s.out ++ [.pldm .operatingPoint (some s.power.op)] }) ∧
    (exec .pldmRequest (At s (.sensor .ptpState)) =
      .next { At s (.sensor .ptpState) with out := s.out ++ [.pldm .ptpState (some (servoCode s.servo.st))] }) ∧
    (∃ t v, exec .pldmRequest (At s (.sensor .temperature)) = .next t ∧ t.out = s.out ++ [.pldm .temperature (some v)] ∧ t.mem = s.mem ∧
      t.teams = s.teams)) ∧
  (∀ s : State,
    exec .bypass s = .next { s with out := s.out ++ [.jtag 0] } ∧
    exec .idcode s = .next { s with out := s.out ++ [.jtag s.idcode] } ∧
    (∃ t v, exec .samplePreload s = .next t ∧ t.out = s.out ++ [.jtag v] ∧ t.mem = s.mem ∧ t.teams = s.teams ∧ t.win = s.win) ∧
    (∃ t, exec .extest s = .next t ∧ t.extest = true ∧ t.teams = [] ∧ t.win = {} ∧ t.regions = State.reset.regions ∧ t.ptime = 0) ∧
    exec .testLogicReset s = .next { s with extest := false }) ∧
  (∀ (s : State) (m : Move) (rest : List Move), s.extest = true → s.inbox = m :: rest →
    (∀ j ∈ [Instr.bypass, .idcode, .samplePreload, .extest, .testLogicReset], ∀ a, m.what ≠ .event j a) →
    (∀ a bs, m.what ≠ .hostWrite a bs) →
    step s = .next ({ s.restamp with inbox := rest }.elapse m.dt) ∧ (({ s.restamp with inbox := rest } : State).elapse m.dt).ptime = s.ptime)

/-! ## Recovery from faults -/

/-- The commands on halted warps (R412, R413): a write starts RESUME, SKIP or KILL on its ID unless one runs; the command ends with
REJECTED for an agent's ID and NOTHALTED where no warp has it; otherwise STATUS is done, RESUME leaves the group where it
halted and SKIP after its bundle; KILL starts the kill of the warp's domain. HALT_DATA writes the item that HALT_ACC
selects. -/
def Sys2Proof.Spec.HaltCommands : Prop :=
  (∀ (s : State) (id : Half) (i : Instr) (op : Nat), s.recovering = false →
    (i = .haltResume ∧ op = 1 ∨ i = .haltSkip ∧ op = 2 ∨ i = .haltKill ∧ op = 3) →
    exec i (At s (.half id)) = .next (if s.rcv.haltBusy then At s (.half id)
      else { At s (.half id) with rcv := { s.rcv with haltId := id, haltOp := op, haltBusy := true } })) ∧
  (∀ s : State, s.rcv.haltBusy = false → exec .haltCommandDone s = .next s) ∧
  (∀ s : State, s.rcv.haltBusy = true →
    (s.rcv.haltId.getLsbD 15 = true → exec .haltCommandDone s = .next { s with rcv := { s.rcv with haltBusy := false, haltStatus := 2 } }) ∧
    (s.rcv.haltId.getLsbD 15 = false → s.haltedWarp s.rcv.haltId = none →
      exec .haltCommandDone s = .next { s with rcv := { s.rcv with haltBusy := false, haltStatus := 1 } }) ∧
    (∀ (t : Team) (w : Warp) (h : Halt), s.rcv.haltId.getLsbD 15 = false → s.haltedWarp s.rcv.haltId = some (t, w) →
      s.warp? t.id w.idx = some w → w.halt = some h →
      (s.rcv.haltOp = 3 → ∃ u, exec .haltCommandDone s = .next u ∧ u.rcv.haltBusy = false ∧ u.rcv.haltStatus = 0 ∧
        ∃ k ∈ u.rcv.kills, k.1 = s.fdomOf (s.ctxOf t).region) ∧
      ((s.rcv.haltOp = 1 ∨ s.rcv.haltOp = 2) → (∀ l, (w.thr l).live = true → (w.thr l).pc.getLsbD 0 = false) → h.boundary = false →
        h.cause ≠ 14 → ∃ u w', exec .haltCommandDone s = .next u ∧ u.rcv.haltBusy = false ∧ u.rcv.haltStatus = 0 ∧
          u.warp? t.id w.idx = some w' ∧ w'.halt = none ∧ u.mem = s.mem ∧
          ∀ l ∈ h.group, l < w.threads.length → (w.thr l).pc = h.pc →
            (w'.thr l).pc = if s.rcv.haltOp = 2 then h.pc + BitVec.ofNat 64 (2 * h.words.length) else h.pc))) ∧
  (∀ (s : State) (v : Word), s.recovering = false → s.haltedWarp s.rcv.haltId = none →
    exec .haltDataWrite (At s (.word v)) = .next (At s (.word v))) ∧
  (∀ (s : State) (v : Word) (t : Team) (w : Warp), s.recovering = false → s.haltedWarp s.rcv.haltId = some (t, w) →
    s.warp? t.id w.idx = some w →
    let acc := s.rcv.haltAcc
    let l := acc.toNat / 65536 % 64
    let r := acc.toNat % 64
    ∃ u w', exec .haltDataWrite (At s (.word v)) = .next u ∧ u.mem = s.mem ∧ u.warp? t.id w.idx = some w' ∧
      (acc.toNat / 2 ^ 28 = 0 → (w.thr l).live = true → r < t.desc.vregs → l < w.threads.length →
        (w'.thr l).rv r = v ∧ (∀ q, q ≠ r → (w'.thr l).rv q = (w.thr l).rv q) ∧ (∀ m, m ≠ l → w'.thr m = w.thr m)) ∧
      (acc.toNat / 2 ^ 28 = 1 → w'.rk r = v ∧ w'.threads = w.threads ∧ ∀ q, q ≠ r → w'.rk q = w.rk q) ∧
      (acc.toNat / 2 ^ 28 = 2 → (w.thr l).live = true → l < w.threads.length → (w'.thr l).p = v.extractLsb' 0 7) ∧
      (acc.toNat / 2 ^ 28 = 4 → w'.mode = v &&& modeMask ∧ w'.threads = w.threads) ∧
      (5 ≤ acc.toNat / 2 ^ 28 → w' = w))

/-- A kill of a fault domain (R419): FD_KILL is ignored while one is in progress; else it stops every grid and team of the
domain, completes its tasks, and stays in progress until KILL_COMPLETE, which waits for the domain's entries of the fault queue
where the paging service runs, then writes its KILL record with the number of tasks (or counts it lost). No grid of another domain
ends. That the write does all of this at once is the model's reading (log entry 128). -/
def Sys2Proof.Spec.Kills : Prop :=
  (∀ (s : State) (v : Word), s.recovering = false → s.rcv.kills ≠ [] → exec .fdKill (At s (.word v)) = .next (At s (.word v))) ∧
  (∀ (s : State) (v : Word), s.recovering = false → s.rcv.kills = [] →
    let f := v.toNat % 65536
    ∃ t n, exec .fdKill (At s (.word v)) = .next t ∧ t.rcv.kills = [(f, 0, n)] ∧
      (∀ g ∈ s.grids, s.fdomOf g.task.region = f → ∀ h ∈ t.grids, h.id ≠ g.id) ∧
      (∀ g ∈ s.grids, (∀ h ∈ s.grids, h.id = g.id → s.fdomOf h.task.region ≠ f) → ∃ h ∈ t.grids, h.id = g.id) ∧
      (∀ g ∈ s.grids, s.fdomOf g.task.region = f → ∀ u ∈ t.teams, u.grid ≠ g.id) ∧
      (∀ e ∈ t.win.entries, s.fdomOf e.ctx.region = f → e.done = true)) ∧
  (∀ s : State, s.rcv.kills = [] → exec .killComplete s = .next s) ∧
  (∀ (s : State) (f by_ n : Nat) (rest : List (Nat × Nat × Nat)), s.rcv.kills = (f, by_, n) :: rest →
    let r := s.killWork f
    let waits : Prop := r.2.houseUp = true ∧ r.2.rcv.paging = true ∧ ∃ m ∈ r.2.fqPending, r.2.rdPhys (r.2.fqAddr m + 0x12) 2 = f
    ∃ t, exec .killComplete s = .next t ∧
      (waits → t.rcv.kills = (f, by_, n + r.1) :: rest) ∧
      (¬ waits → t.rcv.kills = rest ∧
        ((∃ x ∈ t.rcv.staging, x.kind = 6 ∧ x.fdom = f ∧ x.code = by_ ∧ x.info = n + r.1) ∨ t.rcv.lost ≠ 0)))

/-- Records and objects of recovery: OBJ_BREAK breaks the barrier object it names in chip scratchpad and nothing else (R417); the
journal's oldest record leaves for its ring, where one is set (R426); a held halt record goes to the halt ring while that has
room, and raises vector 1 where the ring was empty (R411, R433); a log record closes 64 µs after it opened (R409). -/
def Sys2Proof.Spec.RecoveryRecords : Prop :=
  (∀ (s : State) (v : Word), s.recovering = false → barSpace v = some .x → barOff v % 32 = 0 → barOff v + 32 ≤ Config.chipBytes →
    let l := locChip (barOff v)
    ∃ t, exec .objBreak (At s (.word v)) = .next t ∧ (t.barRead l).broken = true ∧ (t.barRead l).phase = (s.barRead l).phase ∧
      ∀ a, ¬ (l ≤ a ∧ a < l + 32) → t.rdNew a = s.rdNew a) ∧
  (∀ (s : State) (v : Word), barSpace v ≠ some .x ∨ barOff v % 32 ≠ 0 → exec .objBreak (At s (.word v)) = .next (At s (.word v))) ∧
  (∀ s : State, (s.houseUp = false ∨ s.rcv.staging = []) → exec .journalMove s = .next s) ∧
  (∀ (s : State) (r : JRec) (rest : List JRec), s.houseUp = true → s.rcv.staging = r :: rest →
    let base := s.rcv.jrBase.toNat / 4096 * 4096
    ∃ t, exec .journalMove s = .next t ∧ t.rcv = { s.rcv with staging := rest } ∧ t.teams = s.teams ∧ (base = 0 → t.mem = s.mem) ∧
      (base ≠ 0 → base + 64 * 2 ^ (s.rcv.jrBase.toNat % 32) ≤ Config.memBytes →
        Stored s t (atLoc (base + 64 * (r.jseq % 2 ^ (s.rcv.jrBase.toNat % 32))) r.bytes))) ∧
  (∀ (s : State) (r : List Byte) (rest : List (List Byte)), s.rcv.heldHalts = r :: rest →
    let base := s.rcv.haltBase.toNat / 65536 * 65536
    ((base = 0 ∨ 1024 ≤ ctrDiff s.rcv.haltTail.toNat s.rcv.haltHead.toNat) → exec .haltRecordWrite s = .next s) ∧
    (base ≠ 0 → ctrDiff s.rcv.haltTail.toNat s.rcv.haltHead.toNat < 1024 → base + 65536 ≤ Config.memBytes → r.length = 64 →
      ∃ t, exec .haltRecordWrite s = .next t ∧ t.rcv = { s.rcv with haltTail := s.rcv.haltTail + 1, heldHalts := rest } ∧
        Stored s t (atLoc (base + 64 * (s.rcv.haltTail.toNat % 1024)) r) ∧
        t.irqs = s.irqs ++ (if s.rcv.haltTail = s.rcv.haltHead then [1] else []))) ∧
  (∀ (s : State) (team warp : Nat) (w : Warp) (o : OpenLog), s.warp? team warp = some w → w.log = some o →
    (s.now < o.opened + 64000 → exec .logRecordTimeout (At s (.idx2 team warp)) = .next (At s (.idx2 team warp))) ∧
    (o.opened + 64000 ≤ s.now → ∃ t w', exec .logRecordTimeout (At s (.idx2 team warp)) = .next t ∧ t.warp? team warp = some w' ∧
      w' = { w with log := none }))

/-- The house core and memory errors: a divergence stops the house core and its paging service and raises vector 2, once (R19,
R433); the paging service starts where the core runs (R429). A stalled access halts its warp with cause PAGE only once PAGE_TO has
passed (R416), at the lowest lane whose own access stalls, with that access's address (R411). The scrubber's finding of a clean stripe does nothing, a first bank that fails is decoded from then on and
a second one takes the core offline (R420, R422); a lost write leaves every byte outside its line (R421). -/
def Sys2Proof.Spec.HouseAndErrors : Prop :=
  (∀ s : State,
    (s.rcv.diverged = true → exec .houseDiverged s = .next s) ∧
    (s.rcv.diverged = false → exec .houseDiverged s = .next { s with rcv := { s.rcv with diverged := true, paging := false }, irqs := s.irqs ++ [2] }) ∧
    (s.houseUp = true → exec .pagingServiceStart s = .next { s with rcv := { s.rcv with paging := true } }) ∧
    (s.houseUp = false → exec .pagingServiceStart s = .next s)) ∧
  (∀ (s : State) (team warp : Nat) (t : Team) (w : Warp), s.team? team = some t → s.warp? team warp = some w →
    let on (l : Nat) (va : Nat) : Prop := ∃ x ns e, (w.thr l).wait = some x ∧ x.on = .page ns ∧ x.woken = none ∧
      x.since + 1000 * s.rcv.pageTo < s.now ∧ (l, e, va) ∈ ns
    let stuck (l : Nat) : Prop := ∃ va, on l va
    ((s.rcv.pageTo = 0 ∨ ∀ l, l < w.width → ¬ stuck l) → exec .pageTimeout (At s (.idx2 team warp)) = .next (At s (.idx2 team warp))) ∧
    (s.rcv.pageTo ≠ 0 → w.halt = none → t.st = .resident → t.agent = false → (∃ l, l < w.width ∧ stuck l) →
      ∃ u w' h, exec .pageTimeout (At s (.idx2 team warp)) = .next u ∧ u.warp? team warp = some w' ∧ w'.halt = some h ∧ h.cause = 16 ∧
        on h.lane h.faddr ∧ (∀ l, l < h.lane → ¬ stuck l) ∧ h.pc = (w.thr h.lane).pc)) ∧
  (∀ (s : State) (core k : Nat) (again : Bool),
    exec .scrub (At s (.scrub core none again)) = .next (At s (.scrub core none again)) ∧
    (s.coreExists core = true → k < 34 → (s.bankOf core).offline = false →
      ((s.bankOf core).failed = some k → exec .scrub (At s (.scrub core (some k) again)) = .next (At s (.scrub core (some k) again))) ∧
      ((s.bankOf core).failed = none → ∃ t, exec .scrub (At s (.scrub core (some k) again)) = .next t ∧ t.mem = s.mem ∧ t.teams = s.teams ∧
        (t.bankOf core).corrected = min 255 ((s.bankOf core).corrected + 1) ∧ (t.bankOf core).offline = false ∧
        (again = true → (t.bankOf core).failed = some k)) ∧
      (∀ j, (s.bankOf core).failed = some j → j ≠ k → again = true → s.teams = [] →
        ∃ t, exec .scrub (At s (.scrub core (some k) again)) = .next t ∧ (t.bankOf core).offline = true))) ∧
  (∀ (s : State) (pa : Nat),
    (Config.memBytes ≤ pa → exec .lostWrite (At s (.idx pa)) = .next (At s (.idx pa))) ∧
    (pa < Config.memBytes → ∃ t, exec .lostWrite (At s (.idx pa)) = .next t ∧ t.teams = s.teams ∧
      ∀ a, ¬ (pa / 64 * 64 ≤ a ∧ a < pa / 64 * 64 + 64) → t.rdNew a = s.rdNew a))

/-- The paging service (R400) takes the oldest entry of the fault queue: nothing where it does not run or the queue is empty. An
entry that was cancelled, or whose domain is being killed, gets KILLED; one whose page-table entry no longer asks for a page
gets STALE; else the page is filled, the leaf is written, the pool and the region's count rise, and STATUS is MAPPED.
HEAD rises by one in each case. That the level is that of the entry's SIZE and the SPAN the page-table entry's is the model's reading
(log entry 129), that a kill marks the entries it found pending by a STATUS other than 0 its log entry 128; of an entry, a
table entry or a BACKING that an error has lost nothing is said here (log entry 173). -/
def Obligations.PagingService : Prop :=
  ∀ s : State,
    ((s.houseUp = false ∨ s.rcv.paging = false ∨ s.fq.head = s.fq.tail) → exec .pageFaultService s = .next s) ∧
    (s.houseUp = true → s.rcv.paging = true → s.fq.head ≠ s.fq.tail →
      let n := s.fq.head.toNat
      let at_ := s.fqAddr n
      let entry := s.rdPhys (at_ + 8) 8
      let region := s.rdPhys (at_ + 0x10) 2
      let fdom := s.rdPhys (at_ + 0x12) 2
      let e : DWord := BitVec.ofNat 64 (s.rdPhys entry 8)
      let size := 2 ^ (12 + 9 * (s.rdPhys (at_ + 0x15) 1 % 4)) * 4 ^ (e.extractLsb' 6 2).toNat
      let base := (s.fq.next.toNat + size - 1) / size * size
      let gone : Prop := s.rdPhys (at_ + 0x1C) 2 ≠ 0 ∨ ∃ x ∈ s.rcv.kills, x.1 = fdom
      at_ + 32 ≤ Config.memBytes → s.objErr (locPhys at_) = false →
      (gone → ∃ t, exec .pageFaultService s = .next t ∧ t.fq = { s.fq with head := s.fq.head + 1 } ∧ Stored s t (atLoc (at_ + 0x1C) [2, 0])) ∧
      (¬ gone → s.objErr (locPhys entry) = false → (e.getLsbD 0 = true ∨ e.getLsbD 63 = false) →
        ∃ t, exec .pageFaultService s = .next t ∧ t.fq = { s.fq with head := s.fq.head + 1 } ∧ Stored s t (atLoc (at_ + 0x1C) [3, 0])) ∧
      (¬ gone → s.objErr (locPhys entry) = false → s.backingErr ((e.extractLsb' 12 40).toNat * 4096) size = false →
        e.getLsbD 0 = false → e.getLsbD 63 = true → base + size ≤ s.fq.lim.toNat → s.memRefuses region size = none →
        base + size ≤ 2 ^ 52 → entry + 8 ≤ Config.memBytes → (∀ a, base ≤ a → a < base + size → a < entry ∨ entry + 8 ≤ a) →
        (∀ a, base ≤ a → a < base + size → a < at_ ∨ at_ + 32 ≤ a) → (entry + 8 ≤ at_ ∨ at_ + 32 ≤ entry) →
        ∃ t, exec .pageFaultService s = .next t ∧ t.fq.head = s.fq.head + 1 ∧ t.fq.next = BitVec.ofNat 64 (base + size) ∧
          KV.get 0 region t.mapped = KV.get 0 region s.mapped + size ∧ t.rdPhys (at_ + 0x1C) 2 = 1 ∧
          t.rdPhys entry 8 = 3 + (e.extractLsb' 2 2).toNat * 4 + (e.extractLsb' 6 2).toNat * 64 + base))

/-! ## The presentation clock and media -/

namespace Sys2Proof.Spec

/-- What an offset does to the servo's state (R254): LOCKED stays within 1,000 ns and falls back to ACQUIRING outside; ACQUIRING becomes
LOCKED at the 16th offset in a row within 200 ns. -/
def Judged (st : ServoSt) (run : Nat) (off : Int) (st' : ServoSt) : Prop :=
  (st = .locked → st' = if off.natAbs ≤ 1000 then .locked else .acquiring) ∧
  (st = .acquiring → run < 16 → st' = if off.natAbs ≤ 200 ∧ run = 15 then .locked else .acquiring)

/-- What an offset does to the clock (R254): one of more than 1 ms steps it while the servo acquires; else the clock is left and the
frequency correction stays within 200 ppm (its value is free). -/
def Corrected (s t : State) (st : ServoSt) (off : Int) : Prop :=
  if st = .acquiring ∧ 1000000 < off.natAbs then t.ptime = (((s.ptime : Int) - off) % 18446744073709551616).toNat
  else t.ptime = s.ptime ∧ t.servo.freq.natAbs ≤ 200000

/-- A message of the protocol touches neither memory nor the teams nor the window. -/
def PtpQuiet (s t : State) : Prop := t.mem = s.mem ∧ t.teams = s.teams ∧ t.win = s.win ∧ t.regions = s.regions

end Sys2Proof.Spec

/-- The precision time protocol (R253 to R255): the messages that the servo takes, those of its port and domain, measure the offset and
the delay, a better master is chosen, and its loss moves to the partner port or, from LOCKED, to HOLDOVER; PTP_CTL enables and
disables, which leaves the clock counting. A Sync's arrival begins ACQUIRING; the offset of a two-step Sync is measured at its
Follow_Up and changes the state at the next Sync's arrival, which is the model's reading (log entry 159). How the times give the offset and the delay is the model's
reading of IEEE 1588 (log entry 82). -/
def Obligations.PtpMoves : Prop :=
  (∀ (s : State) (port : BitVec 2) (t1 : PtpTime), s.ptpOn port s.servo.domain = true →
    let first : ServoSt := if s.servo.st = .freerun ∨ s.servo.st = .holdover then .acquiring else s.servo.st
    let off : Int := timeDiff s.stampIn (ptpNs t1) - s.servo.delay
    (s.servo.pending = none → ∃ t, exec .sync (At s (.sync port s.servo.domain false t1)) = .next t ∧ PtpQuiet s t ∧ t.servo.offset = off ∧
      (s.servo.st = first → Judged first s.servo.inRange off t.servo.st) ∧ (s.servo.st ≠ first → Judged first 0 off t.servo.st) ∧
      Corrected s t t.servo.st off) ∧
    (∃ t, exec .sync (At s (.sync port s.servo.domain true t1)) = .next t ∧ PtpQuiet s t ∧ t.servo.t1 = none ∧ t.servo.t2 = s.stampIn ∧
      t.servo.pending = none ∧ t.ptime = s.ptime ∧ (s.servo.pending = none → t.servo.st = first) ∧
      (∀ x, s.servo.pending = some x → s.servo.st = first → Judged first s.servo.inRange x t.servo.st))) ∧
  (∀ (s : State) (port : BitVec 2) (x : PtpTime), s.ptpOn port s.servo.domain = true → s.servo.t1 = none →
    let off : Int := timeDiff s.servo.t2 (ptpNs x) - s.servo.delay
    ∃ t, exec .followUp (At s (.portTime port s.servo.domain x)) = .next t ∧ PtpQuiet s t ∧ t.servo.offset = off ∧
      t.servo.pending = some off ∧ t.servo.st = s.servo.st ∧ Corrected s t s.servo.st off) ∧
  (∀ s : State, s.houseUp = true → s.servo.enable = true → s.servo.gm.isSome = true →
    exec .delayReq s = .next { s with
      servo := { s.servo with t3 := some s.stampOut }, out := s.out ++ [.delayReq s.servo.actPort s.servo.domain s.stampOut] }) ∧
  (∀ (s : State) (port : BitVec 2) (t4 : PtpTime) (t1 t3 : Nat), s.ptpOn port s.servo.domain = true →
    s.servo.t1 = some t1 → s.servo.t3 = some t3 →
    let a : Arg := .portTime port s.servo.domain t4
    exec .delayResp (At s a) = .next { At s a with servo := { s.servo with
      t4 := some (ptpNs t4), t3 := none, delay := (timeDiff s.servo.t2 t1 + timeDiff (ptpNs t4) t3) / 2 } }) ∧
  (∀ (s : State) (port : BitVec 2) (gm : GmData), s.houseUp = true → s.servo.enable = true → port.toNat = s.servo.actPort →
    let a : Arg := .announce port s.servo.domain gm
    let chosen : Prop := s.servo.gm = none ∨ ∃ g, s.servo.gm = some g ∧ (g.identity = gm.identity ∨ lexLt (gmKey gm) (gmKey g) = true)
    (chosen → exec .announce (At s a) = .next { At s a with servo := { s.servo with gm := some gm, gmid := gm.identity } }) ∧
    (¬ chosen → exec .announce (At s a) = .next (At s a))) ∧
  (∀ (s : State) (port : BitVec 2) (domain : Nat) (two : Bool) (x : PtpTime) (gm : GmData), domain ≠ s.servo.domain →
    exec .sync (At s (.sync port domain two x)) = .next (At s (.sync port domain two x)) ∧
    exec .followUp (At s (.portTime port domain x)) = .next (At s (.portTime port domain x)) ∧
    exec .delayResp (At s (.portTime port domain x)) = .next (At s (.portTime port domain x)) ∧
    exec .announce (At s (.announce port domain gm)) = .next (At s (.announce port domain gm))) ∧
  (∀ (s : State) (partner : Bool), s.houseUp = true → s.servo.enable = true → s.servo.gm.isSome = true →
    ∃ t, exec .announceTimeout (At s (.flag partner)) = .next t ∧ t.servo.gm = none ∧ t.ptime = s.ptime ∧
      (s.servo.failover = true → partner = true → t.servo.actPort = s.servo.actPort ^^^ 1 ∧ t.servo.st = s.servo.st) ∧
      (s.servo.failover = false ∨ partner = false → t.servo.actPort = s.servo.actPort ∧
        t.servo.st = if s.servo.st = .locked then .holdover else s.servo.st)) ∧
  (∀ (s : State) (v : Word), s.recovering = false →
    let dom := v.toNat / 256 % 256
    (v.getLsbD 0 = true → ∃ t, exec .ptpEnable (At s (.word v)) = .next t ∧ t.servo.enable = true ∧ t.servo.failover = v.getLsbD 3 ∧
      t.servo.port = v.toNat / 2 % 4 ∧ t.servo.domain = (if dom < 128 then dom else s.servo.domain) ∧ t.servo.st = s.servo.st ∧ t.ptime = s.ptime) ∧
    (v.getLsbD 0 = false → ∃ t, exec .ptpDisable (At s (.word v)) = .next t ∧ t.servo.enable = false ∧ t.servo.st = .freerun ∧ t.servo.gmid = 0 ∧
      t.servo.gm = none ∧ t.ptime = s.ptime))

/-- The rows of a frame (R258 to R260): an OPEN or RENDERING frame goes LATE at its deadline; at its PTIME a READY frame is PRESENTED
and a LATE one SUBST, frames of one stream in order, and without an installed stream DONE at once; with one it starts a
transmission that ends Tactive after its first packet. Packets leave in order, each with its frame's RTP time, and the end
of the last one sets DONE; with DUAL each leaves on both ports with one RTP header (R262). That packets leave in raster order is the
model's reading (log entry 105), and that a frame whose stream is not installed is DONE at once its choice (log entry 181). -/
def Sys2Proof.Spec.FrameMoves : Prop :=
  (∀ (s : State) (f : Nat), s.tables = true → f < 1024 →
    (s.ptime < s.frameDl f → exec .frameDeadline (At s (.idx f)) = .next (At s (.idx f))) ∧
    (s.frameDl f ≤ s.ptime → s.frameDone f = false → (s.frameSt f = 0 ∨ s.frameSt f = 1) →
      (∀ e ∈ s.win.entries, e.task.opcode ≠ 0x16) →
      ∃ t, exec .frameDeadline (At s (.idx f)) = .next t ∧ t.frameSt f = 4 ∧ t.frameDone f = false ∧
        ∀ a, ¬ (s.frameAddr f + 0x18 ≤ a ∧ a < s.frameAddr f + 0x1C) → t.rdNew a = s.rdNew a) ∧
    (s.frameDl f ≤ s.ptime → (s.frameDone f = true ∨ 2 ≤ s.frameSt f) → exec .frameDeadline (At s (.idx f)) = .next (At s (.idx f)))) ∧
  (∀ (s : State) (f : Nat), s.tables = true → f < 1024 →
    (s.ptime < s.framePtimeOf f ∨ s.frameDone f = true → exec .framePtime (At s (.idx f)) = .next (At s (.idx f))) ∧
    (s.framePtimeOf f ≤ s.ptime → s.frameDone f = false → (s.frameSt f = 2 ∨ s.frameSt f = 4) →
      (s.stream? (s.frameStream f) = none → (∀ g ∈ s.framesDue (s.frameStream f), lexLt [s.framePtimeOf g, g] [s.framePtimeOf f, f] = false) →
        ∃ t, exec .framePtime (At s (.idx f)) = .next t ∧ t.frameSt f = (if s.frameSt f = 2 then 3 else 5) ∧ t.frameDone f = true ∧
          ∀ a, ¬ (s.frameAddr f + 0x18 ≤ a ∧ a < s.frameAddr f + 0x1C) → t.rdNew a = s.rdNew a) ∧
      (∀ m, s.stream? (s.frameStream f) = some m → s.frameStream f ≠ 0xFFFF →
        ((∃ g ∈ s.framesDue (s.frameStream f), lexLt [s.framePtimeOf g, g] [s.framePtimeOf f, f] = true) →
          exec .framePtime (At s (.idx f)) = .next (At s (.idx f))) ∧
        ((∀ g ∈ s.framesDue (s.frameStream f), lexLt [s.framePtimeOf g, g] [s.framePtimeOf f, f] = false) →
          (∀ e, m.stop = some e → e < s.framePtimeOf f) →
          ∃ t x, exec .framePtime (At s (.idx f)) = .next t ∧ t.txs = s.txs ++ [x] ∧ x.frame = f ∧ x.stream = s.frameStream f ∧
            (s.frameSt f = 2 → x.image = some (s.frameField f 0x20 8)) ∧
            x.stop = s.framePtimeOf f + s.streamField (s.frameStream f) 0x1C 4 +
              s.streamField (s.frameStream f) 0x20 4 * 49 / (s.streamField (s.frameStream f) 0x24 2 * 50))))) ∧
  (∀ (s : State) (f line off n : Nat) (tx : Tx), s.txs.find? (fun x => x.frame == f) = some tx →
    let p := s.pixFmt tx.stream
    (line ≠ tx.line ∨ off ≠ tx.off ∨ n = 0 ∨ s.ptime < s.framePtimeOf f + s.streamField tx.stream 0x1C 4 →
      exec .packetEgress (At s (.egress f line off n)) = .next (At s (.egress f line off n))) ∧
    (line = tx.line → off = tx.off → 0 < n → line < p.h → off + n ≤ p.lineBytes → tx.sent = true →
      s.framePtimeOf f + s.streamField tx.stream 0x1C 4 ≤ s.ptime →
      ∃ t bs tx', exec .packetEgress (At s (.egress f line off n)) = .next t ∧ bs.length = n ∧
        (let field (o n : Nat) : Nat := s.streamField tx.stream o n
         let packet (port ip udp : Nat) : OutMsg := .rtp {
           port := port, dstIp := ip, dstPort := udp, ptype := field 0x46 1, seq := ((s.stream? tx.stream).map MediaStream.txSeq).getD 0,
           ts := BitVec.ofNat 32 (s.framePtimeOf f * (if p.sampling = 3 then 48000 else 90000) / 1000000000),
           ssrc := field 0x4C 4, stream := tx.stream, frame := f, line := line, off := off, data := bs }
         t.out = s.out ++ packet (field 0x16 1 % 4) (field 0x40 4) (field 0x44 2) ::
           (if field 0x16 1 / 4 % 2 = 1 then [packet (field 0x16 1 % 4 + 1) (field 0x50 4) (field 0x54 2)] else [])) ∧
        t.txs.find? (fun x => x.frame == f) = some tx' ∧
        (tx'.line, tx'.off) = (if off + n = p.lineBytes then (line + 1, 0) else (line, off + n)))) ∧
  (∀ (s : State) (f : Nat) (tx : Tx), s.txs.find? (fun x => x.frame == f) = some tx →
    (s.ptime ≤ tx.stop → exec .transmissionEnd (At s (.idx f)) = .next (At s (.idx f))) ∧
    (tx.stop < s.ptime → (s.pixFmt tx.stream).h ≤ tx.line →
      ∃ t, exec .transmissionEnd (At s (.idx f)) = .next t ∧ t.frameDone f = true ∧ t.frameSt f = s.frameSt f ∧
        t.txs = s.txs.filter (fun x => x.frame != f) ∧
        ∀ a, ¬ (s.frameAddr f + 0x18 ≤ a ∧ a < s.frameAddr f + 0x1C) → t.rdNew a = s.rdNew a))

/-- Receive streams (R262, R263, R265, R266): a packet of no installed stream, of another port, address, source or type, or (with DUAL)
already merged is dropped; a packet of video lands its bytes at its line and offset of its frame's slot, and no byte but
those, its stream's record and its band's object changes (with no fault domain's log set). The deadline of two periods
after a frame's first packet, or the time that stands in for it, completes a band's oldest frame. Which frame a timestamp
means (log entry 151), and within how many packets a duplicate is known and which frame's band counts first (log entry 109), are
the model's readings. -/
def Sys2Proof.Spec.ReceiveMoves : Prop :=
  (∀ (s : State) (p : RtpPacket), s.stream? p.stream = none → exec .rtpPacketReceive (At s (.rtp p)) = .next (At s (.rtp p))) ∧
  (∀ (s : State) (p : RtpPacket) (m : MediaStream), s.stream? p.stream = some m → p.stream < 64 →
    let fd (o n : Nat) : Nat := s.streamField p.stream o n
    let dual : Prop := fd 0x16 1 / 4 % 2 = 1
    let on (port ip udp : Nat) : Prop := p.port.toNat = port ∧ p.dstIp.toNat = ip ∧ p.dstPort.toNat = udp
    let here : Prop := (on (fd 0x16 1 % 4) (fd 0x40 4) (fd 0x44 2) ∨ (dual ∧ on (fd 0x16 1 % 4 + 1) (fd 0x50 4) (fd 0x54 2))) ∧
      (fd 0x48 4 = 0 ∨ fd 0x48 4 = p.srcIp.toNat) ∧ (fd 0x4C 4 = 0 ∨ fd 0x4C 4 = p.ssrc.toNat) ∧ fd 0x46 1 = p.ptype.toNat
    (¬ here ∨ (dual ∧ p.seq ∈ m.seqs) → exec .rtpPacketReceive (At s (.rtp p)) = .next (At s (.rtp p))) ∧
    (here → ¬ (dual ∧ p.seq ∈ m.seqs) → fd 4 1 < 3 →
      let f := s.pixFmt p.stream
      let b := p.line / fd 0x15 1
      ∀ ws fr, m.frameOf (fd 0x20 4) (fd 0x24 2) p.ts = some fr → p.line < f.h → p.off + p.data.length ≤ f.lineBytes →
        KV.get 0 b m.next ≤ fr → s.rcv.logged = [] →
        s.taskWrites m.ctx [(fd 8 8 + fr % max (fd 0x14 1) 1 * f.h * f.pitch + p.line * f.pitch + p.off, p.data)] = .ok ws →
        (∀ q ∈ ws, ¬ (s.streamAddr p.stream ≤ q.1 ∧ q.1 < s.streamAddr p.stream + 128)) →
        ∃ t m', exec .rtpPacketReceive (At s (.rtp p)) = .next t ∧ t.stream? p.stream = some m' ∧ p.seq ∈ m'.seqs ∧
          ∀ a, ¬ (s.streamAddr p.stream ≤ a ∧ a < s.streamAddr p.stream + 128) →
            ¬ (s.bandObj p.stream b ≤ a ∧ a < s.bandObj p.stream b + 32) → t.rdNew a = lastByte a ws (s.rdNew a))) ∧
  (∀ (s : State) (i b : Nat), s.stream? i = none → exec .receiveDeadline (At s (.idx2 i b)) = .next (At s (.idx2 i b))) ∧
  (∀ (s : State) (i b : Nat) (m : MediaStream) (t0 k : Nat), s.stream? i = some m → i < 64 → s.streamField i 4 1 < 3 →
    b * s.streamField i 0x15 1 < s.streamField i 2 2 →
    let f := KV.get 0 b m.next
    let pn := s.streamField i 0x20 4
    let pm := max (s.streamField i 0x24 2) 1
    firstOf m 0 f = some (t0, k) →
    (s.ptime < t0 + (k + 2) * pn / pm → exec .receiveDeadline (At s (.idx2 i b)) = .next (At s (.idx2 i b))) ∧
    (t0 + (k + 2) * pn / pm ≤ s.ptime → ∃ t m', exec .receiveDeadline (At s (.idx2 i b)) = .next t ∧ t.stream? i = some m' ∧
      f + 1 ≤ KV.get 0 b m'.next))

/-! ## The Almanac, power and the scheduler -/

/-- The Almanac (R317 to R320): a cycle start latches the slots, EPOCH and CYCLE once the last one has ended, and sets BAD and the
lowest slot that fails its check; an instance opens as latched; at its end the completion of a bound kernel whose work is over
is taken first, and another bound task that has not completed counts as an overrun, goes on under EXTEND, and completes
with SLOT_OVERRUN under FAULT. -/
def Sys2Proof.Spec.AlmanacMoves : Prop :=
  (∀ s : State,
    let due : Prop := match s.alm.cycleAt with
      | none => s.alm.epoch.toNat ≤ s.ptime
      | some t => t + s.alm.lCycle ≤ s.ptime ∨ s.ptime < t
    (¬ due → exec .almanacCycleStart s = .next s) ∧
    (due → ∃ t, exec .almanacCycleStart s = .next t ∧ t.alm.latched = s.alm.slots ∧ t.alm.lCycle = s.alm.cycle ∧
      t.alm.lEpoch = s.alm.epoch.toNat ∧ t.mem = s.mem ∧ t.teams = s.teams ∧
      (∀ p ∈ s.alm.slots, p.2.ctl.getLsbD 31 = true → p.2.valid s.alm.cycle = false → t.alm.bad = true ∧ t.alm.badSlot ≤ p.1) ∧
      ((∀ p ∈ s.alm.slots, p.2.ctl.getLsbD 31 = true → p.2.valid s.alm.cycle = true) → t.alm.bad = s.alm.bad) ∧
      (s.alm.epoch.toNat ≤ s.ptime → 0 < s.alm.cycle → ∃ c k, t.alm.cycleAt = some c ∧ c = s.alm.epoch.toNat + k * s.alm.cycle ∧
        c ≤ s.ptime ∧ s.ptime < c + s.alm.cycle))) ∧
  (∀ (s : State) (i : Nat),
    let o := KV.get (0, 0, 0) i s.alm.opened
    (o.2.1 ≠ 0 ∨ s.openNow i = none → exec .instanceOpen (At s (.idx i)) = .next (At s (.idx i))) ∧
    (∀ x, o.2.1 = 0 → s.openNow i = some x → ∃ t, exec .instanceOpen (At s (.idx i)) = .next t ∧ KV.get (0, 0, 0) i t.alm.opened = x ∧
      (∀ j, j ≠ i → KV.get (0, 0, 0) j t.alm.opened = KV.get (0, 0, 0) j s.alm.opened) ∧ x.1 ≤ s.ptime ∧ s.ptime < x.1 + x.2.1) ∧
    (o.2.1 = 0 ∨ s.ptime < o.1 + o.2.1 → exec .instanceEnd (At s (.idx i)) = .next (At s (.idx i))) ∧
    (o.2.1 ≠ 0 → o.1 + o.2.1 ≤ s.ptime →
      let bound (e : Entry) : Prop := e.done = false ∧ ∃ b x, e.slot = some b ∧ b.slot = i ∧ b.inst = some x ∧ x.1 = o.1
      ((∀ e ∈ s.win.entries, ¬ bound e) → ∃ t, exec .instanceEnd (At s (.idx i)) = .next t ∧ t.win = s.win ∧ t.alm.overruns = s.alm.overruns ∧
        (KV.get (0, 0, 0) i t.alm.opened).2.1 = 0) ∧
      (∀ e, s.win.entries = [e] → bound e →
        (e.issued = true → (e.task.opcode = 0x10 ∨ e.task.opcode = 0x11) → e.grid.bind s.grid? = none → (∀ g ∈ s.grids, e.grid ≠ some g.root) →
          (∀ p ∈ s.passes, e.pass ≠ some p.id) → e.marked = false → e.killed = false →
          ∃ t e', exec .instanceEnd (At s (.idx i)) = .next t ∧ t.win.entries = [e'] ∧ e'.done = true ∧ e'.fault = none ∧
            t.alm.overruns = s.alm.overruns) ∧
        (o.2.2 = 0 → (e.issued = false ∨ (e.task.opcode ≠ 0x10 ∧ e.task.opcode ≠ 0x11) ∨
            ∃ g, e.grid.bind s.grid? = some g ∧ g.desc.persist = false) → ∃ t, exec .instanceEnd (At s (.idx i)) = .next t ∧ t.win = s.win ∧ t.alm.overruns = s.alm.overruns + 1) ∧
        (o.2.2 = 3 → e.issued = false → s.colls = [] → e.marked = false → e.killed = false →
          ∃ t e', exec .instanceEnd (At s (.idx i)) = .next t ∧ t.win.entries = [e'] ∧ e'.done = true ∧
            e'.fault = some (21, BitVec.ofNat 32 i) ∧ t.alm.overruns = s.alm.overruns + 1))))

/-- Power (R321 to R323, R438): a sample above the limit lowers the cap below the operating point and the cap; the tenth sample in a
row below 95% of the limit raises it by one, up to the top point allowed; any other leaves it. A change of the operating
point that settles takes effect. -/
def Sys2Proof.Spec.PowerMoves : Prop :=
  (∀ (s : State) (watts : Nat),
    let limit := if s.power.qEnable then s.power.limit else 560
    let top := if s.power.qEnable then s.power.opCap else 15
    ∃ t, exec .powerSample (At s (.idx watts)) = .next t ∧ t.power.watts = watts ∧ t.power.op = s.power.op ∧ t.mem = s.mem ∧ t.teams = s.teams ∧
      t.win = s.win ∧
      (limit < watts → t.power.pcap = min s.power.pcap s.power.op - 1 ∧ t.power.low = 0) ∧
      (watts ≤ limit → watts * 100 < limit * 95 → s.power.low ≠ 9 → t.power.pcap = s.power.pcap ∧ t.power.low = s.power.low + 1) ∧
      (watts ≤ limit → watts * 100 < limit * 95 → s.power.low = 9 →
        t.power.pcap = max s.power.pcap (min (s.power.pcap + 1) top) ∧ t.power.low = 0) ∧
      (watts ≤ limit → limit * 95 ≤ watts * 100 → t.power.pcap = s.power.pcap ∧ t.power.low = 0)) ∧
  (∀ s : State,
    (s.power.settling = none → exec .opChangeSettled s = .next s) ∧
    (∀ n, s.power.settling = some n → ∃ t, exec .opChangeSettled s = .next t ∧ t.power.op = n ∧ t.power.pcap = s.power.pcap ∧ t.mem = s.mem ∧
      t.teams = s.teams ∧ t.win = s.win))

namespace Sys2Proof.Spec

/-- A team that may be pre-empted (R50, R331): on its core, no agent, no thread of it with a pixel lock and no warp halted, of a task that
sorts without a deadline (log entry 167), and of no persistent kernel. -/
def Victim (s : State) (t : Team) : Prop :=
  t.st = .resident ∧ t.agent = false ∧ (∀ w ∈ t.warps, w.halt = none ∧ ∀ th ∈ w.threads, th.pixLock = false) ∧
    ∃ g, s.grid? t.grid = some g ∧ s.sortDl g.task = none ∧ g.desc.persist = false

/-- The order of R331: least priority, then the youngest task, then the highest team index. -/
def victimKey (s : State) (t : Team) : List Nat :=
  [((s.eff (s.ctxOf t).region).map Region.prio).getD 0, 18446744073709551615 - (s.ctxOf t).seq, 18446744073709551615 - t.index]

/-- The agent of a core is told an event of four words (R313, R314): it is held where others are held before it or the core's queue takes
none, and else stands in the queue's next record, with TAIL one more. -/
def Told (s t : State) (core : Nat) (ws : List Word) : Prop :=
  let q := s.qRead (eventHdr core)
  let held : Prop := (∃ h ∈ s.heldEv, h.1 = core) ∨ q.pushStatus ≠ none
  (held → t.heldEv = s.heldEv ++ [(core, ws)]) ∧
  (¬ held → t.heldEv = s.heldEv ∧ (core < 192 → (locRange (eventRec core q.tail) 16).map t.rdNew = ws.flatMap wordBytes ∧
    t.rdNewNat (eventHdr core + 0x2C) 4 = (q.tail + 1) % 4294967296))

end Sys2Proof.Spec

/-- The scheduler's moves on waves (R308, R311, R316, R327, R331): with nothing to place nothing happens; the most urgent grid's next
wave takes a record and the cores chosen for it, unless a restore comes before it; a task without a deadline ages after
10 ms; a pre-emption halts the teams it chooses, at once or once their matrix commands in flight have finished, and of the others
only delays those of the same cores with such commands; it chooses the first in R331's order, as few as make room, and without a
wave that may pre-empt nothing happens; LAUNCH_ADMISSION
makes a child grid of the oldest entry of a queue while fewer than 1,024 run. That an aged task counts as one with a deadline is log
entry 167's choice, and that a child grid's admission counts as its issue log entry 165's. -/
def Sys2Proof.Spec.PlacementMoves : Prop :=
  (∀ s : State, (∀ t ∈ s.teams, t.st ≠ .contWait) → s.passes = [] →
    (s.placeList = [] → exec .wavePlacement s = .next s) ∧
    (∀ (g : Grid) (rest : List Grid) (i : Nat), s.placeList = g :: rest → s.grid? g.id = some g → s.sheds g = false →
      s.restoreBefore (s.urgency g 1) = false → s.freeRec = some i → s.waveCores g ≠ [] → g.desc.persist = false →
      ∃ t w, exec .wavePlacement s = .next t ∧ t.waves.map Wave.id = s.waves.map Wave.id ++ [w.id] ∧ t.waves.getLast? = some w ∧
        w.grid = g.id ∧ w.recIdx = i ∧ w.first = g.nextPos ∧ w.count = g.nextEnd - g.nextPos ∧ (∀ c, c ∈ w.cores ↔ c ∈ s.waveCores g))) ∧
  (∀ (s : State) (e : Entry) (p : Nat), s.entry? e.seq = some e → e.placeable = some p →
    let due : Prop := e.ctx.deadline = none ∧ e.agedDl = none ∧ p + 10000000 ≤ s.ptime
    (due → exec .aging (At s (.idx e.seq)) = .next { At s (.idx e.seq) with win := { s.win with entries := s.win.entries.map (fun x =>
      if x.seq = e.seq then { x with agedDl := some (p + 10000000) } else x) } }) ∧
    (¬ due → exec .aging (At s (.idx e.seq)) = .next (At s (.idx e.seq)))) ∧
  (∀ s : State, ((∀ g ∈ s.grids, s.preEmpts g = false) → exec .preEmption s = .next s) ∧
    (∀ (g : Grid) (rest : List Grid),
      (s.grids.filter s.preEmpts).mergeSort (fun a b => !lexLt (s.urgency b 1) (s.urgency a 1)) = g :: rest →
      (s.teams.map Team.id).Nodup →
      let ids := s.chooseVictims g s.victims []
      (∃ t, exec .preEmption s = .next t ∧ t.win = s.win ∧ t.grids = s.grids ∧
        ∀ u ∈ s.teams, ∃ v, t.team? u.id = some v ∧
          (u.id ∈ ids → v.st = if (∀ m ∈ s.matq, m.team ≠ u.id) then .halted else .halting) ∧
          (u.id ∉ ids → v.st = u.st ∨ (v.st = .pausing ∧ u.st = .resident ∧ u.agent = false ∧ (∃ m ∈ s.matq, m.team = u.id) ∧
            ∃ x ∈ s.teams, x.id ∈ ids ∧ x.core = u.core))) ∧
      ((∀ u ∈ s.teams, u.desc.gangX = 0) → 0 < s.coresNeeded g →
        (∀ u, u ∈ s.victims ↔ u ∈ s.teams ∧ Victim s u) ∧
        s.victims.Pairwise (fun a b => lexLt (victimKey s b) (victimKey s a) = false) ∧
        let gone (n : Nat) : State := s.without ((s.victims.take n).map Team.id)
        let enough (n : Nat) : Prop := s.coresNeeded g ≤ ((gone n).coresFor g).length
        (∀ n, n ≤ s.victims.length → enough n → (∀ m, m < n → ¬ enough m) → ids = (s.victims.take n).map Team.id) ∧
        ((∀ n, n ≤ s.victims.length → ¬ enough n) → ids = [] ∨ ids = s.victims.map Team.id)))) ∧
  (∀ (s : State) (t : Team), s.team? t.id = some t →
    ((s.ctxOf t).det = true ∨ t.launchQ = [] ∨ 1024 ≤ s.childGrids → exec .launchAdmission (At s (.idx t.id)) = .next (At s (.idx t.id))) ∧
    (∀ r rest p, (s.ctxOf t).det = false → t.launchQ = r :: rest → s.childGrids < 1024 → s.grid? t.grid = some p →
      0 < r.gx * r.gy * r.gz →
      ∃ u g t', exec .launchAdmission (At s (.idx t.id)) = .next u ∧ u.grids = s.grids ++ [g] ∧ g.parent = some t.id ∧ g.desc = r.desc ∧
        g.args = r.args ∧ g.gx = r.gx ∧ g.gy = r.gy ∧ g.gz = r.gz ∧ g.ctr = r.ctr ∧
        g.task = { p.task with issueSer := s.nextSer, issuePubs := s.publs.length } ∧
        u.team? t.id = some t' ∧ t'.launchQ = rest ∧ u.mem = s.mem))

/-- The scheduler's moves on teams and grids (R38, R50, R312 to R314): a team that is not over stays, one that is ends, with the
marks of its qfences left to other teams' commands (R206), and its core is told (event 2, with its handle; said for a team with no
queued launch where no stream is published); a grid ends once no team and no wave of it is left, and only then; a swap-out halts its team only when
every thread has waited long enough and something wants the core, and names a save area (log entry 30); a restore tells the core that can take the team; a held
event goes to its queue once that has room. -/
def Sys2Proof.Spec.TeamMoves : Prop :=
  (∀ (s : State) (t : Team), s.team? t.id = some t →
    (t.st ≠ .resident ∨ t.agent = true ∨ s.teamOver t = false → exec .teamEnd (At s (.idx t.id)) = .next (At s (.idx t.id))) ∧
    (t.st = .resident → t.agent = false → s.teamOver t = true → (s.ctxOf t).det = false → t.job = none →
      ∃ u t', exec .teamEnd (At s (.idx t.id)) = .next u ∧ u.team? t.id = some t' ∧ t'.st = .ended ∧ t'.launchQ = [] ∧
        (∀ x ∈ u.copies, x.team = t.id → x.kind = 3) ∧ (∀ x ∈ u.ssubs, x.team ≠ t.id) ∧
        (t.launchQ = [] → s.spubs = [] → Told s u t.core (eventWords 2 t.handle 0)))) ∧
  (∀ (s : State) (g : Grid), s.grid? g.id = some g →
    (s.gridOver g = false → exec .gridEnd (At s (.idx g.id)) = .next (At s (.idx g.id))) ∧
    (s.gridOver g = true → (∀ p ∈ s.passes, p.grid ≠ g.id) →
      ∃ t, exec .gridEnd (At s (.idx g.id)) = .next t ∧ t.grids = s.grids.filter (fun x => x.id != g.id) ∧
        (g.reds = [] → g.ctr = none → t.mem = s.mem ∧ t.teams = s.teams) ∧
        (g.reds = [] → ∀ h ∈ s.hist, h.by_.grid = some g.id → ∃ p ∈ t.publs, p.scope = .chip ∧ p.party = .unit ∧ p.loc = h.loc ∧ p.ser = h.ser))) ∧
  (∀ (s : State) (t : Team), s.team? t.id = some t → t.desc.gangX = 0 →
    ((s.swappable t = false ∨ s.wanted [t] = false) → exec .swapOut (At s (.idx t.id)) = .next (At s (.idx t.id))) ∧
    (s.swappable t = true → s.wanted [t] = true → ∃ u t', exec .swapOut (At s (.idx t.id)) = .next u ∧ u.team? t.id = some t' ∧ t'.st = .halted ∧
      Told s u t.core (eventWords 4 t.handle (saveArea t.id)))) ∧
  (∀ (s : State) (t : Team) (core : Nat), s.team? t.id = some t → t.desc.gangX = 0 →
    (t.eligible = false ∨ s.restoreLater t = true ∨ s.restoreFits t [] core = false →
      exec .restore (At s (.idx2 t.id core)) = .next (At s (.idx2 t.id core))) ∧
    (t.eligible = true → s.restoreLater t = false → s.restoreFits t [] core = true →
      ∃ u, exec .restore (At s (.idx2 t.id core)) = .next u ∧ u = (At s (.idx2 t.id core)).pushEvent core (eventWords 5 0 t.area) ∧
        Told s u core (eventWords 5 0 t.area))) ∧
  (∀ (s : State) (core : Nat),
    ((∀ h ∈ s.heldEv, h.1 ≠ core) → exec .heldEventPush (At s (.idx core)) = .next (At s (.idx core))) ∧
    (∀ h, s.heldEv.find? (fun x => x.1 == core) = some h →
      ((s.qRead (eventHdr core)).pushStatus ≠ none → exec .heldEventPush (At s (.idx core)) = .next (At s (.idx core))) ∧
      ((s.qRead (eventHdr core)).pushStatus = none → ∃ t, exec .heldEventPush (At s (.idx core)) = .next t ∧ t.heldEv = s.heldEv.erase h)))

/-- Deterministic rounds (R180, R182, R183, R186) and pending results (R76): a share ends when its warp has retired its quantum; a
round ends only when every slot of the window is ready and something is due (the model's choice, log entry 41), and then the next one begins, with every
thread of the window's teams at the start of a share (memory as it was, where nothing was held); a pending instruction whose results are known writes them. -/
def Obligations.RoundMoves : Prop :=
  (∀ (s : State) (u : Team) (w : Nat) (v : Warp), s.team? u.id = some u → s.warp? u.id w = some v →
    let due : Prop := (s.ctxOf u).det = true ∧ s.quantumOf (s.ctxOf u).region ≤ (v.retired - v.roundBase).toNat
    (due → ∃ t, exec .quantumExpiry (At s (.idx2 u.id w)) = .next t ∧ t.warp? u.id w = some { v with shareEnd := true } ∧ t.mem = s.mem) ∧
    (¬ due → exec .quantumExpiry (At s (.idx2 u.id w)) = .next (At s (.idx2 u.id w)))) ∧
  (∀ (s : State) (g : Grid), s.grid? g.id = some g →
    ((g.task.det = false ∨ (∃ n ∈ g.inOrder, s.slotReady g n = false) ∨ s.chunkDue g.id = true ∨ s.roundDue g = false) →
      exec .roundBoundary (At s (.idx g.id)) = .next (At s (.idx g.id))) ∧
    (∀ s1, g.task.det = true → (∀ n ∈ g.inOrder, s.slotReady g n = true) → s.chunkDue g.id = false → s.roundDue g = true →
      (At s (.idx g.id)).boundary g = .ok s1 →
      exec .roundBoundary (At s (.idx g.id)) = .next s1 ∧
      (∀ u ∈ s1.teams, u.grid = g.id → u.agent = false → u.pos ∈ g.inOrder → ∀ w ∈ u.warps, w.shareEnd = false ∧ w.roundBase = w.retired ∧
        ∀ th ∈ w.threads, th.issued = 0)) ∧
    (g.task.det = true → (∀ n ∈ g.inOrder, s.slotReady g n = true) → s.chunkDue g.id = false → s.roundDue g = true →
      (∀ u ∈ s.teams, u.grid = g.id → u.launchQ = [] ∧ ∀ w ∈ u.warps, w.held = []) →
      ∃ s1 g', exec .roundBoundary (At s (.idx g.id)) = .next s1 ∧ s1.mem = s.mem ∧ s1.grid? g.id = some g' ∧ g'.round = g.round + 1)) ∧
  (∀ (s : State) (t w i : Nat),
    ((∀ v, s.warp? t w = some v → v.pend[i]? = none) → exec .pendingWriteback (At s (.idx3 t w i)) = .next (At s (.idx3 t w i))) ∧
    (∀ v p, s.warp? t w = some v → v.pend[i]? = some p → p.ready = true → p.done = false → v.pend.count p = 1 →
      ∃ u v', exec .pendingWriteback (At s (.idx3 t w i)) = .next u ∧ u.mem = s.mem ∧ u.warp? t w = some v' ∧
        v'.threads = (v.wrLanes p.writes).threads))

/-! ## Landings, builds and the raster's moves -/

/-- What lands without an instruction (R158, R234, R239, R244, R336): the last element of a copy's burst stands at its destination and
the command leaves its queue; a gathered row lands in its Cask range and the gather leaves with its last row; a chunk of an
operand stream takes a credit of its subscription; a structure build writes the nodes and the header of the next generation, or
completes with BAD_BLOCK. A move with nothing to land changes nothing. -/
def Sys2Proof.Spec.Landings : Prop :=
  (∀ (s : State) (core q : Nat), s.copies = [] → exec .copyBurstLanding (At s (.idx2 core q)) = .next (At s (.idx2 core q))) ∧
  (∀ (s : State) (x : CopyCmd) (t : Team) (l l' : Nat), s.copies = [x] → x.kind = 0 → s.team? x.team = some t → t.st = .resident →
    x.landed = false → x.off = false → x.d.bar = none → x.follow = none → x.flags = {} → x.d.conv = 0xFF → x.d.ssize = x.d.dsize → 0 < x.d.dsize → x.d.dsize ≤ 4 →
    x.next + 1 = x.d.total → (s.ctxOf t).det = false →
    s.engAt t (s.ctxOf t) x.d.sspace (x.d.srcAddr x.next) x.d.ssize .read = .loc l →
    s.engAt t (s.ctxOf t) x.d.dspace (x.d.dstAddr x.next) x.d.dsize .write = .loc l' →
    ∃ u, exec .copyBurstLanding (At s (.idx2 x.core x.q)) = .next u ∧ u.copies = [] ∧ u.teams = s.teams ∧
      (∀ i, i < x.d.dsize → u.rdNew (l' + i) = s.rdNew (l + i)) ∧ ∀ a, ¬ (l' ≤ a ∧ a < l' + x.d.dsize) → u.rdNew a = s.rdNew a) ∧
  (∀ (s : State) (g : GatherCmd) (h : Nat), s.gathers.find? (fun x => x.id == g.id) = some g →
    (h ∈ g.done → exec .gatherRowLanding (At s (.idx2 g.id h)) = .next (At s (.idx2 g.id h))) ∧
    (∀ t x bs, s.team? g.team = some t → g.index[h]? = some x → t.st = .resident → h ∉ g.done → g.scOff = none →
      s.engBytes t (s.ctxOf t) { team := g.team, grid := t.grid, warp := g.warp, w := s.warp? g.team g.warp, q := none, at_ := g.at_ } ((List.range (g.range.klen * g.range.size)).map (fun i => g.rowBase + x * g.pitch + i)) = .ok bs →
      ∃ u t', exec .gatherRowLanding (At s (.idx2 g.id h)) = .next u ∧ u.team? g.team = some t' ∧
        t'.cask = (t.putCask (g.range.base + (g.first + h) * g.range.rstride) bs).cask ∧
        (g.done.length + 1 = g.index.length → u.gathers = s.gathers.filter (fun y => y.id != g.id)) ∧
        (g.done.length + 1 ≠ g.index.length → u.gathers = s.gathers.map (fun y => if y.id = g.id then { y with done := h :: (y.done) } else y)))) ∧
  (∀ (s : State) (p : StreamPub) (x : StreamSub) (t : Team), s.spubs.find? (fun y => y.id == p.id) = some p →
    s.ssubs.find? (fun y => y.id == x.id) = some x → s.team? x.team = some t →
    (x.pub ≠ some p.id ∨ x.credits = 0 ∨ t.st ≠ .resident ∨ p.count ≤ x.next →
      exec .streamChunkDelivery (At s (.idx2 p.id x.id)) = .next (At s (.idx2 p.id x.id))) ∧
    (∀ rows, x.pub = some p.id → x.credits ≠ 0 → t.st = .resident → x.next < p.count → x.fits p t = true →
      s.chunkRows t (s.ctxOf t) { team := p.team, grid := p.grid, warp := p.warp, w := s.warp? p.team p.warp, q := none, at_ := p.at_ }
        p x.next p.rows = .ok rows →
      ∃ u, exec .streamChunkDelivery (At s (.idx2 p.id x.id)) = .next u ∧
        u.ssubs = if x.next + 1 = p.count then s.ssubs.filter (fun y => y.id != x.id)
          else s.ssubs.map (fun y => if y.id = x.id then { y with next := y.next + 1, credits := y.credits - 1 } else y))) ∧
  (∀ (s : State) (e : Entry), s.entry? e.seq = some e →
    (e.issued = false ∨ e.done = true ∨ e.task.opcode ≠ 0x34 →
      exec .bvhBuildComplete (At s (.idx e.seq)) = .next (At s (.idx e.seq))) ∧
    (e.issued = true → e.done = false → e.task.opcode = 0x34 →
      ∀ l rest, s.taskLocs e.ctx .write e.task.pa.toNat 128 = .ok (l :: rest) →
      (∀ n, s.bvhFind e l ((locRange l 128).map s.rdNew) = .bad n →
        ∃ t, exec .bvhBuildComplete (At s (.idx e.seq)) = .next t ∧ (∀ x ∈ t.win.entries, x.seq = e.seq → x.done = true) ∧
          (s.win.entries = [e] → e.marked = false → e.killed = false →
            ∃ e', t.win.entries = [e'] ∧ e'.fault = some (10, BitVec.ofNat 32 n))) ∧
      (∀ b bs ws, s.bvhFind e l ((locRange l 128).map s.rdNew) = .ok b bs → (Config.nodeArea (e.block ++ bs) b.nodes).length ≤ b.size →
        s.taskWrites e.ctx [(b.nodes, Config.nodeArea (e.block ++ bs) b.nodes)] = .ok ws →
        ∃ t bounds, exec .bvhBuildComplete (At s (.idx e.seq)) = .next t ∧ (∀ x ∈ t.win.entries, x.seq = e.seq → x.done = true) ∧
          Stored s t (ws ++ atLoc l (bvhHeader e.block ((b.gen + 1) % 4294967296) (Config.nodeArea (e.block ++ bs) b.nodes).length bounds)))))

/-- The raster's moves (R356, R361, R363, R368): a binned pass rasterises every primitive once its geometry has ended; a resolution
waits for its colour and for every earlier primitive, and a discarded one leaves memory as it was; a pixel lock that cannot
be granted leaves its lane waiting, and one that is granted is held; a pass ends once everything of it is applied and its
pixel teams are gone. -/
def Obligations.RasterMoves : Prop :=
  (∀ (s : State) (p : Pass), s.pass? p.id = some p →
    (p.geomEnded = false ∨ (∀ q ∈ p.prims, q.done = true) → exec .binnedRasterisation (At s (.idx p.id)) = .next (At s (.idx p.id))) ∧
    (p.geomEnded = true → (∃ q ∈ p.prims, q.done = false) →
      ∃ t p', exec .binnedRasterisation (At s (.idx p.id)) = .next t ∧ t.pass? p.id = some p' ∧ (∀ q ∈ p'.prims, q.done = true) ∧
        p'.prims.map Prim.key = p.prims.map Prim.key ∧ t.mem = s.mem ∧ t.teams = s.teams)) ∧
  (∀ (s : State) (p : Pass) (x y : Nat), s.pass? p.id = some p →
    (p.nextAt x y = none → exec .pixelResolution (At s (.idx3 p.id x y)) = .next (At s (.idx3 p.id x y))) ∧
    (∀ r, p.nextAt x y = some r → (r.colour = none ∨ s.settled p r.key = false) →
      exec .pixelResolution (At s (.idx3 p.id x y)) = .next (At s (.idx3 p.id x y))) ∧
    (∀ r, p.nextAt x y = some r → r.colour = some none → s.settled p r.key = true →
      ∃ t p', exec .pixelResolution (At s (.idx3 p.id x y)) = .next t ∧ t.mem = s.mem ∧ t.pass? p.id = some p' ∧
        p'.pixels = p.pixels.map (fun q => if q.is r.key r.x r.y then { q with applied := true } else q)) ∧
    (∀ r col ws, p.nextAt x y = some r → r.colour = some (some col) → s.settled p r.key = true → s.backEnd p r col = .ok ws →
      ∃ t p', exec .pixelResolution (At s (.idx3 p.id x y)) = .next t ∧ Stored s t ws ∧
        t.pass? p.id = some p' ∧ p'.pixels = p.pixels.map (fun q => if q.is r.key r.x r.y then { q with applied := true } else q))) ∧
  (∀ (s : State) (t : Team) (wi l : Nat) (w : Warp) (x : WaitRec), s.team? t.id = some t → s.warp? t.id wi = some w →
    (w.thr l).wait = some x →
    (x.woken.isSome = true ∨ (At s (.idx3 t.id wi l)).grant t wi w l = none → exec .pixlockGrant (At s (.idx3 t.id wi l)) = .next (At s (.idx3 t.id wi l))) ∧
    (∀ s1 a b, x.woken = none → x.on = .pixel a b → (At s (.idx3 t.id wi l)).grant t wi w l = some s1 → l < w.threads.length →
      ∃ u th, exec .pixlockGrant (At s (.idx3 t.id wi l)) = .next u ∧ u.thr? t.id wi l = some th ∧ th.pixLock = true)) ∧
  (∀ (s : State) (p : Pass) (g : Grid), s.pass? p.id = some p → s.grid? p.grid = some g →
    ((p.geomEnded = false ∨ (∃ q ∈ p.prims, q.done = false) ∨ (∃ t ∈ s.teams, t.grid = g.id) ∨ (∃ r ∈ p.pixels, r.applied = false)) →
      exec .passComplete (At s (.idx p.id)) = .next (At s (.idx p.id))) ∧
    (p.geomEnded = true → (∀ q ∈ p.prims, q.done = true) → (∀ t ∈ s.teams, t.grid ≠ g.id) → (∀ r ∈ p.pixels, r.applied = true) → p.jobs = [] →
      g.reds = [] →
      ∃ u, exec .passComplete (At s (.idx p.id)) = .next u ∧ u.passes = s.passes.filter (fun x => x.id != p.id) ∧
        u.grids = s.grids.filter (fun x => x.id != g.id) ∧ u.mem = s.mem ∧ u.teams = s.teams))

/-! ## Collectives -/

/-- Arrivals and announcements (R373 to R376): an arrival for an instance that has not started is kept (the model's reading, log entry
107); ROOT answers LATE, once for each rank, to one that
belongs to an instance it has closed, of a rank outside the set or with the digest of a timed one, and any other is the next
instance's (which is which is the model's reading, log entry 150); ROOT closes at its deadline, or at an arrival that comes after it,
and announces the set of the ranks that had arrived to each of them. An
announcement that makes the set late or mismatched, or a missing ROOT at 1 ms after the deadline, ends a collective that is
not a timed barrier: its record is written and its task completes, with the fault of its status. -/
def Sys2Proof.Spec.CollectiveControl : Prop :=
  (∀ (s : State) (g : Nat) (tag : Word) (rank : Nat) (d : DWord) (fresh : Bool), s.collAt g tag = none →
    (s.collKept.find? (fun k => k.group == g && k.tag == tag) = none → exec .collectiveArrival (At s (.arrival g tag rank d fresh)) =
      .next { At s (.arrival g tag rank d fresh) with
        collEarly := s.collEarly ++ [{ group := g, tag := tag, rank := rank, value := d, flag := fresh, report := false }] }) ∧
    (∀ k, s.collKept.find? (fun k => k.group == g && k.tag == tag) = some k →
      let late : Prop := (k.c.getLsbD rank = false ∨ (k.timed = true ∧ d = k.digest)) ∧ rank ∉ k.told
      (late → ∃ ks, ks.find? (fun k => k.group == g && k.tag == tag) = some { k with told := rank :: k.told } ∧
        ks.map (fun k => { k with told := [] }) = s.collKept.map (fun k => { k with told := [] }) ∧
        exec .collectiveArrival (At s (.arrival g tag rank d fresh)) = .next { At s (.arrival g tag rank d fresh) with
          collKept := ks
          out := if k.root then s.out ++ [.announce g tag rank (if k.aged then 0 else k.c) .late] else s.out }) ∧
      (¬ late → exec .collectiveArrival (At s (.arrival g tag rank d fresh)) = .next { At s (.arrival g tag rank d fresh) with
        collEarly := s.collEarly ++ [{ group := g, tag := tag, rank := rank, value := d, flag := fresh, report := false }] }))) ∧
  (∀ (s : State) (g : Nat) (tag : Word) (rank : Nat) (d : DWord) (fresh : Bool) (c : Coll), s.collAt g tag = some c → s.coll? c.id = some c →
    c.closed = false → c.status = none → rank < c.size → c.isRoot = false → (∀ a ∈ c.arrivals, a.1 ≠ rank) →
    ∃ t c', exec .collectiveArrival (At s (.arrival g tag rank d fresh)) = .next t ∧ t.coll? c.id = some c' ∧
      c'.arrivals = c.arrivals ++ [(rank, d, fresh)] ∧ t.out = s.out ∧ t.mem = s.mem ∧ t.win = s.win) ∧
  (∀ (s : State) (g : Nat) (tag : Word) (c : Coll), s.collAt g tag = some c →
    ((c.isRoot = false ∨ c.sentArr = false ∨ c.closed = true ∨ c.status.isSome = true ∨ (∀ d, c.deadline = some d → s.ptime < d)) →
      exec .collectiveDeadline (At s (.group g tag)) = .next (At s (.group g tag))) ∧
    (c.isRoot = true → c.sentArr = true → c.closed = false → c.status = none → (∃ d, c.deadline = some d ∧ d ≤ s.ptime) →
      (∃ t v, exec .collectiveDeadline (At s (.group g tag)) = .next t ∧
        ∀ a ∈ c.arrivals, a.1 ≠ c.rank → .announce c.group c.tag a.1 (setOf (c.arrivals.map (fun a => a.1))) v ∈ t.out) ∧
      ∀ rank d fresh, ∃ t v, exec .collectiveArrival (At s (.arrival g tag rank d fresh)) = .next t ∧
        ∀ a ∈ c.arrivals, a.1 ≠ c.rank → .announce c.group c.tag a.1 (setOf (c.arrivals.map (fun a => a.1))) v ∈ t.out) ∧
    ((c.isRoot = true ∨ c.sentArr = false ∨ c.status.isSome = true ∨ (∀ d, c.deadline = some d → s.ptime < d + 1000000)) →
      exec .collNoroot (At s (.group g tag)) = .next (At s (.group g tag)))) ∧
  (∀ (s : State) (g : Nat) (tag : Word) (c : Coll) (pa : Nat), s.collAt g tag = some c → s.coll? c.id = some c → c.isRoot = false →
    c.sentArr = true → c.closed = false → c.status = none → c.op ≠ 6 → c.bar = none → c.myEgress = none →
    s.tr { c.ctx with pure := false } c.result .write = .ok pa →
    let ends (t : State) (st fault : Nat) : Prop := t.rdPhys pa 4 = st ∧ s.out.length ≤ t.out.length ∧
      (∀ e ∈ t.win.entries, e.seq = c.seq → e.done = true) ∧
      (∀ e, s.win.entries = [e] → e.seq = c.seq → e.done = false → e.marked = false → e.killed = false →
        ∃ e', t.win.entries = [e'] ∧ e'.fault = if fault = 0 then none else some (fault, BitVec.ofNat 32 c.group)) ∧
      ∀ a, ¬ (pa ≤ a ∧ a < pa + 64) → t.rdNew a = s.rdNew a
    (∀ set, ∃ t, exec .collectiveAnnouncement (At s (.announcement g tag set .late)) = .next t ∧ ends t 2 0) ∧
    (∀ set, ∃ t, exec .collectiveAnnouncement (At s (.announcement g tag set .mismatch)) = .next t ∧ ends t 3 22) ∧
    ((∃ d, c.deadline = some d ∧ d + 1000000 ≤ s.ptime) → ∃ t, exec .collNoroot (At s (.group g tag)) = .next t ∧ ends t 4 23))

/-- Data, reports and links of the collectives (R376, R379, R380, R384, R385, R436): a chunk for this member that is expected takes a
free slot, and any other is dropped; one on its way to another member goes on to the next one (log entry 149), also after this
member's instance has ended, and before the announcement it is held for it; a report is kept, or added to its timed barrier; the record of a timed barrier is not written before
2 ms after its PTIME for want of reports; a change of the links, once the firmware has booted, raises vector 4. -/
def Sys2Proof.Spec.CollectiveData : Prop :=
  (∀ (s : State) (g : Nat) (tag : Word) (dst rank off : Nat) (bs : List Byte),
    let a : Arg := .chunk g tag dst rank off bs
    let ended (c : Coll) : Prop := ∃ k, s.collKept.find? (fun k => k.group == g && k.tag == tag) = some k ∧ k.of = some c ∧
      c.rank ≠ dst ∧ c.c.getLsbD dst = true ∧ c.c.getLsbD rank = true
    (s.collAt g tag = none → (∀ c, ¬ ended c) → exec .collectiveChunk (At s a) = .next (At s a)) ∧
    (∀ c, ended c → (s.collAt g tag = none ∨ ∃ x, s.collAt g tag = some x ∧ dst ≠ x.rank ∧ x.closed = false) →
      exec .collectiveChunk (At s a) = .next { At s a with out := s.out ++ [.chunk g tag (c.hop dst) dst rank off bs] }) ∧
    (∀ c, s.collAt g tag = some c → s.coll? c.id = some c → dst ≠ c.rank → c.closed = false → (∀ c', ¬ ended c') →
      ∃ t, exec .collectiveChunk (At s a) = .next t ∧ t.coll? c.id = some { c with relay := c.relay ++ [(dst, rank, off, bs)] } ∧
        t.out = s.out ∧ t.mem = s.mem ∧ t.win = s.win) ∧
    (∀ c, s.collAt g tag = some c → dst ≠ c.rank → c.closed = true → c.c.getLsbD dst = true →
      exec .collectiveChunk (At s a) = .next { At s a with out := s.out ++ [.chunk g tag (c.hop dst) dst rank off bs] }) ∧
    (∀ c i, s.collAt g tag = some c → s.coll? c.id = some c → dst = c.rank → c.status = none → c.expects rank = true →
      (∀ d ∈ c.data, ¬ (d.1 = rank ∧ d.2.1 = off)) → (∀ x ∈ c.slots ++ c.spilled, ¬ (x.2.1 = rank ∧ x.2.2 = off)) →
      off % c.chunk = 0 → off < c.block → bs.length = c.chunkLen off → s.freeSlot = some i →
      ∃ t c', exec .collectiveChunk (At s a) = .next t ∧ t.coll? c.id = some c' ∧
        c'.slots = c.slots ++ [(i, rank, off)] ∧ Stored s t (atLoc (collSlot i) bs) ∧ t.win = s.win ∧ t.out = s.out) ∧
    (∀ c, s.collAt g tag = some c → dst = c.rank → (c.expects rank = false ∨ off % c.chunk ≠ 0 ∨ c.block ≤ off) →
      exec .collectiveChunk (At s a) = .next (At s a))) ∧
  (∀ (s : State) (g : Nat) (tag : Word) (rank : Nat) (eg : DWord) (locked : Bool),
    (s.collAt g tag = none →
      let ended : Prop := ∃ k ∈ s.collKept, k.group = g ∧ k.tag = tag ∧ k.c.getLsbD rank = true
      let next : Prop := ∃ m ∈ s.collEarly, m.group = g ∧ m.tag = tag ∧ m.rank = rank ∧ m.report = false
      (¬ ended ∨ next → exec .egressReport (At s (.report g tag rank eg locked)) = .next { At s (.report g tag rank eg locked) with
        collEarly := s.collEarly ++ [{ group := g, tag := tag, rank := rank, value := eg, flag := locked, report := true }] }) ∧
      (ended → ¬ next → exec .egressReport (At s (.report g tag rank eg locked)) = .next (At s (.report g tag rank eg locked)))) ∧
    (∀ c, s.collAt g tag = some c → c.op ≠ 6 → exec .egressReport (At s (.report g tag rank eg locked)) = .next (At s (.report g tag rank eg locked))) ∧
    (∀ c, s.collAt g tag = some c → s.coll? c.id = some c → c.op = 6 → c.status = none → (∀ a ∈ c.reports, a.1 ≠ rank) →
      ∃ t c', exec .egressReport (At s (.report g tag rank eg locked)) = .next t ∧ t.coll? c.id = some c' ∧
        c'.reports = c.reports ++ [(rank, eg, locked)] ∧ t.mem = s.mem ∧ t.win = s.win)) ∧
  (∀ (s : State) (g : Nat) (tag : Word) (c : Coll), s.collAt g tag = some c → s.coll? c.id = some c →
    (c.op ≠ 6 ∨ s.ptime < c.ptime + 2000000 → exec .tbarReportTimeout (At s (.group g tag)) = .next (At s (.group g tag))) ∧
    (∀ pa, c.op = 6 → c.live = true → c.ptime + 2000000 ≤ s.ptime → c.status = none → c.bar = none →
      s.tr { c.ctx with pure := false } c.result .write = .ok pa →
      ∃ t, exec .tbarReportTimeout (At s (.group g tag)) = .next t ∧ t.coll? c.id = none ∧ t.rdPhys pa 4 = 4 ∧
        ∀ a, ¬ (pa ≤ a ∧ a < pa + 64) → t.rdNew a = s.rdNew a)) ∧
  (∀ (s : State) (up : BitVec 6),
    (up = s.linkUp ∨ s.trust.state ≠ 1 → exec .linkStateChange (At s (.links up)) = .next (At s (.links up))) ∧
    (up ≠ s.linkUp → s.trust.state = 1 → ∃ t, exec .linkStateChange (At s (.links up)) = .next t ∧ t.linkUp = up ∧
      t.irqs = s.irqs ++ [4]))

/-! ## Statements of more than one part -/

/-- Task records carry their bits, and what the bundle rules refuse. -/
def Obligations.EncodingRefusals : Prop :=
  Sys2Proof.Spec.TaskRecordWords ∧ Sys2Proof.Spec.MalformedBundles

/-- bfe, bfi and bsel: the fields and bytes that they take and place. -/
def Obligations.FieldAndByteInstructions : Prop :=
  Sys2Proof.Spec.BitFieldRules ∧ Sys2Proof.Spec.ByteSelectRule

/-- Floating-point results, compares and logged flags. -/
def Obligations.FloatInstructions : Prop :=
  Sys2Proof.Spec.FloatResults ∧ Sys2Proof.Spec.FloatCompares

/-- fmin and fmax, rounding to an integer, NaN and invalid operands. -/
def Obligations.FloatValueRules : Prop :=
  Sys2Proof.Spec.MinMaxRule ∧ Sys2Proof.Spec.RoundIntRule ∧ Sys2Proof.Spec.NanRule

/-- movs, time, cycles and retired. -/
def Obligations.SpecialValuesAndClocks : Prop :=
  Sys2Proof.Spec.SpecialValueMoves ∧ Sys2Proof.Spec.ClockReads

/-- Relays, polls, peers and gred over the issuing group. -/
def Obligations.CrossLaneResults : Prop :=
  Sys2Proof.Spec.RelayResults ∧ Sys2Proof.Spec.GroupResults

/-- Control transfers, with a true and with a false guard. -/
def Obligations.ControlTransfers : Prop :=
  Sys2Proof.Spec.Transfers ∧ Sys2Proof.Spec.GuardedOff

/-- What halts at a transfer, at brk and at an illegal encoding, and what a halt keeps. -/
def Obligations.HaltingInstructions : Prop :=
  Sys2Proof.Spec.TransferHalts ∧ Sys2Proof.Spec.HaltKeepsWarp ∧ Sys2Proof.Spec.BreakAndIllegalHalt

/-- Atomics and reductions: the update of a word, and the lanes in order. -/
def Obligations.AtomicInstructions : Prop :=
  Sys2Proof.Spec.AtomicRule ∧ Sys2Proof.Spec.AtomicsAndReductions

/-- Release and acquire events, fence.r, phase and prefetch.g. -/
def Obligations.Synchronisation : Prop :=
  Sys2Proof.Spec.ReleaseAcquire ∧ Sys2Proof.Spec.Fences

/-- barinit, arrive and expect on sound and broken objects, at once and held. -/
def Obligations.BarrierInstructions : Prop :=
  Sys2Proof.Spec.BarrierUpdates ∧ Sys2Proof.Spec.BarrierBrokenAndHeld

/-- The matrix instructions: commands accepted and halts. -/
def Obligations.MatrixInstructions : Prop :=
  Sys2Proof.Spec.MatrixCommands ∧ Sys2Proof.Spec.MatrixHalts

/-- What copies, gathers, streams and builds land. -/
def Obligations.CopyLandings : Prop :=
  Sys2Proof.Spec.CopyElements ∧ Sys2Proof.Spec.Landings

/-- Renaming at decode, the issue and the completion of tasks. -/
def Obligations.TaskWindowMoves : Prop :=
  Sys2Proof.Spec.TaskBuffers ∧ Sys2Proof.Spec.TaskIssueMoves ∧ Sys2Proof.Spec.TaskCompletionMoves

/-- Retirement of the head task, and the precise task fault. -/
def Obligations.TaskRetirement : Prop :=
  Sys2Proof.Spec.TaskRetires ∧ Sys2Proof.Spec.PreciseFault

/-- Writes of the register window, and the synchronisation of a region. -/
def Obligations.RegisterAndRegionWrites : Prop :=
  Sys2Proof.Spec.RegisterWrites ∧ Sys2Proof.Spec.RegionSynchronisation

/-- Reads that clear, power requests, and host accesses of device memory. -/
def Obligations.HostReadsAndAccesses : Prop :=
  Sys2Proof.Spec.StatusReads ∧ Sys2Proof.Spec.HostAccesses

/-- Recovery of firmware and the attestation requests. -/
def Obligations.FirmwareAndAttestation : Prop :=
  Sys2Proof.Spec.FirmwareRecovery ∧ Sys2Proof.Spec.Attestation

/-- RESUME, SKIP and KILL of a halted warp, and kills of a fault domain. -/
def Obligations.HaltedWarpCommandsAndKills : Prop :=
  Sys2Proof.Spec.HaltCommands ∧ Sys2Proof.Spec.Kills

/-- Recovery records, broken objects, the house core and memory errors. -/
def Obligations.RecoveryAndErrors : Prop :=
  Sys2Proof.Spec.RecoveryRecords ∧ Sys2Proof.Spec.HouseAndErrors

/-- Frames sent and streams received. -/
def Obligations.FrameAndReceiveMoves : Prop :=
  Sys2Proof.Spec.FrameMoves ∧ Sys2Proof.Spec.ReceiveMoves

/-- Almanac cycles and slots, and the power loop. -/
def Obligations.AlmanacAndPowerMoves : Prop :=
  Sys2Proof.Spec.AlmanacMoves ∧ Sys2Proof.Spec.PowerMoves

/-- Waves placed, teams and grids ended, swapped out and restored. -/
def Obligations.WaveAndTeamMoves : Prop :=
  Sys2Proof.Spec.PlacementMoves ∧ Sys2Proof.Spec.TeamMoves

/-- Collectives: arrivals, announcements, data, reports and links. -/
def Obligations.Collectives : Prop :=
  Sys2Proof.Spec.CollectiveControl ∧ Sys2Proof.Spec.CollectiveData
end

