-- ==== Sys2Proof/Laws/Units.lean ====
section
/-! SUPPORT. Laws/Units: lookup after update for teams, warps, threads and registers. -/

namespace Sys2Proof.Machine

/-! ## Sparse tables -/

theorem KV.get_ins {β : Type} (d : β) (a : Nat) (x : β) (m : KV β) : KV.get d a (KV.ins a x (KV.del a m)) = x := by
  induction m with
  | nil => simp [KV.del, KV.ins, KV.get]
  | cons e t ih =>
    obtain ⟨k, y⟩ := e
    by_cases hk : k = a
    · simpa [KV.del, hk] using ih
    · simp only [KV.del] at ih
      simp only [KV.del, bne_iff_ne, ne_eq, hk, not_false_eq_true, List.filter_cons_of_pos, KV.ins]
      split
      · simp [KV.get]
      · simpa [KV.get, hk] using ih

theorem KV.get_ins_ne {β : Type} (d : β) {a b : Nat} (h : b ≠ a) (x : β) (m : KV β) : KV.get d b (KV.ins a x m) = KV.get d b m := by
  induction m with
  | nil => simp [KV.ins, KV.get, Ne.symm h]
  | cons e t ih =>
    obtain ⟨k, y⟩ := e
    simp only [KV.ins]
    split
    · simp [KV.get, Ne.symm h]
    · simp [KV.get, ih]

theorem KV.get_del_ne {β : Type} (d : β) {a b : Nat} (h : b ≠ a) (m : KV β) : KV.get d b (KV.del a m) = KV.get d b m := by
  induction m with
  | nil => simp [KV.del, KV.get]
  | cons e t ih =>
    obtain ⟨k, y⟩ := e
    simp only [KV.del] at ih
    by_cases hk : k = a
    · subst hk
      simp [KV.del, KV.get, Ne.symm h, ih]
    · simp [KV.del, KV.get, hk, ih]

theorem KV.get_del {β : Type} (d : β) (a : Nat) (m : KV β) : KV.get d a (KV.del a m) = d := by
  induction m with
  | nil => simp [KV.del, KV.get]
  | cons e t ih =>
    obtain ⟨k, y⟩ := e
    simp only [KV.del] at ih
    by_cases hk : k = a
    · simpa [KV.del, hk] using ih
    · simp [KV.del, KV.get, hk, ih]

/-- A read after a write of a table. -/
theorem KV.get_put {β : Type} [DecidableEq β] (d : β) (a b : Nat) (x : β) (m : KV β) :
    KV.get d b (KV.put d a x m) = if b = a then x else KV.get d b m := by
  unfold KV.put
  by_cases h : b = a
  · subst h
    split
    · simp [KV.get_del, *]
    · simp [KV.get_ins]
  · split
    · simp [KV.get_del_ne d h]
    · simp [KV.get_ins_ne d h, KV.get_del_ne d h]

/-! ## Lists by index -/

theorem updAt_getElem? {α : Type} (f : α → α) (n : Nat) (xs : List α) (i : Nat) :
    (updAt f n xs)[i]? = if i = n then xs[i]?.map f else xs[i]? := by
  induction xs generalizing n i with
  | nil => simp [updAt]
  | cons x t ih =>
    cases n with
    | zero => cases i <;> simp [updAt]
    | succ n =>
      cases i with
      | zero => simp [updAt]
      | succ i => simp [updAt, ih]

theorem mapIx_getElem? {α : Type} (f : Nat → α → α) (k : Nat) (xs : List α) (i : Nat) :
    (mapIx f k xs)[i]? = xs[i]?.map (f (k + i)) := by
  induction xs generalizing k i with
  | nil => simp [mapIx]
  | cons x t ih =>
    cases i with
    | zero => simp [mapIx]
    | succ i => simp [mapIx, ih, Nat.add_comm, Nat.add_left_comm]

/-! ## Units of work -/

theorem find?_map_id {α : Type} (key : α → Nat) (id j : Nat) (f : α → α) (hf : ∀ x, key (f x) = key x) (xs : List α) :
    (xs.map (fun x => if key x == id then f x else x)).find? (fun x => key x == j) =
      if j = id then (xs.find? (fun x => key x == j)).map f else xs.find? (fun x => key x == j) := by
  induction xs with
  | nil => simp
  | cons x t ih =>
    rw [List.map_cons, List.find?_cons, List.find?_cons, ih]
    by_cases hx : key x = id
    · by_cases hj : j = id
      · subst hj
        simp [hx, hf]
      · have h2 : (id == j) = false := beq_eq_false_iff_ne.mpr (fun h => hj h.symm)
        simp [hx, hf, hj, h2]
    · by_cases hk : key x = j
      · have hj : ¬ (j = id) := fun h => hx (hk.trans h)
        simp [hk, hj]
      · have h2 : (key x == j) = false := beq_eq_false_iff_ne.mpr hk
        simp only [beq_iff_eq, hx, if_false, h2]

theorem State.team?_updTeam (s : State) (id j : Nat) (f : Team → Team) (hf : ∀ t, (f t).id = t.id) :
    (s.updTeam id f).team? j = if j = id then (s.team? j).map f else s.team? j :=
  find?_map_id Team.id id j f hf s.teams

theorem State.team?_updWarp (s : State) (t w j : Nat) (f : Warp → Warp) :
    (s.updWarp t w f).team? j = if j = t then (s.team? j).map (fun u => u.updWarp w f) else s.team? j :=
  s.team?_updTeam t j _ (fun _ => rfl)

/-- The warp that was updated. -/
theorem State.warp?_updWarp (s : State) (t w : Nat) (f : Warp → Warp) :
    (s.updWarp t w f).warp? t w = (s.warp? t w).map f := by
  simp only [State.warp?, State.team?_updWarp, if_true]
  cases s.team? t <;> simp [Team.updWarp, updAt_getElem?]

/-- Every other warp is as it was. -/
theorem State.warp?_updWarp_ne (s : State) (t w u v : Nat) (f : Warp → Warp) (h : u ≠ t ∨ v ≠ w) :
    (s.updWarp t w f).warp? u v = s.warp? u v := by
  simp only [State.warp?, State.team?_updWarp]
  split
  · rename_i hu
    have hv : v ≠ w := h.resolve_left (fun g => g hu)
    cases s.team? u <;> simp [Team.updWarp, updAt_getElem?, hv]
  · rfl

@[simp] theorem State.updWarp_updWarp (s : State) (t w : Nat) (f g : Warp → Warp) :
    (s.updWarp t w f).updWarp t w g = s.updWarp t w (fun x => g (f x)) := by
  have h : ∀ xs : List Warp, ∀ n, updAt g n (updAt f n xs) = updAt (fun x => g (f x)) n xs := by
    intro xs
    induction xs with
    | nil => intro n; simp [updAt]
    | cons x r ih => intro n; cases n <;> simp [updAt, ih]
  simp only [State.updWarp, State.updTeam, List.map_map]
  congr 1
  apply List.map_congr_left
  intro u _
  by_cases hu : u.id = t <;> simp [hu, Team.updWarp, h]

theorem State.warp?_team? {s : State} {t w : Nat} {v : Warp} (h : s.warp? t w = some v) :
    ∃ u, s.team? t = some u ∧ u.warps[w]? = some v := by
  simpa [State.warp?, Option.bind_eq_some_iff] using h

/-! ## Threads -/

theorem Warp.thr_mapThr (w : Warp) (f : Nat → Thread → Thread) (l : Nat) (h : l < w.threads.length) :
    (w.mapThr f).thr l = f l (w.thr l) := by
  simp [Warp.thr, Warp.mapThr, List.getD_eq_getElem?_getD, mapIx_getElem?, List.getElem?_eq_getElem h]

theorem Warp.thr_mapThr_ge (w : Warp) (f : Nat → Thread → Thread) (l : Nat) (h : w.threads.length ≤ l) :
    (w.mapThr f).thr l = w.thr l := by
  simp [Warp.thr, Warp.mapThr, List.getD_eq_getElem?_getD, mapIx_getElem?, List.getElem?_eq_none h]

/-- A function that leaves a thread alone where p fails. -/
theorem Warp.thr_mapThr_id (w : Warp) (f : Nat → Thread → Thread) (l : Nat) (h : f l (w.thr l) = w.thr l) :
    (w.mapThr f).thr l = w.thr l := by
  by_cases hl : l < w.threads.length
  · rw [Warp.thr_mapThr w f l hl, h]
  · exact Warp.thr_mapThr_ge w f l (Nat.le_of_not_lt hl)

theorem Warp.thr_updThr (w : Warp) (l j : Nat) (f : Thread → Thread) (h : l < w.threads.length) :
    (w.updThr l f).thr j = if j = l then f (w.thr j) else w.thr j := by
  simp only [Warp.thr, Warp.updThr, List.getD_eq_getElem?_getD, updAt_getElem?]
  split
  · subst j
    simp [List.getElem?_eq_getElem h]
  · rfl

theorem Warp.thr_updThr_ne (w : Warp) (l j : Nat) (f : Thread → Thread) (h : j ≠ l) : (w.updThr l f).thr j = w.thr j := by
  simp [Warp.thr, Warp.updThr, List.getD_eq_getElem?_getD, updAt_getElem?, h]

/-- A lane that issues has a thread of its own in the warp. -/
theorem Warp.lt_of_live {w : Warp} {l : Nat} (h : (w.thr l).live = true) : l < w.threads.length := by
  by_contra hl
  rw [Warp.thr, List.getD_eq_default _ _ (Nat.le_of_not_lt hl)] at h
  exact absurd h (by decide)

/-! ## Registers -/

theorem Thread.rv_setV (th : Thread) (n m : Nat) (x : Word) : (th.setV n x).rv m = if m = n then x else th.rv m := by
  simp [Thread.rv, Thread.setV, KV.get_put]

theorem Warp.rk_setK (w : Warp) (n m : Nat) (x : Word) : (w.setK n x).rk m = if m = n then x else w.rk m := by
  simp [Warp.rk, Warp.setK, KV.get_put]

@[simp] theorem Thread.rp_setV (th : Thread) (n m : Nat) (x : Word) : (th.setV n x).rp m = th.rp m := rfl
@[simp] theorem Thread.rv_setP (th : Thread) (n m : Nat) (b : Bool) : (th.setP n b).rv m = th.rv m := by
  unfold Thread.setP; split <;> rfl

theorem Thread.rp_setP (th : Thread) (n m : Nat) (b : Bool) (hn : n < 7) (hm : m < 7) :
    (th.setP n b).rp m = if m = n then b else th.rp m := by
  have hn7 : n ≠ 7 := by omega
  have hm7 : m ≠ 7 := by omega
  by_cases h : m = n
  · subst h
    cases b <;> simp [Thread.setP, Thread.rp, hm7, hm]
  · have h2 : m - n = 0 → m < n := by omega
    have h3 : ¬ (m < n) → ¬ (m - n = 0) := fun a c => a (h2 c)
    by_cases h4 : m < n
    · cases b <;> simp [Thread.setP, Thread.rp, hn7, hm7, h, hm, h4]
    · cases b <;> simp [Thread.setP, Thread.rp, hn7, hm7, h, hm, h4, h3 h4]

end Sys2Proof.Machine
end

