-- ==== Sys2Proof/Laws/Issue.lean ====
section
/-! SUPPORT. Laws/Issue: what the issue of a bundle establishes, and what the shared operations that write registers do. -/

namespace Sys2Proof.Machine

/-! ## What an issue establishes -/

/-- A group that may issue: what holds of it (R47). -/
structure Issued (s : State) (c : Ctx) (t : Team) (w : Warp) : Prop where
  cur : s.cur = some c
  team : s.team? c.team = some t
  warp : s.warp? c.team c.warp = some w
  resident : t.st = .resident
  running : w.halt = none
  lanes : c.lanes ≠ []
  live : ∀ l ∈ c.lanes, (w.thr l).live = true ∧ (w.thr l).exited = false ∧ (w.thr l).pc = c.pc ∧ (w.thr l).conv = none

theorem State.issue_go {s : State} {i : Instr} {c : Ctx} {t : Team} {w : Warp} (h : s.issue i = .go c t w) : Issued s c t w := by
  unfold State.issue at h
  split at h
  · cases h
  · rename_i c0 hc
    split at h
    · rename_i t0 w0 ht hw
      split at h
      · cases h
      · rename_i hn
        split at h
        · cases h
        · simp only at h
          split at h
          · cases h
          · split at h
            · cases h
            · cases h
              rw [not_or, not_or] at hn
              obtain ⟨h1, h2, h3⟩ := hn
              have h4 : issuable w c = true := by simpa using h3
              simp only [issuable, Bool.and_eq_true, List.all_eq_true, Bool.not_eq_true', List.isEmpty_eq_false_iff] at h4
              refine ⟨hc, ht, hw, by simpa using h1, by simpa using h2, h4.1, ?_⟩
              intro l hl
              have := h4.2 l hl
              simp only [beq_iff_eq, Option.isNone_iff_eq_none] at this
              exact ⟨this.1.1.1.1, this.1.1.1.2, this.1.1.2, this.1.2⟩
    · cases h

/-- A bundle that issues ends as its own effect says. -/
theorem kernelOp_go {s : State} {i : Instr} {c : Ctx} {t : Team} {w : Warp} (h : s.issue i = .go c t w)
    (body : Ctx → Team → Warp → State → KOut) :
    kernelOp i body s =
      match body c t w (s.advance c w) with
      | .ok s1 => .next s1
      | .halt x => .next (s.haltWarp c x false)
      | .page ps => .next (s.pageWait c t ps)
      | .memErr x l => .next ((s.memErr (s.ctxOf t).seq l).haltWarp c x false) := by
  cases hb : body c t w (s.advance c w) <;> simp only [kernelOp, h, hb]

/-! ## Register writes of a warp -/

/-- What register writes leave alone in a warp. -/
structure RegFrame (w w' : Warp) : Prop where
  rest : w' = { w with threads := w'.threads, k := w'.k }
  length : w'.threads.length = w.threads.length
  thr : ∀ l, w'.thr l = { w.thr l with v := (w'.thr l).v, p := (w'.thr l).p }

theorem RegFrame.refl (w : Warp) : RegFrame w w := ⟨rfl, rfl, fun _ => rfl⟩

theorem RegFrame.trans {a b c : Warp} (h : RegFrame a b) (g : RegFrame b c) : RegFrame a c := by
  refine ⟨?_, g.length.trans h.length, fun l => ?_⟩
  · rw [g.rest, h.rest]
  · rw [g.thr l, h.thr l]

theorem updAt_length {α : Type} (f : α → α) (n : Nat) (xs : List α) : (updAt f n xs).length = xs.length := by
  induction xs generalizing n with
  | nil => cases n <;> rfl
  | cons x t ih => cases n <;> simp [updAt, ih]

theorem RegFrame.updThr (w : Warp) (l : Nat) (f : Thread → Thread)
    (hf : ∀ th, f th = { th with v := (f th).v, p := (f th).p }) : RegFrame w (w.updThr l f) := by
  refine ⟨rfl, updAt_length f l w.threads, fun j => ?_⟩
  by_cases hj : j = l
  · subst hj
    by_cases hl : j < w.threads.length
    · rw [Warp.thr_updThr w j j f hl, if_pos rfl]
      exact hf (w.thr j)
    · have h1 : (w.updThr j f).thr j = w.thr j := by
        have := List.getElem?_eq_none (Nat.le_of_not_lt hl)
        simp [Warp.thr, Warp.updThr, List.getD_eq_getElem?_getD, updAt_getElem?, this]
      rw [h1]
  · rw [Warp.thr_updThr_ne w l j f hj]

theorem Thread.setP_frame (th : Thread) (n : Nat) (b : Bool) : th.setP n b = { th with p := (th.setP n b).p } := by
  unfold Thread.setP; split <;> rfl

theorem Warp.wrReg_frame (w : Warp) (l : Nat) (r : Reg) (x : Word) : RegFrame w (w.wrReg l r x) := by
  cases r with
  | v n => exact RegFrame.updThr w l _ (fun th => rfl)
  | p n => exact RegFrame.updThr w l _ (fun th => by rw [Thread.setP_frame])
  | k n => exact ⟨rfl, rfl, fun _ => rfl⟩
  | t n => exact RegFrame.refl w

theorem Warp.wrRegs_frame (w : Warp) (l : Nat) (rs : List (Reg × Word)) : RegFrame w (w.wrRegs l rs) := by
  induction rs generalizing w with
  | nil => exact RegFrame.refl w
  | cons q t ih => exact (w.wrReg_frame l q.1 q.2).trans (ih _)

theorem Warp.wrLanes_frame (w : Warp) (ws : List (Nat × List (Reg × Word))) : RegFrame w (w.wrLanes ws) := by
  induction ws generalizing w with
  | nil => exact RegFrame.refl w
  | cons q t ih => exact (w.wrRegs_frame q.1 q.2).trans (ih _)

/-! ## The values written -/

theorem Warp.wrReg_rv (w : Warp) (l j n : Nat) (r : Reg) (x : Word) (h : l < w.threads.length) :
    ((w.wrReg l r x).thr j).rv n = if j = l ∧ r = .v n then x else (w.thr j).rv n := by
  cases r with
  | v m =>
    by_cases hj : j = l
    · subst hj
      simp only [Warp.wrReg, Warp.thr_updThr w j j _ h, if_pos, Thread.rv_setV, Reg.v.injEq, true_and]
      by_cases hm : m = n
      · simp [hm]
      · simp [hm, Ne.symm hm]
    · simp [Warp.wrReg, Warp.thr_updThr_ne w l j _ hj, hj]
  | p m =>
    by_cases hj : j = l
    · subst hj
      simp [Warp.wrReg, Warp.thr_updThr w j j _ h]
    · simp [Warp.wrReg, Warp.thr_updThr_ne w l j _ hj]
  | k m => simp [Warp.wrReg, Warp.setK, Warp.thr]
  | t m => simp [Warp.wrReg]

theorem Warp.wrReg_rp (w : Warp) (l j n : Nat) (r : Reg) (x : Word) (h : l < w.threads.length) (hn : n < 7) :
    ((w.wrReg l r x).thr j).rp n = if j = l ∧ r = .p n then x != 0 else (w.thr j).rp n := by
  cases r with
  | v m =>
    by_cases hj : j = l
    · subst hj
      simp [Warp.wrReg, Warp.thr_updThr w j j _ h]
    · simp [Warp.wrReg, Warp.thr_updThr_ne w l j _ hj]
  | p m =>
    by_cases hj : j = l
    · subst hj
      simp only [Warp.wrReg, Warp.thr_updThr w j j _ h, if_pos, Reg.p.injEq, true_and]
      by_cases hm7 : m < 7
      · rw [Thread.rp_setP _ m n _ hm7 hn]
        by_cases hmn : m = n
        · simp [hmn]
        · simp [hmn, Ne.symm hmn]
      · have hmn : ¬ (m = n) := by omega
        rw [if_neg hmn]
        by_cases h7 : m = 7
        · simp [Thread.setP, h7]
        · have hz : (1#7 <<< m) = 0#7 := by
            apply BitVec.eq_of_toNat_eq
            simp only [BitVec.toNat_shiftLeft, BitVec.toNat_ofNat, Nat.shiftLeft_eq]
            have : 2 ^ m = 2 ^ 7 * 2 ^ (m - 7) := by rw [← Nat.pow_add]; congr 1; omega
            rw [this]
            simp [Nat.mul_mod_right]
          have hq : ∀ (q : BitVec 7) (b : Bool), (q &&& ~~~0#7) ||| (if b then 0#7 else 0) = q := by
            intro q b
            cases b <;> simp only [BitVec.not_zero, BitVec.and_allOnes, if_true] <;> simp
          simp only [Thread.setP, h7, if_false, hz, hq]
    · simp [Warp.wrReg, Warp.thr_updThr_ne w l j _ hj, hj]
  | k m => simp [Warp.wrReg, Warp.setK, Warp.thr]
  | t m => simp [Warp.wrReg]

theorem Warp.wrReg_rk (w : Warp) (l n : Nat) (r : Reg) (x : Word) :
    (w.wrReg l r x).rk n = if r = .k n then x else w.rk n := by
  cases r with
  | k m =>
    simp only [Warp.wrReg, Warp.rk_setK, Reg.k.injEq]
    by_cases h : m = n
    · simp [h]
    · simp [h, Ne.symm h]
  | v m => simp [Warp.wrReg, Warp.updThr, Warp.rk]
  | p m => simp [Warp.wrReg, Warp.updThr, Warp.rk]
  | t m => simp [Warp.wrReg]

theorem Warp.wrRegs_rv (w : Warp) (l j n : Nat) (rs : List (Reg × Word)) (h : l < w.threads.length) :
    ((w.wrRegs l rs).thr j).rv n = if j = l then (lastReg (.v n) rs).getD ((w.thr j).rv n) else (w.thr j).rv n := by
  induction rs generalizing w with
  | nil => simp [Warp.wrRegs, lastReg]
  | cons q t ih =>
    obtain ⟨r, x⟩ := q
    have hl : l < (w.wrReg l r x).threads.length := by rw [(w.wrReg_frame l r x).length]; exact h
    rw [Warp.wrRegs, ih _ hl, Warp.wrReg_rv w l j n r x h]
    by_cases hj : j = l
    · simp only [hj, true_and, if_true, lastReg]
      cases lastReg (.v n) t with
      | some y => simp
      | none => by_cases hr : r = .v n <;> simp [hr]
    · simp [hj]

theorem Warp.wrRegs_rp (w : Warp) (l j n : Nat) (rs : List (Reg × Word)) (h : l < w.threads.length) (hn : n < 7) :
    ((w.wrRegs l rs).thr j).rp n =
      if j = l then ((lastReg (.p n) rs).map (fun x => x != 0)).getD ((w.thr j).rp n) else (w.thr j).rp n := by
  induction rs generalizing w with
  | nil => simp [Warp.wrRegs, lastReg]
  | cons q t ih =>
    obtain ⟨r, x⟩ := q
    have hl : l < (w.wrReg l r x).threads.length := by rw [(w.wrReg_frame l r x).length]; exact h
    rw [Warp.wrRegs, ih _ hl, Warp.wrReg_rp w l j n r x h hn]
    by_cases hj : j = l
    · simp only [hj, true_and, if_true, lastReg]
      cases lastReg (.p n) t with
      | some y => simp
      | none => by_cases hr : r = .p n <;> simp [hr]
    · simp [hj]

theorem Warp.wrRegs_rk (w : Warp) (l n : Nat) (rs : List (Reg × Word)) :
    (w.wrRegs l rs).rk n = (lastReg (.k n) rs).getD (w.rk n) := by
  induction rs generalizing w with
  | nil => simp [Warp.wrRegs, lastReg]
  | cons q t ih =>
    obtain ⟨r, x⟩ := q
    rw [Warp.wrRegs, ih, Warp.wrReg_rk, lastReg]
    cases lastReg (.k n) t with
    | some y => simp
    | none => by_cases hr : r = .k n <;> simp [hr]

theorem Warp.wrLanes_rv (w : Warp) (ws : List (Nat × List (Reg × Word))) (j n : Nat)
    (h : ∀ p ∈ ws, p.1 < w.threads.length) :
    ((w.wrLanes ws).thr j).rv n = (lastWrite j (.v n) ws).getD ((w.thr j).rv n) := by
  induction ws generalizing w with
  | nil => simp [Warp.wrLanes, lastWrite]
  | cons q t ih =>
    obtain ⟨l, rs⟩ := q
    have hq : l < w.threads.length := h (l, rs) (by simp)
    have ht : ∀ p ∈ t, p.1 < (w.wrRegs l rs).threads.length := by
      intro p hp
      rw [(w.wrRegs_frame l rs).length]
      exact h p (by simp [hp])
    rw [Warp.wrLanes, ih _ ht, Warp.wrRegs_rv w l j n rs hq, lastWrite]
    cases lastWrite j (.v n) t with
    | some y => simp
    | none => by_cases hj : j = l <;> simp [hj, Ne.symm]

theorem Warp.wrLanes_rp (w : Warp) (ws : List (Nat × List (Reg × Word))) (j n : Nat)
    (h : ∀ p ∈ ws, p.1 < w.threads.length) (hn : n < 7) :
    ((w.wrLanes ws).thr j).rp n = ((lastWrite j (.p n) ws).map (fun x => x != 0)).getD ((w.thr j).rp n) := by
  induction ws generalizing w with
  | nil => simp [Warp.wrLanes, lastWrite]
  | cons q t ih =>
    obtain ⟨l, rs⟩ := q
    have hq : l < w.threads.length := h (l, rs) (by simp)
    have ht : ∀ p ∈ t, p.1 < (w.wrRegs l rs).threads.length := by
      intro p hp
      rw [(w.wrRegs_frame l rs).length]
      exact h p (by simp [hp])
    rw [Warp.wrLanes, ih _ ht, Warp.wrRegs_rp w l j n rs hq hn, lastWrite]
    cases lastWrite j (.p n) t with
    | some y => simp
    | none => by_cases hj : j = l <;> simp [hj, Ne.symm]

theorem Warp.wrLanes_rk (w : Warp) (ws : List (Nat × List (Reg × Word))) (n : Nat) :
    (w.wrLanes ws).rk n = (lastWriteK n ws).getD (w.rk n) := by
  induction ws generalizing w with
  | nil => simp [Warp.wrLanes, lastWriteK]
  | cons q t ih =>
    obtain ⟨l, rs⟩ := q
    rw [Warp.wrLanes, ih, Warp.wrRegs_rk, lastWriteK]
    cases lastWriteK n t with
    | some y => simp
    | none => simp

theorem Warp.wrLanes_thr_ne (w : Warp) (ws : List (Nat × List (Reg × Word))) (j : Nat) (h : ∀ p ∈ ws, p.1 ≠ j) :
    (w.wrLanes ws).thr j = w.thr j := by
  have reg : ∀ (v : Warp) (l : Nat) (r : Reg) (x : Word), l ≠ j → (v.wrReg l r x).thr j = v.thr j := by
    intro v l r x hl
    cases r with
    | v n => exact Warp.thr_updThr_ne v l j _ (Ne.symm hl)
    | p n => exact Warp.thr_updThr_ne v l j _ (Ne.symm hl)
    | k n => rfl
    | t n => rfl
  have regs : ∀ (rs : List (Reg × Word)) (v : Warp) (l : Nat), l ≠ j → (v.wrRegs l rs).thr j = v.thr j := by
    intro rs
    induction rs with
    | nil => intro v l _; rfl
    | cons q t ih => intro v l hl; rw [Warp.wrRegs, ih _ _ hl, reg _ _ _ _ hl]
  induction ws generalizing w with
  | nil => rfl
  | cons q t ih =>
    rw [Warp.wrLanes, ih _ (fun p hp => h p (by simp [hp])), regs _ _ _ (h q (by simp))]

/-! ## The issue and its writes -/

/-- The warp as an issue leaves it. -/
def Warp.issued (w : Warp) (c : Ctx) (tick : Nat) : Warp :=
  let new := c.lanes.filter (fun l => !(w.thr l).again)
  let v1 := if new.isEmpty then w else { w.count new with retired := w.retired + 1 }
  v1.mapThr (fun l th =>
    if c.lanes.contains l then
      { th with pc := c.pc + BitVec.ofNat 64 (2 * c.words.length), ready := tick + 1,
                issued := if new.contains l then th.issued + 1 else th.issued, wait := none }
    else th)

theorem Warp.issued_rest (w : Warp) (c : Ctx) (tick : Nat) : w.issued c tick =
    { w with threads := (w.issued c tick).threads, retired := (w.issued c tick).retired, pend := (w.issued c tick).pend } := by
  unfold Warp.issued
  simp only
  split <;> rfl

theorem Warp.issued_rk (w : Warp) (c : Ctx) (tick n : Nat) : (w.issued c tick).rk n = w.rk n := by
  rw [Warp.issued_rest]; rfl

theorem Warp.issued_length (w : Warp) (c : Ctx) (tick : Nat) : (w.issued c tick).threads.length = w.threads.length := by
  have h : ∀ (f : Nat → Thread → Thread) (xs : List Thread) (k : Nat), (mapIx f k xs).length = xs.length := by
    intro f xs
    induction xs with
    | nil => intro k; rfl
    | cons x t ih => intro k; simp [mapIx, ih]
  unfold Warp.issued
  simp only [Warp.mapThr, h]
  split <;> rfl

theorem Warp.issued_thr (w : Warp) (c : Ctx) (tick l : Nat) (h : l ∈ c.lanes) (hl : l < w.threads.length) :
    (w.issued c tick).thr l = { w.thr l with pc := c.pc + BitVec.ofNat 64 (2 * c.words.length), ready := tick + 1,
                                             issued := if (w.thr l).again then (w.thr l).issued else (w.thr l).issued + 1,
                                             wait := none } := by
  have hc : c.lanes.contains l = true := by simpa using h
  have hn : (c.lanes.filter (fun j => !(w.thr j).again)).contains l = !(w.thr l).again := by
    cases hg : (w.thr l).again <;> simp [h, hg]
  unfold Warp.issued
  simp only
  split
  · rw [Warp.thr_mapThr _ _ _ hl, if_pos hc, hn]
    cases (w.thr l).again <;> rfl
  · refine (Warp.thr_mapThr _ _ l hl).trans ?_
    rw [if_pos hc, hn]
    cases hg : (w.thr l).again <;> simp [Warp.thr]

theorem Warp.issued_thr_ne (w : Warp) (c : Ctx) (tick l : Nat) (h : l ∉ c.lanes) : (w.issued c tick).thr l = w.thr l := by
  have hc : ¬ (c.lanes.contains l = true) := by simpa using h
  unfold Warp.issued
  simp only
  split
  · exact Warp.thr_mapThr_id _ _ _ (if_neg hc)
  · exact Warp.thr_mapThr_id _ _ _ (if_neg hc)

/-- The issue followed by an update of the issuing warp. -/
theorem State.updWarp_advance {s : State} {c : Ctx} {t : Team} {w : Warp} (h : Issued s c t w) (f : Warp → Warp) :
    let s' := (s.advance c w).updWarp c.team c.warp f
    s' = { s with teams := s'.teams, tick := s.tick + 1 } ∧
    (∀ id, id ≠ c.team → s'.team? id = s.team? id) ∧
    (∃ t', s'.team? c.team = some t' ∧ t' = { t with warps := t'.warps } ∧ ∀ i, i ≠ c.warp → t'.warps[i]? = t.warps[i]?) ∧
    s'.warp? c.team c.warp = some (f (w.issued c s.tick)) := by
  intro s'
  let g : Warp → Warp := fun v =>
    let new := c.lanes.filter (fun l => !(w.thr l).again)
    let v1 := if new.isEmpty then v else { v.count new with retired := v.retired + 1 }
    v1.mapThr (fun l th =>
      if c.lanes.contains l then
        { th with pc := c.pc + BitVec.ofNat 64 (2 * c.words.length), ready := s.tick + 1,
                  issued := if new.contains l then th.issued + 1 else th.issued, wait := none }
      else th)
  have hs : s' = { (s.updWarp c.team c.warp g).updWarp c.team c.warp f with tick := s.tick + 1 } := rfl
  rw [State.updWarp_updWarp] at hs
  have ht : ∀ j, s'.team? j = (s.updWarp c.team c.warp (fun x => f (g x))).team? j := by intro j; rw [hs]; rfl
  have hw : s'.warp? c.team c.warp = (s.updWarp c.team c.warp (fun x => f (g x))).warp? c.team c.warp := by rw [hs]; rfl
  refine ⟨by rw [hs]; rfl, ?_, ?_, ?_⟩
  · intro id hid
    rw [ht, State.team?_updWarp, if_neg hid]
  · refine ⟨t.updWarp c.warp (fun x => f (g x)), ?_, rfl, ?_⟩
    · rw [ht, State.team?_updWarp, if_pos rfl, h.team]; rfl
    · intro i hi
      simp [Team.updWarp, updAt_getElem?, hi]
  · rw [hw, State.warp?_updWarp, h.warp]; rfl

/-- Registers written by a bundle as it issues: every result, and everything left alone. -/
theorem State.writeLanes_wrote {s : State} {c : Ctx} {t : Team} {w : Warp} (h : Issued s c t w)
    (ws : List (Nat × List (Reg × Word))) (hws : ∀ p ∈ ws, p.1 ∈ c.lanes) :
    Wrote s ((s.advance c w).writeLanes c ws) c w ws := by
  obtain ⟨h1, h2, ⟨t', h3, h4, h5⟩, h6⟩ := State.updWarp_advance h (fun v => v.wrLanes ws)
  have hlt : ∀ l ∈ c.lanes, l < w.threads.length := fun l hl => Warp.lt_of_live (h.live l hl).1
  have hlt' : ∀ p ∈ ws, p.1 < (w.issued c s.tick).threads.length := by
    intro p hp; rw [Warp.issued_length]; exact hlt _ (hws p hp)
  have hf := Warp.wrLanes_frame (w.issued c s.tick) ws
  refine ⟨h1, h2, ⟨t, t', h.team, h3, h4, h5⟩, ⟨_, h6, ?_, ?_, ?_, ?_⟩⟩
  · rw [hf.rest, Warp.issued_rest]
  · intro n; rw [Warp.wrLanes_rk, Warp.issued_rk]
  · intro l hl
    rw [Warp.wrLanes_thr_ne _ _ _ (fun p hp (hpl : p.1 = l) => hl (hpl ▸ hws p hp)), Warp.issued_thr_ne _ _ _ _ hl]
  · intro l hl
    have hi := Warp.issued_thr w c s.tick l hl (hlt l hl)
    refine ⟨?_, ?_, ?_⟩
    · rw [Thread.stepped]
      rw [hf.thr l, hi]
    · intro n; rw [Warp.wrLanes_rv _ _ _ _ hlt', hi]; rfl
    · intro n hn; rw [Warp.wrLanes_rp _ _ _ _ hlt' hn, hi]; rfl

/-- The issue alone writes no register. -/
theorem State.advance_wrote {s : State} {c : Ctx} {t : Team} {w : Warp} (h : Issued s c t w) :
    Wrote s (s.advance c w) c w [] := by
  have hu : (s.advance c w).writeLanes c [] = s.advance c w := by
    have key : ∀ (t : Team) (n : Nat), t.updWarp n (fun v => v) = t := by
      intro t n
      have : ∀ (xs : List Warp) (n : Nat), updAt (fun v => v) n xs = xs := by
        intro xs
        induction xs with
        | nil => intro n; cases n <;> rfl
        | cons x r ih => intro n; cases n <;> simp [updAt, ih]
      simp [Team.updWarp, this]
    simp only [State.writeLanes, State.updWarp, State.updTeam, Warp.wrLanes, key, ite_self, List.map_id']
  have := State.writeLanes_wrote h [] (by simp)
  rwa [hu] at this

/-- An update of the issuing warp that leaves its registers and threads alone. -/
theorem State.updWarp_wrote {s : State} {c : Ctx} {t : Team} {w : Warp} (h : Issued s c t w) (f : Warp → Warp)
    (hf : ∀ v, f v = { v with retired := (f v).retired, pend := (f v).pend }) :
    Wrote s ((s.advance c w).updWarp c.team c.warp f) c w [] := by
  obtain ⟨h1, h2, ⟨t', h3, h4, h5⟩, h6⟩ := State.updWarp_advance h f
  have hthr : ∀ l, (f (w.issued c s.tick)).thr l = (w.issued c s.tick).thr l := by intro l; rw [hf]; rfl
  have hlt : ∀ l ∈ c.lanes, l < w.threads.length := fun l hl => Warp.lt_of_live (h.live l hl).1
  refine ⟨h1, h2, ⟨t, t', h.team, h3, h4, h5⟩, ⟨_, h6, ?_, ?_, ?_, ?_⟩⟩
  · rw [hf, Warp.issued_rest]
  · intro n
    have : (f (w.issued c s.tick)).rk n = (w.issued c s.tick).rk n := by rw [hf]; rfl
    rw [this, Warp.issued_rk]; rfl
  · intro l hl
    rw [hthr, Warp.issued_thr_ne _ _ _ _ hl]
  · intro l hl
    have hi := Warp.issued_thr w c s.tick l hl (hlt l hl)
    refine ⟨?_, ?_, ?_⟩
    · rw [Thread.stepped, hthr, hi]
    · intro n; rw [hthr, hi]; rfl
    · intro n _; rw [hthr, hi]; rfl

/-- Results handed over as a bundle issues. -/
theorem State.commit_produced {s : State} {c : Ctx} {t : Team} {w : Warp} (h : Issued s c t w) (la : Nat) (regs : List Reg)
    (ws : List (Nat × List (Reg × Word))) (hws : ∀ p ∈ ws, p.1 ∈ c.lanes) :
    Produced s ((s.advance c w).commit c la regs ws) c w la regs ws := by
  unfold Produced
  by_cases hla : la = 0
  · subst hla
    have e : (s.advance c w).commit c 0 regs ws = (s.advance c w).writeLanes c ws := by
      simp [State.commit, State.writeLanes, Warp.commit]
    rw [e, if_pos rfl]
    exact State.writeLanes_wrote h ws hws
  · rw [if_neg hla]
    have e : (s.advance c w).commit c la regs ws = (s.advance c w).updWarp c.team c.warp (fun v =>
        { v with pend := v.pend ++ [{ regs := regs, lanes := c.lanes.map (fun l => (l, la)), writes := ws }] }) := by
      simp [State.commit, Warp.commit, hla]
    rw [e]
    refine ⟨State.updWarp_wrote h _ (fun v => rfl), ?_⟩
    obtain ⟨-, -, -, h6⟩ := State.updWarp_advance h (fun v =>
      { v with pend := v.pend ++ [{ regs := regs, lanes := c.lanes.map (fun l => (l, la)), writes := ws }] })
    exact ⟨_, h6, by simp⟩

/-- A completed instruction with lookahead 0 writes at once; with a window its results are pending. -/
theorem State.commit_zero (s : State) (c : Ctx) (regs : List Reg) (ws : List (Nat × List (Reg × Word))) :
    s.commit c 0 regs ws = s.writeLanes c ws := by
  simp [State.commit, State.writeLanes, Warp.commit]

end Sys2Proof.Machine
end

