-- ==== Sys2Proof/Laws/Memory.lean ====
section
/-! SUPPORT. Laws/Memory: the canonical form of memory is kept by every operation on it, and a read gives what was written. -/

namespace Sys2Proof.Machine

/-! ## The canonical form -/

theorem Memory.wf_iff (m : List Host.Cell) :
    Memory.wf m = true ↔ m.Pairwise (fun x y => x.1 < y.1) ∧ ∀ e ∈ m, e.2 ≠ initByte e.1 := by
  simp [Memory.wf]

theorem Memory.wf_nil : Memory.wf [] = true := by simp [Memory.wf]

theorem Memory.wf_filter {m : List Host.Cell} (h : Memory.wf m = true) (p : Host.Cell → Bool) : Memory.wf (m.filter p) = true := by
  rw [Memory.wf_iff] at h ⊢
  exact ⟨h.1.filter p, fun e he => h.2 e (List.mem_of_mem_filter he)⟩

theorem KV.mem_ins {β : Type} {a : Nat} {x : β} {m : KV β} {e : Nat × β} : e ∈ KV.ins a x m ↔ e = (a, x) ∨ e ∈ m := by
  induction m with
  | nil => simp [KV.ins]
  | cons q t ih =>
    obtain ⟨k, y⟩ := q
    simp only [KV.ins]
    split
    · simp
    · simp only [List.mem_cons, ih]
      tauto

theorem KV.ins_sorted {β : Type} {a : Nat} {x : β} {m : KV β} (h : m.Pairwise (fun x y => x.1 < y.1))
    (ha : ∀ e ∈ m, e.1 ≠ a) : (KV.ins a x m).Pairwise (fun x y => x.1 < y.1) := by
  induction m with
  | nil => simp [KV.ins]
  | cons q t ih =>
    obtain ⟨k, y⟩ := q
    rw [List.pairwise_cons] at h
    simp only [KV.ins]
    split
    · rename_i hlt
      refine List.pairwise_cons.mpr ⟨?_, List.pairwise_cons.mpr h⟩
      intro e he
      rcases List.mem_cons.mp he with rfl | he
      · exact hlt
      · exact Nat.lt_trans hlt (h.1 e he)
    · rename_i hge
      refine List.pairwise_cons.mpr ⟨?_, ih h.2 (fun e he => ha e (List.mem_cons_of_mem _ he))⟩
      intro e he
      rcases KV.mem_ins.mp he with rfl | he
      · have := ha (k, y) (List.mem_cons_self)
        simp only at this ⊢
        omega
      · exact h.1 e he

/-- One byte written keeps the canonical form. -/
theorem memPut_wf {m : List Host.Cell} (h : Memory.wf m = true) (l : Nat) (b : Byte) : Memory.wf (memPut l b m) = true := by
  unfold memPut
  split
  · exact Memory.wf_filter h _
  · rename_i hb
    have hd := (Memory.wf_iff _).mp (Memory.wf_filter h (fun e => e.1 != l))
    rw [Memory.wf_iff]
    refine ⟨KV.ins_sorted hd.1 ?_, ?_⟩
    · intro e he
      have := (List.mem_filter.mp he).2
      simpa using this
    · intro e he
      rcases KV.mem_ins.mp he with rfl | he
      · exact hb
      · exact hd.2 e he

/-- Bytes written in order keep the canonical form. -/
theorem memPuts_wf (ws : List (Nat × Byte)) {m : List Host.Cell} (h : Memory.wf m = true) : Memory.wf (memPuts m ws) = true := by
  induction ws generalizing m with
  | nil => exact h
  | cons p t ih => exact ih (memPut_wf h p.1 p.2)

theorem State.wr1_wf {s : State} (h : Memory.wf s.mem = true) (g : Maker) (l : Nat) (b : Byte) :
    Memory.wf (s.wr1 g l b).mem = true := memPut_wf h l b

theorem State.wrAll_wf (g : Maker) (ws : List (Nat × Byte)) {s : State} (h : Memory.wf s.mem = true) :
    Memory.wf (s.wrAll g ws).mem = true := by
  induction ws generalizing s with
  | nil => exact h
  | cons p t ih => exact ih (s.wr1_wf h g p.1 p.2)

theorem State.wr_wf (g : Maker) (ws : List (Nat × Byte)) {s : State} (h : Memory.wf s.mem = true) :
    Memory.wf (s.wr g ws).mem = true := State.wrAll_wf _ ws h

theorem State.wrPub_wf {s : State} (h : Memory.wf s.mem = true) (S : Scope) (P : Party) (g : Option Nat) (ws : List (Nat × Byte)) :
    Memory.wf (s.wrPub S P g ws).mem = true := State.wr_wf _ ws h

theorem State.wrDev_wf {s : State} (h : Memory.wf s.mem = true) (pa : Nat) (bs : List Byte) :
    Memory.wf (s.wrDev pa bs).mem = true := State.wrPub_wf h _ _ _ _

theorem State.wrRec_wf {s : State} (h : Memory.wf s.mem = true) (pa : Nat) (bs : List Byte) :
    Memory.wf (s.wrRec pa bs).mem = true := State.wrPub_wf h _ _ _ _

/-! ## Reads after writes -/

/-- A read after a write of one byte. -/
theorem memGet_memPut (m : List Host.Cell) (l k : Nat) (b : Byte) : memGet (memPut l b m) k = if k = l then b else memGet m k := by
  unfold memGet memPut
  by_cases h : k = l
  · subst h
    split
    · rename_i hb; simp [KV.get_del, hb]
    · simp [KV.get_ins]
  · split
    · simp [KV.get_del_ne _ h]
    · simp [KV.get_ins_ne _ h, KV.get_del_ne _ h]

/-- A location that no write names reads as before. -/
theorem memGet_memPuts_ne (ws : List (Nat × Byte)) (m : List Host.Cell) (k : Nat) (h : ∀ p ∈ ws, p.1 ≠ k) :
    memGet (memPuts m ws) k = memGet m k := by
  induction ws generalizing m with
  | nil => rfl
  | cons p t ih =>
    rw [memPuts, ih _ (fun q hq => h q (by simp [hq])), memGet_memPut, if_neg (fun e => h p (by simp) e.symm)]

theorem State.rdNew_wr1 (s : State) (g : Maker) (l k : Nat) (b : Byte) :
    (s.wr1 g l b).rdNew k = if k = l then b else s.rdNew k := memGet_memPut s.mem l k b

theorem State.rdNew_wrAll_ne (g : Maker) (ws : List (Nat × Byte)) (s : State) (k : Nat) (h : ∀ p ∈ ws, p.1 ≠ k) :
    (s.wrAll g ws).rdNew k = s.rdNew k := by
  induction ws generalizing s with
  | nil => rfl
  | cons p t ih =>
    obtain ⟨l, b⟩ := p
    have hk : ¬ (k = l) := fun e => h (l, b) (by simp) e.symm
    rw [State.wrAll, ih _ (fun q hq => h q (by simp [hq])), State.rdNew_wr1, if_neg hk]

/-- The frame of a write of bytes. -/
theorem State.rdNew_wr_ne (g : Maker) (ws : List (Nat × Byte)) (s : State) (k : Nat) (h : ∀ p ∈ ws, p.1 ≠ k) :
    (s.wr g ws).rdNew k = s.rdNew k := State.rdNew_wrAll_ne _ ws s k h

theorem atLoc_mem {l : Nat} {bs : List Byte} {p : Nat × Byte} (h : p ∈ atLoc l bs) : l ≤ p.1 ∧ p.1 < l + bs.length := by
  induction bs generalizing l with
  | nil => simp [atLoc] at h
  | cons b t ih =>
    rcases List.mem_cons.mp h with rfl | h
    · simp
    · have := ih h
      simp only [List.length_cons]
      omega

theorem State.rdNew_wrAll_atLoc (g : Maker) (bs : List Byte) (s : State) (l k : Nat) :
    (s.wrAll g (atLoc l bs)).rdNew k = if l ≤ k ∧ k < l + bs.length then bs.getD (k - l) 0 else s.rdNew k := by
  induction bs generalizing s l with
  | nil => simp [atLoc, State.wrAll]
  | cons b t ih =>
    rw [atLoc, State.wrAll, ih, State.rdNew_wr1]
    by_cases hk : k = l
    · subst hk; simp
    · by_cases h1 : l + 1 ≤ k ∧ k < l + 1 + t.length
      · have h2 : l ≤ k ∧ k < l + (b :: t).length := by simp only [List.length_cons]; omega
        have h3 : k - l = (k - (l + 1)) + 1 := by omega
        rw [if_pos h1, if_pos h2, h3, List.getD_cons_succ]
      · have h2 : ¬ (l ≤ k ∧ k < l + (b :: t).length) := by simp only [List.length_cons]; omega
        rw [if_neg h1, if_neg h2, if_neg hk]

/-- What a write of consecutive bytes leaves at each location. -/
theorem State.rdNew_wr_atLoc (g : Maker) (bs : List Byte) (s : State) (l k : Nat) :
    (s.wr g (atLoc l bs)).rdNew k = if l ≤ k ∧ k < l + bs.length then bs.getD (k - l) 0 else s.rdNew k :=
  State.rdNew_wrAll_atLoc _ bs s l k

theorem State.rdNew_publish (s : State) (S : Scope) (P : Party) (ws : List (Nat × Nat)) (k : Nat) :
    (s.publish S P ws).rdNew k = s.rdNew k := rfl

theorem leBytes_length (n x : Nat) : (leBytes n x).length = n := by
  induction n generalizing x with
  | zero => rfl
  | succ n ih => simp [leBytes, ih]

end Sys2Proof.Machine
end

