-- ==== Sys2Proof/Laws/State.lean ====
section
/-! SUPPORT. Laws/State: what each basic update of State leaves unchanged, field by field. -/

namespace Sys2Proof.Machine

/-! ## updTeam -/

@[simp] theorem State.updTeam_cur (s : State) (id : Nat) (f : Team → Team) : (s.updTeam id f).cur = s.cur := rfl
@[simp] theorem State.updTeam_arg (s : State) (id : Nat) (f : Team → Team) : (s.updTeam id f).arg = s.arg := rfl
@[simp] theorem State.updTeam_inbox (s : State) (id : Nat) (f : Team → Team) : (s.updTeam id f).inbox = s.inbox := rfl
@[simp] theorem State.updTeam_focus (s : State) (id : Nat) (f : Team → Team) : (s.updTeam id f).focus = s.focus := rfl
@[simp] theorem State.updTeam_freeCtr (s : State) (id : Nat) (f : Team → Team) : (s.updTeam id f).freeCtr = s.freeCtr := rfl
@[simp] theorem State.updTeam_tick (s : State) (id : Nat) (f : Team → Team) : (s.updTeam id f).tick = s.tick := rfl
@[simp] theorem State.updTeam_now (s : State) (id : Nat) (f : Team → Team) : (s.updTeam id f).now = s.now := rfl
@[simp] theorem State.updTeam_clocks (s : State) (id : Nat) (f : Team → Team) : (s.updTeam id f).clocks = s.clocks := rfl
@[simp] theorem State.updTeam_nextId (s : State) (id : Nat) (f : Team → Team) : (s.updTeam id f).nextId = s.nextId := rfl
@[simp] theorem State.updTeam_fuses (s : State) (id : Nat) (f : Team → Team) : (s.updTeam id f).fuses = s.fuses := rfl
@[simp] theorem State.updTeam_mem (s : State) (id : Nat) (f : Team → Team) : (s.updTeam id f).mem = s.mem := rfl
@[simp] theorem State.updTeam_hist (s : State) (id : Nat) (f : Team → Team) : (s.updTeam id f).hist = s.hist := rfl
@[simp] theorem State.updTeam_nextSer (s : State) (id : Nat) (f : Team → Team) : (s.updTeam id f).nextSer = s.nextSer := rfl
@[simp] theorem State.updTeam_publs (s : State) (id : Nat) (f : Team → Team) : (s.updTeam id f).publs = s.publs := rfl
@[simp] theorem State.updTeam_bars (s : State) (id : Nat) (f : Team → Team) : (s.updTeam id f).bars = s.bars := rfl
@[simp] theorem State.updTeam_bad (s : State) (id : Nat) (f : Team → Team) : (s.updTeam id f).bad = s.bad := rfl
@[simp] theorem State.updTeam_grids (s : State) (id : Nat) (f : Team → Team) : (s.updTeam id f).grids = s.grids := rfl
@[simp] theorem State.updTeam_waves (s : State) (id : Nat) (f : Team → Team) : (s.updTeam id f).waves = s.waves := rfl
@[simp] theorem State.updTeam_copies (s : State) (id : Nat) (f : Team → Team) : (s.updTeam id f).copies = s.copies := rfl
@[simp] theorem State.updTeam_gathers (s : State) (id : Nat) (f : Team → Team) : (s.updTeam id f).gathers = s.gathers := rfl
@[simp] theorem State.updTeam_matq (s : State) (id : Nat) (f : Team → Team) : (s.updTeam id f).matq = s.matq := rfl
@[simp] theorem State.updTeam_spubs (s : State) (id : Nat) (f : Team → Team) : (s.updTeam id f).spubs = s.spubs := rfl
@[simp] theorem State.updTeam_ssubs (s : State) (id : Nat) (f : Team → Team) : (s.updTeam id f).ssubs = s.ssubs := rfl
@[simp] theorem State.updTeam_regionBase (s : State) (id : Nat) (f : Team → Team) : (s.updTeam id f).regionBase = s.regionBase := rfl
@[simp] theorem State.updTeam_syncId (s : State) (id : Nat) (f : Team → Team) : (s.updTeam id f).syncId = s.syncId := rfl
@[simp] theorem State.updTeam_syncBusy (s : State) (id : Nat) (f : Team → Team) : (s.updTeam id f).syncBusy = s.syncBusy := rfl
@[simp] theorem State.updTeam_syncStat (s : State) (id : Nat) (f : Team → Team) : (s.updTeam id f).syncStat = s.syncStat := rfl
@[simp] theorem State.updTeam_regions (s : State) (id : Nat) (f : Team → Team) : (s.updTeam id f).regions = s.regions := rfl
@[simp] theorem State.updTeam_mapped (s : State) (id : Nat) (f : Team → Team) : (s.updTeam id f).mapped = s.mapped := rfl
@[simp] theorem State.updTeam_invals (s : State) (id : Nat) (f : Team → Team) : (s.updTeam id f).invals = s.invals := rfl
@[simp] theorem State.updTeam_xown (s : State) (id : Nat) (f : Team → Team) : (s.updTeam id f).xown = s.xown := rfl
@[simp] theorem State.updTeam_win (s : State) (id : Nat) (f : Team → Team) : (s.updTeam id f).win = s.win := rfl
@[simp] theorem State.updTeam_alm (s : State) (id : Nat) (f : Team → Team) : (s.updTeam id f).alm = s.alm := rfl
@[simp] theorem State.updTeam_power (s : State) (id : Nat) (f : Team → Team) : (s.updTeam id f).power = s.power := rfl
@[simp] theorem State.updTeam_ptime (s : State) (id : Nat) (f : Team → Team) : (s.updTeam id f).ptime = s.ptime := rfl
@[simp] theorem State.updTeam_servo (s : State) (id : Nat) (f : Team → Team) : (s.updTeam id f).servo = s.servo := rfl
@[simp] theorem State.updTeam_frameBase (s : State) (id : Nat) (f : Team → Team) : (s.updTeam id f).frameBase = s.frameBase := rfl
@[simp] theorem State.updTeam_streamBase (s : State) (id : Nat) (f : Team → Team) : (s.updTeam id f).streamBase = s.streamBase := rfl
@[simp] theorem State.updTeam_tables (s : State) (id : Nat) (f : Team → Team) : (s.updTeam id f).tables = s.tables := rfl
@[simp] theorem State.updTeam_streams (s : State) (id : Nat) (f : Team → Team) : (s.updTeam id f).streams = s.streams := rfl
@[simp] theorem State.updTeam_txs (s : State) (id : Nat) (f : Team → Team) : (s.updTeam id f).txs = s.txs := rfl
@[simp] theorem State.updTeam_frameReg (s : State) (id : Nat) (f : Team → Team) : (s.updTeam id f).frameReg = s.frameReg := rfl
@[simp] theorem State.updTeam_firstOut (s : State) (id : Nat) (f : Team → Team) : (s.updTeam id f).firstOut = s.firstOut := rfl
@[simp] theorem State.updTeam_colls (s : State) (id : Nat) (f : Team → Team) : (s.updTeam id f).colls = s.colls := rfl
@[simp] theorem State.updTeam_collKept (s : State) (id : Nat) (f : Team → Team) : (s.updTeam id f).collKept = s.collKept := rfl
@[simp] theorem State.updTeam_collEarly (s : State) (id : Nat) (f : Team → Team) : (s.updTeam id f).collEarly = s.collEarly := rfl
@[simp] theorem State.updTeam_linkCard (s : State) (id : Nat) (f : Team → Team) : (s.updTeam id f).linkCard = s.linkCard := rfl
@[simp] theorem State.updTeam_linkUp (s : State) (id : Nat) (f : Team → Team) : (s.updTeam id f).linkUp = s.linkUp := rfl
@[simp] theorem State.updTeam_grpBase (s : State) (id : Nat) (f : Team → Team) : (s.updTeam id f).grpBase = s.grpBase := rfl
@[simp] theorem State.updTeam_leaves (s : State) (id : Nat) (f : Team → Team) : (s.updTeam id f).leaves = s.leaves := rfl
@[simp] theorem State.updTeam_bvhs (s : State) (id : Nat) (f : Team → Team) : (s.updTeam id f).bvhs = s.bvhs := rfl
@[simp] theorem State.updTeam_passes (s : State) (id : Nat) (f : Team → Team) : (s.updTeam id f).passes = s.passes := rfl
@[simp] theorem State.updTeam_fq (s : State) (id : Nat) (f : Team → Team) : (s.updTeam id f).fq = s.fq := rfl
@[simp] theorem State.updTeam_trust (s : State) (id : Nat) (f : Team → Team) : (s.updTeam id f).trust = s.trust := rfl
@[simp] theorem State.updTeam_house (s : State) (id : Nat) (f : Team → Team) : (s.updTeam id f).house = s.house := rfl
@[simp] theorem State.updTeam_rcv (s : State) (id : Nat) (f : Team → Team) : (s.updTeam id f).rcv = s.rcv := rfl
@[simp] theorem State.updTeam_stalled (s : State) (id : Nat) (f : Team → Team) : (s.updTeam id f).stalled = s.stalled := rfl
@[simp] theorem State.updTeam_heldEv (s : State) (id : Nat) (f : Team → Team) : (s.updTeam id f).heldEv = s.heldEv := rfl
@[simp] theorem State.updTeam_irqs (s : State) (id : Nat) (f : Team → Team) : (s.updTeam id f).irqs = s.irqs := rfl
@[simp] theorem State.updTeam_out (s : State) (id : Nat) (f : Team → Team) : (s.updTeam id f).out = s.out := rfl
@[simp] theorem State.updTeam_extest (s : State) (id : Nat) (f : Team → Team) : (s.updTeam id f).extest = s.extest := rfl

/-! ## updGrid -/

@[simp] theorem State.updGrid_cur (s : State) (id : Nat) (f : Grid → Grid) : (s.updGrid id f).cur = s.cur := rfl
@[simp] theorem State.updGrid_arg (s : State) (id : Nat) (f : Grid → Grid) : (s.updGrid id f).arg = s.arg := rfl
@[simp] theorem State.updGrid_inbox (s : State) (id : Nat) (f : Grid → Grid) : (s.updGrid id f).inbox = s.inbox := rfl
@[simp] theorem State.updGrid_focus (s : State) (id : Nat) (f : Grid → Grid) : (s.updGrid id f).focus = s.focus := rfl
@[simp] theorem State.updGrid_freeCtr (s : State) (id : Nat) (f : Grid → Grid) : (s.updGrid id f).freeCtr = s.freeCtr := rfl
@[simp] theorem State.updGrid_tick (s : State) (id : Nat) (f : Grid → Grid) : (s.updGrid id f).tick = s.tick := rfl
@[simp] theorem State.updGrid_now (s : State) (id : Nat) (f : Grid → Grid) : (s.updGrid id f).now = s.now := rfl
@[simp] theorem State.updGrid_clocks (s : State) (id : Nat) (f : Grid → Grid) : (s.updGrid id f).clocks = s.clocks := rfl
@[simp] theorem State.updGrid_nextId (s : State) (id : Nat) (f : Grid → Grid) : (s.updGrid id f).nextId = s.nextId := rfl
@[simp] theorem State.updGrid_fuses (s : State) (id : Nat) (f : Grid → Grid) : (s.updGrid id f).fuses = s.fuses := rfl
@[simp] theorem State.updGrid_mem (s : State) (id : Nat) (f : Grid → Grid) : (s.updGrid id f).mem = s.mem := rfl
@[simp] theorem State.updGrid_hist (s : State) (id : Nat) (f : Grid → Grid) : (s.updGrid id f).hist = s.hist := rfl
@[simp] theorem State.updGrid_nextSer (s : State) (id : Nat) (f : Grid → Grid) : (s.updGrid id f).nextSer = s.nextSer := rfl
@[simp] theorem State.updGrid_publs (s : State) (id : Nat) (f : Grid → Grid) : (s.updGrid id f).publs = s.publs := rfl
@[simp] theorem State.updGrid_bars (s : State) (id : Nat) (f : Grid → Grid) : (s.updGrid id f).bars = s.bars := rfl
@[simp] theorem State.updGrid_bad (s : State) (id : Nat) (f : Grid → Grid) : (s.updGrid id f).bad = s.bad := rfl
@[simp] theorem State.updGrid_teams (s : State) (id : Nat) (f : Grid → Grid) : (s.updGrid id f).teams = s.teams := rfl
@[simp] theorem State.updGrid_waves (s : State) (id : Nat) (f : Grid → Grid) : (s.updGrid id f).waves = s.waves := rfl
@[simp] theorem State.updGrid_copies (s : State) (id : Nat) (f : Grid → Grid) : (s.updGrid id f).copies = s.copies := rfl
@[simp] theorem State.updGrid_gathers (s : State) (id : Nat) (f : Grid → Grid) : (s.updGrid id f).gathers = s.gathers := rfl
@[simp] theorem State.updGrid_matq (s : State) (id : Nat) (f : Grid → Grid) : (s.updGrid id f).matq = s.matq := rfl
@[simp] theorem State.updGrid_spubs (s : State) (id : Nat) (f : Grid → Grid) : (s.updGrid id f).spubs = s.spubs := rfl
@[simp] theorem State.updGrid_ssubs (s : State) (id : Nat) (f : Grid → Grid) : (s.updGrid id f).ssubs = s.ssubs := rfl
@[simp] theorem State.updGrid_regionBase (s : State) (id : Nat) (f : Grid → Grid) : (s.updGrid id f).regionBase = s.regionBase := rfl
@[simp] theorem State.updGrid_syncId (s : State) (id : Nat) (f : Grid → Grid) : (s.updGrid id f).syncId = s.syncId := rfl
@[simp] theorem State.updGrid_syncBusy (s : State) (id : Nat) (f : Grid → Grid) : (s.updGrid id f).syncBusy = s.syncBusy := rfl
@[simp] theorem State.updGrid_syncStat (s : State) (id : Nat) (f : Grid → Grid) : (s.updGrid id f).syncStat = s.syncStat := rfl
@[simp] theorem State.updGrid_regions (s : State) (id : Nat) (f : Grid → Grid) : (s.updGrid id f).regions = s.regions := rfl
@[simp] theorem State.updGrid_mapped (s : State) (id : Nat) (f : Grid → Grid) : (s.updGrid id f).mapped = s.mapped := rfl
@[simp] theorem State.updGrid_invals (s : State) (id : Nat) (f : Grid → Grid) : (s.updGrid id f).invals = s.invals := rfl
@[simp] theorem State.updGrid_xown (s : State) (id : Nat) (f : Grid → Grid) : (s.updGrid id f).xown = s.xown := rfl
@[simp] theorem State.updGrid_win (s : State) (id : Nat) (f : Grid → Grid) : (s.updGrid id f).win = s.win := rfl
@[simp] theorem State.updGrid_alm (s : State) (id : Nat) (f : Grid → Grid) : (s.updGrid id f).alm = s.alm := rfl
@[simp] theorem State.updGrid_power (s : State) (id : Nat) (f : Grid → Grid) : (s.updGrid id f).power = s.power := rfl
@[simp] theorem State.updGrid_ptime (s : State) (id : Nat) (f : Grid → Grid) : (s.updGrid id f).ptime = s.ptime := rfl
@[simp] theorem State.updGrid_servo (s : State) (id : Nat) (f : Grid → Grid) : (s.updGrid id f).servo = s.servo := rfl
@[simp] theorem State.updGrid_frameBase (s : State) (id : Nat) (f : Grid → Grid) : (s.updGrid id f).frameBase = s.frameBase := rfl
@[simp] theorem State.updGrid_streamBase (s : State) (id : Nat) (f : Grid → Grid) : (s.updGrid id f).streamBase = s.streamBase := rfl
@[simp] theorem State.updGrid_tables (s : State) (id : Nat) (f : Grid → Grid) : (s.updGrid id f).tables = s.tables := rfl
@[simp] theorem State.updGrid_streams (s : State) (id : Nat) (f : Grid → Grid) : (s.updGrid id f).streams = s.streams := rfl
@[simp] theorem State.updGrid_txs (s : State) (id : Nat) (f : Grid → Grid) : (s.updGrid id f).txs = s.txs := rfl
@[simp] theorem State.updGrid_frameReg (s : State) (id : Nat) (f : Grid → Grid) : (s.updGrid id f).frameReg = s.frameReg := rfl
@[simp] theorem State.updGrid_firstOut (s : State) (id : Nat) (f : Grid → Grid) : (s.updGrid id f).firstOut = s.firstOut := rfl
@[simp] theorem State.updGrid_colls (s : State) (id : Nat) (f : Grid → Grid) : (s.updGrid id f).colls = s.colls := rfl
@[simp] theorem State.updGrid_collKept (s : State) (id : Nat) (f : Grid → Grid) : (s.updGrid id f).collKept = s.collKept := rfl
@[simp] theorem State.updGrid_collEarly (s : State) (id : Nat) (f : Grid → Grid) : (s.updGrid id f).collEarly = s.collEarly := rfl
@[simp] theorem State.updGrid_linkCard (s : State) (id : Nat) (f : Grid → Grid) : (s.updGrid id f).linkCard = s.linkCard := rfl
@[simp] theorem State.updGrid_linkUp (s : State) (id : Nat) (f : Grid → Grid) : (s.updGrid id f).linkUp = s.linkUp := rfl
@[simp] theorem State.updGrid_grpBase (s : State) (id : Nat) (f : Grid → Grid) : (s.updGrid id f).grpBase = s.grpBase := rfl
@[simp] theorem State.updGrid_leaves (s : State) (id : Nat) (f : Grid → Grid) : (s.updGrid id f).leaves = s.leaves := rfl
@[simp] theorem State.updGrid_bvhs (s : State) (id : Nat) (f : Grid → Grid) : (s.updGrid id f).bvhs = s.bvhs := rfl
@[simp] theorem State.updGrid_passes (s : State) (id : Nat) (f : Grid → Grid) : (s.updGrid id f).passes = s.passes := rfl
@[simp] theorem State.updGrid_fq (s : State) (id : Nat) (f : Grid → Grid) : (s.updGrid id f).fq = s.fq := rfl
@[simp] theorem State.updGrid_trust (s : State) (id : Nat) (f : Grid → Grid) : (s.updGrid id f).trust = s.trust := rfl
@[simp] theorem State.updGrid_house (s : State) (id : Nat) (f : Grid → Grid) : (s.updGrid id f).house = s.house := rfl
@[simp] theorem State.updGrid_rcv (s : State) (id : Nat) (f : Grid → Grid) : (s.updGrid id f).rcv = s.rcv := rfl
@[simp] theorem State.updGrid_stalled (s : State) (id : Nat) (f : Grid → Grid) : (s.updGrid id f).stalled = s.stalled := rfl
@[simp] theorem State.updGrid_heldEv (s : State) (id : Nat) (f : Grid → Grid) : (s.updGrid id f).heldEv = s.heldEv := rfl
@[simp] theorem State.updGrid_irqs (s : State) (id : Nat) (f : Grid → Grid) : (s.updGrid id f).irqs = s.irqs := rfl
@[simp] theorem State.updGrid_out (s : State) (id : Nat) (f : Grid → Grid) : (s.updGrid id f).out = s.out := rfl
@[simp] theorem State.updGrid_extest (s : State) (id : Nat) (f : Grid → Grid) : (s.updGrid id f).extest = s.extest := rfl

/-! ## updWave -/

@[simp] theorem State.updWave_cur (s : State) (id : Nat) (f : Wave → Wave) : (s.updWave id f).cur = s.cur := rfl
@[simp] theorem State.updWave_arg (s : State) (id : Nat) (f : Wave → Wave) : (s.updWave id f).arg = s.arg := rfl
@[simp] theorem State.updWave_inbox (s : State) (id : Nat) (f : Wave → Wave) : (s.updWave id f).inbox = s.inbox := rfl
@[simp] theorem State.updWave_focus (s : State) (id : Nat) (f : Wave → Wave) : (s.updWave id f).focus = s.focus := rfl
@[simp] theorem State.updWave_freeCtr (s : State) (id : Nat) (f : Wave → Wave) : (s.updWave id f).freeCtr = s.freeCtr := rfl
@[simp] theorem State.updWave_tick (s : State) (id : Nat) (f : Wave → Wave) : (s.updWave id f).tick = s.tick := rfl
@[simp] theorem State.updWave_now (s : State) (id : Nat) (f : Wave → Wave) : (s.updWave id f).now = s.now := rfl
@[simp] theorem State.updWave_clocks (s : State) (id : Nat) (f : Wave → Wave) : (s.updWave id f).clocks = s.clocks := rfl
@[simp] theorem State.updWave_nextId (s : State) (id : Nat) (f : Wave → Wave) : (s.updWave id f).nextId = s.nextId := rfl
@[simp] theorem State.updWave_fuses (s : State) (id : Nat) (f : Wave → Wave) : (s.updWave id f).fuses = s.fuses := rfl
@[simp] theorem State.updWave_mem (s : State) (id : Nat) (f : Wave → Wave) : (s.updWave id f).mem = s.mem := rfl
@[simp] theorem State.updWave_hist (s : State) (id : Nat) (f : Wave → Wave) : (s.updWave id f).hist = s.hist := rfl
@[simp] theorem State.updWave_nextSer (s : State) (id : Nat) (f : Wave → Wave) : (s.updWave id f).nextSer = s.nextSer := rfl
@[simp] theorem State.updWave_publs (s : State) (id : Nat) (f : Wave → Wave) : (s.updWave id f).publs = s.publs := rfl
@[simp] theorem State.updWave_bars (s : State) (id : Nat) (f : Wave → Wave) : (s.updWave id f).bars = s.bars := rfl
@[simp] theorem State.updWave_bad (s : State) (id : Nat) (f : Wave → Wave) : (s.updWave id f).bad = s.bad := rfl
@[simp] theorem State.updWave_teams (s : State) (id : Nat) (f : Wave → Wave) : (s.updWave id f).teams = s.teams := rfl
@[simp] theorem State.updWave_grids (s : State) (id : Nat) (f : Wave → Wave) : (s.updWave id f).grids = s.grids := rfl
@[simp] theorem State.updWave_copies (s : State) (id : Nat) (f : Wave → Wave) : (s.updWave id f).copies = s.copies := rfl
@[simp] theorem State.updWave_gathers (s : State) (id : Nat) (f : Wave → Wave) : (s.updWave id f).gathers = s.gathers := rfl
@[simp] theorem State.updWave_matq (s : State) (id : Nat) (f : Wave → Wave) : (s.updWave id f).matq = s.matq := rfl
@[simp] theorem State.updWave_spubs (s : State) (id : Nat) (f : Wave → Wave) : (s.updWave id f).spubs = s.spubs := rfl
@[simp] theorem State.updWave_ssubs (s : State) (id : Nat) (f : Wave → Wave) : (s.updWave id f).ssubs = s.ssubs := rfl
@[simp] theorem State.updWave_regionBase (s : State) (id : Nat) (f : Wave → Wave) : (s.updWave id f).regionBase = s.regionBase := rfl
@[simp] theorem State.updWave_syncId (s : State) (id : Nat) (f : Wave → Wave) : (s.updWave id f).syncId = s.syncId := rfl
@[simp] theorem State.updWave_syncBusy (s : State) (id : Nat) (f : Wave → Wave) : (s.updWave id f).syncBusy = s.syncBusy := rfl
@[simp] theorem State.updWave_syncStat (s : State) (id : Nat) (f : Wave → Wave) : (s.updWave id f).syncStat = s.syncStat := rfl
@[simp] theorem State.updWave_regions (s : State) (id : Nat) (f : Wave → Wave) : (s.updWave id f).regions = s.regions := rfl
@[simp] theorem State.updWave_mapped (s : State) (id : Nat) (f : Wave → Wave) : (s.updWave id f).mapped = s.mapped := rfl
@[simp] theorem State.updWave_invals (s : State) (id : Nat) (f : Wave → Wave) : (s.updWave id f).invals = s.invals := rfl
@[simp] theorem State.updWave_xown (s : State) (id : Nat) (f : Wave → Wave) : (s.updWave id f).xown = s.xown := rfl
@[simp] theorem State.updWave_win (s : State) (id : Nat) (f : Wave → Wave) : (s.updWave id f).win = s.win := rfl
@[simp] theorem State.updWave_alm (s : State) (id : Nat) (f : Wave → Wave) : (s.updWave id f).alm = s.alm := rfl
@[simp] theorem State.updWave_power (s : State) (id : Nat) (f : Wave → Wave) : (s.updWave id f).power = s.power := rfl
@[simp] theorem State.updWave_ptime (s : State) (id : Nat) (f : Wave → Wave) : (s.updWave id f).ptime = s.ptime := rfl
@[simp] theorem State.updWave_servo (s : State) (id : Nat) (f : Wave → Wave) : (s.updWave id f).servo = s.servo := rfl
@[simp] theorem State.updWave_frameBase (s : State) (id : Nat) (f : Wave → Wave) : (s.updWave id f).frameBase = s.frameBase := rfl
@[simp] theorem State.updWave_streamBase (s : State) (id : Nat) (f : Wave → Wave) : (s.updWave id f).streamBase = s.streamBase := rfl
@[simp] theorem State.updWave_tables (s : State) (id : Nat) (f : Wave → Wave) : (s.updWave id f).tables = s.tables := rfl
@[simp] theorem State.updWave_streams (s : State) (id : Nat) (f : Wave → Wave) : (s.updWave id f).streams = s.streams := rfl
@[simp] theorem State.updWave_txs (s : State) (id : Nat) (f : Wave → Wave) : (s.updWave id f).txs = s.txs := rfl
@[simp] theorem State.updWave_frameReg (s : State) (id : Nat) (f : Wave → Wave) : (s.updWave id f).frameReg = s.frameReg := rfl
@[simp] theorem State.updWave_firstOut (s : State) (id : Nat) (f : Wave → Wave) : (s.updWave id f).firstOut = s.firstOut := rfl
@[simp] theorem State.updWave_colls (s : State) (id : Nat) (f : Wave → Wave) : (s.updWave id f).colls = s.colls := rfl
@[simp] theorem State.updWave_collKept (s : State) (id : Nat) (f : Wave → Wave) : (s.updWave id f).collKept = s.collKept := rfl
@[simp] theorem State.updWave_collEarly (s : State) (id : Nat) (f : Wave → Wave) : (s.updWave id f).collEarly = s.collEarly := rfl
@[simp] theorem State.updWave_linkCard (s : State) (id : Nat) (f : Wave → Wave) : (s.updWave id f).linkCard = s.linkCard := rfl
@[simp] theorem State.updWave_linkUp (s : State) (id : Nat) (f : Wave → Wave) : (s.updWave id f).linkUp = s.linkUp := rfl
@[simp] theorem State.updWave_grpBase (s : State) (id : Nat) (f : Wave → Wave) : (s.updWave id f).grpBase = s.grpBase := rfl
@[simp] theorem State.updWave_leaves (s : State) (id : Nat) (f : Wave → Wave) : (s.updWave id f).leaves = s.leaves := rfl
@[simp] theorem State.updWave_bvhs (s : State) (id : Nat) (f : Wave → Wave) : (s.updWave id f).bvhs = s.bvhs := rfl
@[simp] theorem State.updWave_passes (s : State) (id : Nat) (f : Wave → Wave) : (s.updWave id f).passes = s.passes := rfl
@[simp] theorem State.updWave_fq (s : State) (id : Nat) (f : Wave → Wave) : (s.updWave id f).fq = s.fq := rfl
@[simp] theorem State.updWave_trust (s : State) (id : Nat) (f : Wave → Wave) : (s.updWave id f).trust = s.trust := rfl
@[simp] theorem State.updWave_house (s : State) (id : Nat) (f : Wave → Wave) : (s.updWave id f).house = s.house := rfl
@[simp] theorem State.updWave_rcv (s : State) (id : Nat) (f : Wave → Wave) : (s.updWave id f).rcv = s.rcv := rfl
@[simp] theorem State.updWave_stalled (s : State) (id : Nat) (f : Wave → Wave) : (s.updWave id f).stalled = s.stalled := rfl
@[simp] theorem State.updWave_heldEv (s : State) (id : Nat) (f : Wave → Wave) : (s.updWave id f).heldEv = s.heldEv := rfl
@[simp] theorem State.updWave_irqs (s : State) (id : Nat) (f : Wave → Wave) : (s.updWave id f).irqs = s.irqs := rfl
@[simp] theorem State.updWave_out (s : State) (id : Nat) (f : Wave → Wave) : (s.updWave id f).out = s.out := rfl
@[simp] theorem State.updWave_extest (s : State) (id : Nat) (f : Wave → Wave) : (s.updWave id f).extest = s.extest := rfl

/-! ## updPass -/

@[simp] theorem State.updPass_cur (s : State) (id : Nat) (f : Pass → Pass) : (s.updPass id f).cur = s.cur := rfl
@[simp] theorem State.updPass_arg (s : State) (id : Nat) (f : Pass → Pass) : (s.updPass id f).arg = s.arg := rfl
@[simp] theorem State.updPass_inbox (s : State) (id : Nat) (f : Pass → Pass) : (s.updPass id f).inbox = s.inbox := rfl
@[simp] theorem State.updPass_focus (s : State) (id : Nat) (f : Pass → Pass) : (s.updPass id f).focus = s.focus := rfl
@[simp] theorem State.updPass_freeCtr (s : State) (id : Nat) (f : Pass → Pass) : (s.updPass id f).freeCtr = s.freeCtr := rfl
@[simp] theorem State.updPass_tick (s : State) (id : Nat) (f : Pass → Pass) : (s.updPass id f).tick = s.tick := rfl
@[simp] theorem State.updPass_now (s : State) (id : Nat) (f : Pass → Pass) : (s.updPass id f).now = s.now := rfl
@[simp] theorem State.updPass_clocks (s : State) (id : Nat) (f : Pass → Pass) : (s.updPass id f).clocks = s.clocks := rfl
@[simp] theorem State.updPass_nextId (s : State) (id : Nat) (f : Pass → Pass) : (s.updPass id f).nextId = s.nextId := rfl
@[simp] theorem State.updPass_fuses (s : State) (id : Nat) (f : Pass → Pass) : (s.updPass id f).fuses = s.fuses := rfl
@[simp] theorem State.updPass_mem (s : State) (id : Nat) (f : Pass → Pass) : (s.updPass id f).mem = s.mem := rfl
@[simp] theorem State.updPass_hist (s : State) (id : Nat) (f : Pass → Pass) : (s.updPass id f).hist = s.hist := rfl
@[simp] theorem State.updPass_nextSer (s : State) (id : Nat) (f : Pass → Pass) : (s.updPass id f).nextSer = s.nextSer := rfl
@[simp] theorem State.updPass_publs (s : State) (id : Nat) (f : Pass → Pass) : (s.updPass id f).publs = s.publs := rfl
@[simp] theorem State.updPass_bars (s : State) (id : Nat) (f : Pass → Pass) : (s.updPass id f).bars = s.bars := rfl
@[simp] theorem State.updPass_bad (s : State) (id : Nat) (f : Pass → Pass) : (s.updPass id f).bad = s.bad := rfl
@[simp] theorem State.updPass_teams (s : State) (id : Nat) (f : Pass → Pass) : (s.updPass id f).teams = s.teams := rfl
@[simp] theorem State.updPass_grids (s : State) (id : Nat) (f : Pass → Pass) : (s.updPass id f).grids = s.grids := rfl
@[simp] theorem State.updPass_waves (s : State) (id : Nat) (f : Pass → Pass) : (s.updPass id f).waves = s.waves := rfl
@[simp] theorem State.updPass_copies (s : State) (id : Nat) (f : Pass → Pass) : (s.updPass id f).copies = s.copies := rfl
@[simp] theorem State.updPass_gathers (s : State) (id : Nat) (f : Pass → Pass) : (s.updPass id f).gathers = s.gathers := rfl
@[simp] theorem State.updPass_matq (s : State) (id : Nat) (f : Pass → Pass) : (s.updPass id f).matq = s.matq := rfl
@[simp] theorem State.updPass_spubs (s : State) (id : Nat) (f : Pass → Pass) : (s.updPass id f).spubs = s.spubs := rfl
@[simp] theorem State.updPass_ssubs (s : State) (id : Nat) (f : Pass → Pass) : (s.updPass id f).ssubs = s.ssubs := rfl
@[simp] theorem State.updPass_regionBase (s : State) (id : Nat) (f : Pass → Pass) : (s.updPass id f).regionBase = s.regionBase := rfl
@[simp] theorem State.updPass_syncId (s : State) (id : Nat) (f : Pass → Pass) : (s.updPass id f).syncId = s.syncId := rfl
@[simp] theorem State.updPass_syncBusy (s : State) (id : Nat) (f : Pass → Pass) : (s.updPass id f).syncBusy = s.syncBusy := rfl
@[simp] theorem State.updPass_syncStat (s : State) (id : Nat) (f : Pass → Pass) : (s.updPass id f).syncStat = s.syncStat := rfl
@[simp] theorem State.updPass_regions (s : State) (id : Nat) (f : Pass → Pass) : (s.updPass id f).regions = s.regions := rfl
@[simp] theorem State.updPass_mapped (s : State) (id : Nat) (f : Pass → Pass) : (s.updPass id f).mapped = s.mapped := rfl
@[simp] theorem State.updPass_invals (s : State) (id : Nat) (f : Pass → Pass) : (s.updPass id f).invals = s.invals := rfl
@[simp] theorem State.updPass_xown (s : State) (id : Nat) (f : Pass → Pass) : (s.updPass id f).xown = s.xown := rfl
@[simp] theorem State.updPass_win (s : State) (id : Nat) (f : Pass → Pass) : (s.updPass id f).win = s.win := rfl
@[simp] theorem State.updPass_alm (s : State) (id : Nat) (f : Pass → Pass) : (s.updPass id f).alm = s.alm := rfl
@[simp] theorem State.updPass_power (s : State) (id : Nat) (f : Pass → Pass) : (s.updPass id f).power = s.power := rfl
@[simp] theorem State.updPass_ptime (s : State) (id : Nat) (f : Pass → Pass) : (s.updPass id f).ptime = s.ptime := rfl
@[simp] theorem State.updPass_servo (s : State) (id : Nat) (f : Pass → Pass) : (s.updPass id f).servo = s.servo := rfl
@[simp] theorem State.updPass_frameBase (s : State) (id : Nat) (f : Pass → Pass) : (s.updPass id f).frameBase = s.frameBase := rfl
@[simp] theorem State.updPass_streamBase (s : State) (id : Nat) (f : Pass → Pass) : (s.updPass id f).streamBase = s.streamBase := rfl
@[simp] theorem State.updPass_tables (s : State) (id : Nat) (f : Pass → Pass) : (s.updPass id f).tables = s.tables := rfl
@[simp] theorem State.updPass_streams (s : State) (id : Nat) (f : Pass → Pass) : (s.updPass id f).streams = s.streams := rfl
@[simp] theorem State.updPass_txs (s : State) (id : Nat) (f : Pass → Pass) : (s.updPass id f).txs = s.txs := rfl
@[simp] theorem State.updPass_frameReg (s : State) (id : Nat) (f : Pass → Pass) : (s.updPass id f).frameReg = s.frameReg := rfl
@[simp] theorem State.updPass_firstOut (s : State) (id : Nat) (f : Pass → Pass) : (s.updPass id f).firstOut = s.firstOut := rfl
@[simp] theorem State.updPass_colls (s : State) (id : Nat) (f : Pass → Pass) : (s.updPass id f).colls = s.colls := rfl
@[simp] theorem State.updPass_collKept (s : State) (id : Nat) (f : Pass → Pass) : (s.updPass id f).collKept = s.collKept := rfl
@[simp] theorem State.updPass_collEarly (s : State) (id : Nat) (f : Pass → Pass) : (s.updPass id f).collEarly = s.collEarly := rfl
@[simp] theorem State.updPass_linkCard (s : State) (id : Nat) (f : Pass → Pass) : (s.updPass id f).linkCard = s.linkCard := rfl
@[simp] theorem State.updPass_linkUp (s : State) (id : Nat) (f : Pass → Pass) : (s.updPass id f).linkUp = s.linkUp := rfl
@[simp] theorem State.updPass_grpBase (s : State) (id : Nat) (f : Pass → Pass) : (s.updPass id f).grpBase = s.grpBase := rfl
@[simp] theorem State.updPass_leaves (s : State) (id : Nat) (f : Pass → Pass) : (s.updPass id f).leaves = s.leaves := rfl
@[simp] theorem State.updPass_bvhs (s : State) (id : Nat) (f : Pass → Pass) : (s.updPass id f).bvhs = s.bvhs := rfl
@[simp] theorem State.updPass_fq (s : State) (id : Nat) (f : Pass → Pass) : (s.updPass id f).fq = s.fq := rfl
@[simp] theorem State.updPass_trust (s : State) (id : Nat) (f : Pass → Pass) : (s.updPass id f).trust = s.trust := rfl
@[simp] theorem State.updPass_house (s : State) (id : Nat) (f : Pass → Pass) : (s.updPass id f).house = s.house := rfl
@[simp] theorem State.updPass_rcv (s : State) (id : Nat) (f : Pass → Pass) : (s.updPass id f).rcv = s.rcv := rfl
@[simp] theorem State.updPass_stalled (s : State) (id : Nat) (f : Pass → Pass) : (s.updPass id f).stalled = s.stalled := rfl
@[simp] theorem State.updPass_heldEv (s : State) (id : Nat) (f : Pass → Pass) : (s.updPass id f).heldEv = s.heldEv := rfl
@[simp] theorem State.updPass_irqs (s : State) (id : Nat) (f : Pass → Pass) : (s.updPass id f).irqs = s.irqs := rfl
@[simp] theorem State.updPass_out (s : State) (id : Nat) (f : Pass → Pass) : (s.updPass id f).out = s.out := rfl
@[simp] theorem State.updPass_extest (s : State) (id : Nat) (f : Pass → Pass) : (s.updPass id f).extest = s.extest := rfl

/-! ## updWarp -/

@[simp] theorem State.updWarp_cur (s : State) (t w : Nat) (f : Warp → Warp) : (s.updWarp t w f).cur = s.cur := rfl
@[simp] theorem State.updWarp_arg (s : State) (t w : Nat) (f : Warp → Warp) : (s.updWarp t w f).arg = s.arg := rfl
@[simp] theorem State.updWarp_inbox (s : State) (t w : Nat) (f : Warp → Warp) : (s.updWarp t w f).inbox = s.inbox := rfl
@[simp] theorem State.updWarp_focus (s : State) (t w : Nat) (f : Warp → Warp) : (s.updWarp t w f).focus = s.focus := rfl
@[simp] theorem State.updWarp_freeCtr (s : State) (t w : Nat) (f : Warp → Warp) : (s.updWarp t w f).freeCtr = s.freeCtr := rfl
@[simp] theorem State.updWarp_tick (s : State) (t w : Nat) (f : Warp → Warp) : (s.updWarp t w f).tick = s.tick := rfl
@[simp] theorem State.updWarp_now (s : State) (t w : Nat) (f : Warp → Warp) : (s.updWarp t w f).now = s.now := rfl
@[simp] theorem State.updWarp_clocks (s : State) (t w : Nat) (f : Warp → Warp) : (s.updWarp t w f).clocks = s.clocks := rfl
@[simp] theorem State.updWarp_nextId (s : State) (t w : Nat) (f : Warp → Warp) : (s.updWarp t w f).nextId = s.nextId := rfl
@[simp] theorem State.updWarp_fuses (s : State) (t w : Nat) (f : Warp → Warp) : (s.updWarp t w f).fuses = s.fuses := rfl
@[simp] theorem State.updWarp_mem (s : State) (t w : Nat) (f : Warp → Warp) : (s.updWarp t w f).mem = s.mem := rfl
@[simp] theorem State.updWarp_hist (s : State) (t w : Nat) (f : Warp → Warp) : (s.updWarp t w f).hist = s.hist := rfl
@[simp] theorem State.updWarp_nextSer (s : State) (t w : Nat) (f : Warp → Warp) : (s.updWarp t w f).nextSer = s.nextSer := rfl
@[simp] theorem State.updWarp_publs (s : State) (t w : Nat) (f : Warp → Warp) : (s.updWarp t w f).publs = s.publs := rfl
@[simp] theorem State.updWarp_bars (s : State) (t w : Nat) (f : Warp → Warp) : (s.updWarp t w f).bars = s.bars := rfl
@[simp] theorem State.updWarp_bad (s : State) (t w : Nat) (f : Warp → Warp) : (s.updWarp t w f).bad = s.bad := rfl
@[simp] theorem State.updWarp_grids (s : State) (t w : Nat) (f : Warp → Warp) : (s.updWarp t w f).grids = s.grids := rfl
@[simp] theorem State.updWarp_waves (s : State) (t w : Nat) (f : Warp → Warp) : (s.updWarp t w f).waves = s.waves := rfl
@[simp] theorem State.updWarp_copies (s : State) (t w : Nat) (f : Warp → Warp) : (s.updWarp t w f).copies = s.copies := rfl
@[simp] theorem State.updWarp_gathers (s : State) (t w : Nat) (f : Warp → Warp) : (s.updWarp t w f).gathers = s.gathers := rfl
@[simp] theorem State.updWarp_matq (s : State) (t w : Nat) (f : Warp → Warp) : (s.updWarp t w f).matq = s.matq := rfl
@[simp] theorem State.updWarp_spubs (s : State) (t w : Nat) (f : Warp → Warp) : (s.updWarp t w f).spubs = s.spubs := rfl
@[simp] theorem State.updWarp_ssubs (s : State) (t w : Nat) (f : Warp → Warp) : (s.updWarp t w f).ssubs = s.ssubs := rfl
@[simp] theorem State.updWarp_regionBase (s : State) (t w : Nat) (f : Warp → Warp) : (s.updWarp t w f).regionBase = s.regionBase := rfl
@[simp] theorem State.updWarp_syncId (s : State) (t w : Nat) (f : Warp → Warp) : (s.updWarp t w f).syncId = s.syncId := rfl
@[simp] theorem State.updWarp_syncBusy (s : State) (t w : Nat) (f : Warp → Warp) : (s.updWarp t w f).syncBusy = s.syncBusy := rfl
@[simp] theorem State.updWarp_syncStat (s : State) (t w : Nat) (f : Warp → Warp) : (s.updWarp t w f).syncStat = s.syncStat := rfl
@[simp] theorem State.updWarp_regions (s : State) (t w : Nat) (f : Warp → Warp) : (s.updWarp t w f).regions = s.regions := rfl
@[simp] theorem State.updWarp_mapped (s : State) (t w : Nat) (f : Warp → Warp) : (s.updWarp t w f).mapped = s.mapped := rfl
@[simp] theorem State.updWarp_invals (s : State) (t w : Nat) (f : Warp → Warp) : (s.updWarp t w f).invals = s.invals := rfl
@[simp] theorem State.updWarp_xown (s : State) (t w : Nat) (f : Warp → Warp) : (s.updWarp t w f).xown = s.xown := rfl
@[simp] theorem State.updWarp_win (s : State) (t w : Nat) (f : Warp → Warp) : (s.updWarp t w f).win = s.win := rfl
@[simp] theorem State.updWarp_alm (s : State) (t w : Nat) (f : Warp → Warp) : (s.updWarp t w f).alm = s.alm := rfl
@[simp] theorem State.updWarp_power (s : State) (t w : Nat) (f : Warp → Warp) : (s.updWarp t w f).power = s.power := rfl
@[simp] theorem State.updWarp_ptime (s : State) (t w : Nat) (f : Warp → Warp) : (s.updWarp t w f).ptime = s.ptime := rfl
@[simp] theorem State.updWarp_servo (s : State) (t w : Nat) (f : Warp → Warp) : (s.updWarp t w f).servo = s.servo := rfl
@[simp] theorem State.updWarp_frameBase (s : State) (t w : Nat) (f : Warp → Warp) : (s.updWarp t w f).frameBase = s.frameBase := rfl
@[simp] theorem State.updWarp_streamBase (s : State) (t w : Nat) (f : Warp → Warp) : (s.updWarp t w f).streamBase = s.streamBase := rfl
@[simp] theorem State.updWarp_tables (s : State) (t w : Nat) (f : Warp → Warp) : (s.updWarp t w f).tables = s.tables := rfl
@[simp] theorem State.updWarp_streams (s : State) (t w : Nat) (f : Warp → Warp) : (s.updWarp t w f).streams = s.streams := rfl
@[simp] theorem State.updWarp_txs (s : State) (t w : Nat) (f : Warp → Warp) : (s.updWarp t w f).txs = s.txs := rfl
@[simp] theorem State.updWarp_frameReg (s : State) (t w : Nat) (f : Warp → Warp) : (s.updWarp t w f).frameReg = s.frameReg := rfl
@[simp] theorem State.updWarp_firstOut (s : State) (t w : Nat) (f : Warp → Warp) : (s.updWarp t w f).firstOut = s.firstOut := rfl
@[simp] theorem State.updWarp_colls (s : State) (t w : Nat) (f : Warp → Warp) : (s.updWarp t w f).colls = s.colls := rfl
@[simp] theorem State.updWarp_collKept (s : State) (t w : Nat) (f : Warp → Warp) : (s.updWarp t w f).collKept = s.collKept := rfl
@[simp] theorem State.updWarp_collEarly (s : State) (t w : Nat) (f : Warp → Warp) : (s.updWarp t w f).collEarly = s.collEarly := rfl
@[simp] theorem State.updWarp_linkCard (s : State) (t w : Nat) (f : Warp → Warp) : (s.updWarp t w f).linkCard = s.linkCard := rfl
@[simp] theorem State.updWarp_linkUp (s : State) (t w : Nat) (f : Warp → Warp) : (s.updWarp t w f).linkUp = s.linkUp := rfl
@[simp] theorem State.updWarp_grpBase (s : State) (t w : Nat) (f : Warp → Warp) : (s.updWarp t w f).grpBase = s.grpBase := rfl
@[simp] theorem State.updWarp_leaves (s : State) (t w : Nat) (f : Warp → Warp) : (s.updWarp t w f).leaves = s.leaves := rfl
@[simp] theorem State.updWarp_bvhs (s : State) (t w : Nat) (f : Warp → Warp) : (s.updWarp t w f).bvhs = s.bvhs := rfl
@[simp] theorem State.updWarp_passes (s : State) (t w : Nat) (f : Warp → Warp) : (s.updWarp t w f).passes = s.passes := rfl
@[simp] theorem State.updWarp_fq (s : State) (t w : Nat) (f : Warp → Warp) : (s.updWarp t w f).fq = s.fq := rfl
@[simp] theorem State.updWarp_trust (s : State) (t w : Nat) (f : Warp → Warp) : (s.updWarp t w f).trust = s.trust := rfl
@[simp] theorem State.updWarp_house (s : State) (t w : Nat) (f : Warp → Warp) : (s.updWarp t w f).house = s.house := rfl
@[simp] theorem State.updWarp_rcv (s : State) (t w : Nat) (f : Warp → Warp) : (s.updWarp t w f).rcv = s.rcv := rfl
@[simp] theorem State.updWarp_stalled (s : State) (t w : Nat) (f : Warp → Warp) : (s.updWarp t w f).stalled = s.stalled := rfl
@[simp] theorem State.updWarp_heldEv (s : State) (t w : Nat) (f : Warp → Warp) : (s.updWarp t w f).heldEv = s.heldEv := rfl
@[simp] theorem State.updWarp_irqs (s : State) (t w : Nat) (f : Warp → Warp) : (s.updWarp t w f).irqs = s.irqs := rfl
@[simp] theorem State.updWarp_out (s : State) (t w : Nat) (f : Warp → Warp) : (s.updWarp t w f).out = s.out := rfl
@[simp] theorem State.updWarp_extest (s : State) (t w : Nat) (f : Warp → Warp) : (s.updWarp t w f).extest = s.extest := rfl

/-! ## updThr -/

@[simp] theorem State.updThr_cur (s : State) (t w l : Nat) (f : Thread → Thread) : (s.updThr t w l f).cur = s.cur := rfl
@[simp] theorem State.updThr_arg (s : State) (t w l : Nat) (f : Thread → Thread) : (s.updThr t w l f).arg = s.arg := rfl
@[simp] theorem State.updThr_inbox (s : State) (t w l : Nat) (f : Thread → Thread) : (s.updThr t w l f).inbox = s.inbox := rfl
@[simp] theorem State.updThr_focus (s : State) (t w l : Nat) (f : Thread → Thread) : (s.updThr t w l f).focus = s.focus := rfl
@[simp] theorem State.updThr_freeCtr (s : State) (t w l : Nat) (f : Thread → Thread) : (s.updThr t w l f).freeCtr = s.freeCtr := rfl
@[simp] theorem State.updThr_tick (s : State) (t w l : Nat) (f : Thread → Thread) : (s.updThr t w l f).tick = s.tick := rfl
@[simp] theorem State.updThr_now (s : State) (t w l : Nat) (f : Thread → Thread) : (s.updThr t w l f).now = s.now := rfl
@[simp] theorem State.updThr_clocks (s : State) (t w l : Nat) (f : Thread → Thread) : (s.updThr t w l f).clocks = s.clocks := rfl
@[simp] theorem State.updThr_nextId (s : State) (t w l : Nat) (f : Thread → Thread) : (s.updThr t w l f).nextId = s.nextId := rfl
@[simp] theorem State.updThr_fuses (s : State) (t w l : Nat) (f : Thread → Thread) : (s.updThr t w l f).fuses = s.fuses := rfl
@[simp] theorem State.updThr_mem (s : State) (t w l : Nat) (f : Thread → Thread) : (s.updThr t w l f).mem = s.mem := rfl
@[simp] theorem State.updThr_hist (s : State) (t w l : Nat) (f : Thread → Thread) : (s.updThr t w l f).hist = s.hist := rfl
@[simp] theorem State.updThr_nextSer (s : State) (t w l : Nat) (f : Thread → Thread) : (s.updThr t w l f).nextSer = s.nextSer := rfl
@[simp] theorem State.updThr_publs (s : State) (t w l : Nat) (f : Thread → Thread) : (s.updThr t w l f).publs = s.publs := rfl
@[simp] theorem State.updThr_bars (s : State) (t w l : Nat) (f : Thread → Thread) : (s.updThr t w l f).bars = s.bars := rfl
@[simp] theorem State.updThr_bad (s : State) (t w l : Nat) (f : Thread → Thread) : (s.updThr t w l f).bad = s.bad := rfl
@[simp] theorem State.updThr_grids (s : State) (t w l : Nat) (f : Thread → Thread) : (s.updThr t w l f).grids = s.grids := rfl
@[simp] theorem State.updThr_waves (s : State) (t w l : Nat) (f : Thread → Thread) : (s.updThr t w l f).waves = s.waves := rfl
@[simp] theorem State.updThr_copies (s : State) (t w l : Nat) (f : Thread → Thread) : (s.updThr t w l f).copies = s.copies := rfl
@[simp] theorem State.updThr_gathers (s : State) (t w l : Nat) (f : Thread → Thread) : (s.updThr t w l f).gathers = s.gathers := rfl
@[simp] theorem State.updThr_matq (s : State) (t w l : Nat) (f : Thread → Thread) : (s.updThr t w l f).matq = s.matq := rfl
@[simp] theorem State.updThr_spubs (s : State) (t w l : Nat) (f : Thread → Thread) : (s.updThr t w l f).spubs = s.spubs := rfl
@[simp] theorem State.updThr_ssubs (s : State) (t w l : Nat) (f : Thread → Thread) : (s.updThr t w l f).ssubs = s.ssubs := rfl
@[simp] theorem State.updThr_regionBase (s : State) (t w l : Nat) (f : Thread → Thread) : (s.updThr t w l f).regionBase = s.regionBase := rfl
@[simp] theorem State.updThr_syncId (s : State) (t w l : Nat) (f : Thread → Thread) : (s.updThr t w l f).syncId = s.syncId := rfl
@[simp] theorem State.updThr_syncBusy (s : State) (t w l : Nat) (f : Thread → Thread) : (s.updThr t w l f).syncBusy = s.syncBusy := rfl
@[simp] theorem State.updThr_syncStat (s : State) (t w l : Nat) (f : Thread → Thread) : (s.updThr t w l f).syncStat = s.syncStat := rfl
@[simp] theorem State.updThr_regions (s : State) (t w l : Nat) (f : Thread → Thread) : (s.updThr t w l f).regions = s.regions := rfl
@[simp] theorem State.updThr_mapped (s : State) (t w l : Nat) (f : Thread → Thread) : (s.updThr t w l f).mapped = s.mapped := rfl
@[simp] theorem State.updThr_invals (s : State) (t w l : Nat) (f : Thread → Thread) : (s.updThr t w l f).invals = s.invals := rfl
@[simp] theorem State.updThr_xown (s : State) (t w l : Nat) (f : Thread → Thread) : (s.updThr t w l f).xown = s.xown := rfl
@[simp] theorem State.updThr_win (s : State) (t w l : Nat) (f : Thread → Thread) : (s.updThr t w l f).win = s.win := rfl
@[simp] theorem State.updThr_alm (s : State) (t w l : Nat) (f : Thread → Thread) : (s.updThr t w l f).alm = s.alm := rfl
@[simp] theorem State.updThr_power (s : State) (t w l : Nat) (f : Thread → Thread) : (s.updThr t w l f).power = s.power := rfl
@[simp] theorem State.updThr_ptime (s : State) (t w l : Nat) (f : Thread → Thread) : (s.updThr t w l f).ptime = s.ptime := rfl
@[simp] theorem State.updThr_servo (s : State) (t w l : Nat) (f : Thread → Thread) : (s.updThr t w l f).servo = s.servo := rfl
@[simp] theorem State.updThr_frameBase (s : State) (t w l : Nat) (f : Thread → Thread) : (s.updThr t w l f).frameBase = s.frameBase := rfl
@[simp] theorem State.updThr_streamBase (s : State) (t w l : Nat) (f : Thread → Thread) : (s.updThr t w l f).streamBase = s.streamBase := rfl
@[simp] theorem State.updThr_tables (s : State) (t w l : Nat) (f : Thread → Thread) : (s.updThr t w l f).tables = s.tables := rfl
@[simp] theorem State.updThr_streams (s : State) (t w l : Nat) (f : Thread → Thread) : (s.updThr t w l f).streams = s.streams := rfl
@[simp] theorem State.updThr_txs (s : State) (t w l : Nat) (f : Thread → Thread) : (s.updThr t w l f).txs = s.txs := rfl
@[simp] theorem State.updThr_frameReg (s : State) (t w l : Nat) (f : Thread → Thread) : (s.updThr t w l f).frameReg = s.frameReg := rfl
@[simp] theorem State.updThr_firstOut (s : State) (t w l : Nat) (f : Thread → Thread) : (s.updThr t w l f).firstOut = s.firstOut := rfl
@[simp] theorem State.updThr_colls (s : State) (t w l : Nat) (f : Thread → Thread) : (s.updThr t w l f).colls = s.colls := rfl
@[simp] theorem State.updThr_collKept (s : State) (t w l : Nat) (f : Thread → Thread) : (s.updThr t w l f).collKept = s.collKept := rfl
@[simp] theorem State.updThr_collEarly (s : State) (t w l : Nat) (f : Thread → Thread) : (s.updThr t w l f).collEarly = s.collEarly := rfl
@[simp] theorem State.updThr_linkCard (s : State) (t w l : Nat) (f : Thread → Thread) : (s.updThr t w l f).linkCard = s.linkCard := rfl
@[simp] theorem State.updThr_linkUp (s : State) (t w l : Nat) (f : Thread → Thread) : (s.updThr t w l f).linkUp = s.linkUp := rfl
@[simp] theorem State.updThr_grpBase (s : State) (t w l : Nat) (f : Thread → Thread) : (s.updThr t w l f).grpBase = s.grpBase := rfl
@[simp] theorem State.updThr_leaves (s : State) (t w l : Nat) (f : Thread → Thread) : (s.updThr t w l f).leaves = s.leaves := rfl
@[simp] theorem State.updThr_bvhs (s : State) (t w l : Nat) (f : Thread → Thread) : (s.updThr t w l f).bvhs = s.bvhs := rfl
@[simp] theorem State.updThr_passes (s : State) (t w l : Nat) (f : Thread → Thread) : (s.updThr t w l f).passes = s.passes := rfl
@[simp] theorem State.updThr_fq (s : State) (t w l : Nat) (f : Thread → Thread) : (s.updThr t w l f).fq = s.fq := rfl
@[simp] theorem State.updThr_trust (s : State) (t w l : Nat) (f : Thread → Thread) : (s.updThr t w l f).trust = s.trust := rfl
@[simp] theorem State.updThr_house (s : State) (t w l : Nat) (f : Thread → Thread) : (s.updThr t w l f).house = s.house := rfl
@[simp] theorem State.updThr_rcv (s : State) (t w l : Nat) (f : Thread → Thread) : (s.updThr t w l f).rcv = s.rcv := rfl
@[simp] theorem State.updThr_stalled (s : State) (t w l : Nat) (f : Thread → Thread) : (s.updThr t w l f).stalled = s.stalled := rfl
@[simp] theorem State.updThr_heldEv (s : State) (t w l : Nat) (f : Thread → Thread) : (s.updThr t w l f).heldEv = s.heldEv := rfl
@[simp] theorem State.updThr_irqs (s : State) (t w l : Nat) (f : Thread → Thread) : (s.updThr t w l f).irqs = s.irqs := rfl
@[simp] theorem State.updThr_out (s : State) (t w l : Nat) (f : Thread → Thread) : (s.updThr t w l f).out = s.out := rfl
@[simp] theorem State.updThr_extest (s : State) (t w l : Nat) (f : Thread → Thread) : (s.updThr t w l f).extest = s.extest := rfl

/-! ## mapThr -/

@[simp] theorem State.mapThr_cur (s : State) (t w : Nat) (f : Nat → Thread → Thread) : (s.mapThr t w f).cur = s.cur := rfl
@[simp] theorem State.mapThr_arg (s : State) (t w : Nat) (f : Nat → Thread → Thread) : (s.mapThr t w f).arg = s.arg := rfl
@[simp] theorem State.mapThr_inbox (s : State) (t w : Nat) (f : Nat → Thread → Thread) : (s.mapThr t w f).inbox = s.inbox := rfl
@[simp] theorem State.mapThr_focus (s : State) (t w : Nat) (f : Nat → Thread → Thread) : (s.mapThr t w f).focus = s.focus := rfl
@[simp] theorem State.mapThr_freeCtr (s : State) (t w : Nat) (f : Nat → Thread → Thread) : (s.mapThr t w f).freeCtr = s.freeCtr := rfl
@[simp] theorem State.mapThr_tick (s : State) (t w : Nat) (f : Nat → Thread → Thread) : (s.mapThr t w f).tick = s.tick := rfl
@[simp] theorem State.mapThr_now (s : State) (t w : Nat) (f : Nat → Thread → Thread) : (s.mapThr t w f).now = s.now := rfl
@[simp] theorem State.mapThr_clocks (s : State) (t w : Nat) (f : Nat → Thread → Thread) : (s.mapThr t w f).clocks = s.clocks := rfl
@[simp] theorem State.mapThr_nextId (s : State) (t w : Nat) (f : Nat → Thread → Thread) : (s.mapThr t w f).nextId = s.nextId := rfl
@[simp] theorem State.mapThr_fuses (s : State) (t w : Nat) (f : Nat → Thread → Thread) : (s.mapThr t w f).fuses = s.fuses := rfl
@[simp] theorem State.mapThr_mem (s : State) (t w : Nat) (f : Nat → Thread → Thread) : (s.mapThr t w f).mem = s.mem := rfl
@[simp] theorem State.mapThr_hist (s : State) (t w : Nat) (f : Nat → Thread → Thread) : (s.mapThr t w f).hist = s.hist := rfl
@[simp] theorem State.mapThr_nextSer (s : State) (t w : Nat) (f : Nat → Thread → Thread) : (s.mapThr t w f).nextSer = s.nextSer := rfl
@[simp] theorem State.mapThr_publs (s : State) (t w : Nat) (f : Nat → Thread → Thread) : (s.mapThr t w f).publs = s.publs := rfl
@[simp] theorem State.mapThr_bars (s : State) (t w : Nat) (f : Nat → Thread → Thread) : (s.mapThr t w f).bars = s.bars := rfl
@[simp] theorem State.mapThr_bad (s : State) (t w : Nat) (f : Nat → Thread → Thread) : (s.mapThr t w f).bad = s.bad := rfl
@[simp] theorem State.mapThr_grids (s : State) (t w : Nat) (f : Nat → Thread → Thread) : (s.mapThr t w f).grids = s.grids := rfl
@[simp] theorem State.mapThr_waves (s : State) (t w : Nat) (f : Nat → Thread → Thread) : (s.mapThr t w f).waves = s.waves := rfl
@[simp] theorem State.mapThr_copies (s : State) (t w : Nat) (f : Nat → Thread → Thread) : (s.mapThr t w f).copies = s.copies := rfl
@[simp] theorem State.mapThr_gathers (s : State) (t w : Nat) (f : Nat → Thread → Thread) : (s.mapThr t w f).gathers = s.gathers := rfl
@[simp] theorem State.mapThr_matq (s : State) (t w : Nat) (f : Nat → Thread → Thread) : (s.mapThr t w f).matq = s.matq := rfl
@[simp] theorem State.mapThr_spubs (s : State) (t w : Nat) (f : Nat → Thread → Thread) : (s.mapThr t w f).spubs = s.spubs := rfl
@[simp] theorem State.mapThr_ssubs (s : State) (t w : Nat) (f : Nat → Thread → Thread) : (s.mapThr t w f).ssubs = s.ssubs := rfl
@[simp] theorem State.mapThr_regionBase (s : State) (t w : Nat) (f : Nat → Thread → Thread) : (s.mapThr t w f).regionBase = s.regionBase := rfl
@[simp] theorem State.mapThr_syncId (s : State) (t w : Nat) (f : Nat → Thread → Thread) : (s.mapThr t w f).syncId = s.syncId := rfl
@[simp] theorem State.mapThr_syncBusy (s : State) (t w : Nat) (f : Nat → Thread → Thread) : (s.mapThr t w f).syncBusy = s.syncBusy := rfl
@[simp] theorem State.mapThr_syncStat (s : State) (t w : Nat) (f : Nat → Thread → Thread) : (s.mapThr t w f).syncStat = s.syncStat := rfl
@[simp] theorem State.mapThr_regions (s : State) (t w : Nat) (f : Nat → Thread → Thread) : (s.mapThr t w f).regions = s.regions := rfl
@[simp] theorem State.mapThr_mapped (s : State) (t w : Nat) (f : Nat → Thread → Thread) : (s.mapThr t w f).mapped = s.mapped := rfl
@[simp] theorem State.mapThr_invals (s : State) (t w : Nat) (f : Nat → Thread → Thread) : (s.mapThr t w f).invals = s.invals := rfl
@[simp] theorem State.mapThr_xown (s : State) (t w : Nat) (f : Nat → Thread → Thread) : (s.mapThr t w f).xown = s.xown := rfl
@[simp] theorem State.mapThr_win (s : State) (t w : Nat) (f : Nat → Thread → Thread) : (s.mapThr t w f).win = s.win := rfl
@[simp] theorem State.mapThr_alm (s : State) (t w : Nat) (f : Nat → Thread → Thread) : (s.mapThr t w f).alm = s.alm := rfl
@[simp] theorem State.mapThr_power (s : State) (t w : Nat) (f : Nat → Thread → Thread) : (s.mapThr t w f).power = s.power := rfl
@[simp] theorem State.mapThr_ptime (s : State) (t w : Nat) (f : Nat → Thread → Thread) : (s.mapThr t w f).ptime = s.ptime := rfl
@[simp] theorem State.mapThr_servo (s : State) (t w : Nat) (f : Nat → Thread → Thread) : (s.mapThr t w f).servo = s.servo := rfl
@[simp] theorem State.mapThr_frameBase (s : State) (t w : Nat) (f : Nat → Thread → Thread) : (s.mapThr t w f).frameBase = s.frameBase := rfl
@[simp] theorem State.mapThr_streamBase (s : State) (t w : Nat) (f : Nat → Thread → Thread) : (s.mapThr t w f).streamBase = s.streamBase := rfl
@[simp] theorem State.mapThr_tables (s : State) (t w : Nat) (f : Nat → Thread → Thread) : (s.mapThr t w f).tables = s.tables := rfl
@[simp] theorem State.mapThr_streams (s : State) (t w : Nat) (f : Nat → Thread → Thread) : (s.mapThr t w f).streams = s.streams := rfl
@[simp] theorem State.mapThr_txs (s : State) (t w : Nat) (f : Nat → Thread → Thread) : (s.mapThr t w f).txs = s.txs := rfl
@[simp] theorem State.mapThr_frameReg (s : State) (t w : Nat) (f : Nat → Thread → Thread) : (s.mapThr t w f).frameReg = s.frameReg := rfl
@[simp] theorem State.mapThr_firstOut (s : State) (t w : Nat) (f : Nat → Thread → Thread) : (s.mapThr t w f).firstOut = s.firstOut := rfl
@[simp] theorem State.mapThr_colls (s : State) (t w : Nat) (f : Nat → Thread → Thread) : (s.mapThr t w f).colls = s.colls := rfl
@[simp] theorem State.mapThr_collKept (s : State) (t w : Nat) (f : Nat → Thread → Thread) : (s.mapThr t w f).collKept = s.collKept := rfl
@[simp] theorem State.mapThr_collEarly (s : State) (t w : Nat) (f : Nat → Thread → Thread) : (s.mapThr t w f).collEarly = s.collEarly := rfl
@[simp] theorem State.mapThr_linkCard (s : State) (t w : Nat) (f : Nat → Thread → Thread) : (s.mapThr t w f).linkCard = s.linkCard := rfl
@[simp] theorem State.mapThr_linkUp (s : State) (t w : Nat) (f : Nat → Thread → Thread) : (s.mapThr t w f).linkUp = s.linkUp := rfl
@[simp] theorem State.mapThr_grpBase (s : State) (t w : Nat) (f : Nat → Thread → Thread) : (s.mapThr t w f).grpBase = s.grpBase := rfl
@[simp] theorem State.mapThr_leaves (s : State) (t w : Nat) (f : Nat → Thread → Thread) : (s.mapThr t w f).leaves = s.leaves := rfl
@[simp] theorem State.mapThr_bvhs (s : State) (t w : Nat) (f : Nat → Thread → Thread) : (s.mapThr t w f).bvhs = s.bvhs := rfl
@[simp] theorem State.mapThr_passes (s : State) (t w : Nat) (f : Nat → Thread → Thread) : (s.mapThr t w f).passes = s.passes := rfl
@[simp] theorem State.mapThr_fq (s : State) (t w : Nat) (f : Nat → Thread → Thread) : (s.mapThr t w f).fq = s.fq := rfl
@[simp] theorem State.mapThr_trust (s : State) (t w : Nat) (f : Nat → Thread → Thread) : (s.mapThr t w f).trust = s.trust := rfl
@[simp] theorem State.mapThr_house (s : State) (t w : Nat) (f : Nat → Thread → Thread) : (s.mapThr t w f).house = s.house := rfl
@[simp] theorem State.mapThr_rcv (s : State) (t w : Nat) (f : Nat → Thread → Thread) : (s.mapThr t w f).rcv = s.rcv := rfl
@[simp] theorem State.mapThr_stalled (s : State) (t w : Nat) (f : Nat → Thread → Thread) : (s.mapThr t w f).stalled = s.stalled := rfl
@[simp] theorem State.mapThr_heldEv (s : State) (t w : Nat) (f : Nat → Thread → Thread) : (s.mapThr t w f).heldEv = s.heldEv := rfl
@[simp] theorem State.mapThr_irqs (s : State) (t w : Nat) (f : Nat → Thread → Thread) : (s.mapThr t w f).irqs = s.irqs := rfl
@[simp] theorem State.mapThr_out (s : State) (t w : Nat) (f : Nat → Thread → Thread) : (s.mapThr t w f).out = s.out := rfl
@[simp] theorem State.mapThr_extest (s : State) (t w : Nat) (f : Nat → Thread → Thread) : (s.mapThr t w f).extest = s.extest := rfl

/-! ## wr1 -/

@[simp] theorem State.wr1_cur (s : State) (m : Maker) (l : Nat) (b : Byte) : (s.wr1 m l b).cur = s.cur := rfl
@[simp] theorem State.wr1_arg (s : State) (m : Maker) (l : Nat) (b : Byte) : (s.wr1 m l b).arg = s.arg := rfl
@[simp] theorem State.wr1_inbox (s : State) (m : Maker) (l : Nat) (b : Byte) : (s.wr1 m l b).inbox = s.inbox := rfl
@[simp] theorem State.wr1_focus (s : State) (m : Maker) (l : Nat) (b : Byte) : (s.wr1 m l b).focus = s.focus := rfl
@[simp] theorem State.wr1_freeCtr (s : State) (m : Maker) (l : Nat) (b : Byte) : (s.wr1 m l b).freeCtr = s.freeCtr := rfl
@[simp] theorem State.wr1_tick (s : State) (m : Maker) (l : Nat) (b : Byte) : (s.wr1 m l b).tick = s.tick := rfl
@[simp] theorem State.wr1_now (s : State) (m : Maker) (l : Nat) (b : Byte) : (s.wr1 m l b).now = s.now := rfl
@[simp] theorem State.wr1_clocks (s : State) (m : Maker) (l : Nat) (b : Byte) : (s.wr1 m l b).clocks = s.clocks := rfl
@[simp] theorem State.wr1_nextId (s : State) (m : Maker) (l : Nat) (b : Byte) : (s.wr1 m l b).nextId = s.nextId := rfl
@[simp] theorem State.wr1_fuses (s : State) (m : Maker) (l : Nat) (b : Byte) : (s.wr1 m l b).fuses = s.fuses := rfl
@[simp] theorem State.wr1_publs (s : State) (m : Maker) (l : Nat) (b : Byte) : (s.wr1 m l b).publs = s.publs := rfl
@[simp] theorem State.wr1_bars (s : State) (m : Maker) (l : Nat) (b : Byte) : (s.wr1 m l b).bars = s.bars := rfl
@[simp] theorem State.wr1_bad (s : State) (m : Maker) (l : Nat) (b : Byte) : (s.wr1 m l b).bad = s.bad := rfl
@[simp] theorem State.wr1_teams (s : State) (m : Maker) (l : Nat) (b : Byte) : (s.wr1 m l b).teams = s.teams := rfl
@[simp] theorem State.wr1_grids (s : State) (m : Maker) (l : Nat) (b : Byte) : (s.wr1 m l b).grids = s.grids := rfl
@[simp] theorem State.wr1_waves (s : State) (m : Maker) (l : Nat) (b : Byte) : (s.wr1 m l b).waves = s.waves := rfl
@[simp] theorem State.wr1_copies (s : State) (m : Maker) (l : Nat) (b : Byte) : (s.wr1 m l b).copies = s.copies := rfl
@[simp] theorem State.wr1_gathers (s : State) (m : Maker) (l : Nat) (b : Byte) : (s.wr1 m l b).gathers = s.gathers := rfl
@[simp] theorem State.wr1_matq (s : State) (m : Maker) (l : Nat) (b : Byte) : (s.wr1 m l b).matq = s.matq := rfl
@[simp] theorem State.wr1_spubs (s : State) (m : Maker) (l : Nat) (b : Byte) : (s.wr1 m l b).spubs = s.spubs := rfl
@[simp] theorem State.wr1_ssubs (s : State) (m : Maker) (l : Nat) (b : Byte) : (s.wr1 m l b).ssubs = s.ssubs := rfl
@[simp] theorem State.wr1_regionBase (s : State) (m : Maker) (l : Nat) (b : Byte) : (s.wr1 m l b).regionBase = s.regionBase := rfl
@[simp] theorem State.wr1_syncId (s : State) (m : Maker) (l : Nat) (b : Byte) : (s.wr1 m l b).syncId = s.syncId := rfl
@[simp] theorem State.wr1_syncBusy (s : State) (m : Maker) (l : Nat) (b : Byte) : (s.wr1 m l b).syncBusy = s.syncBusy := rfl
@[simp] theorem State.wr1_syncStat (s : State) (m : Maker) (l : Nat) (b : Byte) : (s.wr1 m l b).syncStat = s.syncStat := rfl
@[simp] theorem State.wr1_regions (s : State) (m : Maker) (l : Nat) (b : Byte) : (s.wr1 m l b).regions = s.regions := rfl
@[simp] theorem State.wr1_mapped (s : State) (m : Maker) (l : Nat) (b : Byte) : (s.wr1 m l b).mapped = s.mapped := rfl
@[simp] theorem State.wr1_invals (s : State) (m : Maker) (l : Nat) (b : Byte) : (s.wr1 m l b).invals = s.invals := rfl
@[simp] theorem State.wr1_xown (s : State) (m : Maker) (l : Nat) (b : Byte) : (s.wr1 m l b).xown = s.xown := rfl
@[simp] theorem State.wr1_win (s : State) (m : Maker) (l : Nat) (b : Byte) : (s.wr1 m l b).win = s.win := rfl
@[simp] theorem State.wr1_alm (s : State) (m : Maker) (l : Nat) (b : Byte) : (s.wr1 m l b).alm = s.alm := rfl
@[simp] theorem State.wr1_power (s : State) (m : Maker) (l : Nat) (b : Byte) : (s.wr1 m l b).power = s.power := rfl
@[simp] theorem State.wr1_ptime (s : State) (m : Maker) (l : Nat) (b : Byte) : (s.wr1 m l b).ptime = s.ptime := rfl
@[simp] theorem State.wr1_servo (s : State) (m : Maker) (l : Nat) (b : Byte) : (s.wr1 m l b).servo = s.servo := rfl
@[simp] theorem State.wr1_frameBase (s : State) (m : Maker) (l : Nat) (b : Byte) : (s.wr1 m l b).frameBase = s.frameBase := rfl
@[simp] theorem State.wr1_streamBase (s : State) (m : Maker) (l : Nat) (b : Byte) : (s.wr1 m l b).streamBase = s.streamBase := rfl
@[simp] theorem State.wr1_tables (s : State) (m : Maker) (l : Nat) (b : Byte) : (s.wr1 m l b).tables = s.tables := rfl
@[simp] theorem State.wr1_streams (s : State) (m : Maker) (l : Nat) (b : Byte) : (s.wr1 m l b).streams = s.streams := rfl
@[simp] theorem State.wr1_txs (s : State) (m : Maker) (l : Nat) (b : Byte) : (s.wr1 m l b).txs = s.txs := rfl
@[simp] theorem State.wr1_frameReg (s : State) (m : Maker) (l : Nat) (b : Byte) : (s.wr1 m l b).frameReg = s.frameReg := rfl
@[simp] theorem State.wr1_firstOut (s : State) (m : Maker) (l : Nat) (b : Byte) : (s.wr1 m l b).firstOut = s.firstOut := rfl
@[simp] theorem State.wr1_colls (s : State) (m : Maker) (l : Nat) (b : Byte) : (s.wr1 m l b).colls = s.colls := rfl
@[simp] theorem State.wr1_collKept (s : State) (m : Maker) (l : Nat) (b : Byte) : (s.wr1 m l b).collKept = s.collKept := rfl
@[simp] theorem State.wr1_collEarly (s : State) (m : Maker) (l : Nat) (b : Byte) : (s.wr1 m l b).collEarly = s.collEarly := rfl
@[simp] theorem State.wr1_linkCard (s : State) (m : Maker) (l : Nat) (b : Byte) : (s.wr1 m l b).linkCard = s.linkCard := rfl
@[simp] theorem State.wr1_linkUp (s : State) (m : Maker) (l : Nat) (b : Byte) : (s.wr1 m l b).linkUp = s.linkUp := rfl
@[simp] theorem State.wr1_grpBase (s : State) (m : Maker) (l : Nat) (b : Byte) : (s.wr1 m l b).grpBase = s.grpBase := rfl
@[simp] theorem State.wr1_leaves (s : State) (m : Maker) (l : Nat) (b : Byte) : (s.wr1 m l b).leaves = s.leaves := rfl
@[simp] theorem State.wr1_bvhs (s : State) (m : Maker) (l : Nat) (b : Byte) : (s.wr1 m l b).bvhs = s.bvhs := rfl
@[simp] theorem State.wr1_passes (s : State) (m : Maker) (l : Nat) (b : Byte) : (s.wr1 m l b).passes = s.passes := rfl
@[simp] theorem State.wr1_fq (s : State) (m : Maker) (l : Nat) (b : Byte) : (s.wr1 m l b).fq = s.fq := rfl
@[simp] theorem State.wr1_trust (s : State) (m : Maker) (l : Nat) (b : Byte) : (s.wr1 m l b).trust = s.trust := rfl
@[simp] theorem State.wr1_house (s : State) (m : Maker) (l : Nat) (b : Byte) : (s.wr1 m l b).house = s.house := rfl
@[simp] theorem State.wr1_rcv (s : State) (m : Maker) (l : Nat) (b : Byte) : (s.wr1 m l b).rcv = s.rcv := rfl
@[simp] theorem State.wr1_stalled (s : State) (m : Maker) (l : Nat) (b : Byte) : (s.wr1 m l b).stalled = s.stalled := rfl
@[simp] theorem State.wr1_heldEv (s : State) (m : Maker) (l : Nat) (b : Byte) : (s.wr1 m l b).heldEv = s.heldEv := rfl
@[simp] theorem State.wr1_irqs (s : State) (m : Maker) (l : Nat) (b : Byte) : (s.wr1 m l b).irqs = s.irqs := rfl
@[simp] theorem State.wr1_out (s : State) (m : Maker) (l : Nat) (b : Byte) : (s.wr1 m l b).out = s.out := rfl
@[simp] theorem State.wr1_extest (s : State) (m : Maker) (l : Nat) (b : Byte) : (s.wr1 m l b).extest = s.extest := rfl

/-! ## publish -/

@[simp] theorem State.publish_cur (s : State) (S : Scope) (P : Party) (ws : List (Nat × Nat)) : (s.publish S P ws).cur = s.cur := rfl
@[simp] theorem State.publish_arg (s : State) (S : Scope) (P : Party) (ws : List (Nat × Nat)) : (s.publish S P ws).arg = s.arg := rfl
@[simp] theorem State.publish_inbox (s : State) (S : Scope) (P : Party) (ws : List (Nat × Nat)) : (s.publish S P ws).inbox = s.inbox := rfl
@[simp] theorem State.publish_focus (s : State) (S : Scope) (P : Party) (ws : List (Nat × Nat)) : (s.publish S P ws).focus = s.focus := rfl
@[simp] theorem State.publish_freeCtr (s : State) (S : Scope) (P : Party) (ws : List (Nat × Nat)) : (s.publish S P ws).freeCtr = s.freeCtr := rfl
@[simp] theorem State.publish_tick (s : State) (S : Scope) (P : Party) (ws : List (Nat × Nat)) : (s.publish S P ws).tick = s.tick := rfl
@[simp] theorem State.publish_now (s : State) (S : Scope) (P : Party) (ws : List (Nat × Nat)) : (s.publish S P ws).now = s.now := rfl
@[simp] theorem State.publish_clocks (s : State) (S : Scope) (P : Party) (ws : List (Nat × Nat)) : (s.publish S P ws).clocks = s.clocks := rfl
@[simp] theorem State.publish_nextId (s : State) (S : Scope) (P : Party) (ws : List (Nat × Nat)) : (s.publish S P ws).nextId = s.nextId := rfl
@[simp] theorem State.publish_fuses (s : State) (S : Scope) (P : Party) (ws : List (Nat × Nat)) : (s.publish S P ws).fuses = s.fuses := rfl
@[simp] theorem State.publish_mem (s : State) (S : Scope) (P : Party) (ws : List (Nat × Nat)) : (s.publish S P ws).mem = s.mem := rfl
@[simp] theorem State.publish_hist (s : State) (S : Scope) (P : Party) (ws : List (Nat × Nat)) : (s.publish S P ws).hist = s.hist := rfl
@[simp] theorem State.publish_nextSer (s : State) (S : Scope) (P : Party) (ws : List (Nat × Nat)) : (s.publish S P ws).nextSer = s.nextSer := rfl
@[simp] theorem State.publish_bars (s : State) (S : Scope) (P : Party) (ws : List (Nat × Nat)) : (s.publish S P ws).bars = s.bars := rfl
@[simp] theorem State.publish_bad (s : State) (S : Scope) (P : Party) (ws : List (Nat × Nat)) : (s.publish S P ws).bad = s.bad := rfl
@[simp] theorem State.publish_teams (s : State) (S : Scope) (P : Party) (ws : List (Nat × Nat)) : (s.publish S P ws).teams = s.teams := rfl
@[simp] theorem State.publish_grids (s : State) (S : Scope) (P : Party) (ws : List (Nat × Nat)) : (s.publish S P ws).grids = s.grids := rfl
@[simp] theorem State.publish_waves (s : State) (S : Scope) (P : Party) (ws : List (Nat × Nat)) : (s.publish S P ws).waves = s.waves := rfl
@[simp] theorem State.publish_copies (s : State) (S : Scope) (P : Party) (ws : List (Nat × Nat)) : (s.publish S P ws).copies = s.copies := rfl
@[simp] theorem State.publish_gathers (s : State) (S : Scope) (P : Party) (ws : List (Nat × Nat)) : (s.publish S P ws).gathers = s.gathers := rfl
@[simp] theorem State.publish_matq (s : State) (S : Scope) (P : Party) (ws : List (Nat × Nat)) : (s.publish S P ws).matq = s.matq := rfl
@[simp] theorem State.publish_spubs (s : State) (S : Scope) (P : Party) (ws : List (Nat × Nat)) : (s.publish S P ws).spubs = s.spubs := rfl
@[simp] theorem State.publish_ssubs (s : State) (S : Scope) (P : Party) (ws : List (Nat × Nat)) : (s.publish S P ws).ssubs = s.ssubs := rfl
@[simp] theorem State.publish_regionBase (s : State) (S : Scope) (P : Party) (ws : List (Nat × Nat)) : (s.publish S P ws).regionBase = s.regionBase := rfl
@[simp] theorem State.publish_syncId (s : State) (S : Scope) (P : Party) (ws : List (Nat × Nat)) : (s.publish S P ws).syncId = s.syncId := rfl
@[simp] theorem State.publish_syncBusy (s : State) (S : Scope) (P : Party) (ws : List (Nat × Nat)) : (s.publish S P ws).syncBusy = s.syncBusy := rfl
@[simp] theorem State.publish_syncStat (s : State) (S : Scope) (P : Party) (ws : List (Nat × Nat)) : (s.publish S P ws).syncStat = s.syncStat := rfl
@[simp] theorem State.publish_regions (s : State) (S : Scope) (P : Party) (ws : List (Nat × Nat)) : (s.publish S P ws).regions = s.regions := rfl
@[simp] theorem State.publish_mapped (s : State) (S : Scope) (P : Party) (ws : List (Nat × Nat)) : (s.publish S P ws).mapped = s.mapped := rfl
@[simp] theorem State.publish_invals (s : State) (S : Scope) (P : Party) (ws : List (Nat × Nat)) : (s.publish S P ws).invals = s.invals := rfl
@[simp] theorem State.publish_xown (s : State) (S : Scope) (P : Party) (ws : List (Nat × Nat)) : (s.publish S P ws).xown = s.xown := rfl
@[simp] theorem State.publish_win (s : State) (S : Scope) (P : Party) (ws : List (Nat × Nat)) : (s.publish S P ws).win = s.win := rfl
@[simp] theorem State.publish_alm (s : State) (S : Scope) (P : Party) (ws : List (Nat × Nat)) : (s.publish S P ws).alm = s.alm := rfl
@[simp] theorem State.publish_power (s : State) (S : Scope) (P : Party) (ws : List (Nat × Nat)) : (s.publish S P ws).power = s.power := rfl
@[simp] theorem State.publish_ptime (s : State) (S : Scope) (P : Party) (ws : List (Nat × Nat)) : (s.publish S P ws).ptime = s.ptime := rfl
@[simp] theorem State.publish_servo (s : State) (S : Scope) (P : Party) (ws : List (Nat × Nat)) : (s.publish S P ws).servo = s.servo := rfl
@[simp] theorem State.publish_frameBase (s : State) (S : Scope) (P : Party) (ws : List (Nat × Nat)) : (s.publish S P ws).frameBase = s.frameBase := rfl
@[simp] theorem State.publish_streamBase (s : State) (S : Scope) (P : Party) (ws : List (Nat × Nat)) : (s.publish S P ws).streamBase = s.streamBase := rfl
@[simp] theorem State.publish_tables (s : State) (S : Scope) (P : Party) (ws : List (Nat × Nat)) : (s.publish S P ws).tables = s.tables := rfl
@[simp] theorem State.publish_streams (s : State) (S : Scope) (P : Party) (ws : List (Nat × Nat)) : (s.publish S P ws).streams = s.streams := rfl
@[simp] theorem State.publish_txs (s : State) (S : Scope) (P : Party) (ws : List (Nat × Nat)) : (s.publish S P ws).txs = s.txs := rfl
@[simp] theorem State.publish_frameReg (s : State) (S : Scope) (P : Party) (ws : List (Nat × Nat)) : (s.publish S P ws).frameReg = s.frameReg := rfl
@[simp] theorem State.publish_firstOut (s : State) (S : Scope) (P : Party) (ws : List (Nat × Nat)) : (s.publish S P ws).firstOut = s.firstOut := rfl
@[simp] theorem State.publish_colls (s : State) (S : Scope) (P : Party) (ws : List (Nat × Nat)) : (s.publish S P ws).colls = s.colls := rfl
@[simp] theorem State.publish_collKept (s : State) (S : Scope) (P : Party) (ws : List (Nat × Nat)) : (s.publish S P ws).collKept = s.collKept := rfl
@[simp] theorem State.publish_collEarly (s : State) (S : Scope) (P : Party) (ws : List (Nat × Nat)) : (s.publish S P ws).collEarly = s.collEarly := rfl
@[simp] theorem State.publish_linkCard (s : State) (S : Scope) (P : Party) (ws : List (Nat × Nat)) : (s.publish S P ws).linkCard = s.linkCard := rfl
@[simp] theorem State.publish_linkUp (s : State) (S : Scope) (P : Party) (ws : List (Nat × Nat)) : (s.publish S P ws).linkUp = s.linkUp := rfl
@[simp] theorem State.publish_grpBase (s : State) (S : Scope) (P : Party) (ws : List (Nat × Nat)) : (s.publish S P ws).grpBase = s.grpBase := rfl
@[simp] theorem State.publish_leaves (s : State) (S : Scope) (P : Party) (ws : List (Nat × Nat)) : (s.publish S P ws).leaves = s.leaves := rfl
@[simp] theorem State.publish_bvhs (s : State) (S : Scope) (P : Party) (ws : List (Nat × Nat)) : (s.publish S P ws).bvhs = s.bvhs := rfl
@[simp] theorem State.publish_passes (s : State) (S : Scope) (P : Party) (ws : List (Nat × Nat)) : (s.publish S P ws).passes = s.passes := rfl
@[simp] theorem State.publish_fq (s : State) (S : Scope) (P : Party) (ws : List (Nat × Nat)) : (s.publish S P ws).fq = s.fq := rfl
@[simp] theorem State.publish_trust (s : State) (S : Scope) (P : Party) (ws : List (Nat × Nat)) : (s.publish S P ws).trust = s.trust := rfl
@[simp] theorem State.publish_house (s : State) (S : Scope) (P : Party) (ws : List (Nat × Nat)) : (s.publish S P ws).house = s.house := rfl
@[simp] theorem State.publish_rcv (s : State) (S : Scope) (P : Party) (ws : List (Nat × Nat)) : (s.publish S P ws).rcv = s.rcv := rfl
@[simp] theorem State.publish_stalled (s : State) (S : Scope) (P : Party) (ws : List (Nat × Nat)) : (s.publish S P ws).stalled = s.stalled := rfl
@[simp] theorem State.publish_heldEv (s : State) (S : Scope) (P : Party) (ws : List (Nat × Nat)) : (s.publish S P ws).heldEv = s.heldEv := rfl
@[simp] theorem State.publish_irqs (s : State) (S : Scope) (P : Party) (ws : List (Nat × Nat)) : (s.publish S P ws).irqs = s.irqs := rfl
@[simp] theorem State.publish_out (s : State) (S : Scope) (P : Party) (ws : List (Nat × Nat)) : (s.publish S P ws).out = s.out := rfl
@[simp] theorem State.publish_extest (s : State) (S : Scope) (P : Party) (ws : List (Nat × Nat)) : (s.publish S P ws).extest = s.extest := rfl

/-! ## irq -/

@[simp] theorem State.irq_cur (s : State) (v : Nat) : (s.irq v).cur = s.cur := rfl
@[simp] theorem State.irq_arg (s : State) (v : Nat) : (s.irq v).arg = s.arg := rfl
@[simp] theorem State.irq_inbox (s : State) (v : Nat) : (s.irq v).inbox = s.inbox := rfl
@[simp] theorem State.irq_focus (s : State) (v : Nat) : (s.irq v).focus = s.focus := rfl
@[simp] theorem State.irq_freeCtr (s : State) (v : Nat) : (s.irq v).freeCtr = s.freeCtr := rfl
@[simp] theorem State.irq_tick (s : State) (v : Nat) : (s.irq v).tick = s.tick := rfl
@[simp] theorem State.irq_now (s : State) (v : Nat) : (s.irq v).now = s.now := rfl
@[simp] theorem State.irq_clocks (s : State) (v : Nat) : (s.irq v).clocks = s.clocks := rfl
@[simp] theorem State.irq_nextId (s : State) (v : Nat) : (s.irq v).nextId = s.nextId := rfl
@[simp] theorem State.irq_fuses (s : State) (v : Nat) : (s.irq v).fuses = s.fuses := rfl
@[simp] theorem State.irq_mem (s : State) (v : Nat) : (s.irq v).mem = s.mem := rfl
@[simp] theorem State.irq_hist (s : State) (v : Nat) : (s.irq v).hist = s.hist := rfl
@[simp] theorem State.irq_nextSer (s : State) (v : Nat) : (s.irq v).nextSer = s.nextSer := rfl
@[simp] theorem State.irq_publs (s : State) (v : Nat) : (s.irq v).publs = s.publs := rfl
@[simp] theorem State.irq_bars (s : State) (v : Nat) : (s.irq v).bars = s.bars := rfl
@[simp] theorem State.irq_bad (s : State) (v : Nat) : (s.irq v).bad = s.bad := rfl
@[simp] theorem State.irq_teams (s : State) (v : Nat) : (s.irq v).teams = s.teams := rfl
@[simp] theorem State.irq_grids (s : State) (v : Nat) : (s.irq v).grids = s.grids := rfl
@[simp] theorem State.irq_waves (s : State) (v : Nat) : (s.irq v).waves = s.waves := rfl
@[simp] theorem State.irq_copies (s : State) (v : Nat) : (s.irq v).copies = s.copies := rfl
@[simp] theorem State.irq_gathers (s : State) (v : Nat) : (s.irq v).gathers = s.gathers := rfl
@[simp] theorem State.irq_matq (s : State) (v : Nat) : (s.irq v).matq = s.matq := rfl
@[simp] theorem State.irq_spubs (s : State) (v : Nat) : (s.irq v).spubs = s.spubs := rfl
@[simp] theorem State.irq_ssubs (s : State) (v : Nat) : (s.irq v).ssubs = s.ssubs := rfl
@[simp] theorem State.irq_regionBase (s : State) (v : Nat) : (s.irq v).regionBase = s.regionBase := rfl
@[simp] theorem State.irq_syncId (s : State) (v : Nat) : (s.irq v).syncId = s.syncId := rfl
@[simp] theorem State.irq_syncBusy (s : State) (v : Nat) : (s.irq v).syncBusy = s.syncBusy := rfl
@[simp] theorem State.irq_syncStat (s : State) (v : Nat) : (s.irq v).syncStat = s.syncStat := rfl
@[simp] theorem State.irq_regions (s : State) (v : Nat) : (s.irq v).regions = s.regions := rfl
@[simp] theorem State.irq_mapped (s : State) (v : Nat) : (s.irq v).mapped = s.mapped := rfl
@[simp] theorem State.irq_invals (s : State) (v : Nat) : (s.irq v).invals = s.invals := rfl
@[simp] theorem State.irq_xown (s : State) (v : Nat) : (s.irq v).xown = s.xown := rfl
@[simp] theorem State.irq_win (s : State) (v : Nat) : (s.irq v).win = s.win := rfl
@[simp] theorem State.irq_alm (s : State) (v : Nat) : (s.irq v).alm = s.alm := rfl
@[simp] theorem State.irq_power (s : State) (v : Nat) : (s.irq v).power = s.power := rfl
@[simp] theorem State.irq_ptime (s : State) (v : Nat) : (s.irq v).ptime = s.ptime := rfl
@[simp] theorem State.irq_servo (s : State) (v : Nat) : (s.irq v).servo = s.servo := rfl
@[simp] theorem State.irq_frameBase (s : State) (v : Nat) : (s.irq v).frameBase = s.frameBase := rfl
@[simp] theorem State.irq_streamBase (s : State) (v : Nat) : (s.irq v).streamBase = s.streamBase := rfl
@[simp] theorem State.irq_tables (s : State) (v : Nat) : (s.irq v).tables = s.tables := rfl
@[simp] theorem State.irq_streams (s : State) (v : Nat) : (s.irq v).streams = s.streams := rfl
@[simp] theorem State.irq_txs (s : State) (v : Nat) : (s.irq v).txs = s.txs := rfl
@[simp] theorem State.irq_frameReg (s : State) (v : Nat) : (s.irq v).frameReg = s.frameReg := rfl
@[simp] theorem State.irq_firstOut (s : State) (v : Nat) : (s.irq v).firstOut = s.firstOut := rfl
@[simp] theorem State.irq_colls (s : State) (v : Nat) : (s.irq v).colls = s.colls := rfl
@[simp] theorem State.irq_collKept (s : State) (v : Nat) : (s.irq v).collKept = s.collKept := rfl
@[simp] theorem State.irq_collEarly (s : State) (v : Nat) : (s.irq v).collEarly = s.collEarly := rfl
@[simp] theorem State.irq_linkCard (s : State) (v : Nat) : (s.irq v).linkCard = s.linkCard := rfl
@[simp] theorem State.irq_linkUp (s : State) (v : Nat) : (s.irq v).linkUp = s.linkUp := rfl
@[simp] theorem State.irq_grpBase (s : State) (v : Nat) : (s.irq v).grpBase = s.grpBase := rfl
@[simp] theorem State.irq_leaves (s : State) (v : Nat) : (s.irq v).leaves = s.leaves := rfl
@[simp] theorem State.irq_bvhs (s : State) (v : Nat) : (s.irq v).bvhs = s.bvhs := rfl
@[simp] theorem State.irq_passes (s : State) (v : Nat) : (s.irq v).passes = s.passes := rfl
@[simp] theorem State.irq_fq (s : State) (v : Nat) : (s.irq v).fq = s.fq := rfl
@[simp] theorem State.irq_trust (s : State) (v : Nat) : (s.irq v).trust = s.trust := rfl
@[simp] theorem State.irq_house (s : State) (v : Nat) : (s.irq v).house = s.house := rfl
@[simp] theorem State.irq_rcv (s : State) (v : Nat) : (s.irq v).rcv = s.rcv := rfl
@[simp] theorem State.irq_stalled (s : State) (v : Nat) : (s.irq v).stalled = s.stalled := rfl
@[simp] theorem State.irq_heldEv (s : State) (v : Nat) : (s.irq v).heldEv = s.heldEv := rfl
@[simp] theorem State.irq_out (s : State) (v : Nat) : (s.irq v).out = s.out := rfl
@[simp] theorem State.irq_extest (s : State) (v : Nat) : (s.irq v).extest = s.extest := rfl

/-! ## setBarRec -/

@[simp] theorem State.setBarRec_cur (s : State) (b : BarRec) : (s.setBarRec b).cur = s.cur := rfl
@[simp] theorem State.setBarRec_arg (s : State) (b : BarRec) : (s.setBarRec b).arg = s.arg := rfl
@[simp] theorem State.setBarRec_inbox (s : State) (b : BarRec) : (s.setBarRec b).inbox = s.inbox := rfl
@[simp] theorem State.setBarRec_focus (s : State) (b : BarRec) : (s.setBarRec b).focus = s.focus := rfl
@[simp] theorem State.setBarRec_freeCtr (s : State) (b : BarRec) : (s.setBarRec b).freeCtr = s.freeCtr := rfl
@[simp] theorem State.setBarRec_tick (s : State) (b : BarRec) : (s.setBarRec b).tick = s.tick := rfl
@[simp] theorem State.setBarRec_now (s : State) (b : BarRec) : (s.setBarRec b).now = s.now := rfl
@[simp] theorem State.setBarRec_clocks (s : State) (b : BarRec) : (s.setBarRec b).clocks = s.clocks := rfl
@[simp] theorem State.setBarRec_nextId (s : State) (b : BarRec) : (s.setBarRec b).nextId = s.nextId := rfl
@[simp] theorem State.setBarRec_fuses (s : State) (b : BarRec) : (s.setBarRec b).fuses = s.fuses := rfl
@[simp] theorem State.setBarRec_mem (s : State) (b : BarRec) : (s.setBarRec b).mem = s.mem := rfl
@[simp] theorem State.setBarRec_hist (s : State) (b : BarRec) : (s.setBarRec b).hist = s.hist := rfl
@[simp] theorem State.setBarRec_nextSer (s : State) (b : BarRec) : (s.setBarRec b).nextSer = s.nextSer := rfl
@[simp] theorem State.setBarRec_publs (s : State) (b : BarRec) : (s.setBarRec b).publs = s.publs := rfl
@[simp] theorem State.setBarRec_bad (s : State) (b : BarRec) : (s.setBarRec b).bad = s.bad := rfl
@[simp] theorem State.setBarRec_teams (s : State) (b : BarRec) : (s.setBarRec b).teams = s.teams := rfl
@[simp] theorem State.setBarRec_grids (s : State) (b : BarRec) : (s.setBarRec b).grids = s.grids := rfl
@[simp] theorem State.setBarRec_waves (s : State) (b : BarRec) : (s.setBarRec b).waves = s.waves := rfl
@[simp] theorem State.setBarRec_copies (s : State) (b : BarRec) : (s.setBarRec b).copies = s.copies := rfl
@[simp] theorem State.setBarRec_gathers (s : State) (b : BarRec) : (s.setBarRec b).gathers = s.gathers := rfl
@[simp] theorem State.setBarRec_matq (s : State) (b : BarRec) : (s.setBarRec b).matq = s.matq := rfl
@[simp] theorem State.setBarRec_spubs (s : State) (b : BarRec) : (s.setBarRec b).spubs = s.spubs := rfl
@[simp] theorem State.setBarRec_ssubs (s : State) (b : BarRec) : (s.setBarRec b).ssubs = s.ssubs := rfl
@[simp] theorem State.setBarRec_regionBase (s : State) (b : BarRec) : (s.setBarRec b).regionBase = s.regionBase := rfl
@[simp] theorem State.setBarRec_syncId (s : State) (b : BarRec) : (s.setBarRec b).syncId = s.syncId := rfl
@[simp] theorem State.setBarRec_syncBusy (s : State) (b : BarRec) : (s.setBarRec b).syncBusy = s.syncBusy := rfl
@[simp] theorem State.setBarRec_syncStat (s : State) (b : BarRec) : (s.setBarRec b).syncStat = s.syncStat := rfl
@[simp] theorem State.setBarRec_regions (s : State) (b : BarRec) : (s.setBarRec b).regions = s.regions := rfl
@[simp] theorem State.setBarRec_mapped (s : State) (b : BarRec) : (s.setBarRec b).mapped = s.mapped := rfl
@[simp] theorem State.setBarRec_invals (s : State) (b : BarRec) : (s.setBarRec b).invals = s.invals := rfl
@[simp] theorem State.setBarRec_xown (s : State) (b : BarRec) : (s.setBarRec b).xown = s.xown := rfl
@[simp] theorem State.setBarRec_win (s : State) (b : BarRec) : (s.setBarRec b).win = s.win := rfl
@[simp] theorem State.setBarRec_alm (s : State) (b : BarRec) : (s.setBarRec b).alm = s.alm := rfl
@[simp] theorem State.setBarRec_power (s : State) (b : BarRec) : (s.setBarRec b).power = s.power := rfl
@[simp] theorem State.setBarRec_ptime (s : State) (b : BarRec) : (s.setBarRec b).ptime = s.ptime := rfl
@[simp] theorem State.setBarRec_servo (s : State) (b : BarRec) : (s.setBarRec b).servo = s.servo := rfl
@[simp] theorem State.setBarRec_frameBase (s : State) (b : BarRec) : (s.setBarRec b).frameBase = s.frameBase := rfl
@[simp] theorem State.setBarRec_streamBase (s : State) (b : BarRec) : (s.setBarRec b).streamBase = s.streamBase := rfl
@[simp] theorem State.setBarRec_tables (s : State) (b : BarRec) : (s.setBarRec b).tables = s.tables := rfl
@[simp] theorem State.setBarRec_streams (s : State) (b : BarRec) : (s.setBarRec b).streams = s.streams := rfl
@[simp] theorem State.setBarRec_txs (s : State) (b : BarRec) : (s.setBarRec b).txs = s.txs := rfl
@[simp] theorem State.setBarRec_frameReg (s : State) (b : BarRec) : (s.setBarRec b).frameReg = s.frameReg := rfl
@[simp] theorem State.setBarRec_firstOut (s : State) (b : BarRec) : (s.setBarRec b).firstOut = s.firstOut := rfl
@[simp] theorem State.setBarRec_colls (s : State) (b : BarRec) : (s.setBarRec b).colls = s.colls := rfl
@[simp] theorem State.setBarRec_collKept (s : State) (b : BarRec) : (s.setBarRec b).collKept = s.collKept := rfl
@[simp] theorem State.setBarRec_collEarly (s : State) (b : BarRec) : (s.setBarRec b).collEarly = s.collEarly := rfl
@[simp] theorem State.setBarRec_linkCard (s : State) (b : BarRec) : (s.setBarRec b).linkCard = s.linkCard := rfl
@[simp] theorem State.setBarRec_linkUp (s : State) (b : BarRec) : (s.setBarRec b).linkUp = s.linkUp := rfl
@[simp] theorem State.setBarRec_grpBase (s : State) (b : BarRec) : (s.setBarRec b).grpBase = s.grpBase := rfl
@[simp] theorem State.setBarRec_leaves (s : State) (b : BarRec) : (s.setBarRec b).leaves = s.leaves := rfl
@[simp] theorem State.setBarRec_bvhs (s : State) (b : BarRec) : (s.setBarRec b).bvhs = s.bvhs := rfl
@[simp] theorem State.setBarRec_passes (s : State) (b : BarRec) : (s.setBarRec b).passes = s.passes := rfl
@[simp] theorem State.setBarRec_fq (s : State) (b : BarRec) : (s.setBarRec b).fq = s.fq := rfl
@[simp] theorem State.setBarRec_trust (s : State) (b : BarRec) : (s.setBarRec b).trust = s.trust := rfl
@[simp] theorem State.setBarRec_house (s : State) (b : BarRec) : (s.setBarRec b).house = s.house := rfl
@[simp] theorem State.setBarRec_rcv (s : State) (b : BarRec) : (s.setBarRec b).rcv = s.rcv := rfl
@[simp] theorem State.setBarRec_stalled (s : State) (b : BarRec) : (s.setBarRec b).stalled = s.stalled := rfl
@[simp] theorem State.setBarRec_heldEv (s : State) (b : BarRec) : (s.setBarRec b).heldEv = s.heldEv := rfl
@[simp] theorem State.setBarRec_irqs (s : State) (b : BarRec) : (s.setBarRec b).irqs = s.irqs := rfl
@[simp] theorem State.setBarRec_out (s : State) (b : BarRec) : (s.setBarRec b).out = s.out := rfl
@[simp] theorem State.setBarRec_extest (s : State) (b : BarRec) : (s.setBarRec b).extest = s.extest := rfl

/-! ## advance -/

@[simp] theorem State.advance_cur (s : State) (c : Ctx) (w : Warp) : (s.advance c w).cur = s.cur := rfl
@[simp] theorem State.advance_arg (s : State) (c : Ctx) (w : Warp) : (s.advance c w).arg = s.arg := rfl
@[simp] theorem State.advance_inbox (s : State) (c : Ctx) (w : Warp) : (s.advance c w).inbox = s.inbox := rfl
@[simp] theorem State.advance_focus (s : State) (c : Ctx) (w : Warp) : (s.advance c w).focus = s.focus := rfl
@[simp] theorem State.advance_freeCtr (s : State) (c : Ctx) (w : Warp) : (s.advance c w).freeCtr = s.freeCtr := rfl
@[simp] theorem State.advance_now (s : State) (c : Ctx) (w : Warp) : (s.advance c w).now = s.now := rfl
@[simp] theorem State.advance_clocks (s : State) (c : Ctx) (w : Warp) : (s.advance c w).clocks = s.clocks := rfl
@[simp] theorem State.advance_nextId (s : State) (c : Ctx) (w : Warp) : (s.advance c w).nextId = s.nextId := rfl
@[simp] theorem State.advance_fuses (s : State) (c : Ctx) (w : Warp) : (s.advance c w).fuses = s.fuses := rfl
@[simp] theorem State.advance_mem (s : State) (c : Ctx) (w : Warp) : (s.advance c w).mem = s.mem := rfl
@[simp] theorem State.advance_hist (s : State) (c : Ctx) (w : Warp) : (s.advance c w).hist = s.hist := rfl
@[simp] theorem State.advance_nextSer (s : State) (c : Ctx) (w : Warp) : (s.advance c w).nextSer = s.nextSer := rfl
@[simp] theorem State.advance_publs (s : State) (c : Ctx) (w : Warp) : (s.advance c w).publs = s.publs := rfl
@[simp] theorem State.advance_bars (s : State) (c : Ctx) (w : Warp) : (s.advance c w).bars = s.bars := rfl
@[simp] theorem State.advance_bad (s : State) (c : Ctx) (w : Warp) : (s.advance c w).bad = s.bad := rfl
@[simp] theorem State.advance_grids (s : State) (c : Ctx) (w : Warp) : (s.advance c w).grids = s.grids := rfl
@[simp] theorem State.advance_waves (s : State) (c : Ctx) (w : Warp) : (s.advance c w).waves = s.waves := rfl
@[simp] theorem State.advance_copies (s : State) (c : Ctx) (w : Warp) : (s.advance c w).copies = s.copies := rfl
@[simp] theorem State.advance_gathers (s : State) (c : Ctx) (w : Warp) : (s.advance c w).gathers = s.gathers := rfl
@[simp] theorem State.advance_matq (s : State) (c : Ctx) (w : Warp) : (s.advance c w).matq = s.matq := rfl
@[simp] theorem State.advance_spubs (s : State) (c : Ctx) (w : Warp) : (s.advance c w).spubs = s.spubs := rfl
@[simp] theorem State.advance_ssubs (s : State) (c : Ctx) (w : Warp) : (s.advance c w).ssubs = s.ssubs := rfl
@[simp] theorem State.advance_regionBase (s : State) (c : Ctx) (w : Warp) : (s.advance c w).regionBase = s.regionBase := rfl
@[simp] theorem State.advance_syncId (s : State) (c : Ctx) (w : Warp) : (s.advance c w).syncId = s.syncId := rfl
@[simp] theorem State.advance_syncBusy (s : State) (c : Ctx) (w : Warp) : (s.advance c w).syncBusy = s.syncBusy := rfl
@[simp] theorem State.advance_syncStat (s : State) (c : Ctx) (w : Warp) : (s.advance c w).syncStat = s.syncStat := rfl
@[simp] theorem State.advance_regions (s : State) (c : Ctx) (w : Warp) : (s.advance c w).regions = s.regions := rfl
@[simp] theorem State.advance_mapped (s : State) (c : Ctx) (w : Warp) : (s.advance c w).mapped = s.mapped := rfl
@[simp] theorem State.advance_invals (s : State) (c : Ctx) (w : Warp) : (s.advance c w).invals = s.invals := rfl
@[simp] theorem State.advance_xown (s : State) (c : Ctx) (w : Warp) : (s.advance c w).xown = s.xown := rfl
@[simp] theorem State.advance_win (s : State) (c : Ctx) (w : Warp) : (s.advance c w).win = s.win := rfl
@[simp] theorem State.advance_alm (s : State) (c : Ctx) (w : Warp) : (s.advance c w).alm = s.alm := rfl
@[simp] theorem State.advance_power (s : State) (c : Ctx) (w : Warp) : (s.advance c w).power = s.power := rfl
@[simp] theorem State.advance_ptime (s : State) (c : Ctx) (w : Warp) : (s.advance c w).ptime = s.ptime := rfl
@[simp] theorem State.advance_servo (s : State) (c : Ctx) (w : Warp) : (s.advance c w).servo = s.servo := rfl
@[simp] theorem State.advance_frameBase (s : State) (c : Ctx) (w : Warp) : (s.advance c w).frameBase = s.frameBase := rfl
@[simp] theorem State.advance_streamBase (s : State) (c : Ctx) (w : Warp) : (s.advance c w).streamBase = s.streamBase := rfl
@[simp] theorem State.advance_tables (s : State) (c : Ctx) (w : Warp) : (s.advance c w).tables = s.tables := rfl
@[simp] theorem State.advance_streams (s : State) (c : Ctx) (w : Warp) : (s.advance c w).streams = s.streams := rfl
@[simp] theorem State.advance_txs (s : State) (c : Ctx) (w : Warp) : (s.advance c w).txs = s.txs := rfl
@[simp] theorem State.advance_frameReg (s : State) (c : Ctx) (w : Warp) : (s.advance c w).frameReg = s.frameReg := rfl
@[simp] theorem State.advance_firstOut (s : State) (c : Ctx) (w : Warp) : (s.advance c w).firstOut = s.firstOut := rfl
@[simp] theorem State.advance_colls (s : State) (c : Ctx) (w : Warp) : (s.advance c w).colls = s.colls := rfl
@[simp] theorem State.advance_collKept (s : State) (c : Ctx) (w : Warp) : (s.advance c w).collKept = s.collKept := rfl
@[simp] theorem State.advance_collEarly (s : State) (c : Ctx) (w : Warp) : (s.advance c w).collEarly = s.collEarly := rfl
@[simp] theorem State.advance_linkCard (s : State) (c : Ctx) (w : Warp) : (s.advance c w).linkCard = s.linkCard := rfl
@[simp] theorem State.advance_linkUp (s : State) (c : Ctx) (w : Warp) : (s.advance c w).linkUp = s.linkUp := rfl
@[simp] theorem State.advance_grpBase (s : State) (c : Ctx) (w : Warp) : (s.advance c w).grpBase = s.grpBase := rfl
@[simp] theorem State.advance_leaves (s : State) (c : Ctx) (w : Warp) : (s.advance c w).leaves = s.leaves := rfl
@[simp] theorem State.advance_bvhs (s : State) (c : Ctx) (w : Warp) : (s.advance c w).bvhs = s.bvhs := rfl
@[simp] theorem State.advance_passes (s : State) (c : Ctx) (w : Warp) : (s.advance c w).passes = s.passes := rfl
@[simp] theorem State.advance_fq (s : State) (c : Ctx) (w : Warp) : (s.advance c w).fq = s.fq := rfl
@[simp] theorem State.advance_trust (s : State) (c : Ctx) (w : Warp) : (s.advance c w).trust = s.trust := rfl
@[simp] theorem State.advance_house (s : State) (c : Ctx) (w : Warp) : (s.advance c w).house = s.house := rfl
@[simp] theorem State.advance_rcv (s : State) (c : Ctx) (w : Warp) : (s.advance c w).rcv = s.rcv := rfl
@[simp] theorem State.advance_stalled (s : State) (c : Ctx) (w : Warp) : (s.advance c w).stalled = s.stalled := rfl
@[simp] theorem State.advance_heldEv (s : State) (c : Ctx) (w : Warp) : (s.advance c w).heldEv = s.heldEv := rfl
@[simp] theorem State.advance_irqs (s : State) (c : Ctx) (w : Warp) : (s.advance c w).irqs = s.irqs := rfl
@[simp] theorem State.advance_out (s : State) (c : Ctx) (w : Warp) : (s.advance c w).out = s.out := rfl
@[simp] theorem State.advance_extest (s : State) (c : Ctx) (w : Warp) : (s.advance c w).extest = s.extest := rfl

/-! ## writeLanes -/

@[simp] theorem State.writeLanes_cur (s : State) (c : Ctx) (ws : List (Nat × List (Reg × Word))) : (s.writeLanes c ws).cur = s.cur := rfl
@[simp] theorem State.writeLanes_arg (s : State) (c : Ctx) (ws : List (Nat × List (Reg × Word))) : (s.writeLanes c ws).arg = s.arg := rfl
@[simp] theorem State.writeLanes_inbox (s : State) (c : Ctx) (ws : List (Nat × List (Reg × Word))) : (s.writeLanes c ws).inbox = s.inbox := rfl
@[simp] theorem State.writeLanes_focus (s : State) (c : Ctx) (ws : List (Nat × List (Reg × Word))) : (s.writeLanes c ws).focus = s.focus := rfl
@[simp] theorem State.writeLanes_freeCtr (s : State) (c : Ctx) (ws : List (Nat × List (Reg × Word))) : (s.writeLanes c ws).freeCtr = s.freeCtr := rfl
@[simp] theorem State.writeLanes_tick (s : State) (c : Ctx) (ws : List (Nat × List (Reg × Word))) : (s.writeLanes c ws).tick = s.tick := rfl
@[simp] theorem State.writeLanes_now (s : State) (c : Ctx) (ws : List (Nat × List (Reg × Word))) : (s.writeLanes c ws).now = s.now := rfl
@[simp] theorem State.writeLanes_clocks (s : State) (c : Ctx) (ws : List (Nat × List (Reg × Word))) : (s.writeLanes c ws).clocks = s.clocks := rfl
@[simp] theorem State.writeLanes_nextId (s : State) (c : Ctx) (ws : List (Nat × List (Reg × Word))) : (s.writeLanes c ws).nextId = s.nextId := rfl
@[simp] theorem State.writeLanes_fuses (s : State) (c : Ctx) (ws : List (Nat × List (Reg × Word))) : (s.writeLanes c ws).fuses = s.fuses := rfl
@[simp] theorem State.writeLanes_mem (s : State) (c : Ctx) (ws : List (Nat × List (Reg × Word))) : (s.writeLanes c ws).mem = s.mem := rfl
@[simp] theorem State.writeLanes_hist (s : State) (c : Ctx) (ws : List (Nat × List (Reg × Word))) : (s.writeLanes c ws).hist = s.hist := rfl
@[simp] theorem State.writeLanes_nextSer (s : State) (c : Ctx) (ws : List (Nat × List (Reg × Word))) : (s.writeLanes c ws).nextSer = s.nextSer := rfl
@[simp] theorem State.writeLanes_publs (s : State) (c : Ctx) (ws : List (Nat × List (Reg × Word))) : (s.writeLanes c ws).publs = s.publs := rfl
@[simp] theorem State.writeLanes_bars (s : State) (c : Ctx) (ws : List (Nat × List (Reg × Word))) : (s.writeLanes c ws).bars = s.bars := rfl
@[simp] theorem State.writeLanes_bad (s : State) (c : Ctx) (ws : List (Nat × List (Reg × Word))) : (s.writeLanes c ws).bad = s.bad := rfl
@[simp] theorem State.writeLanes_grids (s : State) (c : Ctx) (ws : List (Nat × List (Reg × Word))) : (s.writeLanes c ws).grids = s.grids := rfl
@[simp] theorem State.writeLanes_waves (s : State) (c : Ctx) (ws : List (Nat × List (Reg × Word))) : (s.writeLanes c ws).waves = s.waves := rfl
@[simp] theorem State.writeLanes_copies (s : State) (c : Ctx) (ws : List (Nat × List (Reg × Word))) : (s.writeLanes c ws).copies = s.copies := rfl
@[simp] theorem State.writeLanes_gathers (s : State) (c : Ctx) (ws : List (Nat × List (Reg × Word))) : (s.writeLanes c ws).gathers = s.gathers := rfl
@[simp] theorem State.writeLanes_matq (s : State) (c : Ctx) (ws : List (Nat × List (Reg × Word))) : (s.writeLanes c ws).matq = s.matq := rfl
@[simp] theorem State.writeLanes_spubs (s : State) (c : Ctx) (ws : List (Nat × List (Reg × Word))) : (s.writeLanes c ws).spubs = s.spubs := rfl
@[simp] theorem State.writeLanes_ssubs (s : State) (c : Ctx) (ws : List (Nat × List (Reg × Word))) : (s.writeLanes c ws).ssubs = s.ssubs := rfl
@[simp] theorem State.writeLanes_regionBase (s : State) (c : Ctx) (ws : List (Nat × List (Reg × Word))) : (s.writeLanes c ws).regionBase = s.regionBase := rfl
@[simp] theorem State.writeLanes_syncId (s : State) (c : Ctx) (ws : List (Nat × List (Reg × Word))) : (s.writeLanes c ws).syncId = s.syncId := rfl
@[simp] theorem State.writeLanes_syncBusy (s : State) (c : Ctx) (ws : List (Nat × List (Reg × Word))) : (s.writeLanes c ws).syncBusy = s.syncBusy := rfl
@[simp] theorem State.writeLanes_syncStat (s : State) (c : Ctx) (ws : List (Nat × List (Reg × Word))) : (s.writeLanes c ws).syncStat = s.syncStat := rfl
@[simp] theorem State.writeLanes_regions (s : State) (c : Ctx) (ws : List (Nat × List (Reg × Word))) : (s.writeLanes c ws).regions = s.regions := rfl
@[simp] theorem State.writeLanes_mapped (s : State) (c : Ctx) (ws : List (Nat × List (Reg × Word))) : (s.writeLanes c ws).mapped = s.mapped := rfl
@[simp] theorem State.writeLanes_invals (s : State) (c : Ctx) (ws : List (Nat × List (Reg × Word))) : (s.writeLanes c ws).invals = s.invals := rfl
@[simp] theorem State.writeLanes_xown (s : State) (c : Ctx) (ws : List (Nat × List (Reg × Word))) : (s.writeLanes c ws).xown = s.xown := rfl
@[simp] theorem State.writeLanes_win (s : State) (c : Ctx) (ws : List (Nat × List (Reg × Word))) : (s.writeLanes c ws).win = s.win := rfl
@[simp] theorem State.writeLanes_alm (s : State) (c : Ctx) (ws : List (Nat × List (Reg × Word))) : (s.writeLanes c ws).alm = s.alm := rfl
@[simp] theorem State.writeLanes_power (s : State) (c : Ctx) (ws : List (Nat × List (Reg × Word))) : (s.writeLanes c ws).power = s.power := rfl
@[simp] theorem State.writeLanes_ptime (s : State) (c : Ctx) (ws : List (Nat × List (Reg × Word))) : (s.writeLanes c ws).ptime = s.ptime := rfl
@[simp] theorem State.writeLanes_servo (s : State) (c : Ctx) (ws : List (Nat × List (Reg × Word))) : (s.writeLanes c ws).servo = s.servo := rfl
@[simp] theorem State.writeLanes_frameBase (s : State) (c : Ctx) (ws : List (Nat × List (Reg × Word))) : (s.writeLanes c ws).frameBase = s.frameBase := rfl
@[simp] theorem State.writeLanes_streamBase (s : State) (c : Ctx) (ws : List (Nat × List (Reg × Word))) : (s.writeLanes c ws).streamBase = s.streamBase := rfl
@[simp] theorem State.writeLanes_tables (s : State) (c : Ctx) (ws : List (Nat × List (Reg × Word))) : (s.writeLanes c ws).tables = s.tables := rfl
@[simp] theorem State.writeLanes_streams (s : State) (c : Ctx) (ws : List (Nat × List (Reg × Word))) : (s.writeLanes c ws).streams = s.streams := rfl
@[simp] theorem State.writeLanes_txs (s : State) (c : Ctx) (ws : List (Nat × List (Reg × Word))) : (s.writeLanes c ws).txs = s.txs := rfl
@[simp] theorem State.writeLanes_frameReg (s : State) (c : Ctx) (ws : List (Nat × List (Reg × Word))) : (s.writeLanes c ws).frameReg = s.frameReg := rfl
@[simp] theorem State.writeLanes_firstOut (s : State) (c : Ctx) (ws : List (Nat × List (Reg × Word))) : (s.writeLanes c ws).firstOut = s.firstOut := rfl
@[simp] theorem State.writeLanes_colls (s : State) (c : Ctx) (ws : List (Nat × List (Reg × Word))) : (s.writeLanes c ws).colls = s.colls := rfl
@[simp] theorem State.writeLanes_collKept (s : State) (c : Ctx) (ws : List (Nat × List (Reg × Word))) : (s.writeLanes c ws).collKept = s.collKept := rfl
@[simp] theorem State.writeLanes_collEarly (s : State) (c : Ctx) (ws : List (Nat × List (Reg × Word))) : (s.writeLanes c ws).collEarly = s.collEarly := rfl
@[simp] theorem State.writeLanes_linkCard (s : State) (c : Ctx) (ws : List (Nat × List (Reg × Word))) : (s.writeLanes c ws).linkCard = s.linkCard := rfl
@[simp] theorem State.writeLanes_linkUp (s : State) (c : Ctx) (ws : List (Nat × List (Reg × Word))) : (s.writeLanes c ws).linkUp = s.linkUp := rfl
@[simp] theorem State.writeLanes_grpBase (s : State) (c : Ctx) (ws : List (Nat × List (Reg × Word))) : (s.writeLanes c ws).grpBase = s.grpBase := rfl
@[simp] theorem State.writeLanes_leaves (s : State) (c : Ctx) (ws : List (Nat × List (Reg × Word))) : (s.writeLanes c ws).leaves = s.leaves := rfl
@[simp] theorem State.writeLanes_bvhs (s : State) (c : Ctx) (ws : List (Nat × List (Reg × Word))) : (s.writeLanes c ws).bvhs = s.bvhs := rfl
@[simp] theorem State.writeLanes_passes (s : State) (c : Ctx) (ws : List (Nat × List (Reg × Word))) : (s.writeLanes c ws).passes = s.passes := rfl
@[simp] theorem State.writeLanes_fq (s : State) (c : Ctx) (ws : List (Nat × List (Reg × Word))) : (s.writeLanes c ws).fq = s.fq := rfl
@[simp] theorem State.writeLanes_trust (s : State) (c : Ctx) (ws : List (Nat × List (Reg × Word))) : (s.writeLanes c ws).trust = s.trust := rfl
@[simp] theorem State.writeLanes_house (s : State) (c : Ctx) (ws : List (Nat × List (Reg × Word))) : (s.writeLanes c ws).house = s.house := rfl
@[simp] theorem State.writeLanes_rcv (s : State) (c : Ctx) (ws : List (Nat × List (Reg × Word))) : (s.writeLanes c ws).rcv = s.rcv := rfl
@[simp] theorem State.writeLanes_stalled (s : State) (c : Ctx) (ws : List (Nat × List (Reg × Word))) : (s.writeLanes c ws).stalled = s.stalled := rfl
@[simp] theorem State.writeLanes_heldEv (s : State) (c : Ctx) (ws : List (Nat × List (Reg × Word))) : (s.writeLanes c ws).heldEv = s.heldEv := rfl
@[simp] theorem State.writeLanes_irqs (s : State) (c : Ctx) (ws : List (Nat × List (Reg × Word))) : (s.writeLanes c ws).irqs = s.irqs := rfl
@[simp] theorem State.writeLanes_out (s : State) (c : Ctx) (ws : List (Nat × List (Reg × Word))) : (s.writeLanes c ws).out = s.out := rfl
@[simp] theorem State.writeLanes_extest (s : State) (c : Ctx) (ws : List (Nat × List (Reg × Word))) : (s.writeLanes c ws).extest = s.extest := rfl

/-! ## commit -/

@[simp] theorem State.commit_cur (s : State) (c : Ctx) (la : Nat) (regs : List Reg) (ws : List (Nat × List (Reg × Word))) : (s.commit c la regs ws).cur = s.cur := rfl
@[simp] theorem State.commit_arg (s : State) (c : Ctx) (la : Nat) (regs : List Reg) (ws : List (Nat × List (Reg × Word))) : (s.commit c la regs ws).arg = s.arg := rfl
@[simp] theorem State.commit_inbox (s : State) (c : Ctx) (la : Nat) (regs : List Reg) (ws : List (Nat × List (Reg × Word))) : (s.commit c la regs ws).inbox = s.inbox := rfl
@[simp] theorem State.commit_focus (s : State) (c : Ctx) (la : Nat) (regs : List Reg) (ws : List (Nat × List (Reg × Word))) : (s.commit c la regs ws).focus = s.focus := rfl
@[simp] theorem State.commit_freeCtr (s : State) (c : Ctx) (la : Nat) (regs : List Reg) (ws : List (Nat × List (Reg × Word))) : (s.commit c la regs ws).freeCtr = s.freeCtr := rfl
@[simp] theorem State.commit_tick (s : State) (c : Ctx) (la : Nat) (regs : List Reg) (ws : List (Nat × List (Reg × Word))) : (s.commit c la regs ws).tick = s.tick := rfl
@[simp] theorem State.commit_now (s : State) (c : Ctx) (la : Nat) (regs : List Reg) (ws : List (Nat × List (Reg × Word))) : (s.commit c la regs ws).now = s.now := rfl
@[simp] theorem State.commit_clocks (s : State) (c : Ctx) (la : Nat) (regs : List Reg) (ws : List (Nat × List (Reg × Word))) : (s.commit c la regs ws).clocks = s.clocks := rfl
@[simp] theorem State.commit_nextId (s : State) (c : Ctx) (la : Nat) (regs : List Reg) (ws : List (Nat × List (Reg × Word))) : (s.commit c la regs ws).nextId = s.nextId := rfl
@[simp] theorem State.commit_fuses (s : State) (c : Ctx) (la : Nat) (regs : List Reg) (ws : List (Nat × List (Reg × Word))) : (s.commit c la regs ws).fuses = s.fuses := rfl
@[simp] theorem State.commit_mem (s : State) (c : Ctx) (la : Nat) (regs : List Reg) (ws : List (Nat × List (Reg × Word))) : (s.commit c la regs ws).mem = s.mem := rfl
@[simp] theorem State.commit_hist (s : State) (c : Ctx) (la : Nat) (regs : List Reg) (ws : List (Nat × List (Reg × Word))) : (s.commit c la regs ws).hist = s.hist := rfl
@[simp] theorem State.commit_nextSer (s : State) (c : Ctx) (la : Nat) (regs : List Reg) (ws : List (Nat × List (Reg × Word))) : (s.commit c la regs ws).nextSer = s.nextSer := rfl
@[simp] theorem State.commit_publs (s : State) (c : Ctx) (la : Nat) (regs : List Reg) (ws : List (Nat × List (Reg × Word))) : (s.commit c la regs ws).publs = s.publs := rfl
@[simp] theorem State.commit_bars (s : State) (c : Ctx) (la : Nat) (regs : List Reg) (ws : List (Nat × List (Reg × Word))) : (s.commit c la regs ws).bars = s.bars := rfl
@[simp] theorem State.commit_bad (s : State) (c : Ctx) (la : Nat) (regs : List Reg) (ws : List (Nat × List (Reg × Word))) : (s.commit c la regs ws).bad = s.bad := rfl
@[simp] theorem State.commit_grids (s : State) (c : Ctx) (la : Nat) (regs : List Reg) (ws : List (Nat × List (Reg × Word))) : (s.commit c la regs ws).grids = s.grids := rfl
@[simp] theorem State.commit_waves (s : State) (c : Ctx) (la : Nat) (regs : List Reg) (ws : List (Nat × List (Reg × Word))) : (s.commit c la regs ws).waves = s.waves := rfl
@[simp] theorem State.commit_copies (s : State) (c : Ctx) (la : Nat) (regs : List Reg) (ws : List (Nat × List (Reg × Word))) : (s.commit c la regs ws).copies = s.copies := rfl
@[simp] theorem State.commit_gathers (s : State) (c : Ctx) (la : Nat) (regs : List Reg) (ws : List (Nat × List (Reg × Word))) : (s.commit c la regs ws).gathers = s.gathers := rfl
@[simp] theorem State.commit_matq (s : State) (c : Ctx) (la : Nat) (regs : List Reg) (ws : List (Nat × List (Reg × Word))) : (s.commit c la regs ws).matq = s.matq := rfl
@[simp] theorem State.commit_spubs (s : State) (c : Ctx) (la : Nat) (regs : List Reg) (ws : List (Nat × List (Reg × Word))) : (s.commit c la regs ws).spubs = s.spubs := rfl
@[simp] theorem State.commit_ssubs (s : State) (c : Ctx) (la : Nat) (regs : List Reg) (ws : List (Nat × List (Reg × Word))) : (s.commit c la regs ws).ssubs = s.ssubs := rfl
@[simp] theorem State.commit_regionBase (s : State) (c : Ctx) (la : Nat) (regs : List Reg) (ws : List (Nat × List (Reg × Word))) : (s.commit c la regs ws).regionBase = s.regionBase := rfl
@[simp] theorem State.commit_syncId (s : State) (c : Ctx) (la : Nat) (regs : List Reg) (ws : List (Nat × List (Reg × Word))) : (s.commit c la regs ws).syncId = s.syncId := rfl
@[simp] theorem State.commit_syncBusy (s : State) (c : Ctx) (la : Nat) (regs : List Reg) (ws : List (Nat × List (Reg × Word))) : (s.commit c la regs ws).syncBusy = s.syncBusy := rfl
@[simp] theorem State.commit_syncStat (s : State) (c : Ctx) (la : Nat) (regs : List Reg) (ws : List (Nat × List (Reg × Word))) : (s.commit c la regs ws).syncStat = s.syncStat := rfl
@[simp] theorem State.commit_regions (s : State) (c : Ctx) (la : Nat) (regs : List Reg) (ws : List (Nat × List (Reg × Word))) : (s.commit c la regs ws).regions = s.regions := rfl
@[simp] theorem State.commit_mapped (s : State) (c : Ctx) (la : Nat) (regs : List Reg) (ws : List (Nat × List (Reg × Word))) : (s.commit c la regs ws).mapped = s.mapped := rfl
@[simp] theorem State.commit_invals (s : State) (c : Ctx) (la : Nat) (regs : List Reg) (ws : List (Nat × List (Reg × Word))) : (s.commit c la regs ws).invals = s.invals := rfl
@[simp] theorem State.commit_xown (s : State) (c : Ctx) (la : Nat) (regs : List Reg) (ws : List (Nat × List (Reg × Word))) : (s.commit c la regs ws).xown = s.xown := rfl
@[simp] theorem State.commit_win (s : State) (c : Ctx) (la : Nat) (regs : List Reg) (ws : List (Nat × List (Reg × Word))) : (s.commit c la regs ws).win = s.win := rfl
@[simp] theorem State.commit_alm (s : State) (c : Ctx) (la : Nat) (regs : List Reg) (ws : List (Nat × List (Reg × Word))) : (s.commit c la regs ws).alm = s.alm := rfl
@[simp] theorem State.commit_power (s : State) (c : Ctx) (la : Nat) (regs : List Reg) (ws : List (Nat × List (Reg × Word))) : (s.commit c la regs ws).power = s.power := rfl
@[simp] theorem State.commit_ptime (s : State) (c : Ctx) (la : Nat) (regs : List Reg) (ws : List (Nat × List (Reg × Word))) : (s.commit c la regs ws).ptime = s.ptime := rfl
@[simp] theorem State.commit_servo (s : State) (c : Ctx) (la : Nat) (regs : List Reg) (ws : List (Nat × List (Reg × Word))) : (s.commit c la regs ws).servo = s.servo := rfl
@[simp] theorem State.commit_frameBase (s : State) (c : Ctx) (la : Nat) (regs : List Reg) (ws : List (Nat × List (Reg × Word))) : (s.commit c la regs ws).frameBase = s.frameBase := rfl
@[simp] theorem State.commit_streamBase (s : State) (c : Ctx) (la : Nat) (regs : List Reg) (ws : List (Nat × List (Reg × Word))) : (s.commit c la regs ws).streamBase = s.streamBase := rfl
@[simp] theorem State.commit_tables (s : State) (c : Ctx) (la : Nat) (regs : List Reg) (ws : List (Nat × List (Reg × Word))) : (s.commit c la regs ws).tables = s.tables := rfl
@[simp] theorem State.commit_streams (s : State) (c : Ctx) (la : Nat) (regs : List Reg) (ws : List (Nat × List (Reg × Word))) : (s.commit c la regs ws).streams = s.streams := rfl
@[simp] theorem State.commit_txs (s : State) (c : Ctx) (la : Nat) (regs : List Reg) (ws : List (Nat × List (Reg × Word))) : (s.commit c la regs ws).txs = s.txs := rfl
@[simp] theorem State.commit_frameReg (s : State) (c : Ctx) (la : Nat) (regs : List Reg) (ws : List (Nat × List (Reg × Word))) : (s.commit c la regs ws).frameReg = s.frameReg := rfl
@[simp] theorem State.commit_firstOut (s : State) (c : Ctx) (la : Nat) (regs : List Reg) (ws : List (Nat × List (Reg × Word))) : (s.commit c la regs ws).firstOut = s.firstOut := rfl
@[simp] theorem State.commit_colls (s : State) (c : Ctx) (la : Nat) (regs : List Reg) (ws : List (Nat × List (Reg × Word))) : (s.commit c la regs ws).colls = s.colls := rfl
@[simp] theorem State.commit_collKept (s : State) (c : Ctx) (la : Nat) (regs : List Reg) (ws : List (Nat × List (Reg × Word))) : (s.commit c la regs ws).collKept = s.collKept := rfl
@[simp] theorem State.commit_collEarly (s : State) (c : Ctx) (la : Nat) (regs : List Reg) (ws : List (Nat × List (Reg × Word))) : (s.commit c la regs ws).collEarly = s.collEarly := rfl
@[simp] theorem State.commit_linkCard (s : State) (c : Ctx) (la : Nat) (regs : List Reg) (ws : List (Nat × List (Reg × Word))) : (s.commit c la regs ws).linkCard = s.linkCard := rfl
@[simp] theorem State.commit_linkUp (s : State) (c : Ctx) (la : Nat) (regs : List Reg) (ws : List (Nat × List (Reg × Word))) : (s.commit c la regs ws).linkUp = s.linkUp := rfl
@[simp] theorem State.commit_grpBase (s : State) (c : Ctx) (la : Nat) (regs : List Reg) (ws : List (Nat × List (Reg × Word))) : (s.commit c la regs ws).grpBase = s.grpBase := rfl
@[simp] theorem State.commit_leaves (s : State) (c : Ctx) (la : Nat) (regs : List Reg) (ws : List (Nat × List (Reg × Word))) : (s.commit c la regs ws).leaves = s.leaves := rfl
@[simp] theorem State.commit_bvhs (s : State) (c : Ctx) (la : Nat) (regs : List Reg) (ws : List (Nat × List (Reg × Word))) : (s.commit c la regs ws).bvhs = s.bvhs := rfl
@[simp] theorem State.commit_passes (s : State) (c : Ctx) (la : Nat) (regs : List Reg) (ws : List (Nat × List (Reg × Word))) : (s.commit c la regs ws).passes = s.passes := rfl
@[simp] theorem State.commit_fq (s : State) (c : Ctx) (la : Nat) (regs : List Reg) (ws : List (Nat × List (Reg × Word))) : (s.commit c la regs ws).fq = s.fq := rfl
@[simp] theorem State.commit_trust (s : State) (c : Ctx) (la : Nat) (regs : List Reg) (ws : List (Nat × List (Reg × Word))) : (s.commit c la regs ws).trust = s.trust := rfl
@[simp] theorem State.commit_house (s : State) (c : Ctx) (la : Nat) (regs : List Reg) (ws : List (Nat × List (Reg × Word))) : (s.commit c la regs ws).house = s.house := rfl
@[simp] theorem State.commit_rcv (s : State) (c : Ctx) (la : Nat) (regs : List Reg) (ws : List (Nat × List (Reg × Word))) : (s.commit c la regs ws).rcv = s.rcv := rfl
@[simp] theorem State.commit_stalled (s : State) (c : Ctx) (la : Nat) (regs : List Reg) (ws : List (Nat × List (Reg × Word))) : (s.commit c la regs ws).stalled = s.stalled := rfl
@[simp] theorem State.commit_heldEv (s : State) (c : Ctx) (la : Nat) (regs : List Reg) (ws : List (Nat × List (Reg × Word))) : (s.commit c la regs ws).heldEv = s.heldEv := rfl
@[simp] theorem State.commit_irqs (s : State) (c : Ctx) (la : Nat) (regs : List Reg) (ws : List (Nat × List (Reg × Word))) : (s.commit c la regs ws).irqs = s.irqs := rfl
@[simp] theorem State.commit_out (s : State) (c : Ctx) (la : Nat) (regs : List Reg) (ws : List (Nat × List (Reg × Word))) : (s.commit c la regs ws).out = s.out := rfl
@[simp] theorem State.commit_extest (s : State) (c : Ctx) (la : Nat) (regs : List Reg) (ws : List (Nat × List (Reg × Word))) : (s.commit c la regs ws).extest = s.extest := rfl

/-! ## pendOn -/

@[simp] theorem State.pendOn_cur (s : State) (c : Ctx) (la : Nat) (regs : List Reg) (cmd : Option Nat) : (s.pendOn c la regs cmd).cur = s.cur := rfl
@[simp] theorem State.pendOn_arg (s : State) (c : Ctx) (la : Nat) (regs : List Reg) (cmd : Option Nat) : (s.pendOn c la regs cmd).arg = s.arg := rfl
@[simp] theorem State.pendOn_inbox (s : State) (c : Ctx) (la : Nat) (regs : List Reg) (cmd : Option Nat) : (s.pendOn c la regs cmd).inbox = s.inbox := rfl
@[simp] theorem State.pendOn_focus (s : State) (c : Ctx) (la : Nat) (regs : List Reg) (cmd : Option Nat) : (s.pendOn c la regs cmd).focus = s.focus := rfl
@[simp] theorem State.pendOn_freeCtr (s : State) (c : Ctx) (la : Nat) (regs : List Reg) (cmd : Option Nat) : (s.pendOn c la regs cmd).freeCtr = s.freeCtr := rfl
@[simp] theorem State.pendOn_tick (s : State) (c : Ctx) (la : Nat) (regs : List Reg) (cmd : Option Nat) : (s.pendOn c la regs cmd).tick = s.tick := rfl
@[simp] theorem State.pendOn_now (s : State) (c : Ctx) (la : Nat) (regs : List Reg) (cmd : Option Nat) : (s.pendOn c la regs cmd).now = s.now := rfl
@[simp] theorem State.pendOn_clocks (s : State) (c : Ctx) (la : Nat) (regs : List Reg) (cmd : Option Nat) : (s.pendOn c la regs cmd).clocks = s.clocks := rfl
@[simp] theorem State.pendOn_nextId (s : State) (c : Ctx) (la : Nat) (regs : List Reg) (cmd : Option Nat) : (s.pendOn c la regs cmd).nextId = s.nextId := rfl
@[simp] theorem State.pendOn_fuses (s : State) (c : Ctx) (la : Nat) (regs : List Reg) (cmd : Option Nat) : (s.pendOn c la regs cmd).fuses = s.fuses := rfl
@[simp] theorem State.pendOn_mem (s : State) (c : Ctx) (la : Nat) (regs : List Reg) (cmd : Option Nat) : (s.pendOn c la regs cmd).mem = s.mem := rfl
@[simp] theorem State.pendOn_hist (s : State) (c : Ctx) (la : Nat) (regs : List Reg) (cmd : Option Nat) : (s.pendOn c la regs cmd).hist = s.hist := rfl
@[simp] theorem State.pendOn_nextSer (s : State) (c : Ctx) (la : Nat) (regs : List Reg) (cmd : Option Nat) : (s.pendOn c la regs cmd).nextSer = s.nextSer := rfl
@[simp] theorem State.pendOn_publs (s : State) (c : Ctx) (la : Nat) (regs : List Reg) (cmd : Option Nat) : (s.pendOn c la regs cmd).publs = s.publs := rfl
@[simp] theorem State.pendOn_bars (s : State) (c : Ctx) (la : Nat) (regs : List Reg) (cmd : Option Nat) : (s.pendOn c la regs cmd).bars = s.bars := rfl
@[simp] theorem State.pendOn_bad (s : State) (c : Ctx) (la : Nat) (regs : List Reg) (cmd : Option Nat) : (s.pendOn c la regs cmd).bad = s.bad := rfl
@[simp] theorem State.pendOn_grids (s : State) (c : Ctx) (la : Nat) (regs : List Reg) (cmd : Option Nat) : (s.pendOn c la regs cmd).grids = s.grids := rfl
@[simp] theorem State.pendOn_waves (s : State) (c : Ctx) (la : Nat) (regs : List Reg) (cmd : Option Nat) : (s.pendOn c la regs cmd).waves = s.waves := rfl
@[simp] theorem State.pendOn_copies (s : State) (c : Ctx) (la : Nat) (regs : List Reg) (cmd : Option Nat) : (s.pendOn c la regs cmd).copies = s.copies := rfl
@[simp] theorem State.pendOn_gathers (s : State) (c : Ctx) (la : Nat) (regs : List Reg) (cmd : Option Nat) : (s.pendOn c la regs cmd).gathers = s.gathers := rfl
@[simp] theorem State.pendOn_matq (s : State) (c : Ctx) (la : Nat) (regs : List Reg) (cmd : Option Nat) : (s.pendOn c la regs cmd).matq = s.matq := rfl
@[simp] theorem State.pendOn_spubs (s : State) (c : Ctx) (la : Nat) (regs : List Reg) (cmd : Option Nat) : (s.pendOn c la regs cmd).spubs = s.spubs := rfl
@[simp] theorem State.pendOn_ssubs (s : State) (c : Ctx) (la : Nat) (regs : List Reg) (cmd : Option Nat) : (s.pendOn c la regs cmd).ssubs = s.ssubs := rfl
@[simp] theorem State.pendOn_regionBase (s : State) (c : Ctx) (la : Nat) (regs : List Reg) (cmd : Option Nat) : (s.pendOn c la regs cmd).regionBase = s.regionBase := rfl
@[simp] theorem State.pendOn_syncId (s : State) (c : Ctx) (la : Nat) (regs : List Reg) (cmd : Option Nat) : (s.pendOn c la regs cmd).syncId = s.syncId := rfl
@[simp] theorem State.pendOn_syncBusy (s : State) (c : Ctx) (la : Nat) (regs : List Reg) (cmd : Option Nat) : (s.pendOn c la regs cmd).syncBusy = s.syncBusy := rfl
@[simp] theorem State.pendOn_syncStat (s : State) (c : Ctx) (la : Nat) (regs : List Reg) (cmd : Option Nat) : (s.pendOn c la regs cmd).syncStat = s.syncStat := rfl
@[simp] theorem State.pendOn_regions (s : State) (c : Ctx) (la : Nat) (regs : List Reg) (cmd : Option Nat) : (s.pendOn c la regs cmd).regions = s.regions := rfl
@[simp] theorem State.pendOn_mapped (s : State) (c : Ctx) (la : Nat) (regs : List Reg) (cmd : Option Nat) : (s.pendOn c la regs cmd).mapped = s.mapped := rfl
@[simp] theorem State.pendOn_invals (s : State) (c : Ctx) (la : Nat) (regs : List Reg) (cmd : Option Nat) : (s.pendOn c la regs cmd).invals = s.invals := rfl
@[simp] theorem State.pendOn_xown (s : State) (c : Ctx) (la : Nat) (regs : List Reg) (cmd : Option Nat) : (s.pendOn c la regs cmd).xown = s.xown := rfl
@[simp] theorem State.pendOn_win (s : State) (c : Ctx) (la : Nat) (regs : List Reg) (cmd : Option Nat) : (s.pendOn c la regs cmd).win = s.win := rfl
@[simp] theorem State.pendOn_alm (s : State) (c : Ctx) (la : Nat) (regs : List Reg) (cmd : Option Nat) : (s.pendOn c la regs cmd).alm = s.alm := rfl
@[simp] theorem State.pendOn_power (s : State) (c : Ctx) (la : Nat) (regs : List Reg) (cmd : Option Nat) : (s.pendOn c la regs cmd).power = s.power := rfl
@[simp] theorem State.pendOn_ptime (s : State) (c : Ctx) (la : Nat) (regs : List Reg) (cmd : Option Nat) : (s.pendOn c la regs cmd).ptime = s.ptime := rfl
@[simp] theorem State.pendOn_servo (s : State) (c : Ctx) (la : Nat) (regs : List Reg) (cmd : Option Nat) : (s.pendOn c la regs cmd).servo = s.servo := rfl
@[simp] theorem State.pendOn_frameBase (s : State) (c : Ctx) (la : Nat) (regs : List Reg) (cmd : Option Nat) : (s.pendOn c la regs cmd).frameBase = s.frameBase := rfl
@[simp] theorem State.pendOn_streamBase (s : State) (c : Ctx) (la : Nat) (regs : List Reg) (cmd : Option Nat) : (s.pendOn c la regs cmd).streamBase = s.streamBase := rfl
@[simp] theorem State.pendOn_tables (s : State) (c : Ctx) (la : Nat) (regs : List Reg) (cmd : Option Nat) : (s.pendOn c la regs cmd).tables = s.tables := rfl
@[simp] theorem State.pendOn_streams (s : State) (c : Ctx) (la : Nat) (regs : List Reg) (cmd : Option Nat) : (s.pendOn c la regs cmd).streams = s.streams := rfl
@[simp] theorem State.pendOn_txs (s : State) (c : Ctx) (la : Nat) (regs : List Reg) (cmd : Option Nat) : (s.pendOn c la regs cmd).txs = s.txs := rfl
@[simp] theorem State.pendOn_frameReg (s : State) (c : Ctx) (la : Nat) (regs : List Reg) (cmd : Option Nat) : (s.pendOn c la regs cmd).frameReg = s.frameReg := rfl
@[simp] theorem State.pendOn_firstOut (s : State) (c : Ctx) (la : Nat) (regs : List Reg) (cmd : Option Nat) : (s.pendOn c la regs cmd).firstOut = s.firstOut := rfl
@[simp] theorem State.pendOn_colls (s : State) (c : Ctx) (la : Nat) (regs : List Reg) (cmd : Option Nat) : (s.pendOn c la regs cmd).colls = s.colls := rfl
@[simp] theorem State.pendOn_collKept (s : State) (c : Ctx) (la : Nat) (regs : List Reg) (cmd : Option Nat) : (s.pendOn c la regs cmd).collKept = s.collKept := rfl
@[simp] theorem State.pendOn_collEarly (s : State) (c : Ctx) (la : Nat) (regs : List Reg) (cmd : Option Nat) : (s.pendOn c la regs cmd).collEarly = s.collEarly := rfl
@[simp] theorem State.pendOn_linkCard (s : State) (c : Ctx) (la : Nat) (regs : List Reg) (cmd : Option Nat) : (s.pendOn c la regs cmd).linkCard = s.linkCard := rfl
@[simp] theorem State.pendOn_linkUp (s : State) (c : Ctx) (la : Nat) (regs : List Reg) (cmd : Option Nat) : (s.pendOn c la regs cmd).linkUp = s.linkUp := rfl
@[simp] theorem State.pendOn_grpBase (s : State) (c : Ctx) (la : Nat) (regs : List Reg) (cmd : Option Nat) : (s.pendOn c la regs cmd).grpBase = s.grpBase := rfl
@[simp] theorem State.pendOn_leaves (s : State) (c : Ctx) (la : Nat) (regs : List Reg) (cmd : Option Nat) : (s.pendOn c la regs cmd).leaves = s.leaves := rfl
@[simp] theorem State.pendOn_bvhs (s : State) (c : Ctx) (la : Nat) (regs : List Reg) (cmd : Option Nat) : (s.pendOn c la regs cmd).bvhs = s.bvhs := rfl
@[simp] theorem State.pendOn_passes (s : State) (c : Ctx) (la : Nat) (regs : List Reg) (cmd : Option Nat) : (s.pendOn c la regs cmd).passes = s.passes := rfl
@[simp] theorem State.pendOn_fq (s : State) (c : Ctx) (la : Nat) (regs : List Reg) (cmd : Option Nat) : (s.pendOn c la regs cmd).fq = s.fq := rfl
@[simp] theorem State.pendOn_trust (s : State) (c : Ctx) (la : Nat) (regs : List Reg) (cmd : Option Nat) : (s.pendOn c la regs cmd).trust = s.trust := rfl
@[simp] theorem State.pendOn_house (s : State) (c : Ctx) (la : Nat) (regs : List Reg) (cmd : Option Nat) : (s.pendOn c la regs cmd).house = s.house := rfl
@[simp] theorem State.pendOn_rcv (s : State) (c : Ctx) (la : Nat) (regs : List Reg) (cmd : Option Nat) : (s.pendOn c la regs cmd).rcv = s.rcv := rfl
@[simp] theorem State.pendOn_stalled (s : State) (c : Ctx) (la : Nat) (regs : List Reg) (cmd : Option Nat) : (s.pendOn c la regs cmd).stalled = s.stalled := rfl
@[simp] theorem State.pendOn_heldEv (s : State) (c : Ctx) (la : Nat) (regs : List Reg) (cmd : Option Nat) : (s.pendOn c la regs cmd).heldEv = s.heldEv := rfl
@[simp] theorem State.pendOn_irqs (s : State) (c : Ctx) (la : Nat) (regs : List Reg) (cmd : Option Nat) : (s.pendOn c la regs cmd).irqs = s.irqs := rfl
@[simp] theorem State.pendOn_out (s : State) (c : Ctx) (la : Nat) (regs : List Reg) (cmd : Option Nat) : (s.pendOn c la regs cmd).out = s.out := rfl
@[simp] theorem State.pendOn_extest (s : State) (c : Ctx) (la : Nat) (regs : List Reg) (cmd : Option Nat) : (s.pendOn c la regs cmd).extest = s.extest := rfl

/-! ## hold -/

@[simp] theorem State.hold_cur (s : State) (c : Ctx) (fx : HeldFx) : (s.hold c fx).cur = s.cur := rfl
@[simp] theorem State.hold_arg (s : State) (c : Ctx) (fx : HeldFx) : (s.hold c fx).arg = s.arg := rfl
@[simp] theorem State.hold_inbox (s : State) (c : Ctx) (fx : HeldFx) : (s.hold c fx).inbox = s.inbox := rfl
@[simp] theorem State.hold_focus (s : State) (c : Ctx) (fx : HeldFx) : (s.hold c fx).focus = s.focus := rfl
@[simp] theorem State.hold_freeCtr (s : State) (c : Ctx) (fx : HeldFx) : (s.hold c fx).freeCtr = s.freeCtr := rfl
@[simp] theorem State.hold_tick (s : State) (c : Ctx) (fx : HeldFx) : (s.hold c fx).tick = s.tick := rfl
@[simp] theorem State.hold_now (s : State) (c : Ctx) (fx : HeldFx) : (s.hold c fx).now = s.now := rfl
@[simp] theorem State.hold_clocks (s : State) (c : Ctx) (fx : HeldFx) : (s.hold c fx).clocks = s.clocks := rfl
@[simp] theorem State.hold_nextId (s : State) (c : Ctx) (fx : HeldFx) : (s.hold c fx).nextId = s.nextId := rfl
@[simp] theorem State.hold_fuses (s : State) (c : Ctx) (fx : HeldFx) : (s.hold c fx).fuses = s.fuses := rfl
@[simp] theorem State.hold_mem (s : State) (c : Ctx) (fx : HeldFx) : (s.hold c fx).mem = s.mem := rfl
@[simp] theorem State.hold_hist (s : State) (c : Ctx) (fx : HeldFx) : (s.hold c fx).hist = s.hist := rfl
@[simp] theorem State.hold_nextSer (s : State) (c : Ctx) (fx : HeldFx) : (s.hold c fx).nextSer = s.nextSer := rfl
@[simp] theorem State.hold_publs (s : State) (c : Ctx) (fx : HeldFx) : (s.hold c fx).publs = s.publs := rfl
@[simp] theorem State.hold_bars (s : State) (c : Ctx) (fx : HeldFx) : (s.hold c fx).bars = s.bars := rfl
@[simp] theorem State.hold_bad (s : State) (c : Ctx) (fx : HeldFx) : (s.hold c fx).bad = s.bad := rfl
@[simp] theorem State.hold_grids (s : State) (c : Ctx) (fx : HeldFx) : (s.hold c fx).grids = s.grids := rfl
@[simp] theorem State.hold_waves (s : State) (c : Ctx) (fx : HeldFx) : (s.hold c fx).waves = s.waves := rfl
@[simp] theorem State.hold_copies (s : State) (c : Ctx) (fx : HeldFx) : (s.hold c fx).copies = s.copies := rfl
@[simp] theorem State.hold_gathers (s : State) (c : Ctx) (fx : HeldFx) : (s.hold c fx).gathers = s.gathers := rfl
@[simp] theorem State.hold_matq (s : State) (c : Ctx) (fx : HeldFx) : (s.hold c fx).matq = s.matq := rfl
@[simp] theorem State.hold_spubs (s : State) (c : Ctx) (fx : HeldFx) : (s.hold c fx).spubs = s.spubs := rfl
@[simp] theorem State.hold_ssubs (s : State) (c : Ctx) (fx : HeldFx) : (s.hold c fx).ssubs = s.ssubs := rfl
@[simp] theorem State.hold_regionBase (s : State) (c : Ctx) (fx : HeldFx) : (s.hold c fx).regionBase = s.regionBase := rfl
@[simp] theorem State.hold_syncId (s : State) (c : Ctx) (fx : HeldFx) : (s.hold c fx).syncId = s.syncId := rfl
@[simp] theorem State.hold_syncBusy (s : State) (c : Ctx) (fx : HeldFx) : (s.hold c fx).syncBusy = s.syncBusy := rfl
@[simp] theorem State.hold_syncStat (s : State) (c : Ctx) (fx : HeldFx) : (s.hold c fx).syncStat = s.syncStat := rfl
@[simp] theorem State.hold_regions (s : State) (c : Ctx) (fx : HeldFx) : (s.hold c fx).regions = s.regions := rfl
@[simp] theorem State.hold_mapped (s : State) (c : Ctx) (fx : HeldFx) : (s.hold c fx).mapped = s.mapped := rfl
@[simp] theorem State.hold_invals (s : State) (c : Ctx) (fx : HeldFx) : (s.hold c fx).invals = s.invals := rfl
@[simp] theorem State.hold_xown (s : State) (c : Ctx) (fx : HeldFx) : (s.hold c fx).xown = s.xown := rfl
@[simp] theorem State.hold_win (s : State) (c : Ctx) (fx : HeldFx) : (s.hold c fx).win = s.win := rfl
@[simp] theorem State.hold_alm (s : State) (c : Ctx) (fx : HeldFx) : (s.hold c fx).alm = s.alm := rfl
@[simp] theorem State.hold_power (s : State) (c : Ctx) (fx : HeldFx) : (s.hold c fx).power = s.power := rfl
@[simp] theorem State.hold_ptime (s : State) (c : Ctx) (fx : HeldFx) : (s.hold c fx).ptime = s.ptime := rfl
@[simp] theorem State.hold_servo (s : State) (c : Ctx) (fx : HeldFx) : (s.hold c fx).servo = s.servo := rfl
@[simp] theorem State.hold_frameBase (s : State) (c : Ctx) (fx : HeldFx) : (s.hold c fx).frameBase = s.frameBase := rfl
@[simp] theorem State.hold_streamBase (s : State) (c : Ctx) (fx : HeldFx) : (s.hold c fx).streamBase = s.streamBase := rfl
@[simp] theorem State.hold_tables (s : State) (c : Ctx) (fx : HeldFx) : (s.hold c fx).tables = s.tables := rfl
@[simp] theorem State.hold_streams (s : State) (c : Ctx) (fx : HeldFx) : (s.hold c fx).streams = s.streams := rfl
@[simp] theorem State.hold_txs (s : State) (c : Ctx) (fx : HeldFx) : (s.hold c fx).txs = s.txs := rfl
@[simp] theorem State.hold_frameReg (s : State) (c : Ctx) (fx : HeldFx) : (s.hold c fx).frameReg = s.frameReg := rfl
@[simp] theorem State.hold_firstOut (s : State) (c : Ctx) (fx : HeldFx) : (s.hold c fx).firstOut = s.firstOut := rfl
@[simp] theorem State.hold_colls (s : State) (c : Ctx) (fx : HeldFx) : (s.hold c fx).colls = s.colls := rfl
@[simp] theorem State.hold_collKept (s : State) (c : Ctx) (fx : HeldFx) : (s.hold c fx).collKept = s.collKept := rfl
@[simp] theorem State.hold_collEarly (s : State) (c : Ctx) (fx : HeldFx) : (s.hold c fx).collEarly = s.collEarly := rfl
@[simp] theorem State.hold_linkCard (s : State) (c : Ctx) (fx : HeldFx) : (s.hold c fx).linkCard = s.linkCard := rfl
@[simp] theorem State.hold_linkUp (s : State) (c : Ctx) (fx : HeldFx) : (s.hold c fx).linkUp = s.linkUp := rfl
@[simp] theorem State.hold_grpBase (s : State) (c : Ctx) (fx : HeldFx) : (s.hold c fx).grpBase = s.grpBase := rfl
@[simp] theorem State.hold_leaves (s : State) (c : Ctx) (fx : HeldFx) : (s.hold c fx).leaves = s.leaves := rfl
@[simp] theorem State.hold_bvhs (s : State) (c : Ctx) (fx : HeldFx) : (s.hold c fx).bvhs = s.bvhs := rfl
@[simp] theorem State.hold_passes (s : State) (c : Ctx) (fx : HeldFx) : (s.hold c fx).passes = s.passes := rfl
@[simp] theorem State.hold_fq (s : State) (c : Ctx) (fx : HeldFx) : (s.hold c fx).fq = s.fq := rfl
@[simp] theorem State.hold_trust (s : State) (c : Ctx) (fx : HeldFx) : (s.hold c fx).trust = s.trust := rfl
@[simp] theorem State.hold_house (s : State) (c : Ctx) (fx : HeldFx) : (s.hold c fx).house = s.house := rfl
@[simp] theorem State.hold_rcv (s : State) (c : Ctx) (fx : HeldFx) : (s.hold c fx).rcv = s.rcv := rfl
@[simp] theorem State.hold_stalled (s : State) (c : Ctx) (fx : HeldFx) : (s.hold c fx).stalled = s.stalled := rfl
@[simp] theorem State.hold_heldEv (s : State) (c : Ctx) (fx : HeldFx) : (s.hold c fx).heldEv = s.heldEv := rfl
@[simp] theorem State.hold_irqs (s : State) (c : Ctx) (fx : HeldFx) : (s.hold c fx).irqs = s.irqs := rfl
@[simp] theorem State.hold_out (s : State) (c : Ctx) (fx : HeldFx) : (s.hold c fx).out = s.out := rfl
@[simp] theorem State.hold_extest (s : State) (c : Ctx) (fx : HeldFx) : (s.hold c fx).extest = s.extest := rfl

/-! ## park -/

@[simp] theorem State.park_cur (s : State) (c : Ctx) (ls : List Nat) (o : WaitOn) : (s.park c ls o).cur = s.cur := rfl
@[simp] theorem State.park_arg (s : State) (c : Ctx) (ls : List Nat) (o : WaitOn) : (s.park c ls o).arg = s.arg := rfl
@[simp] theorem State.park_inbox (s : State) (c : Ctx) (ls : List Nat) (o : WaitOn) : (s.park c ls o).inbox = s.inbox := rfl
@[simp] theorem State.park_focus (s : State) (c : Ctx) (ls : List Nat) (o : WaitOn) : (s.park c ls o).focus = s.focus := rfl
@[simp] theorem State.park_freeCtr (s : State) (c : Ctx) (ls : List Nat) (o : WaitOn) : (s.park c ls o).freeCtr = s.freeCtr := rfl
@[simp] theorem State.park_tick (s : State) (c : Ctx) (ls : List Nat) (o : WaitOn) : (s.park c ls o).tick = s.tick := rfl
@[simp] theorem State.park_now (s : State) (c : Ctx) (ls : List Nat) (o : WaitOn) : (s.park c ls o).now = s.now := rfl
@[simp] theorem State.park_clocks (s : State) (c : Ctx) (ls : List Nat) (o : WaitOn) : (s.park c ls o).clocks = s.clocks := rfl
@[simp] theorem State.park_nextId (s : State) (c : Ctx) (ls : List Nat) (o : WaitOn) : (s.park c ls o).nextId = s.nextId := rfl
@[simp] theorem State.park_fuses (s : State) (c : Ctx) (ls : List Nat) (o : WaitOn) : (s.park c ls o).fuses = s.fuses := rfl
@[simp] theorem State.park_mem (s : State) (c : Ctx) (ls : List Nat) (o : WaitOn) : (s.park c ls o).mem = s.mem := rfl
@[simp] theorem State.park_hist (s : State) (c : Ctx) (ls : List Nat) (o : WaitOn) : (s.park c ls o).hist = s.hist := rfl
@[simp] theorem State.park_nextSer (s : State) (c : Ctx) (ls : List Nat) (o : WaitOn) : (s.park c ls o).nextSer = s.nextSer := rfl
@[simp] theorem State.park_publs (s : State) (c : Ctx) (ls : List Nat) (o : WaitOn) : (s.park c ls o).publs = s.publs := rfl
@[simp] theorem State.park_bars (s : State) (c : Ctx) (ls : List Nat) (o : WaitOn) : (s.park c ls o).bars = s.bars := rfl
@[simp] theorem State.park_bad (s : State) (c : Ctx) (ls : List Nat) (o : WaitOn) : (s.park c ls o).bad = s.bad := rfl
@[simp] theorem State.park_grids (s : State) (c : Ctx) (ls : List Nat) (o : WaitOn) : (s.park c ls o).grids = s.grids := rfl
@[simp] theorem State.park_waves (s : State) (c : Ctx) (ls : List Nat) (o : WaitOn) : (s.park c ls o).waves = s.waves := rfl
@[simp] theorem State.park_copies (s : State) (c : Ctx) (ls : List Nat) (o : WaitOn) : (s.park c ls o).copies = s.copies := rfl
@[simp] theorem State.park_gathers (s : State) (c : Ctx) (ls : List Nat) (o : WaitOn) : (s.park c ls o).gathers = s.gathers := rfl
@[simp] theorem State.park_matq (s : State) (c : Ctx) (ls : List Nat) (o : WaitOn) : (s.park c ls o).matq = s.matq := rfl
@[simp] theorem State.park_spubs (s : State) (c : Ctx) (ls : List Nat) (o : WaitOn) : (s.park c ls o).spubs = s.spubs := rfl
@[simp] theorem State.park_ssubs (s : State) (c : Ctx) (ls : List Nat) (o : WaitOn) : (s.park c ls o).ssubs = s.ssubs := rfl
@[simp] theorem State.park_regionBase (s : State) (c : Ctx) (ls : List Nat) (o : WaitOn) : (s.park c ls o).regionBase = s.regionBase := rfl
@[simp] theorem State.park_syncId (s : State) (c : Ctx) (ls : List Nat) (o : WaitOn) : (s.park c ls o).syncId = s.syncId := rfl
@[simp] theorem State.park_syncBusy (s : State) (c : Ctx) (ls : List Nat) (o : WaitOn) : (s.park c ls o).syncBusy = s.syncBusy := rfl
@[simp] theorem State.park_syncStat (s : State) (c : Ctx) (ls : List Nat) (o : WaitOn) : (s.park c ls o).syncStat = s.syncStat := rfl
@[simp] theorem State.park_regions (s : State) (c : Ctx) (ls : List Nat) (o : WaitOn) : (s.park c ls o).regions = s.regions := rfl
@[simp] theorem State.park_mapped (s : State) (c : Ctx) (ls : List Nat) (o : WaitOn) : (s.park c ls o).mapped = s.mapped := rfl
@[simp] theorem State.park_invals (s : State) (c : Ctx) (ls : List Nat) (o : WaitOn) : (s.park c ls o).invals = s.invals := rfl
@[simp] theorem State.park_xown (s : State) (c : Ctx) (ls : List Nat) (o : WaitOn) : (s.park c ls o).xown = s.xown := rfl
@[simp] theorem State.park_win (s : State) (c : Ctx) (ls : List Nat) (o : WaitOn) : (s.park c ls o).win = s.win := rfl
@[simp] theorem State.park_alm (s : State) (c : Ctx) (ls : List Nat) (o : WaitOn) : (s.park c ls o).alm = s.alm := rfl
@[simp] theorem State.park_power (s : State) (c : Ctx) (ls : List Nat) (o : WaitOn) : (s.park c ls o).power = s.power := rfl
@[simp] theorem State.park_ptime (s : State) (c : Ctx) (ls : List Nat) (o : WaitOn) : (s.park c ls o).ptime = s.ptime := rfl
@[simp] theorem State.park_servo (s : State) (c : Ctx) (ls : List Nat) (o : WaitOn) : (s.park c ls o).servo = s.servo := rfl
@[simp] theorem State.park_frameBase (s : State) (c : Ctx) (ls : List Nat) (o : WaitOn) : (s.park c ls o).frameBase = s.frameBase := rfl
@[simp] theorem State.park_streamBase (s : State) (c : Ctx) (ls : List Nat) (o : WaitOn) : (s.park c ls o).streamBase = s.streamBase := rfl
@[simp] theorem State.park_tables (s : State) (c : Ctx) (ls : List Nat) (o : WaitOn) : (s.park c ls o).tables = s.tables := rfl
@[simp] theorem State.park_streams (s : State) (c : Ctx) (ls : List Nat) (o : WaitOn) : (s.park c ls o).streams = s.streams := rfl
@[simp] theorem State.park_txs (s : State) (c : Ctx) (ls : List Nat) (o : WaitOn) : (s.park c ls o).txs = s.txs := rfl
@[simp] theorem State.park_frameReg (s : State) (c : Ctx) (ls : List Nat) (o : WaitOn) : (s.park c ls o).frameReg = s.frameReg := rfl
@[simp] theorem State.park_firstOut (s : State) (c : Ctx) (ls : List Nat) (o : WaitOn) : (s.park c ls o).firstOut = s.firstOut := rfl
@[simp] theorem State.park_colls (s : State) (c : Ctx) (ls : List Nat) (o : WaitOn) : (s.park c ls o).colls = s.colls := rfl
@[simp] theorem State.park_collKept (s : State) (c : Ctx) (ls : List Nat) (o : WaitOn) : (s.park c ls o).collKept = s.collKept := rfl
@[simp] theorem State.park_collEarly (s : State) (c : Ctx) (ls : List Nat) (o : WaitOn) : (s.park c ls o).collEarly = s.collEarly := rfl
@[simp] theorem State.park_linkCard (s : State) (c : Ctx) (ls : List Nat) (o : WaitOn) : (s.park c ls o).linkCard = s.linkCard := rfl
@[simp] theorem State.park_linkUp (s : State) (c : Ctx) (ls : List Nat) (o : WaitOn) : (s.park c ls o).linkUp = s.linkUp := rfl
@[simp] theorem State.park_grpBase (s : State) (c : Ctx) (ls : List Nat) (o : WaitOn) : (s.park c ls o).grpBase = s.grpBase := rfl
@[simp] theorem State.park_leaves (s : State) (c : Ctx) (ls : List Nat) (o : WaitOn) : (s.park c ls o).leaves = s.leaves := rfl
@[simp] theorem State.park_bvhs (s : State) (c : Ctx) (ls : List Nat) (o : WaitOn) : (s.park c ls o).bvhs = s.bvhs := rfl
@[simp] theorem State.park_passes (s : State) (c : Ctx) (ls : List Nat) (o : WaitOn) : (s.park c ls o).passes = s.passes := rfl
@[simp] theorem State.park_fq (s : State) (c : Ctx) (ls : List Nat) (o : WaitOn) : (s.park c ls o).fq = s.fq := rfl
@[simp] theorem State.park_trust (s : State) (c : Ctx) (ls : List Nat) (o : WaitOn) : (s.park c ls o).trust = s.trust := rfl
@[simp] theorem State.park_house (s : State) (c : Ctx) (ls : List Nat) (o : WaitOn) : (s.park c ls o).house = s.house := rfl
@[simp] theorem State.park_rcv (s : State) (c : Ctx) (ls : List Nat) (o : WaitOn) : (s.park c ls o).rcv = s.rcv := rfl
@[simp] theorem State.park_stalled (s : State) (c : Ctx) (ls : List Nat) (o : WaitOn) : (s.park c ls o).stalled = s.stalled := rfl
@[simp] theorem State.park_heldEv (s : State) (c : Ctx) (ls : List Nat) (o : WaitOn) : (s.park c ls o).heldEv = s.heldEv := rfl
@[simp] theorem State.park_irqs (s : State) (c : Ctx) (ls : List Nat) (o : WaitOn) : (s.park c ls o).irqs = s.irqs := rfl
@[simp] theorem State.park_out (s : State) (c : Ctx) (ls : List Nat) (o : WaitOn) : (s.park c ls o).out = s.out := rfl
@[simp] theorem State.park_extest (s : State) (c : Ctx) (ls : List Nat) (o : WaitOn) : (s.park c ls o).extest = s.extest := rfl

/-! ## wake -/

@[simp] theorem State.wake_cur (s : State) (p : WaitOn → Bool) (r : Bool) : (s.wake p r).cur = s.cur := rfl
@[simp] theorem State.wake_arg (s : State) (p : WaitOn → Bool) (r : Bool) : (s.wake p r).arg = s.arg := rfl
@[simp] theorem State.wake_inbox (s : State) (p : WaitOn → Bool) (r : Bool) : (s.wake p r).inbox = s.inbox := rfl
@[simp] theorem State.wake_focus (s : State) (p : WaitOn → Bool) (r : Bool) : (s.wake p r).focus = s.focus := rfl
@[simp] theorem State.wake_freeCtr (s : State) (p : WaitOn → Bool) (r : Bool) : (s.wake p r).freeCtr = s.freeCtr := rfl
@[simp] theorem State.wake_tick (s : State) (p : WaitOn → Bool) (r : Bool) : (s.wake p r).tick = s.tick := rfl
@[simp] theorem State.wake_now (s : State) (p : WaitOn → Bool) (r : Bool) : (s.wake p r).now = s.now := rfl
@[simp] theorem State.wake_clocks (s : State) (p : WaitOn → Bool) (r : Bool) : (s.wake p r).clocks = s.clocks := rfl
@[simp] theorem State.wake_nextId (s : State) (p : WaitOn → Bool) (r : Bool) : (s.wake p r).nextId = s.nextId := rfl
@[simp] theorem State.wake_fuses (s : State) (p : WaitOn → Bool) (r : Bool) : (s.wake p r).fuses = s.fuses := rfl
@[simp] theorem State.wake_mem (s : State) (p : WaitOn → Bool) (r : Bool) : (s.wake p r).mem = s.mem := rfl
@[simp] theorem State.wake_hist (s : State) (p : WaitOn → Bool) (r : Bool) : (s.wake p r).hist = s.hist := rfl
@[simp] theorem State.wake_nextSer (s : State) (p : WaitOn → Bool) (r : Bool) : (s.wake p r).nextSer = s.nextSer := rfl
@[simp] theorem State.wake_publs (s : State) (p : WaitOn → Bool) (r : Bool) : (s.wake p r).publs = s.publs := rfl
@[simp] theorem State.wake_bars (s : State) (p : WaitOn → Bool) (r : Bool) : (s.wake p r).bars = s.bars := rfl
@[simp] theorem State.wake_bad (s : State) (p : WaitOn → Bool) (r : Bool) : (s.wake p r).bad = s.bad := rfl
@[simp] theorem State.wake_grids (s : State) (p : WaitOn → Bool) (r : Bool) : (s.wake p r).grids = s.grids := rfl
@[simp] theorem State.wake_waves (s : State) (p : WaitOn → Bool) (r : Bool) : (s.wake p r).waves = s.waves := rfl
@[simp] theorem State.wake_copies (s : State) (p : WaitOn → Bool) (r : Bool) : (s.wake p r).copies = s.copies := rfl
@[simp] theorem State.wake_gathers (s : State) (p : WaitOn → Bool) (r : Bool) : (s.wake p r).gathers = s.gathers := rfl
@[simp] theorem State.wake_matq (s : State) (p : WaitOn → Bool) (r : Bool) : (s.wake p r).matq = s.matq := rfl
@[simp] theorem State.wake_spubs (s : State) (p : WaitOn → Bool) (r : Bool) : (s.wake p r).spubs = s.spubs := rfl
@[simp] theorem State.wake_ssubs (s : State) (p : WaitOn → Bool) (r : Bool) : (s.wake p r).ssubs = s.ssubs := rfl
@[simp] theorem State.wake_regionBase (s : State) (p : WaitOn → Bool) (r : Bool) : (s.wake p r).regionBase = s.regionBase := rfl
@[simp] theorem State.wake_syncId (s : State) (p : WaitOn → Bool) (r : Bool) : (s.wake p r).syncId = s.syncId := rfl
@[simp] theorem State.wake_syncBusy (s : State) (p : WaitOn → Bool) (r : Bool) : (s.wake p r).syncBusy = s.syncBusy := rfl
@[simp] theorem State.wake_syncStat (s : State) (p : WaitOn → Bool) (r : Bool) : (s.wake p r).syncStat = s.syncStat := rfl
@[simp] theorem State.wake_regions (s : State) (p : WaitOn → Bool) (r : Bool) : (s.wake p r).regions = s.regions := rfl
@[simp] theorem State.wake_mapped (s : State) (p : WaitOn → Bool) (r : Bool) : (s.wake p r).mapped = s.mapped := rfl
@[simp] theorem State.wake_invals (s : State) (p : WaitOn → Bool) (r : Bool) : (s.wake p r).invals = s.invals := rfl
@[simp] theorem State.wake_xown (s : State) (p : WaitOn → Bool) (r : Bool) : (s.wake p r).xown = s.xown := rfl
@[simp] theorem State.wake_win (s : State) (p : WaitOn → Bool) (r : Bool) : (s.wake p r).win = s.win := rfl
@[simp] theorem State.wake_alm (s : State) (p : WaitOn → Bool) (r : Bool) : (s.wake p r).alm = s.alm := rfl
@[simp] theorem State.wake_power (s : State) (p : WaitOn → Bool) (r : Bool) : (s.wake p r).power = s.power := rfl
@[simp] theorem State.wake_ptime (s : State) (p : WaitOn → Bool) (r : Bool) : (s.wake p r).ptime = s.ptime := rfl
@[simp] theorem State.wake_servo (s : State) (p : WaitOn → Bool) (r : Bool) : (s.wake p r).servo = s.servo := rfl
@[simp] theorem State.wake_frameBase (s : State) (p : WaitOn → Bool) (r : Bool) : (s.wake p r).frameBase = s.frameBase := rfl
@[simp] theorem State.wake_streamBase (s : State) (p : WaitOn → Bool) (r : Bool) : (s.wake p r).streamBase = s.streamBase := rfl
@[simp] theorem State.wake_tables (s : State) (p : WaitOn → Bool) (r : Bool) : (s.wake p r).tables = s.tables := rfl
@[simp] theorem State.wake_streams (s : State) (p : WaitOn → Bool) (r : Bool) : (s.wake p r).streams = s.streams := rfl
@[simp] theorem State.wake_txs (s : State) (p : WaitOn → Bool) (r : Bool) : (s.wake p r).txs = s.txs := rfl
@[simp] theorem State.wake_frameReg (s : State) (p : WaitOn → Bool) (r : Bool) : (s.wake p r).frameReg = s.frameReg := rfl
@[simp] theorem State.wake_firstOut (s : State) (p : WaitOn → Bool) (r : Bool) : (s.wake p r).firstOut = s.firstOut := rfl
@[simp] theorem State.wake_colls (s : State) (p : WaitOn → Bool) (r : Bool) : (s.wake p r).colls = s.colls := rfl
@[simp] theorem State.wake_collKept (s : State) (p : WaitOn → Bool) (r : Bool) : (s.wake p r).collKept = s.collKept := rfl
@[simp] theorem State.wake_collEarly (s : State) (p : WaitOn → Bool) (r : Bool) : (s.wake p r).collEarly = s.collEarly := rfl
@[simp] theorem State.wake_linkCard (s : State) (p : WaitOn → Bool) (r : Bool) : (s.wake p r).linkCard = s.linkCard := rfl
@[simp] theorem State.wake_linkUp (s : State) (p : WaitOn → Bool) (r : Bool) : (s.wake p r).linkUp = s.linkUp := rfl
@[simp] theorem State.wake_grpBase (s : State) (p : WaitOn → Bool) (r : Bool) : (s.wake p r).grpBase = s.grpBase := rfl
@[simp] theorem State.wake_leaves (s : State) (p : WaitOn → Bool) (r : Bool) : (s.wake p r).leaves = s.leaves := rfl
@[simp] theorem State.wake_bvhs (s : State) (p : WaitOn → Bool) (r : Bool) : (s.wake p r).bvhs = s.bvhs := rfl
@[simp] theorem State.wake_passes (s : State) (p : WaitOn → Bool) (r : Bool) : (s.wake p r).passes = s.passes := rfl
@[simp] theorem State.wake_fq (s : State) (p : WaitOn → Bool) (r : Bool) : (s.wake p r).fq = s.fq := rfl
@[simp] theorem State.wake_trust (s : State) (p : WaitOn → Bool) (r : Bool) : (s.wake p r).trust = s.trust := rfl
@[simp] theorem State.wake_house (s : State) (p : WaitOn → Bool) (r : Bool) : (s.wake p r).house = s.house := rfl
@[simp] theorem State.wake_rcv (s : State) (p : WaitOn → Bool) (r : Bool) : (s.wake p r).rcv = s.rcv := rfl
@[simp] theorem State.wake_stalled (s : State) (p : WaitOn → Bool) (r : Bool) : (s.wake p r).stalled = s.stalled := rfl
@[simp] theorem State.wake_heldEv (s : State) (p : WaitOn → Bool) (r : Bool) : (s.wake p r).heldEv = s.heldEv := rfl
@[simp] theorem State.wake_irqs (s : State) (p : WaitOn → Bool) (r : Bool) : (s.wake p r).irqs = s.irqs := rfl
@[simp] theorem State.wake_out (s : State) (p : WaitOn → Bool) (r : Bool) : (s.wake p r).out = s.out := rfl
@[simp] theorem State.wake_extest (s : State) (p : WaitOn → Bool) (r : Bool) : (s.wake p r).extest = s.extest := rfl

/-! ## restamp -/

@[simp] theorem State.restamp_cur (s : State)  : (s.restamp).cur = s.cur := rfl
@[simp] theorem State.restamp_arg (s : State)  : (s.restamp).arg = s.arg := rfl
@[simp] theorem State.restamp_inbox (s : State)  : (s.restamp).inbox = s.inbox := rfl
@[simp] theorem State.restamp_focus (s : State)  : (s.restamp).focus = s.focus := rfl
@[simp] theorem State.restamp_freeCtr (s : State)  : (s.restamp).freeCtr = s.freeCtr := rfl
@[simp] theorem State.restamp_tick (s : State)  : (s.restamp).tick = s.tick := rfl
@[simp] theorem State.restamp_now (s : State)  : (s.restamp).now = s.now := rfl
@[simp] theorem State.restamp_clocks (s : State)  : (s.restamp).clocks = s.clocks := rfl
@[simp] theorem State.restamp_nextId (s : State)  : (s.restamp).nextId = s.nextId := rfl
@[simp] theorem State.restamp_fuses (s : State)  : (s.restamp).fuses = s.fuses := rfl
@[simp] theorem State.restamp_mem (s : State)  : (s.restamp).mem = s.mem := rfl
@[simp] theorem State.restamp_hist (s : State)  : (s.restamp).hist = s.hist := rfl
@[simp] theorem State.restamp_nextSer (s : State)  : (s.restamp).nextSer = s.nextSer := rfl
@[simp] theorem State.restamp_publs (s : State)  : (s.restamp).publs = s.publs := rfl
@[simp] theorem State.restamp_bars (s : State)  : (s.restamp).bars = s.bars := rfl
@[simp] theorem State.restamp_bad (s : State)  : (s.restamp).bad = s.bad := rfl
@[simp] theorem State.restamp_grids (s : State)  : (s.restamp).grids = s.grids := rfl
@[simp] theorem State.restamp_waves (s : State)  : (s.restamp).waves = s.waves := rfl
@[simp] theorem State.restamp_copies (s : State)  : (s.restamp).copies = s.copies := rfl
@[simp] theorem State.restamp_gathers (s : State)  : (s.restamp).gathers = s.gathers := rfl
@[simp] theorem State.restamp_matq (s : State)  : (s.restamp).matq = s.matq := rfl
@[simp] theorem State.restamp_spubs (s : State)  : (s.restamp).spubs = s.spubs := rfl
@[simp] theorem State.restamp_ssubs (s : State)  : (s.restamp).ssubs = s.ssubs := rfl
@[simp] theorem State.restamp_regionBase (s : State)  : (s.restamp).regionBase = s.regionBase := rfl
@[simp] theorem State.restamp_syncId (s : State)  : (s.restamp).syncId = s.syncId := rfl
@[simp] theorem State.restamp_syncBusy (s : State)  : (s.restamp).syncBusy = s.syncBusy := rfl
@[simp] theorem State.restamp_syncStat (s : State)  : (s.restamp).syncStat = s.syncStat := rfl
@[simp] theorem State.restamp_regions (s : State)  : (s.restamp).regions = s.regions := rfl
@[simp] theorem State.restamp_mapped (s : State)  : (s.restamp).mapped = s.mapped := rfl
@[simp] theorem State.restamp_invals (s : State)  : (s.restamp).invals = s.invals := rfl
@[simp] theorem State.restamp_xown (s : State)  : (s.restamp).xown = s.xown := rfl
@[simp] theorem State.restamp_win (s : State)  : (s.restamp).win = s.win := rfl
@[simp] theorem State.restamp_alm (s : State)  : (s.restamp).alm = s.alm := rfl
@[simp] theorem State.restamp_power (s : State)  : (s.restamp).power = s.power := rfl
@[simp] theorem State.restamp_ptime (s : State)  : (s.restamp).ptime = s.ptime := rfl
@[simp] theorem State.restamp_servo (s : State)  : (s.restamp).servo = s.servo := rfl
@[simp] theorem State.restamp_frameBase (s : State)  : (s.restamp).frameBase = s.frameBase := rfl
@[simp] theorem State.restamp_streamBase (s : State)  : (s.restamp).streamBase = s.streamBase := rfl
@[simp] theorem State.restamp_tables (s : State)  : (s.restamp).tables = s.tables := rfl
@[simp] theorem State.restamp_streams (s : State)  : (s.restamp).streams = s.streams := rfl
@[simp] theorem State.restamp_txs (s : State)  : (s.restamp).txs = s.txs := rfl
@[simp] theorem State.restamp_frameReg (s : State)  : (s.restamp).frameReg = s.frameReg := rfl
@[simp] theorem State.restamp_firstOut (s : State)  : (s.restamp).firstOut = s.firstOut := rfl
@[simp] theorem State.restamp_colls (s : State)  : (s.restamp).colls = s.colls := rfl
@[simp] theorem State.restamp_collKept (s : State)  : (s.restamp).collKept = s.collKept := rfl
@[simp] theorem State.restamp_collEarly (s : State)  : (s.restamp).collEarly = s.collEarly := rfl
@[simp] theorem State.restamp_linkCard (s : State)  : (s.restamp).linkCard = s.linkCard := rfl
@[simp] theorem State.restamp_linkUp (s : State)  : (s.restamp).linkUp = s.linkUp := rfl
@[simp] theorem State.restamp_grpBase (s : State)  : (s.restamp).grpBase = s.grpBase := rfl
@[simp] theorem State.restamp_leaves (s : State)  : (s.restamp).leaves = s.leaves := rfl
@[simp] theorem State.restamp_bvhs (s : State)  : (s.restamp).bvhs = s.bvhs := rfl
@[simp] theorem State.restamp_passes (s : State)  : (s.restamp).passes = s.passes := rfl
@[simp] theorem State.restamp_fq (s : State)  : (s.restamp).fq = s.fq := rfl
@[simp] theorem State.restamp_trust (s : State)  : (s.restamp).trust = s.trust := rfl
@[simp] theorem State.restamp_house (s : State)  : (s.restamp).house = s.house := rfl
@[simp] theorem State.restamp_rcv (s : State)  : (s.restamp).rcv = s.rcv := rfl
@[simp] theorem State.restamp_stalled (s : State)  : (s.restamp).stalled = s.stalled := rfl
@[simp] theorem State.restamp_heldEv (s : State)  : (s.restamp).heldEv = s.heldEv := rfl
@[simp] theorem State.restamp_irqs (s : State)  : (s.restamp).irqs = s.irqs := rfl
@[simp] theorem State.restamp_out (s : State)  : (s.restamp).out = s.out := rfl
@[simp] theorem State.restamp_extest (s : State)  : (s.restamp).extest = s.extest := rfl

/-! ## elapse -/

@[simp] theorem State.elapse_cur (s : State) (n : Nat) : (s.elapse n).cur = s.cur := rfl
@[simp] theorem State.elapse_arg (s : State) (n : Nat) : (s.elapse n).arg = s.arg := rfl
@[simp] theorem State.elapse_inbox (s : State) (n : Nat) : (s.elapse n).inbox = s.inbox := rfl
@[simp] theorem State.elapse_focus (s : State) (n : Nat) : (s.elapse n).focus = s.focus := rfl
@[simp] theorem State.elapse_freeCtr (s : State) (n : Nat) : (s.elapse n).freeCtr = s.freeCtr := rfl
@[simp] theorem State.elapse_tick (s : State) (n : Nat) : (s.elapse n).tick = s.tick := rfl
@[simp] theorem State.elapse_clocks (s : State) (n : Nat) : (s.elapse n).clocks = s.clocks := rfl
@[simp] theorem State.elapse_nextId (s : State) (n : Nat) : (s.elapse n).nextId = s.nextId := rfl
@[simp] theorem State.elapse_fuses (s : State) (n : Nat) : (s.elapse n).fuses = s.fuses := rfl
@[simp] theorem State.elapse_mem (s : State) (n : Nat) : (s.elapse n).mem = s.mem := rfl
@[simp] theorem State.elapse_hist (s : State) (n : Nat) : (s.elapse n).hist = s.hist := rfl
@[simp] theorem State.elapse_nextSer (s : State) (n : Nat) : (s.elapse n).nextSer = s.nextSer := rfl
@[simp] theorem State.elapse_publs (s : State) (n : Nat) : (s.elapse n).publs = s.publs := rfl
@[simp] theorem State.elapse_bars (s : State) (n : Nat) : (s.elapse n).bars = s.bars := rfl
@[simp] theorem State.elapse_bad (s : State) (n : Nat) : (s.elapse n).bad = s.bad := rfl
@[simp] theorem State.elapse_teams (s : State) (n : Nat) : (s.elapse n).teams = s.teams := rfl
@[simp] theorem State.elapse_grids (s : State) (n : Nat) : (s.elapse n).grids = s.grids := rfl
@[simp] theorem State.elapse_waves (s : State) (n : Nat) : (s.elapse n).waves = s.waves := rfl
@[simp] theorem State.elapse_copies (s : State) (n : Nat) : (s.elapse n).copies = s.copies := rfl
@[simp] theorem State.elapse_gathers (s : State) (n : Nat) : (s.elapse n).gathers = s.gathers := rfl
@[simp] theorem State.elapse_matq (s : State) (n : Nat) : (s.elapse n).matq = s.matq := rfl
@[simp] theorem State.elapse_spubs (s : State) (n : Nat) : (s.elapse n).spubs = s.spubs := rfl
@[simp] theorem State.elapse_ssubs (s : State) (n : Nat) : (s.elapse n).ssubs = s.ssubs := rfl
@[simp] theorem State.elapse_regionBase (s : State) (n : Nat) : (s.elapse n).regionBase = s.regionBase := rfl
@[simp] theorem State.elapse_syncId (s : State) (n : Nat) : (s.elapse n).syncId = s.syncId := rfl
@[simp] theorem State.elapse_syncBusy (s : State) (n : Nat) : (s.elapse n).syncBusy = s.syncBusy := rfl
@[simp] theorem State.elapse_syncStat (s : State) (n : Nat) : (s.elapse n).syncStat = s.syncStat := rfl
@[simp] theorem State.elapse_regions (s : State) (n : Nat) : (s.elapse n).regions = s.regions := rfl
@[simp] theorem State.elapse_mapped (s : State) (n : Nat) : (s.elapse n).mapped = s.mapped := rfl
@[simp] theorem State.elapse_invals (s : State) (n : Nat) : (s.elapse n).invals = s.invals := rfl
@[simp] theorem State.elapse_xown (s : State) (n : Nat) : (s.elapse n).xown = s.xown := rfl
@[simp] theorem State.elapse_win (s : State) (n : Nat) : (s.elapse n).win = s.win := rfl
@[simp] theorem State.elapse_alm (s : State) (n : Nat) : (s.elapse n).alm = s.alm := rfl
@[simp] theorem State.elapse_power (s : State) (n : Nat) : (s.elapse n).power = s.power := rfl
@[simp] theorem State.elapse_frameBase (s : State) (n : Nat) : (s.elapse n).frameBase = s.frameBase := rfl
@[simp] theorem State.elapse_streamBase (s : State) (n : Nat) : (s.elapse n).streamBase = s.streamBase := rfl
@[simp] theorem State.elapse_tables (s : State) (n : Nat) : (s.elapse n).tables = s.tables := rfl
@[simp] theorem State.elapse_streams (s : State) (n : Nat) : (s.elapse n).streams = s.streams := rfl
@[simp] theorem State.elapse_txs (s : State) (n : Nat) : (s.elapse n).txs = s.txs := rfl
@[simp] theorem State.elapse_frameReg (s : State) (n : Nat) : (s.elapse n).frameReg = s.frameReg := rfl
@[simp] theorem State.elapse_firstOut (s : State) (n : Nat) : (s.elapse n).firstOut = s.firstOut := rfl
@[simp] theorem State.elapse_colls (s : State) (n : Nat) : (s.elapse n).colls = s.colls := rfl
@[simp] theorem State.elapse_collKept (s : State) (n : Nat) : (s.elapse n).collKept = s.collKept := rfl
@[simp] theorem State.elapse_collEarly (s : State) (n : Nat) : (s.elapse n).collEarly = s.collEarly := rfl
@[simp] theorem State.elapse_linkCard (s : State) (n : Nat) : (s.elapse n).linkCard = s.linkCard := rfl
@[simp] theorem State.elapse_linkUp (s : State) (n : Nat) : (s.elapse n).linkUp = s.linkUp := rfl
@[simp] theorem State.elapse_grpBase (s : State) (n : Nat) : (s.elapse n).grpBase = s.grpBase := rfl
@[simp] theorem State.elapse_leaves (s : State) (n : Nat) : (s.elapse n).leaves = s.leaves := rfl
@[simp] theorem State.elapse_bvhs (s : State) (n : Nat) : (s.elapse n).bvhs = s.bvhs := rfl
@[simp] theorem State.elapse_passes (s : State) (n : Nat) : (s.elapse n).passes = s.passes := rfl
@[simp] theorem State.elapse_fq (s : State) (n : Nat) : (s.elapse n).fq = s.fq := rfl
@[simp] theorem State.elapse_trust (s : State) (n : Nat) : (s.elapse n).trust = s.trust := rfl
@[simp] theorem State.elapse_house (s : State) (n : Nat) : (s.elapse n).house = s.house := rfl
@[simp] theorem State.elapse_rcv (s : State) (n : Nat) : (s.elapse n).rcv = s.rcv := rfl
@[simp] theorem State.elapse_stalled (s : State) (n : Nat) : (s.elapse n).stalled = s.stalled := rfl
@[simp] theorem State.elapse_heldEv (s : State) (n : Nat) : (s.elapse n).heldEv = s.heldEv := rfl
@[simp] theorem State.elapse_irqs (s : State) (n : Nat) : (s.elapse n).irqs = s.irqs := rfl
@[simp] theorem State.elapse_out (s : State) (n : Nat) : (s.elapse n).out = s.out := rfl
@[simp] theorem State.elapse_extest (s : State) (n : Nat) : (s.elapse n).extest = s.extest := rfl

end Sys2Proof.Machine
end

