-- ==== Sys2Proof/Tests/Slice0.lean ====
section
/-! SUPPORT. Tests: what well-formedness refuses, words written out from the encoding tables, and states that meet the premises of
the statements. -/

namespace Sys2Proof.Tests

open Sys2Proof Sys2Proof.Machine

set_option Elab.async false

/-! ## Well-formedness: one ill-formed term for each check -/

/-- R75: a modifier that the row does not take. -/
theorem test_wf_modifier : (Instr.iadd { pred := 7, width := .w1, vb := 3, va := 1, vd := 4, m := { ftz := .flush } }).wf = false := by decide +kernel

/-- R78: a pair that does not start at an even register. -/
theorem test_wf_alignment : (Instr.iadd { pred := 7, width := .w2, vb := 2, va := 1, vd := 4, m := {} }).wf = false := by decide +kernel

/-- R78, R142: a reserved field. -/
theorem test_wf_reserved : (Instr.yield { la := 0, b := 1, a := 0, d := 0 }).wf = false := by decide +kernel

/-- R219: exch is not a kind of a reduction. -/
theorem test_wf_redkind : (Instr.redG { pred := 7, kind := 9, la := 0, va := 1, vd := 2, off := 0, m := {} }).wf = false := by decide +kernel

/-- R80: a task with another task's opcode, and a reserved opcode that is assigned. -/
theorem test_wf_task : (Instr.tNop (taskRecOf 0x10 0 0 0 0 0 0 0)).wf = false ∧
    (Instr.reservedTaskOpcode (taskRecOf 0x10 0 0 0 0 0 0 0)).wf = false ∧ (Instr.tKern (taskRecOf 0x10 0 0 0 0 0 0 0)).wf = true := by decide +kernel

/-! ## Decoding: words of the spec's worked examples, by family -/

/-- Whether the words of `ws` decode to i and i encodes to them. -/
def reads (ws : List Word) (i : Instr) : Bool := decide ((decode (ws.flatMap halvesOf)).1 = .ok i) && encode i == ws.flatMap halvesOf

/-- R56: 16-bit format. -/
theorem test_decode_short : (decode [0x0442#16]).1 = .ok (.iadd16 { vb := 1, vd := 2 }) := by decide +kernel

/-- R60, R75, R125, R126: arithmetic, with a conversion's modifier prefix. -/
theorem test_decode_arith :
    reads [0xE020_84F3#32] (.frsq { pred := 7, width := .w1, la := 1, va := 1, vd := 2, m := {} }) = true ∧
    reads [0xE041_8D53#32] (.rand { pred := 7, width := .w1, la := 2, ka := 3, vd := 6 }) = true := by decide +kernel

/-- R68, R129, R133: class S, with a relay's prefix. -/
theorem test_decode_s :
    reads [0x0001_013D#32] (.movs { la := 0, b := 0, a := 1, d := 0 }) = true ∧
    reads [0x0000_004F#32, 0x0002_0CBD#32] (.relaySwImm { seg := 0, val := 1, a := 2, d := 3 }) = true := by decide +kernel

/-- R151 to R172: the matrix unit. -/
theorem test_decode_matrix :
    reads [0x0005_0269#32] (.caskres { la := 0, b := 0, a := 10, d := 1 }) = true ∧ reads [0x0000_0279#32] (.caskrel { la := 0, b := 0, a := 0, d := 1 }) = true ∧
    reads [0x00A4_0489#32] (.mgather { la := 0, b := 5, a := 8, d := 2 }) = true ∧ reads [0x10E3_08B9#32] (.gmma { la := 2, b := 7, a := 6, d := 4 }) = true ∧
    reads [0x0000_0AC9#32] (.tzero { la := 0, b := 0, a := 0, d := 5 }) = true ∧ reads [0x0180_06D9#32] (.tmovR { la := 0, b := 12, a := 0, d := 3 }) = true ∧
    reads [0x0000_0519#32] (.tcvt { la := 0, b := 0, a := 0, d := 2 }) = true := by decide +kernel

/-- R221, R223: fence.r with its modifier prefix, prefetch.g. -/
theorem test_decode_memory :
    reads [0xF001_01A7#32] (.prefetchG { pred := 7, hint := 2, va := 2, m := {} }) = true ∧
    reads [0x0080_001F#32, 0xF801_8987#32] (.fenceR { pred := 7, space := 3, va := 3, vlen := 4, m := { fence := .rel } }) = true := by decide +kernel

/-- R227 to R229: barriers. -/
theorem test_decode_barrier :
    reads [0x0000_100F#32, 0x0002_000D#32] (.barinit { b := 0, a := 2, d := 0, imm := 64 }) = true ∧
    reads [0x0002_101D#32] (.arrive { b := 0, a := 2, d := 4, m := {} }) = true ∧ reads [0x0042_101D#32] (.arrive { b := 1, a := 2, d := 4, m := {} }) = true ∧
    reads [0x01C2_002D#32] (.expect { b := 7, a := 2, d := 0, imm := 0 }) = true := by decide +kernel

/-- R235, R240, R242, R243, R248, R249: copies, streams and queues. -/
theorem test_decode_engines :
    reads [0x0004_0209#32] (.cpy { la := 0, b := 0, a := 8, d := 1 }) = true ∧ reads [0x0000_0639#32] (.qfence { la := 0, b := 0, a := 0, d := 3 }) = true ∧
    reads [0x00C4_0A49#32] (.osub { la := 0, b := 6, a := 8, d := 5 }) = true ∧ reads [0x0206_09AD#32] (.qpush { la := 0, b := 8, a := 6, d := 2 }) = true ∧
    reads [0x20C6_21BD#32] (.qpop { la := 2, b := 3, a := 6, d := 8 }) = true := by decide +kernel

/-- R268 to R271, R315, R325, R328, R346: stream registers, agents, launches and rays. -/
theorem test_decode_units :
    reads [0x0144_05CD#32] (.sqbind { la := 0, b := 5, a := 4, d := 1 }) = true ∧ reads [0x20C1_21DD#32] (.sqrd { la := 2, b := 3, a := 1, d := 8 }) = true ∧
    reads [0x00C8_05ED#32] (.sqwr { la := 0, b := 3, a := 8, d := 1 }) = true ∧ reads [0x0000_05FD#32] (.sqrel { la := 0, b := 0, a := 0, d := 1 }) = true ∧
    reads [0x0008_098D#32] (.launch { la := 0, b := 0, a := 8, d := 2 }) = true ∧ reads [0x000A_019D#32] (.cont { la := 0, b := 0, a := 10, d := 0 }) = true ∧
    reads [0x0002_078D#32] (.agClaim { la := 0, b := 0, a := 2, d := 1 }) = true ∧ reads [0x0101_0F9D#32] (.agInst { la := 0, b := 4, a := 1, d := 3 }) = true ∧
    reads [0x0003_03AD#32] (.agEnd { la := 0, b := 0, a := 3, d := 0 }) = true ∧ reads [0x0183_17BD#32] (.agSave { la := 0, b := 6, a := 3, d := 5 }) = true ∧
    reads [0x2108_0A0D#32] (.rayq { la := 2, b := 4, a := 8, d := 2 }) = true ∧ reads [0x2000_0A1D#32] (.raynext { la := 2, b := 0, a := 0, d := 2 }) = true ∧
    reads [0x0006_026D#32] (.rtinv { la := 0, b := 0, a := 6, d := 0 }) = true := by decide +kernel

/-- R79, R80: a task record. -/
theorem test_decode_task : decodeTask [0x39#32, 0, 0, 0, 0x80#32, 0, 5, 0] =
    some (.tWait { region := 0, resv := 0, det := false, xov := false, opq := false, eff := false, shed := false, opcode := 0x39, bufs := 0, w2 := 0, imm := 0, pa := 0x80, pb := 5 }) := by decide +kernel

/-! ## States that meet the statements' premises -/

/-- One team of one 16-wide warp with a thread at 0x10000, edited, of a grid of a task in region 0. -/
def probe (team : Team → Team := id) (warp : Warp → Warp := id) (th : Thread → Thread := id) (ctx : TaskCtx := {}) : State :=
  let t := team { probeTeam false with desc := { (probeTeam false).desc with tiles := 8, cask := 65536 } }
  { State.reset with
    teams := [{ t with warps := t.warps.map (fun w => warp { w with threads := w.threads.map th }) }]
    grids := [{ id := 1, desc := t.desc, nWaves := 1, waveSize := 1, task := ctx }]
    regions := [{ Region.boot with root := 0x1000 }] }

/-- s with the probe's page table (the first GiB onto itself) and bytes at locations. -/
def holding (s : State) (bytes : List (Nat × List Byte)) : State :=
  { s with mem := bytes.foldl (fun m p => memPuts m (atLoc p.1 p.2)) (memPuts [] (atLoc 0x1000 (leBytes 8 0x2001) ++ atLoc 0x2000 (leBytes 8 0xF))) }

/-- Whether instruction i issues at s for the probe's threads, with a condition on the state, group, team and warp. -/
def issues (s : State) (i : Instr) (q : State → Ctx → Team → Warp → Bool := fun _ _ _ _ => true) (lanes : List Nat := [0]) : Bool :=
  let s1 : State := { s with cur := some { team := 1, warp := 0, lanes := lanes, pc := 0x10000, words := encode i } }
  match s1.issue i with
  | .go c t w => q s1 c t w
  | _ => false

/-- Whether a step of s answers a next state with q. -/
def nexts (o : Out) (q : State → Bool) : Bool :=
  match o with
  | .next s => q s
  | _ => false

/-- IntegerResults, FieldAndByteInstructions, CompareSelectCarry, FloatInstructions, LookaheadResults, with the widest element group. -/
theorem test_premise_results :
    issues probe (.iadd { pred := 7, width := .w8, vb := 8, va := 16, vd := 56, m := { sat := true } }) = true ∧
    issues probe (.movi16 { vd := 31, imm := 31 }) = true ∧ issues probe (.iadd16 { vb := 1, vd := 2 }) = true ∧
    issues probe (.iaddImm { pred := 0, imm := .long 0x3FFFFFF 63, va := 63, vd := 63, m := {} }) = true ∧
    issues probe (.bfe { pred := 7, width := .w1, vb := 3, va := 1, vd := 4, m := {} }) = true ∧
    issues probe (.bsel { pred := 7, width := .w1, vb := 3, va := 1, vd := 4, m := {} }) = true ∧
    issues probe (.icmp { pred := 7, width := .w1, vb := 3, va := 1, cond := 7, pd := 7, m := {} }) = true ∧
    issues probe (.sel { pred := 7, width := .w1, vb := 3, va := 1, vd := 4, m := {} }) = true ∧
    issues probe (.iaddc { pred := 0, width := .w8, vb := 8, va := 16, vd := 24, m := {} }) = true ∧
    issues probe (.fadd { pred := 7, width := .w1, vb := 3, va := 1, vd := 4, m := { rm := .rz } }) = true ∧
    issues probe (.fcmp { pred := 7, width := .w1, vb := 3, va := 1, cond := 0, pd := 0, m := {} }) = true ∧
    issues probe (.frcp { pred := 7, width := .w1, la := 15, va := 1, vd := 2, m := {} }) = true ∧
    issues probe (.rand { pred := 7, width := .w1, la := 0, ka := 3, vd := 6 }) (fun _ c _ w =>
      decide (∀ l ∈ active w c.lanes 7, (w.thr l).rctr + 1 ≠ 0)) = true := by decide +kernel

/-- FloatValueRules: a NaN with a number, infinities, zeros of both signs, a tie. -/
theorem test_premise_values :
    let k : FpCtl := fpCtl 0x1800 {}
    (fpA k .f32 0x7FC00000).isNan = true ∧ (fpA k .f32 0x3F800000).isNan = false ∧ fpA k .f32 0xFF800000 = .inf true ∧
    fpB k .f32 0x7F800000 = .inf false ∧ (fpA k .f32 0x80000000).isZero = true ∧ (fpA k .f32 0x80000000).neg? = true ∧
    (fpA k .f32 0x3F800000).rat < (fpB k .f32 0x40000000).rat ∧ k.sat = false ∧ (5 / 2 : Rat) = (floorNat (5 / 2) : Rat) + 1 / 2 := by
  decide +kernel

/-- SpecialValuesAndClocks: each form of movs; the clocks in both modes. -/
theorem test_premise_special :
    (List.range 6).all (fun b => issues probe (.movs { la := 0, b := BitVec.ofNat 6 b, a := 21, d := 2 })) = true ∧
    issues probe (.time { la := 0, b := 0, a := 0, d := 2 }) (fun s _ t w => !(s.ctxOf t).det && decide (w.lastTime ≤ s.ptime + 16)) = true ∧
    issues (probe (ctx := { det := true })) (.cycles { la := 0, b := 0, a := 0, d := 2 }) (fun s _ t _ => (s.ctxOf t).det) = true ∧
    issues probe (.retired { la := 0, b := 0, a := 0, d := 62 }) = true := by decide +kernel

/-- CrossLaneResults. -/
theorem test_premise_lanes :
    issues probe (.relaySw { la := 0, b := 1, a := 2, d := 3 }) (fun _ _ _ w => decide (0 < w.width)) = true ∧
    issues probe (.relaySwImm { seg := 4, val := 63, a := 2, d := 3 }) = true ∧ issues probe (.pollMask { la := 0, b := 0, a := 7, d := 3 }) = true ∧
    issues probe (.peers { la := 0, b := 0, a := 7, d := 3 }) = true ∧ issues probe (.gred { la := 0, b := 0, a := 7, d := 3 }) = true := by
  decide +kernel

/-- ControlTransfers and HaltingInstructions: a guard true and false, a stack empty, with one entry and full, an odd and an even target. -/
theorem test_premise_control :
    let deep (n : Nat) : State := probe (th := fun th => { th with rstack := List.replicate n 0x10000 })
    let pair (x : Word) : State := probe (warp := fun w => w.setK 2 x)
    issues (deep 15) (.call { off := 4, pred := 7 }) (fun _ c _ w => decide (∀ l ∈ active w c.lanes 7, (w.thr l).rstack.length < 16)) = true ∧
    issues (deep 16) (.call { off := 4, pred := 7 }) (fun _ c _ w =>
      (active w c.lanes 7).find? (fun x => decide (16 ≤ (w.thr x).rstack.length)) == some 0) = true ∧
    issues (deep 1) (.ret { pred := 7 }) (fun _ c _ w => decide (∀ l ∈ active w c.lanes 7, (w.thr l).rstack ≠ [])) = true ∧
    issues probe (.ret { pred := 7 }) (fun _ c _ w => (active w c.lanes 7).find? (fun x => (w.thr x).rstack.isEmpty) == some 0) = true ∧
    issues (pair 0x20000) (.jmp { k := 2, pred := 7 }) (fun _ c _ w => !(w.rkPair 2).getLsbD 0 && decide (active w c.lanes 7 ≠ [])) = true ∧
    issues (pair 0x20001) (.jmp { k := 2, pred := 7 }) (fun _ c _ w => (w.rkPair 2).getLsbD 0 && active w c.lanes 7 == [0]) = true ∧
    issues probe (.jmp { k := 2, pred := 0 }) (fun _ c _ w => active w c.lanes 0 == []) = true ∧
    issues (pair 1) (.loop { off := 0, k := 2, pred := 7 }) (fun _ c _ w => w.rk 2 == 1 && active w c.lanes 7 == [0]) = true ∧
    issues probe (.brx { n := 3, k := 2, pred := 7 }) = true ∧ issues probe (.bra { off := 0, pred := 0 }) = true ∧
    issues probe (.brk { la := 0, b := 0, a := 0, d := 5 }) = true ∧ issues probe (.illegalEncoding .unassignedOp) = true := by decide +kernel

/-- IssueHalts: a register inside its window, and a field that the width forbids. -/
theorem test_premise_issue_halts :
    let s : State := probe (warp := fun w => { w with pend := [{ regs := [.v 3], lanes := [(0, 2)], ready := false }] })
    let i : Instr := .iadd { pred := 7, width := .w1, vb := 3, va := 1, vd := 4, m := {} }
    (s.warp? 1 0).any (fun w => issuable w { team := 1, warp := 0, lanes := [0], pc := 0x10000, words := encode i } &&
      dynDetail w.width 64 false i == none && w.violates 0 (uses w.width i)) = true ∧
    (s.warp? 1 0).any (fun w => (dynDetail w.width 64 false (.relaySwImm { seg := 5, val := 0, a := 2, d := 3 })).isSome) = true := by
  decide +kernel

/-- ExitYieldConverge and IssueAdvances. -/
theorem test_premise_exit :
    issues probe (.exit { pred := 7 }) (fun _ c _ w => decide (active w c.lanes 7 ≠ [])) = true ∧
    issues probe (.yield { la := 0, b := 0, a := 0, d := 0 }) = true ∧
    issues probe (.iadd16 { vb := 1, vd := 2 }) (fun _ c _ w => c.lanes.any (fun l => (w.thr l).wait.isNone)) = true := by decide +kernel

/-! ### Memory and barriers -/

/-- Loads and Stores: the checks pass in every space, at the last word of the scratchpad too. -/
theorem test_premise_accesses :
    let at_ (x : Word) : State := holding (probe (th := fun th => { th with v := [(1, x)] })) []
    let ld : Mem := { pred := 7, hint := 0, size := 0, la := 2, va := 1, vd := 4, off := 0, m := {} }
    let ok (sp : Space) (acc : Acc) (s : State) (c : Ctx) (t : Team) (w : Warp) : Bool :=
      match s.check t (s.ctxOf t) sp acc 4 (laneAddrs sp w (active w c.lanes 7) false 1 0) with
      | .ok ls => ls.length == 1
      | _ => false
    issues (at_ 0x20000) (.ldG { ld with vd := 8 }) (ok .g .read) = true ∧ issues (at_ 65532) (.ldS ld) (ok .s .read) = true ∧
    issues (at_ 65532) (.stS { ld with la := 0 }) (ok .s .write) = true ∧ issues (at_ 4092) (.stL { ld with la := 0 }) (ok .l .write) = true := by
  decide +kernel

/-- AccessHalts: a misaligned lane, and one that ends beyond its space. -/
theorem test_premise_access_halts :
    let at_ (x : Word) : State := probe (th := fun th => { th with v := [(1, x)] })
    let ld : Mem := { pred := 7, hint := 0, size := 0, la := 0, va := 1, vd := 4, off := 0, m := {} }
    let las (w : Warp) (c : Ctx) := laneAddrs .s w (active w c.lanes 7) false 1 0
    issues (at_ 65534) (.ldS ld) (fun _ c _ w => ((las w c).find? (fun q => q.2 % 4 != 0)).isSome) = true ∧
    issues (at_ 66560) (.ldS ld) (fun _ c t w => ((las w c).find? (fun q => q.2 % 4 != 0)).isNone &&
      ((las w c).find? (fun q => decide (Space.s.range t < q.2 + 4))).isSome) = true := by decide +kernel

/-- AtomicInstructions. -/
theorem test_premise_atomics :
    let a : Atom := { pred := 7, kind := 10, la := 0, va := 1, vd := 4, off := 0, m := {} }
    let ok (det : Bool) (s : State) (c : Ctx) (t : Team) (w : Warp) : Bool :=
      (s.ctxOf t).det == det && (match s.check t (s.ctxOf t) .s .write 4 (laneAddrs .s w (active w c.lanes 7) false 1 0) with
      | .ok ls => ls.length == 1
      | _ => false)
    issues probe (.atomS a) (ok false) = true ∧ issues (probe (ctx := { det := true })) (.atomS { a with la := 3 }) (ok true) = true ∧
    issues probe (.redS { a with kind := 0 }) (ok false) = true := by decide +kernel

/-- Synchronisation: a release names a write of its view, and an acquire of the same core covers it. -/
theorem test_premise_sync :
    let s : State := { probe with hist := [{ ser := 1, loc := 8, old := 0, new := 1 }], nextSer := 2 }
    s.named { view := [(8, 1)] } = [(8, 1)] ∧ (Cover.mk .core none).has 8 = true ∧
    canSync .core (.core 0) .core (.core 0) = true ∧ issues probe (.phase { pred := 7, m := {} }) = true ∧
    issues probe (.prefetchG { pred := 7, hint := 0, va := 2, m := {} }) = true := by decide +kernel

/-- The bytes of a barrier object (R224). -/
def barBytes (o : BarObj) : List Byte :=
  [BarField.state, .exp, .left, .resv, .bytes, .stamp].flatMap (fun f => (o.field f).2)

/-- A barrier object at offset 0 of the probe's scratchpad. -/
def withBar (broken : Bool) (phase exp left : Nat) (ctx : TaskCtx := {}) (th : Thread → Thread := id) : State :=
  { probe (ctx := ctx) (th := th) with mem := memPuts [] (atLoc ((probeTeam false).locOf .s 0)
      (barBytes { broken := broken, phase := phase, exp := exp, left := left, resv := 0, bytes := 0, stamp := 0 })) }

/-- Whether k[1] names a sound address of an object that meets q. -/
def barMeets (acc : Acc) (q : BarObj → Bool) (s : State) (_ : Ctx) (t : Team) (w : Warp) : Bool :=
  match s.barAddr t (s.ctxOf t) (w.rk 1) acc with
  | .ok r => !s.bad.contains (r.2 / 64 * 64) && q (s.barRead r.2)
  | .error _ => false

/-- BarrierInstructions and WaitAndTest: sound and broken objects, the last arrival, held updates. -/
theorem test_premise_barriers :
    issues probe (.barinit { b := 0, a := 1, d := 0, imm := 16777215 }) (fun s c t w =>
      barMeets .write (fun _ => !(s.advance c w).barBusy ((probeTeam false).locOf .s 0)) s c t w) = true ∧
    issues (withBar false 5 2 1) (.arrive { b := 0, a := 1, d := 4, m := {} }) (barMeets .write (fun o => !o.broken && !o.bad && o.left == 1)) = true ∧
    issues (withBar false 5 2 2) (.arrive { b := 1, a := 1, d := 4, m := {} }) (barMeets .write (fun o => !o.broken && !o.bad && decide (1 < o.exp))) = true ∧
    issues (withBar false 5 2 2) (.expect { b := 0, a := 1, d := 0, imm := 1 }) (barMeets .write (fun o => !o.broken && !o.bad)) = true ∧
    issues (withBar true 5 2 2) (.arrive { b := 0, a := 1, d := 4, m := {} }) (barMeets .write (fun o => o.broken)) = true ∧
    issues (withBar true 5 2 2) (.expect { b := 0, a := 1, d := 0, imm := 1 }) (barMeets .write (fun o => o.broken)) = true ∧
    issues (withBar false 5 2 2 { det := true }) (.arrive { b := 0, a := 1, d := 4, m := {} }) (barMeets .write (fun _ => true)) = true ∧
    issues (withBar false 5 2 2) (.wait { b := 3, a := 1, d := 4, m := {} }) (barMeets .read (fun o => !o.bad && o.phase != 0)) = true ∧
    issues (withBar false 5 2 2 (th := fun th => { th with v := [(3, 5)] })) (.bartest { b := 3, a := 1, d := 4, m := {} })
      (barMeets .read (fun o => o.phase == 5)) = true := by decide +kernel

/-- BarrierHalts: addresses of no space, misaligned and out of range, with the boundary of each; a count of 0; too many arrivals. -/
theorem test_premise_barrier_halts :
    let t : Team := probeTeam false
    barSpace 0xC0000000 = none ∧ barSpace 31 = some .s ∧ barOff 31 % 32 = 31 ∧ barSpace 66560 = some .s ∧ Space.s.range t < barOff 66560 + 32 ∧
    ¬ Space.s.range t < barOff 66528 + 32 ∧
    issues probe (.barinit { b := 0, a := 1, d := 0, imm := 0 }) (fun s c t w =>
      simmCount { b := 0, a := 1, d := 0, imm := 0 } w == 0 && barMeets .write (fun _ => true) s c t w) = true ∧
    issues (withBar false 5 2 0) (.arrive { b := 0, a := 1, d := 4, m := {} }) (barMeets .write (fun o => o.bad || o.left == 0)) = true ∧
    issues (withBar false 5 1 1) (.arrive { b := 1, a := 1, d := 4, m := {} }) (barMeets .write (fun o => o.exp == 1)) = true ∧
    issues (probe (warp := fun w => w.setK 1 0xC0000000)) (.wait { b := 3, a := 1, d := 4, m := {} }) (fun s _ t w =>
      match s.barAddr t (s.ctxOf t) (w.rk 1) .read with
      | .error _ => true
      | .ok _ => false) = true := by decide +kernel

/-! ### Engines -/

/-- A range of 64 rows of 64 elements of 16 bits. -/
def range64 (n : Nat) : CaskRec := { n := n, base := 8192 * n, rows := 64, klen := 64, rstride := 128, fmt := 1, index := 0 }

/-- MatrixInstructions: a tile that the team has and one it does not; two ranges that fit; a range that is not reserved. -/
theorem test_premise_matrix :
    let s : State := probe (team := fun t => { t with ranges := [some (range64 0), some (range64 1)] ++ List.replicate 6 none })
    issues s (.mma { la := 1, b := 1, a := 0, d := 7 }) (fun _ _ t _ => decide (7 < t.desc.tiles) && t.range? 0 == some (range64 0) &&
      t.range? 1 == some (range64 1) && (pairCap 1 1).any (fun cap => (sumLen (range64 0) (range64 1)).any (fun kp => decide (kp ≤ cap)))) = true ∧
    issues s (.mma { la := 1, b := 2, a := 0, d := 7 }) (fun _ _ t _ => t.range? 2 == none) = true ∧
    issues s (.tzero { la := 0, b := 0, a := 0, d := 8 }) (fun _ _ t _ => decide (t.desc.tiles ≤ 8)) = true ∧
    issues s (.tmovR { la := 0, b := 12, a := 7, d := 3 }) (fun _ _ t w => decide (7 < t.desc.tiles) && w.rk 12 == 0) = true ∧
    issues s (.tld { la := 0, b := 2, a := 4, d := 7 }) = true ∧ issues s (.tst { la := 0, b := 2, a := 4, d := 7 }) = true ∧
    issues s (.gmma { la := 0, b := 2, a := 4, d := 4 }) = true := by decide +kernel

/-- MatrixMoves: a command that has not started, and one that has. -/
theorem test_premise_matrix_moves :
    let s (b : Bool) : State := { probe with matq := [{ id := 9, team := 1, op := .tzero 2, started := b }] }
    ((s false).matHead 0).map (fun m => (m.id, m.started)) = some (9, false) ∧ ((s true).matHead 0).map (fun m => (m.id, m.started)) = some (9, true) ∧
    ((s true).team? 1).isSome = true := by decide +kernel

/-- A copy descriptor of four elements of 4 bytes, from 0x20000 to scratch 64. -/
def copyBytes : List Byte :=
  leBytes 8 0x20000 ++ leBytes 8 64 ++ leBytes 4 (8 + 2 * 64 + 2 * 256) ++ [1, 0xFF, 0, 0] ++ leBytes 4 4 ++ leBytes 20 0 ++
    leBytes 4 1 ++ leBytes 20 0 ++ leBytes 4 1 ++ leBytes 20 0 ++ leBytes 4 0xFFFFFFFF ++ leBytes 28 0

/-- CopyCommands: a record that passes every check. -/
theorem test_premise_copies :
    let s : State := holding (probe (warp := fun w => w.setK 8 0x30000)) [(0x30000, copyBytes)]
    copyBytes.length = 128 ∧ issues s (.cpy { la := 0, b := 0, a := 8, d := 1 }) (fun s c t w =>
      let bs := (s.advance c w).recBytes (s.ctxOf t) c t w 0x30000 128
      let d := copyDesc bs
      (match s.recAt (s.ctxOf t) (w.rkPair 8).toNat 128 with
        | .loc l => l == 0x30000
        | _ => false) && d.src % d.ssize == 0 && d.dst % d.dsize == 0 && copyDescOk bs &&
        copySideOk t d.sspace d.src d.ssize d d.sstr && copySideOk t d.dspace d.dst d.dsize d d.dstr && d.members == 0 && d.bar == none &&
        fieldOf bs 0x68 8 == 0) = true ∧
    issues s (.qfence { la := 0, b := 0, a := 0, d := 15 }) = true := by decide +kernel

/-- CopyLandings: the last element of a copy, read from memory into the scratchpad; a row of a gather. -/
theorem test_premise_landings :
    let s : State := holding probe []
    let d : CopyDesc := { src := 0x20000, dst := 64, sspace := 0, dspace := 1, ssize := 4, dsize := 4, ext := [1, 0, 0, 0, 0, 0], sstr := [1], dstr := [1] }
    let t : Team := s.teams.headD {}
    let is (e : EngAt) (x : Nat) : Bool := match e with
      | .loc l => l == x
      | _ => false
    d.total = 1 ∧ is (s.engAt t (s.ctxOf t) 0 (d.srcAddr 0) 4 .read) 0x20000 = true ∧
    is (s.engAt t (s.ctxOf t) 1 (d.dstAddr 0) 4 .write) ((probeTeam false).locOf .s 64) = true ∧ (s.ctxOf t).det = false ∧ t.st = .resident := by
  decide +kernel

/-- A Cask record at 0x30000: 64 rows of 64 16-bit elements at Cask 0. -/
def caskBytes : List Byte :=
  leBytes 4 0 ++ leBytes 2 64 ++ leBytes 2 64 ++ leBytes 4 128 ++ [1, 0, 0, 0] ++ leBytes 4 0xFFFFFFFF ++ leBytes 4 0xFFFFFFFF ++
    leBytes 4 0xFFFFFFFF ++ leBytes 4 0

/-- A publication's record: two rows of 64 bytes, one chunk. -/
def pubBytes : List Byte := leBytes 8 0x20000 ++ leBytes 4 128 ++ leBytes 4 64 ++ leBytes 2 2 ++ leBytes 2 64 ++ leBytes 2 1 ++ leBytes 2 0 ++
    leBytes 4 0xFFFFFFFF ++ leBytes 4 0

/-- CaskAndStreamCommands: records that pass. -/
theorem test_premise_streams :
    let s (bs : List Byte) : State := holding (probe (team := fun t => { t with ranges := List.replicate 8 none })
      (warp := fun w => (w.setK 8 0x30000).setK 6 1)) [(0x30000, bs)]
    let found (s : State) (t : Team) (w : Warp) : Bool := match s.recAt (s.ctxOf t) (w.rkPair 8).toNat 32 with
      | .loc l => l == 0x30000
      | _ => false
    issues (s caskBytes) (.caskres { la := 0, b := 0, a := 8, d := 7 }) (fun s c t w =>
      let bs := (locRange 0x30000 32).map (s.rdThr w (w.thr (c.lanes.headD 0)))
      found s t w && caskRecOk bs (caskRecOf 7 bs t.rdCask) t.desc.cask t.rdCask && decide (7 < t.ranges.length)) = true ∧
    issues (s pubBytes) (.opub { la := 0, b := 6, a := 8, d := 4 }) (fun s c t w =>
      let bs := (s.advance c w).recBytes (s.ctxOf t) c t w 0x30000 32
      found s t w && w.rk 4 == 0 && w.rk 6 == 1 && fieldOf bs 0x10 2 == 2 && fieldOf bs 0x12 2 == 64 && fieldOf bs 0x14 2 == 1 &&
        fieldOf bs 0x18 4 == 0xFFFFFFFF && fieldOf bs 0x1C 4 == 0 && s.spubs.isEmpty) = true ∧
    issues (s []) (.osub { la := 0, b := 7, a := 2, d := 5 }) = true := by decide +kernel

/-- A kernel descriptor: 16-wide, 8 registers, one thread. -/
def kdescBytes : List Byte :=
  leBytes 8 128 ++ [16, 8, 0, 0] ++ leBytes 2 0 ++ leBytes 2 0 ++ leBytes 4 1024 ++ leBytes 8 0 ++ leBytes 2 1 ++ leBytes 2 1 ++ leBytes 2 1 ++
    [0, 0, 1, 0, 0, 0] ++ leBytes 4 64 ++ leBytes 84 0

/-- LaunchesAndAgents: a sound launch record with room in the queue and without, and the agent's claims. -/
theorem test_premise_launch :
    let rec_ : List Byte := leBytes 8 0x40000 ++ leBytes 8 0 ++ leBytes 4 1 ++ leBytes 2 1 ++ leBytes 2 1 ++ leBytes 4 0xFFFFFFFF ++ leBytes 36 0
    let s : State := holding (probe (warp := fun w => w.setK 8 0x30000)) [(0x30000, rec_), (0x40000, kdescBytes)]
    kdescBytes.length = 128 ∧ issues s (.launch { la := 0, b := 0, a := 8, d := 2 }) (fun s c t w =>
      match (s.advance c w).kdescAt (s.ctxOf t) w 0 0x40000 with
      | .ok d v => (launchEntry (s.advance c w) t (s.ctxOf t) ((s.advance c w).rdRec w 0 0x30000 64) d v).isSome && decide (t.launchQ.length < 4)
      | _ => false) = true ∧
    issues (probe (team := fun t => { t with agent := true })) (.agClaim { la := 0, b := 0, a := 2, d := 1 }) = true ∧
    issues (probe (team := fun t => { t with agent := true })) (.agEnd { la := 0, b := 0, a := 3, d := 0 }) = true := by decide +kernel

/-- A queue header of capacity 2 at chip scratchpad 0x1000 with a ring at 0x20000. -/
def withQ (head tail : Nat) (closed : Bool) : State :=
  holding (probe (warp := fun w => w.setK 6 0x80001000)) [(locChip 0x1000,
    barBytes { broken := false, phase := 1, exp := 1, left := 1, resv := 0, bytes := 0, stamp := 0 } ++ leBytes 8 0x20000 ++ leBytes 4 head ++
      leBytes 4 tail ++ leBytes 4 2 ++ leBytes 4 (if closed then 1 else 0) ++ leBytes 8 0)]

/-- Queues: with room, full, closed, and empty; HEAD and TAIL at their wrap. -/
theorem test_premise_queues :
    let push : Instr := .qpush { la := 0, b := 8, a := 6, d := 2 }
    let pop : Instr := .qpop { la := 2, b := 3, a := 6, d := 8 }
    let ok (q : QHdr → Bool) (acc : Acc) (n : QHdr → Nat) (s : State) (c : Ctx) (t : Team) (w : Warp) : Bool :=
      let h := s.qRead (locChip 0x1000)
      (w.rk 6).toNat / 2 ^ 30 == 2 && barOff (w.rk 6) == 0x1000 && s.chipProt (s.ctxOf t) t.agent 0x1000 .write == none && q h && c.lanes == [0] &&
        (match qRecLocs s (s.ctxOf t) (locChip 0x1000) h acc (n h) 1 with
         | .ok [_] => true
         | _ => false)
    issues (withQ 0xFFFFFFFF 0 false) push (ok (fun q => q.pushStatus == none && decide (q.count < q.cap)) .write QHdr.tail) = true ∧
    issues (withQ 0xFFFFFFFF 1 false) push (ok (fun q => q.pushStatus == some 1) .write QHdr.tail) = true ∧
    issues (withQ 0 0 true) push (ok (fun q => q.pushStatus == some 3) .write QHdr.tail) = true ∧
    issues (withQ 0xFFFFFFFF 0 false) pop (ok (fun q => decide (q.count ≠ 0)) .read QHdr.head) = true ∧
    issues (withQ 3 3 true) pop (ok (fun q => q.count == 0 && q.closed) .read QHdr.head) = true ∧
    issues (withQ 3 3 false) pop (ok (fun q => q.count == 0 && !q.closed && !q.bar.broken) .read QHdr.head) = true := by decide +kernel

/-- StreamRegisters: a receive stream bound and not, of each direction. -/
theorem test_premise_sq :
    let s (q : Option SqBind) : State := { probe (warp := fun w => { w.setK 4 63 with sq := KV.put none 1 q w.sq }) with streams := [{ id := 63 }] }
    issues (s none) (.sqbind { la := 0, b := 5, a := 4, d := 1 }) (fun s _ _ w => w.rk 4 == 63 && (s.stream? 63).isSome) = true ∧
    issues (s none) (.sqrd { la := 2, b := 3, a := 1, d := 8 }) (fun _ _ _ w => w.sqAt 1 == none) = true ∧
    issues (s (some ⟨64, 0⟩)) (.sqrd { la := 2, b := 3, a := 1, d := 8 }) (fun _ _ _ w => w.sqAt 1 == some ⟨64, 0⟩) = true ∧
    issues (s (some ⟨63, 0⟩)) (.sqwr { la := 0, b := 3, a := 8, d := 1 }) (fun s c _ w => w.sqAt 1 == some ⟨63, 0⟩ &&
      decide (∀ x ∈ c.lanes, (s.pixFmt 63).w ≤ ((w.thr x).rv 3).toNat % 65536)) = true ∧
    issues (s none) (.sqrel { la := 0, b := 0, a := 0, d := 1 }) = true := by decide +kernel

/-- Rays: the states of a query, and flags that rayq accepts. -/
theorem test_premise_rays :
    let s (st : RayState) : State := probe (th := fun th => { th with rq := { th.rq with st := st } })
    let is (st : RayState) (_ : State) (c : Ctx) (_ : Team) (w : Warp) : Bool := decide (∀ l ∈ c.lanes, (w.thr l).rq.st = st)
    issues (s .ask) (.rayacc { la := 0, b := 0, a := 0, d := 0 }) (is .ask) = true ∧ issues (s .told) (.rayend { la := 0, b := 0, a := 0, d := 0 }) (is .told) = true ∧
    issues (s .ask) (.rayrd { la := 0, b := 0, a := 5, d := 3 }) (is .ask) = true ∧ issues (s .done) (.rayrd { la := 0, b := 1, a := 5, d := 3 }) (is .done) = true ∧
    issues (s .run) (.raynext { la := 2, b := 0, a := 0, d := 2 }) (fun x c t w => is .run x c t w && x.bad == []) = true ∧
    issues (probe (warp := fun w => w.setK 6 0xFFFFFFFF)) (.rtinv { la := 0, b := 0, a := 6, d := 0 }) (fun _ _ _ w => w.rk 6 == 0xFFFFFFFF) = true ∧
    issues (holding (probe (warp := fun w => w.setK 4 0x30000)) [(0x30000, leBytes 12 0 ++ [2, 0, 0, 0])]) (.rayq { la := 2, b := 4, a := 8, d := 2 })
      (fun s _ t w => match s.recAt (s.ctxOf t) (w.rkPair 4).toNat 128 with
        | .loc l => l == 0x30000 && s.bad == [] && hdrOk ((locRange l 128).map (s.rdThr w (w.thr 0)))
        | _ => false) = true := by decide +kernel

/-- Textures: a linear 4 by 4 texture. -/
theorem test_premise_textures :
    let bs : List Byte := leBytes 8 0x50000 ++ leBytes 2 4 ++ leBytes 2 4 ++ [0, 0, 0, 0] ++ leBytes 4 16 ++ leBytes 44 0
    let s : State := holding (probe (warp := fun w => w.setK 4 0x30000)) [(0x30000, bs)]
    let ok (s : State) (c : Ctx) (t : Team) (w : Warp) : Bool := (match s.recAt (s.ctxOf t) (w.rkPair 4).toNat 64 with
      | .loc l => l == 0x30000
      | _ => false) && decide (∀ l ∈ c.lanes, texDescOk (laneDesc s w l 0x30000) = true)
    issues s (.texq { la := 0, b := 4, a := 0, d := 2 }) ok = true ∧ issues s (.texld { la := 0, b := 4, a := 1, d := 8, pre := 0 }) (fun s c t w => ok s c t w &&
      (match texStops s (s.ctxOf t) 0 (texDesc (laneDesc s w 0 0x30000)) [texldAt (texDesc (laneDesc s w 0 0x30000)) ((w.thr 0).rv 1) 0] with
       | .ok _ => true
       | _ => false)) = true ∧
    issues s (.tex { la := 0, b := 4, a := 2, d := 8 }) ok = true ∧ issues s (.texfb { la := 0, b := 4, a := 2, d := 0 }) ok = true := by decide +kernel

/-- RasterInstructions: teams of each kind. -/
theorem test_premise_raster :
    let s (kind : Nat) : State := probe (team := fun t => { t with desc := { t.desc with kind := kind } })
    issues (s 1) (.emitv { la := 0, b := 8, a := 4, d := 2 }) (fun _ c t w => t.desc.kind == 1 && decide (w.verts.length + c.lanes.length ≤ 1024)) = true ∧
    issues (s 0) (.emitp { la := 0, b := 0, a := 4, d := 2 }) (fun _ _ t _ => t.desc.kind != 1) = true ∧
    issues (s 2) (.pixout { la := 0, b := 0, a := 4, d := 0 }) (fun _ c t w => t.desc.kind == 2 && decide (∀ l ∈ pixLanes t w c.lanes, (w.thr l).pixDone = false)) = true ∧
    issues (s 2) (.pixlock { la := 0, b := 0, a := 0, d := 0 }) = true ∧ issues (s 2) (.discard { la := 0, b := 0, a := 0, d := 0 }) = true := by decide +kernel

/-! ### Steps, the task window and the stream -/

/-- A running stream with room for a task at its decode address, whose record is t. -/
def withTask (w : List Word) (win : Window → Window := id) : State :=
  { State.reset with
    mem := memPuts [] (atLoc 0x10000 (w.flatMap wordBytes))
    win := win { st := .running, enable := true, base := 0x10000, dpc := 0x10000, tail := 1 } }

/-- StepRunsDecodedBundle and StepRunsDecodedTask: what step fetches is what stands there. -/
theorem test_premise_step :
    let s : State := { holding probe [(0x10000, wordBytes 0x20C121DD)] with focus := some (0, 0) }
    (match s.pick 0 0 with
     | some c => c.team == 1 && c.pc == 0x10000 && (match s.fetchHalf (s.ctxOf (s.teams.headD {})) c.pc,
         s.fetchHalf (s.ctxOf (s.teams.headD {})) (c.pc + 2) with
       | .ok a, .ok b => (decode [a, b]).1 == .ok (.sqrd { la := 2, b := 3, a := 1, d := 8 })
       | _, _ => false)
     | none => false) = true ∧
    (let t : State := withTask [0x80000000, 0, 0, 0, 0, 0, 0, 0]
     t.inbox = [] ∧ t.focus = none ∧ t.readyPend = none ∧ t.win.canDecode = true ∧ physOk t.win.dpc = true) := by decide +kernel

/-- StepKeepsMemoryCanonical: a step that answers a next state. -/
theorem test_premise_next : nexts (step (withTask [0, 0xFFFFFFFF, 0xFFFFFFFF, 0, 0, 0, 0, 0])) (fun s => s.win.entries.length == 1) = true := by decide +kernel

/-- TaskDecodes: t.nop, t.halt, t.call below the stack's limit and t.ret above its bottom enter the window. -/
theorem test_premise_tasks :
    let ok (op : Word) (win : Window → Window) (n : Nat) : Bool := nexts (step (withTask [op, 0xFFFFFFFF, 0xFFFFFFFF, 0, 0x20000, 0, 0, 0] win)) (fun s =>
      s.win.entries.length == 1 && s.win.entries.all (fun e => e.fault.isNone) && s.win.dpc == n)
    nexts (step (withTask [0, 0xFFFFFFFF, 0xFFFFFFFF, 0, 0, 0, 0, 0])) (fun s => s.win.entries.all (fun e => e.fault.isNone && e.done)) = true ∧
    nexts (step (withTask [1, 0xFFFFFFFF, 0xFFFFFFFF, 0, 0, 0, 0, 0])) (fun s => s.win.stopped && s.win.entries.all (fun e => e.fault.isNone)) = true ∧
    ok 4 (fun w => { w with stack := List.replicate 7 0x30000 }) 0x20000 = true ∧
    nexts (step (withTask [5, 0xFFFFFFFF, 0xFFFFFFFF, 0, 0, 0, 0, 0] (fun w => { w with stack := [0x30000] }))) (fun s => s.win.dpc == 0x30000 && s.win.stack.isEmpty) = true := by
  decide +kernel

/-- TaskFaults: an illegal opcode, a region that is not installed, a full and an empty call stack. -/
theorem test_premise_task_faults :
    let fault (ws : List Word) (win : Window → Window) : Option (Nat × Word) := match step (withTask ws win) with
      | .next s => (s.win.entries.head?).bind Entry.fault
      | _ => none
    fault [0x06, 0xFFFFFFFF, 0xFFFFFFFF, 0, 0, 0, 0, 0] id = some (1, 1) ∧ fault [0x00070000, 0xFFFFFFFF, 0xFFFFFFFF, 0, 0, 0, 0, 0] id = some (4, 7) ∧
    fault [4, 0xFFFFFFFF, 0xFFFFFFFF, 0, 0x20000, 0, 0, 0] (fun w => { w with stack := List.replicate 8 0x30000 }) = some (11, 8) ∧
    fault [5, 0xFFFFFFFF, 0xFFFFFFFF, 0, 0, 0, 0, 0] id = some (11, 0) := by decide +kernel

/-- A task record of an opcode, and an entry of it. -/
def taskWith (op : Byte) (pa : Nat := 0) : TaskRec :=
  { region := 0, resv := 0, det := false, xov := false, opq := false, eff := false, shed := false, opcode := op, bufs := 0, w2 := 0, imm := 0,
    pa := BitVec.ofNat 64 pa, pb := 0 }
def withEntry (op : Byte) (f : Entry → Entry) (win : Window → Window := id) : State :=
  { State.reset with regions := [{ Region.boot with root := 0x1000 }], mem := memPuts [] (atLoc 0x1000 (leBytes 8 0x2001) ++ atLoc 0x2000 (leBytes 8 0xF)), win := win { st := .running, enable := true, entries := [f { task := taskWith op 0x20000 }] } }

/-- TaskWindowMoves: no ready task, a ready t.fence and t.sig, an issued t.fence, t.wait and t.kern; a free buffer to take. -/
theorem test_premise_window :
    State.reset.readyTasks = [] ∧ (withEntry 2 id).readyTasks.map (fun e => e.task.opcode) = [2] ∧
    (withEntry 0x38 id).readyTasks.length = 1 ∧
    (match (withEntry 0x38 id).tr {} 0x20000 .write with
     | .ok pa => pa == 0x20000
     | _ => false) = true ∧
    ((withEntry 2 (fun e => { e with issued := true })).entry? 0).map (fun e => (e.issued, e.done)) = some (true, false) ∧
    (match (withEntry 0x39 (fun e => { e with issued := true })).taskAt {} 0x20000 .read with
     | .loc l => l == 0x20000
     | _ => false) = true ∧
    (let e : Entry := { task := { taskWith 0x10 with bufs := 0x8000 } }
     let s : State := { State.reset with win := { cls := [(0, some 0)], free := [[3], [], [], [], [], []] } }
     s.win.clsOf 0 = some 0 ∧ s.win.free.getD 0 [] = [3] ∧ s.poolRefuses e.ctx.region 0 = none) := by decide +kernel

/-- TaskRetirement: a completed head without a fault, with one, and a t.halt. -/
theorem test_premise_retire :
    ((withEntry 0 (fun e => { e with done := true })).win.entries.head?).map (fun e => (e.done, e.fault)) = some (true, none) ∧
    ((withEntry 0 (fun e => { e with done := true, fault := some (8, 3) })).win.entries.head?).map (fun e => e.fault) = some (some (8, 3)) ∧
    ((withEntry 1 (fun e => { e with done := true })).win.entries.head?).map (fun e => e.task.opcode) = some 1 := by decide +kernel

/-- StreamControl: the states that its clauses name. -/
theorem test_premise_stream :
    State.reset.recovering = false ∧ State.reset.win.st = .idle ∧ ((1 : Word).toNat % 8 = 1) ∧ (2 : Word).getLsbD 1 = true ∧ (2 : Word).getLsbD 2 = false ∧
    (4 : Word).getLsbD 2 = true ∧ ({ State.reset with trust := { state := 2 } } : State).recovering = true := by decide +kernel

/-! ### Registers, trust and recovery -/

/-- RegisterAndRegionWrites: REGION_BASE's bits, XOWN's fixed and free granules at their boundaries, a block to synchronise. -/
theorem test_premise_registers :
    let s : State := { State.reset with regionBase := 0x10000, syncId := 1, syncBusy := true, mem := memPuts [] (atLoc (0x10000 + 256) (leBytes 2 1)) }
    State.reset.recovering = false ∧ (0x2000 + 2 * 959 : Nat) < 0x2800 ∧ State.reset.xownOf 959 = 0xFFFF ∧ State.reset.xownOf 960 = 0xFFFE ∧
    State.reset.xownOf 992 = 0xFFFF ∧ State.reset.xownOf 1022 = 0xFFFE ∧ s.syncBusy = true ∧ s.syncBlock.length = 256 := by decide +kernel

/-- HostReadsAndAccesses: the last byte of memory, and one past it. -/
theorem test_premise_host :
    Config.memBytes - 1 + 1 ≤ Config.memBytes ∧ Config.memBytes < Config.memBytes - 1 + 2 ∧ State.reset.bad.contains 0 = false ∧
    (State.reset.bankOf 191).offline = false := by decide +kernel

/-- Resets, FirmwareAndAttestation, ManagementAndDebug: the trust states, and where the house core runs. -/
theorem test_premise_trust :
    let s (n : Nat) : State := { State.reset with trust := { state := n, phase := 3 } }
    (s 2).recovering = true ∧ (s 1).recovering = false ∧ (s 1).houseUp = true ∧ (s 0).houseUp = false ∧ (s 1).trust.meas.length = 8 ∧
    fieldOf [0x4B, 0x39, 0x46, 0x57] 0 4 = 0x5746394B ∧ fieldOf [] 0 4 ≠ 0x5746394B := by decide +kernel

/-- HaltedWarpCommandsAndKills: a command on an agent's ID, on no warp's, and on a halted warp. -/
theorem test_premise_halted :
    let s (id : Half) : State := { probe (warp := fun w => { w with halt := some { cause := 7, pc := 0x10000, group := [0], words := [0#16], id := 5 } }) with
      rcv := { haltBusy := true, haltOp := 2, haltId := id } }
    ((s 5).haltedWarp 5).map (fun p => (p.1.id, p.2.idx)) = some (1, 0) ∧ (s 6).haltedWarp 6 = none ∧ (0x8000 : Half).getLsbD 15 = true ∧
    (5 : Half).getLsbD 15 = false ∧ ((s 5).warp? 1 0).isSome = true := by decide +kernel

/-- RecoveryAndErrors: an object in chip scratchpad, a staged record, a held halt record with room, an open log record, a stalled
thread. -/
theorem test_premise_recovery :
    let s : State := { probe (warp := fun w => { w with log := some { kind := 1, cause := 0, count := 1, pc := 0, lane := 0, opened := 0 } })
        (th := fun th => { th with wait := some { on := .page [(0, 0, 0)] } }) with
      now := 64000, trust := { state := 1 }, rcv := { staging := [{ kind := 6 }], haltBase := 0x10000, heldHalts := [leBytes 64 0], pageTo := 1 } }
    barSpace 0x80000020 = some .x ∧ barOff 0x80000020 % 32 = 0 ∧ barOff 0x80000020 + 32 ≤ Config.chipBytes ∧ s.houseUp = true ∧
    ctrDiff s.rcv.haltTail.toNat s.rcv.haltHead.toNat < 1024 ∧ (s.rcv.heldHalts.headD []).length = 64 ∧
    ((s.warp? 1 0).bind Warp.log).map (fun o => decide (o.opened + 64000 ≤ s.now)) = some true ∧
    ((s.warp? 1 0).bind (fun w => (w.thr 0).wait)).map (fun x => decide (x.since + 1000 * s.rcv.pageTo < s.now)) = some true := by decide +kernel

/-- PagingService: an entry whose leaf asks for a page, with memory left. -/
theorem test_premise_paging :
    let s : State := { State.reset with trust := { state := 1 }, rcv := { paging := true }, fq := { base := 0x20000, tail := 1, next := 0x100000, lim := 0x200000 }, mem := memPuts [] (atLoc 0x20008 (leBytes 8 0x3000) ++ atLoc 0x3000 (leBytes 8 0x8000000000000000)) }
    s.houseUp = true ∧ s.fq.head ≠ s.fq.tail ∧ s.fqAddr 0 = 0x20000 ∧ s.rdPhys (0x20008) 8 = 0x3000 ∧ s.rdPhys 0x3000 8 = 0x8000000000000000 ∧
    s.memRefuses 0 4096 = none := by decide +kernel

/-! ### Media, the Almanac, the scheduler, collectives -/

/-- PtpMoves: the servo on its port, with a master and the times of a delay. -/
theorem test_premise_ptp :
    let s : State := { State.reset with trust := { state := 1 }, servo := { enable := true, t1 := some 5, t3 := some 6, gm := some { priority1 := 0, clockClass := 0, accuracy := 0, variance := 0, priority2 := 0, identity := 1, stepsRemoved := 0 } } }
    s.ptpOn 0 127 = true ∧ s.servo.gm.isSome = true ∧ s.servo.t3 = some 6 := by decide +kernel

/-- FrameAndReceiveMoves: a frame table with an OPEN frame whose deadline has come, a transmission, and a receive stream. -/
theorem test_premise_media :
    let s : State := { State.reset with tables := true, frameBase := 0x40000, streamBase := 0x80000, ptime := 10, streams := [{ id := 0 }], txs := [{ frame := 1, stream := 64, image := none, stop := 5 }] }
    s.tables = true ∧ s.frameDl 0 ≤ s.ptime ∧ s.frameDone 0 = false ∧ s.frameSt 0 = 0 ∧ (s.stream? 0).isSome = true ∧
    s.streamField 0 4 1 < 3 ∧ (s.txs.find? (fun x => x.frame == 1)).isSome = true ∧ s.stream? 1 = none := by decide +kernel

/-- AlmanacAndPowerMoves: a cycle start that is due and one that is not; samples at the limit, above it and below 95% of it. -/
theorem test_premise_almanac :
    State.reset.alm.epoch.toNat ≤ State.reset.ptime ∧
    (let s : State := { State.reset with alm := { cycleAt := some 0, opened := [(3, (0, 10, 3))] }, ptime := 10 }
     ¬ (0 + s.alm.lCycle ≤ s.ptime ∨ s.ptime < 0) ∧ (KV.get (0, 0, 0) 3 s.alm.opened).2.1 ≠ 0 ∧ 0 + 10 ≤ s.ptime) ∧
    (560 : Nat) < 561 ∧ (531 * 100 : Nat) < 560 * 95 ∧ ¬ (532 * 100 : Nat) < 560 * 95 := by decide +kernel

/-- WaveAndTeamMoves: nothing to place; a team that is over, one that is not; a grid that is over. -/
theorem test_premise_sched :
    State.reset.placeList = [] ∧ (let s : State := probe
      (s.teams.map (fun t => s.teamOver t) = [false]) ∧ (s.grids.map (fun g => s.gridOver g) = [false])) ∧
    (let s : State := probe (th := fun th => { th with exited := true })
     s.teams.map (fun t => s.teamOver t) = [true]) ∧
    (let s : State := { probe with teams := [], grids := [{ id := 1, nWaves := 1, placed := 1 }] }
     s.grids.map (fun g => s.gridOver g) = [true]) ∧ (probe.childGrids < 1024) := by decide +kernel

/-- RoundMoves: a warp of a deterministic team that has retired its quantum, and a pending result that is ready. -/
theorem test_premise_rounds :
    let s : State := probe (ctx := { det := true }) (warp := fun w => { w with retired := 65536, pend := [{ regs := [.v 1], writes := [(0, [(.v 1, 7)])] }] })
    (s.teams.map (fun t => (s.ctxOf t).det) = [true]) ∧ s.quantumOf 0 ≤ 65536 ∧
    ((s.warp? 1 0).bind (fun w => w.pend[0]?)).map (fun p => (p.ready, p.done)) = some (true, false) := by decide +kernel

/-- RasterMoves: a pass whose geometry has ended with a primitive to rasterise, and one with everything applied. -/
theorem test_premise_pass :
    let p (d : Bool) : Pass := { id := 4, seq := 0, ctx := {}, grid := 1, geomEnded := true, prims := [{ key := [0], v := [], pid := 0, done := d }], pixels := [{ key := [0], x := 1, y := 2, z := 0, colour := some none }] }
    let s (d : Bool) : State := { probe with passes := [p d] }
    ((s false).pass? 4).map (fun p => (p.geomEnded, p.prims.any (fun q => !q.done))) = some (true, true) ∧
    ((p true).nextAt 1 2).map (fun r => r.colour) = some (some none) ∧ (s true).settled (p true) [0] = true ∧ ((s true).grid? 1).isSome = true := by
  decide +kernel

/-- Collectives: an instance that waits for its set, a chunk it expects, a free slot, and a deadline that has passed. -/
theorem test_premise_collectives :
    let c : Coll := { id := 2, seq := 0, group := 7, tag := 9, ctx := {}, op := 0, rank := 1, size := 4, count := 16, sentArr := true, deadline := some 0 }
    let s : State := { State.reset with colls := [c], ptime := 1000000 }
    (s.collAt 7 9).map Coll.id = some 2 ∧ (s.coll? 2).map Coll.id = some 2 ∧ c.isRoot = false ∧ c.expects 0 = true ∧ s.freeSlot = some 0 ∧
    s.collAt 7 8 = none ∧ c.closed = false ∧ c.status = none := by decide +kernel

/-! ### Further premises of statements with several clauses -/

/-- ExitYieldConverge: a mask without the lane's own bit, a participant that has not come, all of them there, and every thread
held elsewhere. -/
theorem test_premise_converge :
    let s (f : Thread → Thread) : State :=
      probe (warp := fun w => { w with threads := w.threads.take 1 ++ (w.threads.take 1).map f })
    let o : SOp := { la := 0, b := 0, a := 2, d := 0 }
    let none_ (w : Warp) : Bool := (List.range w.width).all (fun j => !w.convDone j)
    let full (c : Ctx) (w : Warp) : Bool := (List.range w.width).all (fun j =>
      !(w.thr j).live || (w.thr j).exited || c.lanes.contains j || (w.thr j).heldAt c.pc.toNat)
    issues (s id) (.converge { o with d := 1 }) (fun _ c _ w => c.lanes.find? (convBad w c.pc.toNat (convMask w { o with d := 1 })) == some 0) = true ∧
    issues (s id) (.converge o) (fun _ c _ w => c.lanes.all (fun l => !convBad w c.pc.toNat (convMask w o) l) && none_ w && !full c w &&
      (w.thr 1).live && !(w.thr 1).exited && (w.thr 1).conv == none) = true ∧
    issues (s (fun th => { th with conv := some (0x10000, none) })) (.converge o) (fun _ c _ w =>
      c.lanes.all (fun l => !convBad w c.pc.toNat (convMask w o) l) && none_ w && full c w) = true ∧
    issues (s (fun th => { th with conv := some (0x20000, none) })) (.converge o) (fun _ c _ w =>
      c.lanes.all (fun l => !convBad w c.pc.toNat (convMask w o) l) && none_ w && !full c w && (w.thr 1).conv.isSome) = true ∧
    issues probe (.exit { pred := 7 }) (fun _ _ t w => t.job == none && w.pend == [] && w.log == none && (w.thr 0).conv == none) = true := by
  decide +kernel

/-- CopyCommands: a multicast to three of a gang's four members, and a copy with a follow-on product. -/
theorem test_premise_copy_forms :
    let gang : Team → Team := fun t => { t with ranges := [some (range64 0), some (range64 1)] ++ List.replicate 6 none,
                                                desc := { t.desc with gangX := 2, gangY := 2 } }
    let mcBytes : List Byte := leBytes 8 0x20000 ++ leBytes 8 64 ++ leBytes 4 (8 + 2 * 64 + 2 * 256) ++ [1, 0xFF, 0, 0] ++ leBytes 4 4 ++ leBytes 20 0 ++
      leBytes 4 1 ++ leBytes 20 0 ++ leBytes 4 1 ++ leBytes 20 0 ++ leBytes 4 96 ++ leBytes 2 7 ++ leBytes 26 0
    let mmBytes : List Byte := leBytes 8 0x20000 ++ leBytes 8 64 ++ leBytes 4 (4 * 8 + 2 * 64 + 2 * 256) ++ [1, 0xFF, 0, 0] ++ leBytes 4 4 ++ leBytes 20 0 ++
      leBytes 4 1 ++ leBytes 20 0 ++ leBytes 4 1 ++ leBytes 20 0 ++ leBytes 4 0xFFFFFFFF ++ leBytes 4 0 ++ leBytes 8 0x40000 ++ leBytes 16 0
    let word := (encode (.mma { la := 0, b := 1, a := 0, d := 7 })).flatMap (fun h => leBytes 2 h.toNat)
    let s (bs : List Byte) : State := holding (probe (team := gang) (warp := fun w => w.setK 8 0x30000)) [(0x30000, bs), (0x40000, word ++ leBytes 12 0)]
    let sound (s : State) (t : Team) (w : Warp) (d : CopyDesc) (bs : List Byte) : Bool :=
      (match s.recAt (s.ctxOf t) (w.rkPair 8).toNat 128 with
        | .loc l => l == 0x30000
        | _ => false) && d.src % d.ssize == 0 && d.dst % d.dsize == 0 && copyDescOk bs &&
        copySideOk t d.sspace d.src d.ssize d d.sstr && copySideOk t d.dspace d.dst d.dsize d d.dstr
    mcBytes.length = 128 ∧ mmBytes.length = 128 ∧ word.length = 4 ∧
    issues (s mcBytes) (.cpyMc { la := 0, b := 0, a := 8, d := 1 }) (fun s c t w =>
      let bs := (s.advance c w).recBytes (s.ctxOf t) c t w 0x30000 128
      let d := copyDesc bs
      sound s t w d bs && d.dspace == 1 && d.members == 7 && d.bar == some 96 &&
        (match s.barAddr t (s.ctxOf t) 96 .write with
         | .ok r => r.1 == .s
         | .error _ => false)) = true ∧
    issues (s mmBytes) (.cpyMm { la := 0, b := 0, a := 8, d := 1 }) (fun s c t w =>
      let bs := (s.advance c w).recBytes (s.ctxOf t) c t w 0x30000 128
      let d := copyDesc bs
      sound s t w d bs && d.dspace == 4 && d.members == 0 && d.bar == none && fieldOf bs 0x68 8 == 0x40000 &&
        (match s.recAt (s.ctxOf t) 0x40000 16 with
         | .loc l => l == 0x40000
         | _ => false) && (decode (halvesOf (BitVec.ofNat 32 (fieldOf ((s.advance c w).recBytes (s.ctxOf t) c t w 0x40000 16) 0 4)))).1 ==
          .ok (.mma { la := 0, b := 1, a := 0, d := 7 })) = true := by decide +kernel

/-- LaunchesAndAgents: lanes that wake from a full queue, a continuation, and the agent's orders on teams in each state. -/
theorem test_premise_agents :
    let woken : State := probe (th := fun th => { th with wait := some { on := .launchQ 1 {}, woken := some true } })
    let pkt : State := holding (probe (warp := fun w => w.setK 8 0x30000)) [(0x30000, leBytes 8 0x40000 ++ leBytes 24 0), (0x40000, kdescBytes)]
    let ag (u : Team) : State :=
      let s : State := probe (team := fun t => { t with agent := true })
      { s with teams := s.teams ++ [u], waves := [{ id := 3, recIdx := 2, cores := [0] }] }
    let u (st : TeamSt) : Team := { probeTeam false with id := 2, handle := 5, wave := 3, pos := 6, st := st }
    issues woken (.launch { la := 0, b := 0, a := 8, d := 2 }) (fun _ c t w =>
      decide (∀ x ∈ c.lanes, (w.thr x).launchRec = some {}) && decide (t.launchQ.length < 4)) = true ∧
    issues pkt (.cont { la := 0, b := 0, a := 8, d := 0 }) (fun s c t w =>
      match (s.advance c w).kdescAt (s.ctxOf t) w 0 0x40000 with
      | .ok d v => v && contBad { t with desc := d } (leBytes 8 0x40000 ++ leBytes 24 0) 0x30000 d v == none
      | _ => false) = true ∧
    ((ag (u .claimed)).reservation 0 (recOff 2) 6).map Team.id = some 2 ∧ ((ag (u .ended)).byHandle 0 5).map Team.st = some .ended ∧
    ((ag (u .halted)).byHandle 0 5).map Team.st = some .halted ∧
    issues (ag (u .halted)) (.agSave { la := 0, b := 6, a := 3, d := 5 }) (fun s _ _ _ => s.teams.all (fun x => (s.scratchErr x).isNone)) = true ∧ issues (ag (u .claimed)) (.agInst { la := 0, b := 4, a := 1, d := 3 }) = true := by
  decide +kernel

/-- TaskFaults: a decode address that reaches nothing, at the first byte past memory. -/
theorem test_premise_unreachable :
    let s : State := { State.reset with win := { st := .running, enable := true, base := Config.memBytes, dpc := Config.memBytes, tail := 1 } }
    s.win.canDecode = true ∧ s.bad.contains (s.win.dpc / 64 * 64) = false ∧ physOk s.win.dpc = false ∧ physOk (s.win.dpc - 32) = true := by decide +kernel

/-- A record of a receive stream on both ports, at 0x80000: 16 by 8 pixels of RGB of 8 bits, one band. -/
def rxRecord : List (Nat × Byte) :=
  atLoc 0x80000 (leBytes 2 16 ++ leBytes 2 8) ++ atLoc 0x80008 (leBytes 8 0x50000) ++ atLoc 0x80014 [2, 8, 4] ++ atLoc 0x80020 (leBytes 4 16666666) ++
    atLoc 0x80024 (leBytes 2 1) ++ atLoc 0x80040 (leBytes 4 0xE0000001) ++ atLoc 0x80044 (leBytes 2 5004) ++ atLoc 0x80046 [96] ++
    atLoc 0x80050 (leBytes 4 0xE0000002) ++ atLoc 0x80054 (leBytes 2 5006)

/-- FrameAndReceiveMoves: a packet on the second port of a DUAL stream, one that is merged, and one of another address. -/
theorem test_premise_receive :
    let s : State := { State.reset with tables := true, streamBase := 0x80000, mem := memPuts [] rxRecord, streams := [{ id := 0, seqs := [7] }] }
    let fd (o n : Nat) : Nat := s.streamField 0 o n
    fd 0x16 1 / 4 % 2 = 1 ∧ fd 0x16 1 % 4 + 1 = 1 ∧ fd 0x50 4 = 0xE0000002 ∧ fd 0x54 2 = 5006 ∧ fd 0x48 4 = 0 ∧ fd 0x4C 4 = 0 ∧ fd 0x46 1 = 96 ∧
    fd 4 1 < 3 ∧ (s.stream? 0).map (fun m => (m.seqs.contains 7, m.seqs.contains 8)) = some (true, false) ∧
    ((s.stream? 0).bind (fun m => m.frameOf (fd 0x20 4) (fd 0x24 2) 90000)) = some 0 ∧ s.rcv.logged = [] ∧ 7 < (s.pixFmt 0).h := by decide +kernel

/-- RegionSynchronisation: block 0 deeper than 7, a block whose parent is not installed, and one below region 0. -/
theorem test_premise_region_blocks :
    let blk (id parent depth : Nat) : List Byte :=
      leBytes 2 id ++ leBytes 2 parent ++ [BitVec.ofNat 8 depth]
    (blockOf (blk 0 0 8 ++ leBytes 251 0)).depth = 8 ∧ State.reset.region? 5 = none ∧ ((State.reset.region? 0).map Region.depth) = some 0 ∧
    (blockOf (blk 1 0 1 ++ leBytes 251 0)).parent = 0 := by decide +kernel

/-- AlmanacAndPowerMoves: a kernel bound to the instance whose work is over when the instance ends. -/
theorem test_premise_instance_end :
    let e : Entry := { task := taskWith 0x10, issued := true, grid := some 9, slot := some { slot := 3, inst := some (0, 10) } }
    let s : State := { State.reset with alm := { opened := [(3, (0, 10, 3))] }, ptime := 10, win := { entries := [e] } }
    (KV.get (0, 0, 0) 3 s.alm.opened).2.1 ≠ 0 ∧ 0 + 10 ≤ s.ptime ∧ e.grid.bind s.grid? = none ∧ s.grids = [] ∧ s.passes = [] ∧ e.done = false ∧
    e.marked = false ∧ e.killed = false := by decide +kernel

/-- WaveAndTeamMoves: a team saved with a thread that is awake, whose core has room. -/
theorem test_premise_restore :
    let s : State := probe (team := fun t => { t with st := .saved, desc := { t.desc with lslice := 0, cask := 0, tiles := 0, scratch := 1024, barriers := 0 } })
    (s.teams.map Team.eligible = [true]) ∧ (s.teams.map (fun t => s.restoreLater t) = [false]) ∧
    (s.teams.map (fun t => s.restoreFits t [] 0) = [true]) ∧ (s.teams.map (fun t => s.restoreFits t [] 192) = [false]) := by decide +kernel

/-- Collectives: arrivals that belong to the instance that ROOT has closed, and one of the next instance. -/
theorem test_premise_kept :
    let k : CollKept := { group := 7, tag := 9, c := 3, digest := 5, timed := true }
    let s : State := { State.reset with collKept := [k] }
    s.collAt 7 9 = none ∧ (s.collKept.find? (fun k => k.group == 7 && k.tag == 9)) = some k ∧ k.root = true ∧ k.c.getLsbD 2 = false ∧
    k.c.getLsbD 1 = true ∧ (5 : DWord) = k.digest ∧ (6 : DWord) ≠ k.digest := by decide +kernel

/-- PtpMoves: a servo without a pending offset that acquires, one with, and a message of another domain. -/
theorem test_premise_ptp_states :
    let gm : GmData := { priority1 := 0, clockClass := 0, accuracy := 0, variance := 0, priority2 := 0, identity := 1, stepsRemoved := 0 }
    let s (p : Option Int) (st : ServoSt) (n : Nat) : State :=
      { State.reset with trust := { state := 1 }, servo := { enable := true, st := st, pending := p, inRange := n, gm := some gm } }
    (s none .freerun 0).ptpOn 0 127 = true ∧ (s (some 100) .acquiring 15).ptpOn 0 127 = true ∧ (100 : Int).natAbs ≤ 200 ∧
    (s none .locked 0).servo.st = .locked ∧ (1001 : Int).natAbs > 1000 ∧ (1 : Nat) ≠ (s none .freerun 0).servo.domain := by decide +kernel

/-- AccessHalts: a page that is not resident. -/
theorem test_premise_pages :
    let s : State := holding (probe (th := fun th => { th with v := [(1, 0x200000)] })) []
    let s0 : State := { s with mem := memPuts [] (atLoc 0x1000 (leBytes 8 0x2001) ++ atLoc 0x2000 (leBytes 8 0x8000000000000000)) }
    issues s0 (.ldG { pred := 7, hint := 0, size := 0, la := 0, va := 1, vd := 4, off := 0, m := {} }) (fun s c t w =>
      match (s.advance c w).check t (s.ctxOf t) .g .read 4 (laneAddrs .g w (active w c.lanes 7) false 1 0) with
      | .page ps => !ps.isEmpty
      | _ => false) = true := by decide +kernel

/-- Links: firmware that has booted, and a port that comes up. -/
theorem test_premise_links : ∃ s : State, (1 : BitVec 6) ≠ s.linkUp ∧ s.trust.state = 1 :=
  ⟨{ State.reset with trust := { State.reset.trust with state := 1 } }, by decide, rfl⟩

/-- Two threads side by side. -/
def twice (w : Warp) : Warp := { w with threads := w.threads ++ w.threads }

/-- Queues: two lanes with room for one push and one record to pop; a broken queue that is empty; deterministic ones. -/
theorem test_premise_queue_lanes :
    let q (brk : Bool) (head tail : Nat) (ctx : TaskCtx) : State :=
      holding (probe (warp := fun w => twice (w.setK 6 0x80001000)) (ctx := ctx)) [(locChip 0x1000,
        barBytes { broken := brk, phase := 1, exp := 1, left := 1, resv := 0, bytes := 0, stamp := 0 } ++ leBytes 8 0x20000 ++ leBytes 4 head ++
          leBytes 4 tail ++ leBytes 4 2 ++ leBytes 12 0)]
    let at_ (s : State) (t : Team) (w : Warp) : Bool := (w.rk 6).toNat / 2 ^ 30 == 2 && (w.rk 6).toNat % 64 == 0 && barOff (w.rk 6) + 64 ≤ Config.chipBytes &&
      s.chipProt (s.ctxOf t) t.agent (barOff (w.rk 6)) .write == none && s.bad.contains (locChip 0x1000 / 64 * 64) == false
    let push : Instr := .qpush { la := 0, b := 8, a := 6, d := 2 }
    let pop : Instr := .qpop { la := 2, b := 3, a := 6, d := 8 }
    issues (q false 0xFFFFFFFF 0 {}) push (fun s c t w => let h := s.qRead (locChip 0x1000); at_ s t w && (s.ctxOf t).det == false &&
      min c.lanes.length ((h.cap + 4294967296 - h.count) % 4294967296) == 1 && (match qRecLocs (s.advance c w) (s.ctxOf t) (locChip 0x1000) h .write h.tail 1 with
        | .ok [p] => decide (p + 16 ≤ locChip 0x1000)
        | _ => false)) [0, 1] = true ∧
    issues (q false 0xFFFFFFFF 0 {}) pop (fun s c t w => let h := s.qRead (locChip 0x1000); at_ s t w && min c.lanes.length h.count == 1 &&
      (match qRecLocs (s.advance c w) (s.ctxOf t) (locChip 0x1000) h .read h.head 1 with
        | .ok [_] => true
        | _ => false)) [0, 1] = true ∧
    issues (q true 3 3 {}) pop (fun s _ t w => let h := s.qRead (locChip 0x1000); at_ s t w && h.count == 0 && h.bar.broken && !h.closed) [0, 1] = true ∧
    issues (q true 3 3 {}) push (fun s _ _ _ => (s.qRead (locChip 0x1000)).pushStatus == some 2) [0, 1] = true ∧
    issues (q false 3 4 { det := true }) push (fun s _ t w => at_ s t w && (s.ctxOf t).det) [0, 1] = true ∧
    issues (q false 3 4 { det := true }) pop (fun s _ t w => at_ s t w && (s.ctxOf t).det) [0, 1] = true := by decide +kernel

/-- A record of an 8-bit RGB picture of 16 by 8 pixels at 0x50000 with pitch 48, two slots, bands of 8 lines, objects at 0x100 of chip
scratchpad, for stream i of a table at 0x80000. -/
def pixRecord (i : Nat) : List (Nat × List Byte) :=
  [(0x80000 + 128 * i, leBytes 2 16 ++ leBytes 2 8 ++ [2, 8, 2, 0] ++ leBytes 8 0x50000 ++ leBytes 4 48 ++ [2, 8, 0, 0] ++ leBytes 4 0x80000100)]

/-- StreamRegisters: pixel (1, 2) of a band that has landed, that is broken and that has not landed; a pixel of an open frame, in a task
that is pure and in one that is not. -/
theorem test_premise_pixels :
    let s (ctx : TaskCtx) (brk : Bool) (id phase : Nat) : State :=
      { holding (probe (ctx := ctx) (warp := fun w => { w with sq := KV.put none 1 (some ⟨id, 0⟩) w.sq }) (th := fun th => { th with v := [(3, 0x20001)] }))
        (pixRecord 0 ++ pixRecord 64 ++ [(locChip 0x100, barBytes { broken := brk, phase := phase, exp := 1, left := 1, resv := 0, bytes := 0, stamp := 0 }),
          (0x40020, leBytes 8 0x60000)]) with tables := true, streamBase := 0x80000, frameBase := 0x40000, streams := [{ id := 0 }, { id := 64 }] }
    let rd : Instr := .sqrd { la := 2, b := 3, a := 1, d := 8 }
    let wr : Instr := .sqwr { la := 0, b := 3, a := 8, d := 1 }
    let dd (s : State) : Nat := (s.barRead (s.bandObj 0 0)).phase
    let inside (s : State) (id : Nat) (w : Warp) : Bool := let f := s.pixFmt id
      decide (((w.thr 0).rv 3).toNat % 65536 < f.w) && decide (((w.thr 0).rv 3).toNat / 65536 < f.h) && decide (f.sampling < 3) && (w.thr 0).wait == none
    let all (c : Chk) : Bool := match c with
      | .ok _ => true
      | _ => false
    issues (s {} false 0 1) rd (fun s c t w => inside s 0 w && dd s == 1 && !(s.barRead (s.bandObj 0 0)).broken &&
      all ((s.advance c w).check t (s.ctxOf t) .g .read 1 ((List.range (s.pixFmt 0).size).map (fun i => (0, 0x50000 + (s.pixFmt 0).offset 1 2 + i))))) = true ∧
    issues (s {} true 0 1) rd (fun s _ _ w => inside s 0 w && (s.barRead (s.bandObj 0 0)).broken) = true ∧
    issues (s {} false 0 0) rd (fun s _ _ w => inside s 0 w && dd s == 0 && !(s.barRead (s.bandObj 0 0)).broken) = true ∧
    issues (s {} false 64 0) wr (fun s c t w => inside s 64 w && !(s.ctxOf t).pure && s.frameField 0 0x20 8 == 0x60000 &&
      all ((s.advance c w).check t (s.ctxOf t) .g .write 1 [(0, 0x60000 + (s.pixFmt 64).offset 1 2)])) = true ∧
    issues (s { pure := true } false 64 0) wr (fun s _ t w => inside s 64 w && (s.ctxOf t).pure) = true := by decide +kernel

/-- Rays: queries in a state in which each instruction halts; a query told of its decision, over two lanes; a structure that reads. -/
theorem test_premise_ray_states :
    let s (st : RayState) : State := probe (th := fun th => { th with rq := { th.rq with st := st, cand := none } }) (warp := twice)
    let bvh : Bvh := { header := 0x30000, gen := 1 }
    let q : State := { holding (probe (warp := fun w => w.setK 4 0x30000) (th := fun th => { th with v := [(12, 0x3F800000)] })) [(0x30000, leBytes 4 1 ++ leBytes 8 0 ++ [2] ++ leBytes 115 0)] with bvhs := [bvh] }
    issues (s .idle) (.raynext { la := 2, b := 0, a := 0, d := 2 }) (fun _ c _ w => (c.lanes.find? (fun x => (w.thr x).rq.st != .run && (w.thr x).rq.st != .told)) == some 0) [0, 1] = true ∧
    issues (s .done) (.rayrd { la := 0, b := 0, a := 5, d := 3 }) (fun _ c _ w => (c.lanes.find? (fun x => (w.thr x).rq.st != .ask && (w.thr x).rq.st != .told)) == some 0) [0, 1] = true ∧
    issues (s .idle) (.rayacc { la := 0, b := 0, a := 0, d := 0 }) (fun _ c _ w => (c.lanes.find? (fun x => (w.thr x).rq.st != .ask)) == some 0) [0, 1] = true ∧
    issues (s .told) (.raynext { la := 2, b := 0, a := 0, d := 2 }) (fun x c _ w => x.bad == [] && decide c.lanes.Nodup && decide (∀ l ∈ c.lanes, (w.thr l).rq.st = .told)) [0, 1] = true ∧
    issues q (.rayq { la := 2, b := 4, a := 8, d := 2 }) (fun s c t w =>
      let a := s.advance c w
      let h := (locRange 0x30000 128).map (s.rdThr w (w.thr 0))
      s.bad == [] && hdrOk h && ((w.thr 0).rv 2).toNat == 0 && !(rayOf ((List.range 8).map (fun i => (w.thr 0).rv (8 + i)))).invalid &&
        (match bvhRead a (s.ctxOf t) w (w.thr 0) 0x30000 with
         | .ok h b => fieldOf h 4 1 == 0 && !bvhsBig [b] && b.gen == 1
         | _ => false)) = true := by decide +kernel

/-- Textures: the map of a tiled texture's feedback, in default and in deterministic mode. -/
theorem test_premise_feedback :
    let bs : List Byte := leBytes 8 0x50000 ++ leBytes 2 256 ++ leBytes 2 256 ++ [0, 2, 0, 0] ++ leBytes 4 0 ++ leBytes 4 0 ++ leBytes 8 0x60000 ++ leBytes 32 0
    let s (ctx : TaskCtx) : State := holding (probe (ctx := ctx) (warp := fun w => w.setK 4 0x30000)) [(0x30000, bs)]
    let ok (det : Bool) (s : State) (c : Ctx) (t : Team) (w : Warp) : Bool :=
      let d := texDesc (laneDesc s w 0 0x30000)
      let acts := (texfbBits d ((w.thr 0).rv 2) ((w.thr 0).rv 3)).map (fun q => (0, q.1))
      texDescOk (laneDesc s w 0 0x30000) && decide (d.fbmap ≠ 0) && d.tiled && (s.ctxOf t).det == det && acts.length == 1 &&
        (match texSample d ((w.thr 0).rv 2) ((w.thr 0).rv 3), (s.advance c w).check t (s.ctxOf t) .g .write 4 acts with
         | .at _ _ _, .ok _ => true
         | _, _ => false)
    bs.length = 64 ∧ issues (s {}) (.texfb { la := 0, b := 4, a := 2, d := 0 }) (ok false) = true ∧
    issues (s { det := true }) (.texfb { la := 0, b := 4, a := 2, d := 0 }) (ok true) = true := by decide +kernel

/-- RasterInstructions: primitives of a pass, and a pixel whose lock is free, not free, held by its thread and granted to it. -/
theorem test_premise_pixel_locks :
    let px (kind : Nat) (applied : Bool) (th : Thread → Thread) (ctx : TaskCtx) : State :=
      let s : State := probe (ctx := ctx) (th := th) (team := fun t => { t with desc := { t.desc with kind := kind }, job := if kind = 2 then some ⟨4, 0, [1], [(1, 2)]⟩ else none })
      { s with grids := s.grids.map (fun g => { g with pass := if kind = 1 then some 4 else none })
               passes := [{ id := 4, seq := 0, ctx := {}, grid := 7, geomEnded := true,
                            pixels := [{ key := [0], x := 1, y := 2, z := 0, applied := applied, colour := if applied then some none else none }, { key := [1], x := 1, y := 2, z := 0 }] }] }
    let o : SOp := { la := 0, b := 0, a := 4, d := 2 }
    let mine (t : Team) (w : Warp) : Bool := (t.pixelAt w 0).any (fun q => q.1.pass == 4 && q.2.1 == 1 && q.2.2 == 2)
    let free (s : State) : Bool := (s.pass? 4).any (fun p => s.settled p [1] && p.pixels.all (fun r => !lexLt r.key [1] || (r.applied && r.holder.isNone)))
    let calm (s : State) : Bool := (s.pass? 4).any (fun p => p.pixels.all (fun r => r.applied || r.colour.isNone))
    issues { px 1 true id {} with teams := (px 1 true id {}).teams.map (fun t => { t with warps := t.warps.map (fun w => { w with verts := [{}] }) }) } (.emitp o)
      (fun s _ t w => t.desc.kind == 1 && decide (w.prims + 1 ≤ 65536) && w.verts.length == 1 &&
        [4, 5, 6].all (fun j => decide (((w.thr 0).rv j).toNat < w.verts.length)) &&
        ((s.grid? t.grid).bind Grid.pass) == some 4 && (s.pass? 4).isSome) = true ∧
    issues (px 2 true id {}) (.pixout o) (fun s _ t w => mine t w && !(w.thr 0).pixDone && !(s.ctxOf t).det) = true ∧
    issues (px 2 true id { det := true }) (.pixout o) (fun s _ t w => mine t w && !(w.thr 0).pixDone && (s.ctxOf t).det) = true ∧
    issues (px 2 true id {}) (.discard o) (fun s _ t w => mine t w && w.log == none && (w.thr 0).conv == none && !(s.ctxOf t).det) = true ∧
    issues (px 2 true id {}) (.pixlock o) (fun s _ t w => mine t w && !(w.thr 0).pixLock && (w.thr 0).wait == none && free s && calm s) = true ∧
    issues (px 2 false id {}) (.pixlock o) (fun s _ t w => mine t w && !(w.thr 0).pixLock && (w.thr 0).wait == none && !free s && calm s) = true ∧
    issues (px 2 true (fun th => { th with wait := some { on := .pixel 1 2, woken := some true } }) {}) (.pixlock o) (fun _ _ t w => mine t w && (w.thr 0).granted) = true ∧
    issues (px 2 true (fun th => { th with pixLock := true }) {}) (.pixunlock o) (fun _ _ t w => mine t w && (w.thr 0).pixLock) = true := by decide +kernel

/-! ### Moves with conditions of more than one kind -/

/-- StepRunsDecodedBundle: a schedule's issue move. -/
theorem test_premise_issue_move :
    let s0 : State := { holding probe [(0x10000, wordBytes 0x20C121DD)] with inbox := [{ dt := 5, what := .issue 0 0 }] }
    let s : State := { s0.restamp with inbox := [] }.elapse 5
    (s.pick 0 0).map (fun c => (c.team, c.pc)) = some (1, 0x10000) ∧ s0.extest = false ∧
    (match s.fetchHalf (s.ctxOf (s.teams.headD {})) 0x10000, s.fetchHalf (s.ctxOf (s.teams.headD {})) 0x10002 with
     | .ok a, .ok b => (decode [a, b]).1 == .ok (.sqrd { la := 2, b := 3, a := 1, d := 8 })
     | _, _ => false) = true := by decide +kernel

/-- Synchronisation: fence.r in both modes, and a publication that it takes. -/
theorem test_premise_fences :
    let s (ctx : TaskCtx) : State := { probe (ctx := ctx) (th := fun th => { th with v := [(3, 0x20000), (4, 64)], view := [(8, 1)] }) with
      hist := [{ ser := 1, loc := 8, old := 0, new := 1 }], nextSer := 2, publs := [{ scope := .chip, party := .core 0, loc := 8, ser := 1, writer := .core 0 }] }
    let f (k : FenceKind) : Instr := .fenceR { pred := 7, space := 3, va := 3, vlen := 4, m := { fence := k } }
    issues (s {}) (f .rel) (fun s _ t w => !(s.ctxOf t).det && (s.named (w.thr 0)).contains (8, 1)) = true ∧
    issues (s {}) (f .acq) (fun s _ t _ => s.publs.all (fun p => p.reaches .chip (.core t.core))) = true ∧
    issues (s { det := true }) (f .rel) (fun s _ t _ => (s.ctxOf t).det) = true := by decide +kernel

/-- LaunchesAndAgents: a wave whose record is claimed, a saved team that fits, a team that ended with a continuation. -/
theorem test_premise_claims :
    let s (u : Team) : State :=
      let s0 : State := probe (team := fun t => { t with agent := true }) (warp := fun w => (w.setK 2 (BitVec.ofNat 32 (recOff 2))).setK 3 5)
      { s0 with teams := s0.teams ++ [u], waves := [{ id := 3, grid := 1, count := 4, recIdx := 2, cores := [0] }] }
    let small : KDesc := { warp := 16, vregs := 8 }
    let u (st : TeamSt) : Team := { id := 2, grid := 1, handle := 5, wave := 3, area := 0x30000, desc := small, st := st }
    issues (s (u .ended)) (.agClaim { la := 0, b := 0, a := 2, d := 1 }) (fun s _ t w =>
      (s.waves.find? (fun y => recOff y.recIdx == (w.rk 2).toNat)).map Wave.id == some 3 && ((s.useOf t.core []).addTeam small).isSome &&
        (s.grid? 1).any (fun g => g.desc.gangX == 0)) = true ∧
    ((s (u .saved)).savedAt 0x30000).map Team.id = some 2 ∧ (s (u .saved)).restoreFits (u .saved) [] 0 = true ∧ (s (u .saved)).savedErr (u .saved) = none ∧
    issues (s (u .saved)) (.agInst { la := 0, b := 4, a := 2, d := 1 }) = true ∧
    ((s { u .ended with cont := some (0x40000, small, 8) }).byHandle 0 5).bind Team.cont = some (0x40000, small, 8) ∧
    issues (s (u .halted)) (.agEnd { la := 0, b := 0, a := 3, d := 0 }) (fun s _ _ _ => (s.byHandle 0 5).map Team.st == some .halted) = true ∧
    issues (s (u .saved)) (.agEnd { la := 0, b := 0, a := 3, d := 0 }) (fun s _ _ _ => s.byHandle 0 5 == none) = true := by decide +kernel

/-- MatrixMoves: a row that is on its way to a register, and a tile on its way to memory. -/
theorem test_premise_matrix_values :
    let s (op : MatOp) : State := { probe (warp := fun w => { w with pend := [{ regs := [.v 3], lanes := [(0, 4)], ready := false, cmd := some 9 }] }) with
      matq := [{ id := 9, team := 1, lanes := [0], op := op, started := true }] }
    let ok (op : MatOp) : Bool := (s op).matHead 0 == some { id := 9, team := 1, lanes := [0], op := op, started := true } &&
      ((s op).team? 1).any (fun t => t.st == .resident) && ((s op).warp? 1 0).any (fun w => w.log == none && w.pend.any (fun p => p.cmd == some 9 && !p.done))
    ok (.tmov true 3 1 0 2) = true ∧ ok (.tst 1 [[8]]) = true ∧ (Machine.Num.fin false 1).isFin = true := by decide +kernel

/-- CopyCommands, Landings: qfence of a deterministic team, and the last element of the only copy. -/
theorem test_premise_copy_moves :
    let d : CopyDesc := { src := 0x20000, dst := 64, sspace := 0, dspace := 1, ssize := 4, dsize := 4, ext := [1, 0, 0, 0, 0, 0], sstr := [1], dstr := [1] }
    let s : State := { holding probe [] with copies := [{ id := 5, team := 1, d := d }] }
    issues (probe (ctx := { det := true })) (.qfence { la := 0, b := 0, a := 0, d := 15 }) (fun s _ t _ => (s.ctxOf t).det) = true ∧
    s.copies.map (fun x => (x.kind, x.landed, x.off, x.next + 1 == x.d.total, x.d.conv, x.flags == {})) = [(0, false, false, true, 0xFF, true)] ∧
    (s.team? 1).map (fun t => (t.st, (s.ctxOf t).det)) = some (.resident, false) := by decide +kernel

/-- TaskFaults: t.present of a frame that is DONE, and of one that is SEALED. -/
theorem test_premise_frame_fault :
    let s (ctl : Nat) : State :=
      let a := withTask [0x00000021, 0xFFFFFFFF, 0xFFFF0003, 0, 0, 0, 0, 0]
      { a with tables := true, frameBase := 0x40000, mem := memPuts a.mem (atLoc (0x40000 + 128 * 3 + 0x18) (leBytes 4 ctl)) }
    let t : TaskRec := taskRecOf 0x00000021 0xFFFFFFFF 0xFFFF0003 0 0 0 0 0
    let fault (ctl : Nat) : Option (Nat × Word) := match step (s ctl) with
      | .next a => (a.win.entries.head?).bind Entry.fault
      | _ => none
    (s 512).frameCtl 3 / 512 % 2 = 1 ∧ (s 256).frameCtl 3 / 256 % 2 = 1 ∧ t.opcode = 0x21 ∧ fault 512 = some (7, 3) ∧ fault 256 = some (7, 3) := by decide +kernel

/-- TaskWindowMoves, TaskRetirement: a t.wait whose doubleword is bad, and a head whose domain is being killed. -/
theorem test_premise_bad_wait :
    let s : State := { withEntry 0x39 (fun e => { e with issued := true }) with bad := [0x20000] }
    let k : State := { withEntry 0 (fun e => { e with done := true }) with rcv := { kills := [(0, 0, 0)] } }
    (match s.taskAt {} 0x20000 .read with
     | .loc l => s.bad.contains (l / 64 * 64)
     | _ => false) = true ∧ (k.win.entries.all (fun e => k.rcv.kills.any (fun x => x.1 == k.fdomOf e.ctx.region))) = true := by decide +kernel

/-- RegionSynchronisation, Resets, Kills: a block that an error has lost, a reset in progress, a kill that waits for the fault queue. -/
theorem test_premise_waits :
    let s : State := { State.reset with regionBase := 0x10000, syncId := 1, syncBusy := true, bad := [0x10100] }
    let k : State := { State.reset with
      trust := { state := 1 }, rcv := { paging := true, kills := [(7, 0, 0)] }, fq := { base := 0x20000, tail := 1 }, mem := memPuts [] (atLoc 0x20012 [7]) }
    s.syncLost ≠ none ∧ ({ State.reset with rcv := { resetEnd := 5 } } : State).now < 5 ∧
    (k.killWork 7).2.houseUp = true ∧ (k.killWork 7).2.rcv.paging = true ∧ (k.killWork 7).2.fqPending = [0] ∧
    (k.killWork 7).2.rdPhys ((k.killWork 7).2.fqAddr 0 + 0x12) 2 = 7 := by decide +kernel

/-- HouseAndErrors: a thread stalled past PAGE_TO on a need of its own; PagingService: entries that a kill and that a cancellation end. -/
theorem test_premise_stalls :
    let s : State := { probe (th := fun th => { th with wait := some { on := .page [(0, 0x3000, 0x200000)] } }) with now := 64000, rcv := { pageTo := 1 } }
    let q (x : Byte) (f : Nat) : State := { State.reset with
      trust := { state := 1 }, rcv := { paging := true, kills := [(f, 0, 0)] }, fq := { base := 0x20000, tail := 1 }, mem := memPuts [] (atLoc 0x2001C [x]) }
    ((s.warp? 1 0).bind (fun w => (w.thr 0).wait)).map (fun x => (x.on == .page [(0, 0x3000, 0x200000)], decide (x.since + 1000 * s.rcv.pageTo < s.now))) =
      some (true, true) ∧
    (q 2 9).houseUp = true ∧ (q 2 9).fq.head ≠ (q 2 9).fq.tail ∧ (q 2 9).rdPhys 0x2001C 2 = 2 ∧ (q 0 0).rdPhys 0x20012 2 = 0 ∧ (q 0 0).objErr (locPhys 0x20000) = false := by
  decide +kernel

/-- PlacementMoves and TeamMoves: a wave that pre-empts the team of the only core; that team swapped out for it. -/
theorem test_premise_preempts :
    let s (dl : Option Nat) (th : Thread → Thread) : State :=
      let a : State := probe (th := th)
      { a with regions := [{ Region.boot with root := 0x1000, cores := 1, slack := 1000, swapWait := 1 }], now := 64000, rcv := { agentCores := (List.range 191).map (· + 1) }
               grids := a.grids.map (fun g => ({ g with placed := 1 } : Grid)) ++ [{ id := 2, desc := { warp := 16, vregs := 64, scratch := 300032 }, nWaves := 1, waveSize := 1, task := { seq := 1, deadline := dl } }] }
    let held (th : Thread) : Thread := { th with wait := some { on := .bar 8 0 } }
    (match ((s (some 10) id).grid? 2) with
     | some g => (s (some 10) id).preEmpts g && (s (some 10) id).coresNeeded g == 1 && (s (some 10) id).victims.map Team.id == [1] &&
        (s (some 10) id).chooseVictims g (s (some 10) id).victims [] == [1]
     | none => false) = true ∧
    (match ((s none held).team? 1) with
     | some t => (s none held).swappable t && (s none held).wanted [t] && t.desc.gangX == 0
     | none => false) = true := by decide +kernel

/-- TeamMoves: a team that is over whose core is told, and one that is full. -/
theorem test_premise_told :
    let s : State := probe (th := fun th => { th with exited := true })
    (s.teams.map (fun t => (t.st, t.launchQ, t.job)) = [(.resident, [], none)]) ∧ s.spubs = [] ∧ s.heldEv = [] ∧
    (s.qRead (eventHdr 0)).pushStatus = none := by decide +kernel

/-- Collectives: ranks answered LATE and not yet, an instance that has ended through which a block passes, a block that comes before
the announcement, and ROOT past its deadline. -/
theorem test_premise_coll_moves :
    let c : Coll := { id := 2, seq := 0, group := 7, tag := 9, ctx := {}, op := 0, rank := 1, size := 4, count := 16, c := 15, closed := true }
    let k : CollKept := { group := 7, tag := 9, c := 15, told := [5], root := false, of := some c }
    let s : State := { State.reset with collKept := [k] }
    let r : Coll := { c with rank := 0, closed := false, sentArr := true, deadline := some 0, arrivals := [(0, 5, true), (2, 5, true)] }
    let p : State := { State.reset with colls := [r], ptime := 10 }
    s.collAt 7 9 = none ∧ (s.collKept.find? (fun k => k.group == 7 && k.tag == 9)).bind CollKept.of = some c ∧ c.rank ≠ 2 ∧ c.c.getLsbD 2 = true ∧
    k.c.getLsbD 5 = false ∧ 5 ∈ k.told ∧ k.c.getLsbD 6 = false ∧ 6 ∉ k.told ∧
    (p.collAt 7 9).map (fun c => (c.id, c.isRoot, c.closed, c.status)) = some (2, true, false, none) ∧ r.deadline = some 0 ∧ 0 ≤ p.ptime ∧
    ({ State.reset with colls := [{ r with rank := 1 }] } : State).collAt 7 9 = some { r with rank := 1 } := by decide +kernel

/-- ManagementAndDebug: EXTEST with a move that it holds back. -/
theorem test_premise_extest :
    let s : State := { State.reset with extest := true, inbox := [{ dt := 3, what := .issue 0 0 }] }
    s.extest = true ∧ ∀ j ∈ [Instr.bypass, .idcode, .samplePreload, .extest, .testLogicReset], ∀ a, What.issue 0 0 ≠ .event j a := by
  exact ⟨rfl, fun _ _ _ h => by cases h⟩

/-- PlacementMoves: a grid whose wave is placed. -/
theorem test_premise_placed :
    let g : Grid := { id := 2, desc := { warp := 16, vregs := 64 }, nWaves := 1, waveSize := 1, task := { seq := 1 } }
    let s : State := { State.reset with grids := [g], rcv := { agentCores := (List.range 191).map (· + 1) } }
    s.placeList = [g] ∧ s.grid? 2 = some g ∧ s.sheds g = false ∧ s.restoreBefore (s.urgency g 1) = false ∧ s.freeRec.isSome = true ∧ s.waveCores g = [0] ∧
    s.passes = [] ∧ s.teams = [] := by decide +kernel

end Sys2Proof.Tests
end

/-! # Proofs: the scope chapter's registers (R5, R32, R33, R390, R404)

First what a write of the register window and the synchronisation of a region do, one lemma per function of the model; then
the statements about reset and about the writes. -/
section

namespace Sys2Proof.Machine

open Sys2Proof.Spec

/-! ## Writes of the register window -/

/-- Shifting the low bits out and back is rounding down to a multiple; from 64 bits on both sides are 0. -/
theorem clearLow_eq_div_mul (m : Nat) (v : DWord) :
    clearLow m v = v / BitVec.ofNat 64 (2 ^ m) * BitVec.ofNat 64 (2 ^ m) := by
  apply BitVec.eq_of_toNat_eq
  simp only [clearLow, BitVec.toNat_shiftLeft, BitVec.toNat_ushiftRight, BitVec.toNat_mul, BitVec.toNat_udiv,
    BitVec.toNat_ofNat, Nat.shiftLeft_eq, Nat.shiftRight_eq_div_pow]
  by_cases hm : m < 64
  · rw [Nat.mod_eq_of_lt (Nat.pow_lt_pow_right (by decide) hm)]
  · have hv : v.toNat < 2 ^ m := v.isLt.trans_le (Nat.pow_le_pow_right (by decide) (Nat.le_of_not_lt hm))
    simp [Nat.div_eq_of_lt hv, Nat.mod_eq_zero_of_dvd (Nat.pow_dvd_pow 2 (Nat.le_of_not_lt hm))]

theorem State.mediaOn_eq_bne (s : State) : s.mediaOn = (s.openFrames != [] || s.streams != []) := by
  unfold State.mediaOn
  cases s.openFrames <;> cases s.streams <;> rfl

theorem trustReg_eq_trustOff (o : Nat) : trustReg o = trustOff o := by
  simp [trustReg, trustOff, Bool.or_assoc, Bool.beq_eq_decide_eq]

theorem State.regWrite_of_recovering {s : State} {o n : Nat} {v : DWord} (hr : s.recovering = true)
    (ho : trustReg o = false) : s.regWrite o n v = s := by
  simp [State.regWrite, hr, ho]

theorem State.regWrite_reg64 {s : State} {o : Nat} (v : DWord) (hr : s.recovering = false) (h8 : o % 8 = 0)
    (hreg : (s.reg64 o).isSome) : s.regWrite o 8 v = s.wr64 o v := by
  simp [State.regWrite, hr, h8, hreg]

/-- A 32-bit write at an offset that is no half of a 64-bit register. -/
theorem State.regWrite_reg32 {s : State} {o : Nat} (v : DWord) (hr : s.recovering = false) (h4 : o % 4 = 0)
    (hlo : (s.reg64 o).isSome = false) (hhi : o % 8 = 4 → (s.reg64 (o - 4)).isSome = false) :
    s.regWrite o 4 v = s.wr32 o (v.setWidth 32) := by
  simp +contextual [State.regWrite, State.wrWord, hr, h4, hlo, hhi]

theorem State.regWrite_xown {s : State} {o : Nat} (v : DWord) (hr : s.recovering = false) (h2 : o % 2 = 0)
    (hlo : 0x2000 ≤ o) (hhi : o < 0x2800) : s.regWrite o 2 v = s.xownWr ((o - 0x2000) / 2) (v.setWidth 16) := by
  simp [State.regWrite, hr, h2, hlo, hhi]

theorem State.xownOf_xownWr_same (s : State) (g : Nat) (v : Half) :
    (s.xownWr g v).xownOf g = if (960 ≤ g ∧ g < 992) ∨ 1022 ≤ g then s.xownOf g else v.toNat := by
  unfold State.xownWr
  split
  · rfl
  · simp [State.xownOf, KV.get_put]

theorem State.xownOf_xownWr_ne (s : State) {g h : Nat} (hne : h ≠ g) (v : Half) :
    (s.xownWr g v).xownOf h = s.xownOf h := by
  unfold State.xownWr
  split
  · rfl
  · simp [State.xownOf, KV.get_put, hne]

theorem regLaw_width {s t : State} {o n : Nat} {v : DWord} (h : regLaw s o n v = some t) : n = 8 ∨ n = 4 := by
  unfold regLaw at h
  split at h <;> cases h <;> simp

/-- Each 64-bit row of the law is a 64-bit register of the model, and `wr64` has the same row. -/
theorem wr64_eq_of_regLaw {s t : State} {o : Nat} {v : DWord} (h : regLaw s o 8 v = some t) :
    o % 8 = 0 ∧ (s.reg64 o).isSome ∧ s.wr64 o v = t := by
  generalize hn : 8 = n at h
  unfold regLaw at h
  split at h <;> cases hn <;> cases h
  all_goals
    refine ⟨rfl, rfl, ?_⟩
    simp only [State.wr64, clearLow_eq_div_mul, State.mediaOn_eq_bne, Window.going, BitVec.setWidth_ushiftRight_eq_extractLsb]

/-- Each 32-bit row of the law lies in no 64-bit register of the model, and `wr32` has the same row. -/
theorem wr32_eq_of_regLaw {s t : State} {o : Nat} {v : DWord} (h : regLaw s o 4 v = some t) :
    o % 4 = 0 ∧ (s.reg64 o).isSome = false ∧ (o % 8 = 4 → (s.reg64 (o - 4)).isSome = false) ∧
      s.wr32 o (v.setWidth 32) = t := by
  generalize hn : 4 = n at h
  unfold regLaw at h
  split at h <;> cases hn <;> cases h
  all_goals
    refine ⟨rfl, rfl, by simp [State.reg64], ?_⟩
    simp [State.wr32, Window.going, or_assoc, BitVec.setWidth_eq_extractLsb']

theorem State.regWrite_eq_of_regLaw {s t : State} {o n : Nat} {v : DWord} (hr : s.recovering = false)
    (h : regLaw s o n v = some t) : s.regWrite o n v = t := by
  obtain rfl | rfl := regLaw_width h
  · obtain ⟨h8, hreg, ht⟩ := wr64_eq_of_regLaw h
    rw [State.regWrite_reg64 v hr h8 hreg, ht]
  · obtain ⟨h4, hlo, hhi, ht⟩ := wr32_eq_of_regLaw h
    rw [State.regWrite_reg32 v hr h4 hlo hhi, ht]

@[simp] theorem recovering_At (s : State) (a : Arg) : (At s a).recovering = s.recovering := rfl
@[simp] theorem xownOf_At (s : State) (a : Arg) (g : Nat) : (At s a).xownOf g = s.xownOf g := rfl

theorem exec_registerWrite (s : State) (off : BitVec 24) (n : Nat) (v : DWord) :
    exec .registerWrite (At s (.regWrite off n v)) = .next ((At s (.regWrite off n v)).regWrite off.toNat n v) := rfl

theorem registerWrites : RegisterWrites := by
  refine ⟨?_, ?_, ?_⟩
  · intro s t off n v hr h
    rw [exec_registerWrite, State.regWrite_eq_of_regLaw ((recovering_At _ _).trans hr) h]
  · intro s g v off hr hg hoff
    have hgr : (off.toNat - 0x2000) / 2 = g := by omega
    have hw : (At s (.regWrite off 2 v)).regWrite off.toNat 2 v = (At s (.regWrite off 2 v)).xownWr g (v.setWidth 16) := by
      rw [State.regWrite_xown v ((recovering_At _ _).trans hr) (by omega) (by omega) (by omega), hgr]
    refine ⟨_, exec_registerWrite s off 2 v, ?_, fun h hne => ?_⟩
    · simp only [hw, State.xownOf_xownWr_same, xownOf_At, BitVec.toNat_setWidth]
    · simp only [hw, State.xownOf_xownWr_ne _ hne, xownOf_At]
  · intro s off n v hr ho
    rw [exec_registerWrite,
      State.regWrite_of_recovering ((recovering_At _ _).trans hr) ((trustReg_eq_trustOff _).trans ho)]

/-! ## The synchronisation of a region -/

theorem State.stage_eq_setRcv (s : State) (r : JRec) : ∃ c, s.stage r = { s with rcv := c } := by
  unfold State.stage
  split
  · exact ⟨_, rfl⟩
  · exact ⟨_, rfl⟩

/-- A journal record reaches the recovery registers only. -/
theorem State.journal_eq_setRcv (s : State) (r : JRec) : ∃ c, s.journal r = { s with rcv := c } := by
  unfold State.journal
  split
  · obtain ⟨c, hc⟩ := State.stage_eq_setRcv { s with rcv := { s.rcv with lost := 0 } } { kind := 10, info := s.rcv.lost }
    obtain ⟨d, hd⟩ := State.stage_eq_setRcv { s with rcv := c } r
    exact ⟨d, by rw [hc]; exact hd⟩
  · exact s.stage_eq_setRcv r

theorem exec_regionSync {s : State} (v : Word) (hr : s.recovering = false) :
    exec .regionSync (At s (.word v)) = .next ((At s (.word v)).regionSyncWr v) := by
  change State.regWr (At s (.word v)) (fun a => a.regionSyncWr v) = _
  simp [State.regWr, hr]

/-- The regions once block bs takes the place of region id. -/
def State.installed (s : State) (id : Nat) (bs : List Byte) : List Region :=
  s.regions.filter (fun r => r.id != id) ++ (if blockValid bs then [blockOf bs] else [])

theorem exec_regionSyncComplete_idle {s : State} (hb : s.syncBusy = false) : exec .regionSyncComplete s = .next s := by
  change execRegionSyncComplete s = _
  simp [execRegionSyncComplete, hb]

theorem exec_regionSyncComplete_lost {s : State} {l : Nat} (hb : s.syncBusy = true) (hl : s.syncLost = some l) :
    exec .regionSyncComplete s =
      .next { s.journal { kind := 7, code := 1, addr := l } with syncBusy := false, syncStat := 3 } := by
  change execRegionSyncComplete s = _
  simp [execRegionSyncComplete, hb, hl]

theorem exec_regionSyncComplete_block {s : State} (hb : s.syncBusy = true) (hl : s.syncLost = none) :
    exec .regionSyncComplete s = .next { s with
      syncBusy := false
      syncStat := s.syncStatus s.syncId.toNat s.syncBlock
      regions := if s.syncStatus s.syncId.toNat s.syncBlock = 0 then s.installed s.syncId.toNat s.syncBlock else s.regions } := by
  change execRegionSyncComplete s = _
  simp only [execRegionSyncComplete, hb, hl, State.installed]
  by_cases hst : s.syncStatus s.syncId.toNat s.syncBlock = 0
  · by_cases hv : blockValid s.syncBlock = true <;> simp [hst, hv]
  · simp [hst]

/-- The installed block is what its region reads, or nothing is where VALID is clear. -/
theorem State.find?_installed_same (s : State) {id : Nat} {bs : List Byte} (hid : (blockOf bs).id = id) :
    (s.installed id bs).find? (fun r => r.id == id) = if blockValid bs then some (blockOf bs) else none := by
  have hgone : (s.regions.filter (fun r => r.id != id)).find? (fun r => r.id == id) = none := by simp
  rw [State.installed, List.find?_append, hgone]
  split <;> simp [hid]

theorem State.find?_installed_ne (s : State) {id j : Nat} {bs : List Byte} (hid : (blockOf bs).id = id) (hj : j ≠ id) :
    (s.installed id bs).find? (fun r => r.id == j) = s.region? j := by
  have hold : (s.regions.filter (fun r => r.id != id)).find? (fun r => r.id == j) = s.region? j := by
    rw [List.find?_filter, State.region?]
    congr 1
    funext r
    by_cases hr : r.id = j <;> simp [hr, hj]
  have hnew : (if blockValid bs then [blockOf bs] else []).find? (fun r => r.id == j) = none := by
    split <;> simp [hid, Ne.symm hj]
  rw [State.installed, List.find?_append, hold, hnew, Option.or_none]

/-! ### The checks of a block, in their order (R33) -/

/-- A field of block b, read for region id, lies outside its range. -/
def Region.Malformed (id : Nat) (b : Region) : Prop :=
  b.id ≠ id ∨ 192 < b.cores ∨ 16 ≤ b.opCeil ∨ 8 ≤ b.prio ∨ 8 ≤ b.dclass ∨ 16 ≤ b.leaf ∨ b.mem % 4096 ≠ 0 ∨
    b.root % 4096 ≠ 0 ∨ (b.quantum ≠ 0 ∧ (b.quantum < 64 ∨ 65536 < b.quantum))

theorem blockField_of_malformed {id : Nat} {bs : List Byte} (h : (blockOf bs).Malformed id) : blockField id bs = true := by
  obtain h | h | h | h | h | h | h | h | h := h
  all_goals simp [blockField, h]

theorem blockOf_id_of_not_field {id : Nat} {bs : List Byte} (hf : blockField id bs = false) : (blockOf bs).id = id := by
  by_contra hid
  simp [blockField_of_malformed (Or.inl hid)] at hf

theorem State.syncStatus_of_field {s : State} {id : Nat} {bs : List Byte} (hf : blockField id bs = true) :
    s.syncStatus id bs = 3 := by
  simp [State.syncStatus, hf]

theorem State.not_field_of_syncStatus_zero {s : State} {id : Nat} {bs : List Byte} (h : s.syncStatus id bs = 0) :
    blockField id bs = false := by
  by_contra hf
  simp [State.syncStatus_of_field (Bool.eq_true_of_not_eq_false hf)] at h

theorem State.syncStatus_of_parent {s : State} {id : Nat} {bs : List Byte} (hf : blockField id bs = false)
    (hv : blockValid bs = true) (hid : id ≠ 0) (hp : (blockOf bs).parent = id ∨ s.region? (blockOf bs).parent = none) :
    s.syncStatus id bs = 1 := by
  simp [State.syncStatus, hf, hv, hid, hp]

theorem State.syncStatus_root_of_depth {s : State} {bs : List Byte} (hf : blockField 0 bs = false)
    (hv : blockValid bs = true) (hd : 7 < (blockOf bs).depth) : s.syncStatus 0 bs = 2 := by
  simp [State.syncStatus, hf, hv, hd]

section Child

variable {s : State} {id : Nat} {bs : List Byte} {p : Region} (hf : blockField id bs = false) (hv : blockValid bs = true)
  (hid : id ≠ 0) (hself : (blockOf bs).parent ≠ id) (hp : s.region? (blockOf bs).parent = some p)
include hf hv hid hself hp

theorem State.syncStatus_child_of_depth (hd : 7 < (blockOf bs).depth ∨ (blockOf bs).depth ≠ p.depth + 1) :
    s.syncStatus id bs = 2 := by
  have hd' : 7 < (blockOf bs).depth ∨ p.depth + 1 ≠ (blockOf bs).depth := hd.imp_right Ne.symm
  simp [State.syncStatus, hf, hv, hid, hself, hp, hd']

theorem State.syncStatus_child_of_sound (h7 : (blockOf bs).depth ≤ 7) (hd : (blockOf bs).depth = p.depth + 1)
    (hw : ∀ e ∈ s.win.entries, e.ctx.region ≠ id) : s.syncStatus id bs = 0 := by
  have hwin : s.regionInWindow id = false := by simpa [State.regionInWindow] using hw
  have hdepth : ¬ 7 < (blockOf bs).depth := Nat.not_lt.mpr h7
  simp [State.syncStatus, hf, hv, hid, hself, hp, hdepth, ← hd, hwin]

end Child

theorem regionSynchronisation : RegionSynchronisation := by
  refine ⟨?_, fun s hb => exec_regionSyncComplete_idle hb, ?_, ?_⟩
  · intro s v hr
    rw [exec_regionSync v hr, State.regionSyncWr, BitVec.setWidth_eq_extractLsb' (by decide)]
    rfl
  · intro s hb hl
    obtain ⟨l, hl⟩ := Option.ne_none_iff_exists'.mp hl
    obtain ⟨c, hc⟩ := s.journal_eq_setRcv { kind := 7, code := 1, addr := l }
    exact ⟨_, exec_regionSyncComplete_lost hb hl, rfl, rfl, by simp [hc], by simp [hc], by simp [hc]⟩
  · intro s hb hl
    dsimp only
    refine ⟨_, exec_regionSyncComplete_block hb hl, rfl, rfl, rfl, rfl, ?_⟩
    dsimp only
    refine ⟨fun hst => if_neg hst, fun hst => ?_, fun hbad => ?_, fun hf hv h0 hd => ?_,
      fun hf hv h0 => ⟨fun hp => ?_, fun p hself hp hd => ?_, fun p hself hp h7 hd hw => ?_⟩⟩
    · have hid := blockOf_id_of_not_field (State.not_field_of_syncStatus_zero hst)
      simp only [State.region?, if_pos hst]
      exact ⟨s.find?_installed_same hid, fun j hj => s.find?_installed_ne hid hj⟩
    · exact State.syncStatus_of_field (blockField_of_malformed hbad)
    · rw [h0] at hf ⊢
      exact State.syncStatus_root_of_depth hf hv hd
    · exact State.syncStatus_of_parent hf hv h0 hp
    · exact State.syncStatus_child_of_depth hf hv h0 hself hp hd
    · exact State.syncStatus_child_of_sound hf hv h0 hself hp h7 hd hw

/-! ## The statements -/

/-- Settles O30: a finite table of reads of one state, which the kernel evaluates. -/
theorem resetValues : Obligations.ResetValues :=
  ⟨by decide +kernel, rfl, rfl, rfl, rfl, rfl, rfl, rfl, rfl, rfl⟩

/-- Settles O52: each row of the law is a row of the model's writes, and the checks of a block come in the order of R33. -/
theorem registerAndRegionWrites : Obligations.RegisterAndRegionWrites :=
  ⟨registerWrites, regionSynchronisation⟩

end Sys2Proof.Machine
end

/-! # Proofs: the execution model's issue and step (R47, R53, R54, R75, R131)

First the retired count of a warp that issues; then the fetch of a bundle, which reads exactly the halfwords that the decoder
takes, and the two ways in which a step comes to run the group that a quad issues next. -/
section

namespace Sys2Proof.Machine

/-! ## The issue of a bundle -/

/-- The warp of a group after its issue. -/
theorem State.warp?_advance {s : State} {c : Ctx} {t : Team} {w : Warp} (h : Issued s c t w) :
    (s.advance c w).warp? c.team c.warp = some (w.issued c s.tick) := by
  obtain ⟨-, -, -, hw⟩ := State.updWarp_advance h id
  rwa [State.warp?_updWarp, Option.map_id] at hw

/-- A bundle counts as retired where a thread of its group issues it for the first time (R131). -/
theorem Warp.issued_retired {w : Warp} {c : Ctx} {l : Nat} (tick : Nat) (hl : l ∈ c.lanes)
    (hnew : (w.thr l).again = false) : (w.issued c tick).retired = w.retired + 1 := by
  have hmem : l ∈ c.lanes.filter (fun j => !(w.thr j).again) := by simp [hl, hnew]
  have hne : (c.lanes.filter (fun j => !(w.thr j).again)).isEmpty = false :=
    List.isEmpty_eq_false_iff.mpr (List.ne_nil_of_mem hmem)
  unfold Warp.issued
  simp only [hne]
  rfl

theorem Thread.again_eq_false_of_wait {th : Thread} (h : th.wait = none) : th.again = false := by
  rw [Thread.again, h]

end Sys2Proof.Machine

/-! ## What the decoder takes -/

namespace Sys2Proof

section Decode

variable (ps : Prefixes) (n : Nat) {x y : Half}

/-- A halfword with bit 0 clear is a 16-bit instruction (R53). -/
theorem decodeFrom_half (t : List Half) (hx : (!x.getLsbD 0) = true) :
    decodeFrom ps n (x :: t) = (decodeLast16 ps x, n + 1) := by
  rw [decodeFrom.eq_def]
  exact if_pos hx

variable (hx : ¬(!x.getLsbD 0) = true)
include hx

/-- A word of which only the first halfword is given is unassigned. -/
theorem decodeFrom_single : decodeFrom ps n [x] = (.error .unassignedOp, n + 1) := by
  rw [decodeFrom.eq_def]
  exact if_neg hx

/-- A word of class P is noted, and the bundle goes on after it (R54). -/
theorem decodeFrom_prefix (t : List Half) (hw : isPrefixWord (y ++ x) = true) :
    decodeFrom ps n (x :: y :: t) = decodeFrom (ps.add (y ++ x)) (n + 2) t := by
  rw [decodeFrom, if_neg hx]
  exact if_pos hw

/-- A word of another class than P ends the bundle (R54). -/
theorem decodeFrom_word (t : List Half) (hw : ¬isPrefixWord (y ++ x) = true) :
    decodeFrom ps n (x :: y :: t) = (decodeLast ps (y ++ x), n + 2) := by
  rw [decodeFrom, if_neg hx]
  exact if_neg hw

end Decode

theorem Prefixes.count_add (ps : Prefixes) (w : Word) : (ps.add w).count = ps.count + 1 := by
  unfold Prefixes.add
  dsimp only
  split <;> rfl

/-- A bundle that decodes has at most two words of class P (R75). -/
theorem decodeLast_ok_count {ps : Prefixes} {w : Word} {i : Instr} (h : decodeLast ps w = .ok i) : ps.count ≤ 2 := by
  by_contra hc
  have hcase : ∀ j, prefixCase ps j false = true := by
    intro j
    simp [prefixCase, Nat.lt_of_not_le hc]
  unfold decodeLast at h
  split at h
  · cases h
  · dsimp only at h
    split at h
    · cases h
    · rw [if_pos (hcase _)] at h
      cases h

/-- A 16-bit instruction that decodes has no word of class P before it (R75). -/
theorem decodeLast16_ok_count {ps : Prefixes} {x : Half} {i : Instr} (h : decodeLast16 ps x = .ok i) : ps.count = 0 := by
  by_contra hc
  unfold decodeLast16 at h
  split at h
  · cases h
  · rw [if_pos (by simpa using hc)] at h
    cases h

/-- However far a bundle has been read, it has had at most two words of class P if it decodes (R75). -/
theorem decodeFrom_ok_count {ps : Prefixes} {n m : Nat} {hs : List Half} {i : Instr}
    (h : decodeFrom ps n hs = (.ok i, m)) : ps.count ≤ 2 := by
  induction ps, n, hs using decodeFrom.induct with
  | case1 => simp [decodeFrom] at h
  | case2 ps n x t hx =>
    rw [decodeFrom_half ps n t hx] at h
    exact (decodeLast16_ok_count (Prod.mk.inj h).1).trans_le (Nat.zero_le 2)
  | case3 ps n x hx => simp [decodeFrom_single ps n hx] at h
  | case4 ps n x hx y rest w hp ih =>
    rw [decodeFrom_prefix ps n hx rest hp] at h
    have hle := ih h
    rw [Prefixes.count_add] at hle
    exact Nat.le_of_succ_le hle
  | case5 ps n x hx y rest w hp =>
    rw [decodeFrom_word ps n hx rest hp] at h
    exact decodeLast_ok_count (Prod.mk.inj h).1

end Sys2Proof

/-! ## The fetch of a bundle -/

namespace Sys2Proof.Machine

section Fetch

variable {s : State} {k : TaskCtx} {a : DWord} {x : Half}

/-- A 16-bit instruction ends the fetch (R53). -/
theorem State.fetchFrom_half (n : Nat) (h1 : s.fetchHalf k a = .ok x) (hx : (!x.getLsbD 0) = true) :
    s.fetchFrom k (n + 1) a = .ok [x] := by
  simp only [State.fetchFrom, h1, hx, if_true]

variable {y : Half} (h1 : s.fetchHalf k a = .ok x) (hx : ¬(!x.getLsbD 0) = true) (h2 : s.fetchHalf k (a + 2) = .ok y)
include h1 hx h2

/-- A word of another class than P ends the fetch (R54). -/
theorem State.fetchFrom_word (n : Nat) (hw : ¬isPrefixWord (y ++ x) = true) :
    s.fetchFrom k (n + 1) a = .ok [x, y] := by
  simp only [State.fetchFrom, h1, hx, h2, hw]
  rfl

/-- A word of class P is followed by the rest of its bundle (R54). -/
theorem State.fetchFrom_prefix {n : Nat} {t : List Half} (hw : isPrefixWord (y ++ x) = true)
    (ht : s.fetchFrom k n (a + 4) = .ok t) : s.fetchFrom k (n + 1) a = .ok (x :: y :: t) := by
  simp only [State.fetchFrom, h1, hx, h2, hw, ht, if_true]
  rfl

end Fetch

/-- The halfwords stand in memory one after the other from address a (R53). -/
def State.HoldsHalves (s : State) (k : TaskCtx) (a : DWord) (hs : List Half) : Prop :=
  ∀ j h, hs[j]? = some h → s.fetchHalf k (a + BitVec.ofNat 64 (2 * j)) = .ok h

theorem State.HoldsHalves.head {s : State} {k : TaskCtx} {a : DWord} {x : Half} {t : List Half}
    (h : s.HoldsHalves k a (x :: t)) : s.fetchHalf k a = .ok x := by
  simpa using h 0 x rfl

theorem State.HoldsHalves.tail {s : State} {k : TaskCtx} {a : DWord} {x : Half} {t : List Half}
    (h : s.HoldsHalves k a (x :: t)) : s.HoldsHalves k (a + 2) t := by
  intro j y hy
  have haddr : a + 2 + BitVec.ofNat 64 (2 * j) = a + BitVec.ofNat 64 (2 * (j + 1)) := by
    rw [Nat.mul_succ, Nat.add_comm, BitVec.ofNat_add, ← BitVec.add_assoc]
    rfl
  rw [haddr]
  exact h (j + 1) y hy

/-- The bound of the fetch is not used up while a bundle that decodes is read. -/
theorem exists_fuel_of_decodeFrom {ps : Prefixes} {n m fuel : Nat} {hs : List Half} {i : Instr}
    (h : decodeFrom ps n hs = (.ok i, m)) (hfuel : 2 < fuel + ps.count) : ∃ f, fuel = f + 1 := by
  have hcount := decodeFrom_ok_count h
  exact Nat.exists_eq_succ_of_ne_zero (by omega)

/-- The fetch reads the halfwords that the decoder takes, no more and no fewer; the bound on words of class P is never met, since a
bundle that decodes has at most two. -/
theorem State.fetchFrom_of_decodeFrom {s : State} {k : TaskCtx} {ps : Prefixes} {n : Nat} {hs : List Half} {i : Instr}
    (hd : decodeFrom ps n hs = (.ok i, n + hs.length)) :
    ∀ {a : DWord} {fuel : Nat}, s.HoldsHalves k a hs → 2 < fuel + ps.count → s.fetchFrom k fuel a = .ok hs := by
  induction ps, n, hs using decodeFrom.induct with
  | case1 => simp [decodeFrom] at hd
  | case2 ps n x t hx =>
    intro a fuel hh hfuel
    obtain ⟨fuel, rfl⟩ := exists_fuel_of_decodeFrom hd hfuel
    rw [decodeFrom_half ps n t hx] at hd
    have hlen := (Prod.mk.inj hd).2
    obtain rfl : t = [] := List.length_eq_zero_iff.mp (by simpa using hlen.symm)
    exact State.fetchFrom_half fuel hh.head hx
  | case3 ps n x hx => simp [decodeFrom_single ps n hx] at hd
  | case4 ps n x hx y rest w hp ih =>
    intro a fuel hh hfuel
    obtain ⟨fuel, rfl⟩ := exists_fuel_of_decodeFrom hd hfuel
    have hlen : n + (x :: y :: rest).length = n + 2 + rest.length := by
      rw [List.length_cons, List.length_cons]
      omega
    rw [decodeFrom_prefix ps n hx rest hp, hlen] at hd
    have haddr : a + 2 + 2 = a + 4 := BitVec.add_assoc a 2 2
    have hcount := ps.count_add w
    exact State.fetchFrom_prefix hh.head hx hh.tail.head hp (ih hd (haddr ▸ hh.tail.tail) (by omega))
  | case5 ps n x hx y rest w hp =>
    intro a fuel hh hfuel
    obtain ⟨fuel, rfl⟩ := exists_fuel_of_decodeFrom hd hfuel
    rw [decodeFrom_word ps n hx rest hp] at hd
    have hlen := (Prod.mk.inj hd).2
    obtain rfl : rest = [] := List.length_eq_zero_iff.mp (by simpa using hlen.symm)
    exact State.fetchFrom_word hh.head hx hh.tail.head fuel hp

/-- Where the halfwords of a bundle stand, the bundle is fetched and decoded (R53, R54, R78). -/
theorem State.bundle_of_decode {s : State} {k : TaskCtx} {a : DWord} {hs : List Half} {i : Instr}
    (hd : Sys2Proof.decode hs = (.ok i, hs.length)) (hh : s.HoldsHalves k a hs) : s.bundle k a = .ok (hs, i) := by
  have hfetch : s.fetchFrom k fetchFuel a = .ok hs :=
    State.fetchFrom_of_decodeFrom (ps := {}) (n := 0) (by rw [Nat.zero_add]; exact hd) hh (by decide)
  simp only [State.bundle, hfetch, hd]

/-- A group at whose address a bundle stands runs the bundle's instruction as the issuing one. -/
theorem State.runGroup_of_decode {s : State} {c : Ctx} {t : Team} {hs : List Half} {i : Instr}
    (ht : s.team? c.team = some t) (hd : Sys2Proof.decode hs = (.ok i, hs.length)) (hh : s.HoldsHalves (s.ctxOf t) c.pc hs) :
    s.runGroup c = exec i { s with cur := some { c with words := hs } } := by
  simp only [State.runGroup, State.fetch, ht, State.bundle_of_decode hd hh]

/-! ## The group that a step runs -/

/-- With no move given, a step runs the group that the focused quad issues next (R47). -/
theorem step_of_focus {s : State} {c : Ctx} {f : Nat × Nat} (hin : s.inbox = []) (hf : s.focus = some f)
    (hp : s.restamp.pick f.1 f.2 = some c) : step s = s.restamp.runGroup c := by
  simp only [step, State.move, State.restamp_inbox, hin, State.runSelf, State.restamp_focus, hf, Option.bind_some, hp]

/-- An issue move runs the group that its quad issues next, once its time has passed. -/
theorem step_of_issueMove {s s' : State} {c : Ctx} {core quad dt : Nat} {rest : List Move}
    (hin : s.inbox = { dt := dt, what := .issue core quad } :: rest)
    (hs : s' = { s.restamp with inbox := rest }.elapse dt) (hx : s.extest = false) (hp : s'.pick core quad = some c) :
    step s = s'.runGroup c := by
  have hx' : s'.extest = false := by simpa [hs] using hx
  simp only [step, State.move, State.restamp_inbox, hin, ← hs, State.runMove, hx', Bool.false_and, State.runWhat, hp]
  rfl

/-! ## The statements -/

/-- Settles O7: the frame is that of an issue that writes nothing, and a thread that was in no wait issues anew. -/
theorem issueAdvances : Obligations.IssueAdvances := by
  intro s i c t w h
  have hi := State.issue_go h
  refine ⟨State.advance_wrote hi, _, State.warp?_advance hi, fun ⟨l, hl, hwait⟩ => ?_⟩
  exact Warp.issued_retired s.tick hl (Thread.again_eq_false_of_wait hwait)

/-- Settles O3: both ways run the picked group, and the fetch of its bundle takes the halfwords that decode. -/
theorem stepRunsDecodedBundle : Obligations.StepRunsDecodedBundle := by
  intro s0 s c t hs i ht hd hh
  have hrun := State.runGroup_of_decode ht hd hh
  constructor
  · rintro f rfl hin hf hp
    exact (step_of_focus hin hf hp).trans hrun
  · intro core quad dt rest hin hs' hx hp
    exact (step_of_issueMove hin hs' hx hp).trans hrun

end Sys2Proof.Machine
end

/-! # Proofs: the encoding (R53 to R75, R79)

First the fields of a word that is built from its fields; then the words of each form, with what the decoder reads from
them; then a bundle's prefixes; and from these that an encoded instruction is decoded to itself. -/
section

namespace Sys2Proof

/-! ## Fields of concatenated words

A word's width is written as a number and not as the sum of its fields' widths, so these lemmas leave the word out of
simp's index. -/

section Append

variable {v w s l : Nat} (x : BitVec v) (y : BitVec w)

@[simp] theorem extractLsb'_append_low (h : s + l ≤ w) : (no_index (x ++ y)).extractLsb' s l = y.extractLsb' s l :=
  BitVec.extractLsb'_append_eq_of_add_le h

@[simp] theorem extractLsb'_append_high (h : w ≤ s) : (no_index (x ++ y)).extractLsb' s l = x.extractLsb' (s - w) l :=
  BitVec.extractLsb'_append_eq_of_le h

theorem getLsbD_append_low (h : s < w) : (no_index (x ++ y)).getLsbD s = y.getLsbD s := by
  rw [BitVec.getLsbD_append, if_pos h]

theorem getLsbD_append_high (h : w ≤ s) : (no_index (x ++ y)).getLsbD s = x.getLsbD (s - w) := by
  rw [BitVec.getLsbD_append, if_neg (Nat.not_lt.mpr h)]

end Append

@[simp] theorem Width.ofBits_bits (x : Width) : Width.ofBits x.bits = x := by cases x <;> rfl
@[simp] theorem FenceKind.ofBits_bits (x : FenceKind) : FenceKind.ofBits x.bits = x := by cases x <;> rfl
@[simp] theorem Scope.ofBits_bits (x : Scope) : Scope.ofBits x.bits = some x := by cases x <;> rfl
@[simp] theorem FtzSel.ofBits_bits (x : FtzSel) : FtzSel.ofBits x.bits = some x := by cases x <;> rfl
@[simp] theorem RmSel.ofBits_bits (x : RmSel) : RmSel.ofBits x.bits = some x := by cases x <;> rfl

/-- The modifier fields are read back from their 26 bits (R74). -/
@[simp] theorem Mods.ofBits_bits (m : Mods) : Mods.ofBits m.bits = some m := by
  simp only [Mods.ofBits, Mods.bits]
  simp [getLsbD_append_low, getLsbD_append_high, -BitVec.getLsbD_eq_getElem, BitVec.getLsbD_ofBool]

theorem Mods.bits_eq_zero {m : Mods} (h : m.bits = 0) : m = {} := by
  have hm := m.ofBits_bits
  rw [h] at hm
  exact (Option.some.inj hm).symm

/-! ## The fields of each word form -/

/-- A field of a field. -/
theorem fld_eq_extractLsb' {w : Word} {lo n : Nat} (s k : Nat) (h : s + k ≤ n) :
    fld w (lo + s) k = (fld w lo n).extractLsb' s k := by
  ext j hj
  have hn : s + j < n := by omega
  simp [fld, hn, Nat.add_assoc]

theorem fld_zero_four (w : Word) : fld w 0 4 = fld w 1 3 ++ fld w 0 1 :=
  (BitVec.extractLsb'_append_extractLsb'_eq_extractLsb' (x := w) (start₁ := 0) (len₁ := 1) (len₂ := 3) rfl).symm

/-- The bits of the word in the field [lo + n - 1 : lo]. -/
def fieldMask (lo n : Nat) : Word := (BitVec.allOnes n).setWidth 32 <<< lo

theorem and_fieldMask_eq_zero {w : Word} {lo n : Nat} (h : fld w lo n = 0) : w &&& fieldMask lo n = 0#32 := by
  apply BitVec.eq_of_getLsbD_eq
  intro j _
  rw [BitVec.getLsbD_and, BitVec.getLsbD_zero]
  by_cases hin : lo ≤ j ∧ j - lo < n
  · have hbit : (fld w lo n).getLsbD (j - lo) = false := by simp [h]
    rw [fld, BitVec.getLsbD_extractLsb', decide_eq_true hin.2, Nat.add_sub_cancel' hin.1, Bool.true_and] at hbit
    rw [hbit, Bool.false_and]
  · have hmask : (fieldMask lo n).getLsbD j = false := by
      simp [fieldMask]
      omega
    rw [hmask, Bool.and_false]

/-- The bits of a word that lie in a field that is 0. -/
theorem and_eq_zero_of_fld {w mask : Word} (lo n : Nat) (h : fld w lo n = 0) (hm : mask = fieldMask lo n) :
    w &&& mask = 0#32 := by
  rw [hm, and_fieldMask_eq_zero h]

/-- The bits of a word that lie in two fields that are 0. -/
theorem and_eq_zero_of_flds {w mask : Word} (lo n lo' n' : Nat) (h : fld w lo n = 0 ∧ fld w lo' n' = 0)
    (hm : mask = fieldMask lo n ||| fieldMask lo' n') : w &&& mask = 0#32 := by
  rw [hm, BitVec.and_or_distrib_left, and_fieldMask_eq_zero h.1, and_fieldMask_eq_zero h.2, BitVec.or_self]

/-- An immediate is read back where its imm8 stands in the word and the rest of it in the class P word (R64). -/
theorem immOf_pre {w : Word} {i : Imm} (h : fld w 21 8 = i.imm8) : immOf w i.pre = i := by
  cases i with
  | short b => exact congrArg Imm.short h
  | long hi lo =>
    have h6 : fld w 21 6 = lo := by
      rw [fld_eq_extractLsb' (lo := 21) (n := 8) 0 6 (by decide), h, Imm.imm8, extractLsb'_append_low _ _ (by decide),
        BitVec.extractLsb'_eq_self]
    exact congrArg (Imm.long hi) h6

@[simp] theorem offPre_getD (q : BitVec 26) : (offPre q).getD 0#26 = q := by
  unfold offPre
  split <;> simp_all

/-! ## What the decoder reads from each word form -/

theorem head_encA3 (cls : BitVec 3) (op : BitVec 5) (o : A3) :
    fld (encA3 cls op o) 1 3 = cls ∧ fld (encA3 cls op o) 4 5 = op := by
  simp [fld, encA3]

theorem a3Of_encA3 (cls : BitVec 3) (op : BitVec 5) (o : A3) : a3Of (encA3 cls op o) o.m = o := by
  simp [a3Of, fld, encA3]

theorem head_encCmp (cls : BitVec 3) (op : BitVec 5) (o : Cmp) :
    fld (encCmp cls op o) 1 3 = cls ∧ fld (encCmp cls op o) 4 5 = op := by
  simp [fld, encCmp]

theorem cmpOf_encCmp (cls : BitVec 3) (op : BitVec 5) (o : Cmp) : cmpOf (encCmp cls op o) o.m = o := by
  simp [cmpOf, fld, encCmp]

theorem head_encCvt (o : Cvt) : fld (encCvt o) 1 3 = 1#3 ∧ fld (encCvt o) 4 5 = 12#5 := by
  simp [fld, encCvt]

theorem cvtOf_encCvt (o : Cvt) : cvtOf (encCvt o) o.m = o := by
  simp [cvtOf, fld, encCvt]

theorem head_encSfu (op : BitVec 5) (o : Sfu) : fld (encSfu op o) 1 3 = 1#3 ∧ fld (encSfu op o) 4 5 = op := by
  simp [fld, encSfu]

theorem sfuOf_encSfu (op : BitVec 5) (o : Sfu) : sfuOf (encSfu op o) o.m = o := by
  simp [sfuOf, fld, encSfu]

theorem head_encRand (o : RandOp) : fld (encRand o) 1 3 = 1#3 ∧ fld (encRand o) 4 5 = 21#5 := by
  simp [fld, encRand]

theorem randOf_encRand (o : RandOp) : randOf (encRand o) = o := by
  simp [randOf, fld, encRand]

theorem head_encAi (op : BitVec 5) (o : AiOp) : fld (encAi op o) 1 3 = 2#3 ∧ fld (encAi op o) 4 5 = op := by
  simp [fld, encAi]

theorem imm8_encAi (op : BitVec 5) (o : AiOp) : fld (encAi op o) 21 8 = o.imm.imm8 := by
  simp [fld, encAi]

theorem aiOf_encAi (op : BitVec 5) (o : AiOp) : aiOf (encAi op o) o.m o.imm.pre = o := by
  rw [aiOf, immOf_pre (imm8_encAi op o)]
  simp [fld, encAi]

theorem head_encCmpImm (op : BitVec 5) (o : CmpImm) : fld (encCmpImm op o) 1 3 = 2#3 ∧ fld (encCmpImm op o) 4 5 = op := by
  simp [fld, encCmpImm]

theorem imm8_encCmpImm (op : BitVec 5) (o : CmpImm) : fld (encCmpImm op o) 21 8 = o.imm.imm8 := by
  simp [fld, encCmpImm]

theorem cmpImmOf_encCmpImm (op : BitVec 5) (o : CmpImm) : cmpImmOf (encCmpImm op o) o.m o.imm.pre = o := by
  rw [cmpImmOf, immOf_pre (imm8_encCmpImm op o)]
  simp [fld, encCmpImm]

theorem head_encMem (op : BitVec 5) (o : Mem) : fld (encMem op o) 1 3 = 3#3 ∧ fld (encMem op o) 4 5 = op := by
  simp [fld, encMem]

theorem memOf_encMem (op : BitVec 5) (o : Mem) : memOf (encMem op o) o.m (offPre o.off) = o := by
  simp [memOf, fld, encMem]

theorem head_encAtom (op : BitVec 5) (o : Atom) : fld (encAtom op o) 1 3 = 3#3 ∧ fld (encAtom op o) 4 5 = op := by
  simp [fld, encAtom]

theorem atomOf_encAtom (op : BitVec 5) (o : Atom) : atomOf (encAtom op o) o.m (offPre o.off) = o := by
  simp [atomOf, fld, encAtom]

theorem kind_encAtom (op : BitVec 5) (o : Atom) : fld (encAtom op o) 25 4 = o.kind := by
  simp [fld, encAtom]

theorem head_encFenceR (o : FenceR) : fld (encFenceR o) 1 3 = 3#3 ∧ fld (encFenceR o) 4 5 = 24#5 := by
  simp [fld, encFenceR]

theorem read_encFenceR (o : FenceR) :
    ({ pred := fld (encFenceR o) 29 3, space := fld (encFenceR o) 27 2, va := fld (encFenceR o) 15 6,
       vlen := fld (encFenceR o) 9 6, m := o.m } : FenceR) = o := by
  simp [fld, encFenceR]

theorem head_encPhase (o : PhaseOp) : fld (encPhase o) 1 3 = 3#3 ∧ fld (encPhase o) 4 5 = 25#5 := by
  simp [fld, encPhase]

theorem read_encPhase (o : PhaseOp) :
    ({ pred := fld (encPhase o) 29 3, m := o.m } : PhaseOp) = o := by
  simp [fld, encPhase]

theorem head_encPrefetch (o : Prefetch) : fld (encPrefetch o) 1 3 = 3#3 ∧ fld (encPrefetch o) 4 5 = 26#5 := by
  simp [fld, encPrefetch]

theorem read_encPrefetch (o : Prefetch) :
    ({ pred := fld (encPrefetch o) 29 3, hint := fld (encPrefetch o) 27 2, va := fld (encPrefetch o) 15 6,
       m := o.m } : Prefetch) = o := by
  simp [fld, encPrefetch]

theorem head_encX (op : BitVec 5) (o : XOp) : fld (encX op o) 1 3 = 4#3 ∧ fld (encX op o) 4 5 = op := by
  simp [fld, encX]

theorem xOf_encX (op : BitVec 5) (o : XOp) : xOf (encX op o) = o := by
  simp [xOf, fld, encX]

theorem head_encBra (op : BitVec 4) (o : BraOp) : fld (encBra op o) 1 3 = 5#3 ∧ fld (encBra op o) 4 4 = op := by
  simp [fld, encBra]

theorem read_encBra (op : BitVec 4) (o : BraOp) :
    ({ off := fld (encBra op o) 12 20, pred := fld (encBra op o) 8 3 } : BraOp) = o := by
  simp [fld, encBra]

theorem head_encGuard (op : BitVec 4) (o : GuardOp) : fld (encGuard op o) 1 3 = 5#3 ∧ fld (encGuard op o) 4 4 = op := by
  simp [fld, encGuard]

theorem read_encGuard (op : BitVec 4) (o : GuardOp) :
    ({ pred := fld (encGuard op o) 8 3 } : GuardOp) = o := by
  simp [fld, encGuard]

theorem head_encJmp (o : JmpOp) : fld (encJmp o) 1 3 = 5#3 ∧ fld (encJmp o) 4 4 = 3#4 := by
  simp [fld, encJmp]

theorem read_encJmp (o : JmpOp) :
    ({ k := fld (encJmp o) 12 6, pred := fld (encJmp o) 8 3 } : JmpOp) = o := by
  simp [fld, encJmp]

theorem head_encBrx (o : BrxOp) : fld (encBrx o) 1 3 = 5#3 ∧ fld (encBrx o) 4 4 = 4#4 := by
  simp [fld, encBrx]

theorem read_encBrx (o : BrxOp) :
    ({ n := fld (encBrx o) 18 14, k := fld (encBrx o) 12 6, pred := fld (encBrx o) 8 3 } : BrxOp) = o := by
  simp [fld, encBrx]

theorem head_encLoop (o : LoopOp) : fld (encLoop o) 1 3 = 5#3 ∧ fld (encLoop o) 4 4 = 5#4 := by
  simp [fld, encLoop]

theorem read_encLoop (o : LoopOp) :
    ({ off := fld (encLoop o) 18 14, k := fld (encLoop o) 12 6, pred := fld (encLoop o) 8 3 } : LoopOp) = o := by
  simp [fld, encLoop]

section S

variable (op : BitVec 6) (la : BitVec 4) (b a d : BitVec 6)

theorem head_encS : fld (encS op la b a d) 1 3 = 6#3 ∧ fld (encS op la b a d) 4 6 = op := by
  simp [fld, encS]

theorem fields_encS : fld (encS op la b a d) 28 4 = la ∧ fld (encS op la b a d) 22 6 = b ∧
    fld (encS op la b a d) 16 6 = a ∧ fld (encS op la b a d) 10 6 = d := by
  simp [fld, encS]

end S

theorem sOf_encS (op : BitVec 6) (o : SOp) : sOf (encS op o.la o.b o.a o.d) = o := by
  simp only [sOf, fields_encS]

theorem sModOf_encS (op : BitVec 6) (o : SMod) : sModOf (encS op 0 o.b o.a o.d) o.m = o := by
  simp only [sModOf, fields_encS]

theorem sImmOf_encS (op : BitVec 6) (o : SImm) : sImmOf (encS op 0 o.b o.a o.d) (offPre o.imm) = o := by
  simp [sImmOf, fields_encS]

theorem texLdOf_encS (op : BitVec 6) (o : TexLd) : texLdOf (encS op o.la o.b o.a o.d) (offPre o.pre) = o := by
  simp [texLdOf, fields_encS]

theorem relayImmOf_encS (op : BitVec 6) (o : RelayImm) :
    relayImmOf (encS op 0 0 o.a o.d) (0#17 ++ o.seg ++ o.val) = o := by
  simp [relayImmOf, fields_encS]

/-- Every word form ends in bit 0 set (R53). -/
theorem odd_append {n : Nat} (x : BitVec n) : (x ++ 1#1).getLsbD 0 = true := getLsbD_append_low x 1#1 (by decide)

section Classes

variable {w : Word} {m : Mods} {p : Option (BitVec 26)}

theorem decode32_a3a (h : fld w 1 3 = 0#3) : decode32 w m p = decodeA3a w m := by
  rw [decode32, h]
  rfl

theorem decode32_a3b (h : fld w 1 3 = 1#3) : decode32 w m p = decodeA3b w m := by
  rw [decode32, h]
  rfl

theorem decode32_ai (h : fld w 1 3 = 2#3) : decode32 w m p = decodeAi w m p := by
  rw [decode32, h]
  rfl

theorem decode32_m (h : fld w 1 3 = 3#3) : decode32 w m p = decodeM w m p := by
  rw [decode32, h]
  rfl

theorem decode32_x (h : fld w 1 3 = 4#3) : decode32 w m p = decodeX w := by
  rw [decode32, h]
  rfl

theorem decode32_c (h : fld w 1 3 = 5#3) : decode32 w m p = decodeC w := by
  rw [decode32, h]
  rfl

theorem decode32_s (h : fld w 1 3 = 6#3) : decode32 w m p = decodeS w m p := by
  rw [decode32, h]
  rfl

end Classes

/-! ## Prefixes and the words of a bundle -/

theorem length_halvesOf (w : Word) : (halvesOf w).length = 2 := rfl

theorem halvesOf_join (w : Word) : w.extractLsb' 16 16 ++ w.extractLsb' 0 16 = w :=
  BitVec.extractLsb'_append_extractLsb'

theorem odd_of_extract {w : Word} (h : w.getLsbD 0 = true) : ¬(!(w.extractLsb' 0 16).getLsbD 0) = true := by
  simp [BitVec.getLsbD_extractLsb', h, -BitVec.getLsbD_eq_getElem]

theorem isPrefixWord_prefixWord (k : BitVec 2) (q : BitVec 26) : isPrefixWord (prefixWord k q) = true := by
  rw [isPrefixWord, fld_zero_four]
  simp [fld, prefixWord]

theorem not_isPrefixWord_of_decode32 {w : Word} {m : Mods} {p : Option (BitVec 26)} {i : Instr}
    (h : decode32 w m p = some i) : ¬ isPrefixWord w = true := by
  intro hw
  have hcls : fld w 1 3 = 7#3 := by
    rw [fld_eq_extractLsb' (lo := 0) (n := 4) 1 3 (by decide), eq_of_beq hw]
    rfl
  simp [decode32, hcls] at h

/-- A class P word is noted, whatever follows it (R54, R73). -/
theorem decodeFrom_prefixWord (ps : Prefixes) (n : Nat) (k : BitVec 2) (q : BitVec 26) (t : List Half) :
    decodeFrom ps n (halvesOf (prefixWord k q) ++ t) = decodeFrom (ps.add (prefixWord k q)) (n + 2) t := by
  have ho : (prefixWord k q).getLsbD 0 = true := odd_append _
  have hx := odd_of_extract ho
  have hw := isPrefixWord_prefixWord k q
  rw [← halvesOf_join (prefixWord k q)] at hw
  exact (decodeFrom_prefix ps n hx t hw).trans (by rw [halvesOf_join])

/-- An instruction word ends the bundle, whatever follows it (R54). -/
theorem decodeFrom_halvesOf (ps : Prefixes) (n : Nat) {w : Word} (t : List Half) (ho : w.getLsbD 0 = true)
    (hw : ¬ isPrefixWord w = true) : decodeFrom ps n (halvesOf w ++ t) = (decodeLast ps w, n + 2) := by
  rw [← halvesOf_join w] at hw
  exact (decodeFrom_word ps n (odd_of_extract ho) t hw).trans (by rw [halvesOf_join])

theorem fields_prefixWord (k : BitVec 2) (q : BitVec 26) :
    fld (prefixWord k q) 4 2 = k ∧ fld (prefixWord k q) 6 26 = q := by
  simp [fld, prefixWord]

theorem Prefixes.add_imm (ps : Prefixes) (q : BitVec 26) :
    ps.add (prefixWord 0#2 q) = { ps with imms := q :: ps.imms, count := ps.count + 1 } := by
  simp [Prefixes.add, fields_prefixWord]

theorem Prefixes.add_mod (ps : Prefixes) (q : BitVec 26) :
    ps.add (prefixWord 1#2 q) = { ps with mods := q :: ps.mods, count := ps.count + 1 } := by
  simp [Prefixes.add, fields_prefixWord]

/-- The prefixes that the encoder puts before a word. -/
def encPrefixes (p : Option (BitVec 26)) (m : Mods) : Prefixes :=
  { imms := p.toList, mods := if m = {} then [] else [m.bits],
    count := p.toList.length + (if m = {} then 0 else 1) }

theorem decodeFrom_encPre (p : Option (BitVec 26)) (m : Mods) (t : List Half) :
    decodeFrom {} 0 (encPre p m ++ t) = decodeFrom (encPrefixes p m) (encPre p m).length t := by
  by_cases hm : m = {} <;> cases p <;>
    simp [encPre, encPrefixes, hm, decodeFrom_prefixWord, Prefixes.add_imm, Prefixes.add_mod, length_halvesOf]

/-- Which modifiers and immediates an instruction accepts does not depend on the modifiers it carries. -/
theorem map_decode32_mods (w : Word) (m m' : Mods) (p : Option (BitVec 26)) :
    (decode32 w m p).map (fun i => (i.modMask, i.takesImm)) =
      (decode32 w m' p).map (fun i => (i.modMask, i.takesImm)) := by
  unfold decode32
  generalize (fld w 1 3).toNat = n
  split
  · unfold decodeA3a
    generalize (fld w 4 5).toNat = n
    split <;> rfl
  · unfold decodeA3b
    generalize (fld w 4 5).toNat = n
    split <;> rfl
  · unfold decodeAi
    generalize (fld w 4 5).toNat = n
    split <;> rfl
  · unfold decodeM
    generalize (fld w 4 5).toNat = n
    split <;> (try split) <;> rfl
  · rfl
  · rfl
  · unfold decodeS
    generalize (fld w 4 6).toNat = n
    split <;> rfl
  · rfl

/-- The prefixes of an encoding are those that its instruction accepts (R75). -/
theorem prefixCase_encPrefixes {p : Option (BitVec 26)} {m : Mods} {i : Instr} (himm : p.isSome → i.takesImm = true)
    (hmods : m.bits &&& ~~~ i.modMask = 0) : prefixCase (encPrefixes p m) i false = false := by
  have hi : (!(encPrefixes p m).imms.isEmpty && !i.takesImm) = false := by
    cases p with
    | none => rfl
    | some q => simp [himm rfl]
  by_cases hm : m = {}
  · simp [prefixCase, hi]
    cases p <;> simp [encPrefixes, hm]
  · have hmask : i.modMask ≠ 0 := by
      intro h0
      rw [h0] at hmods
      exact hm (Mods.bits_eq_zero ((BitVec.and_allOnes (x := m.bits)).symm.trans hmods))
    have hand : m.bits &&& mkFields &&& ~~~ i.modMask = 0 := by
      rw [BitVec.and_assoc, BitVec.and_comm mkFields, ← BitVec.and_assoc, hmods]
      exact BitVec.zero_and
    simp [prefixCase, hi]
    cases p <;> simp_all [encPrefixes]

/-! ## The instruction words -/

section ImmReserved

variable {w : Word} {i : Instr}

/-- The one reserved field that a long immediate adds to an instruction is imm8[7:6], and in class AI only (R64). -/
def Instr.ImmInAi (i : Instr) : Prop := ∀ w q, i.immReserved w (some q) = ((fld w 1 3 == 2) && (fld w 27 2 != 0))

theorem Instr.ImmInAi.immReserved_pre {m : Imm} (hi : i.ImmInAi) (h : fld w 21 8 = m.imm8) :
    i.immReserved w m.pre = false := by
  cases m with
  | short b => rfl
  | long q lo =>
    have h0 : fld w 27 2 = 0#2 := by
      rw [fld_eq_extractLsb' (lo := 21) (n := 8) 6 2 (by decide), h, Imm.imm8, extractLsb'_append_high _ _ (by decide),
        BitVec.extractLsb'_eq_self]
    simp [hi w, Imm.pre, h0]

theorem Instr.ImmInAi.immReserved_m (hi : i.ImmInAi) (h : fld w 1 3 = 3#3) (p : Option (BitVec 26)) :
    i.immReserved w p = false := by
  cases p with
  | none => rfl
  | some q => simp [hi w, h]

end ImmReserved

theorem and_resvBits_eq_zero {w : Word} {i : Instr} (h : i.resvBits = 0) : w &&& i.resvBits = 0#32 := by
  rw [h]
  exact BitVec.and_zero

/-- w is the instruction word of i, which follows the class P words of its immediate p and of its modifiers (R73). -/
structure Instr.HasWord (i : Instr) (w : Word) (p : Option (BitVec 26)) : Prop where
  encode_eq : encode i = encPre p i.mods ++ halvesOf w
  odd : w.getLsbD 0 = true
  decode_eq : decode32 w i.mods p = some i
  takesImm : p.isSome → i.takesImm = true
  resv : w &&& i.resvBits = 0#32
  immResv : i.immReserved w p = false

namespace Instr.HasWord

section Decode

variable {i : Instr} {w : Word} {p : Option (BitVec 26)} (h : i.HasWord w p) (hstatic : i.staticDetail = none)
  (hmods : i.mods.bits &&& ~~~ i.modMask = 0)
include h hstatic hmods

theorem decodeLast_eq : decodeLast (encPrefixes p i.mods) w = .ok i := by
  have hform := map_decode32_mods w {} i.mods p
  rw [h.decode_eq, Option.map_some, Option.map_eq_some_iff] at hform
  obtain ⟨i0, h0, hform⟩ := hform
  obtain ⟨hmask, htakes⟩ := Prod.mk.inj hform
  have hcase : prefixCase (encPrefixes p i.mods) i0 false = false :=
    prefixCase_encPrefixes (fun hp => htakes.trans (h.takesImm hp)) (hmask ▸ hmods)
  have himms : (encPrefixes p i.mods).imms.head? = p := by cases p <;> rfl
  have hbits : Mods.ofBits ((encPrefixes p i.mods).mods.headD 0) = some i.mods := by
    by_cases hm : i.mods = {}
    · simp only [encPrefixes, hm]
      rfl
    · simp [encPrefixes, hm]
  simp only [decodeLast, himms, h0, hcase, hbits, h.decode_eq, h.resv, h.immResv, hstatic]
  rfl

theorem decode_encode : decode (encode i) = (.ok i, (encode i).length) := by
  have hw := not_isPrefixWord_of_decode32 h.decode_eq
  have hword := decodeFrom_halvesOf (encPrefixes p i.mods) (encPre p i.mods).length [] h.odd hw
  rw [decode, h.encode_eq, decodeFrom_encPre, ← List.append_nil (halvesOf w), hword, h.decodeLast_eq hstatic hmods]
  simp [halvesOf]

end Decode

theorem of_none {i : Instr} {w : Word} (he : encode i = encPre none i.mods ++ halvesOf w) (ho : w.getLsbD 0 = true)
    (hd : decode32 w i.mods none = some i) (hr : w &&& i.resvBits = 0#32) : i.HasWord w none :=
  ⟨he, ho, hd, (nomatch ·), hr, rfl⟩

/-! For each form: the constructors whose operation code the decoder reads with that form's fields. -/

section Forms

variable {cls : BitVec 3} {op : BitVec 5}

theorem of_a3 {o : A3} {mk : A3 → Instr}
    (hd : ∀ w m, fld w 1 3 = cls → fld w 4 5 = op → decode32 w m none = some (mk (a3Of w m)))
    (he : encode (mk o) = encPre none o.m ++ halvesOf (encA3 cls op o)) (hm : (mk o).mods = o.m)
    (hr : (mk o).resvBits = 0) :
    (mk o).HasWord (encA3 cls op o) none := by
  obtain ⟨hc, hop⟩ := head_encA3 cls op o
  refine .of_none (hm ▸ he) (odd_append _) ?_ (and_resvBits_eq_zero hr)
  rw [hm, hd _ _ hc hop, a3Of_encA3]

theorem of_cmp {o : Cmp} {mk : Cmp → Instr}
    (hd : ∀ w m, fld w 1 3 = cls → fld w 4 5 = op → decode32 w m none = some (mk (cmpOf w m)))
    (he : encode (mk o) = encPre none o.m ++ halvesOf (encCmp cls op o)) (hm : (mk o).mods = o.m)
    (hr : (mk o).resvBits = 0) :
    (mk o).HasWord (encCmp cls op o) none := by
  obtain ⟨hc, hop⟩ := head_encCmp cls op o
  refine .of_none (hm ▸ he) (odd_append _) ?_ (and_resvBits_eq_zero hr)
  rw [hm, hd _ _ hc hop, cmpOf_encCmp]

theorem of_sfu {o : Sfu} {mk : Sfu → Instr}
    (hd : ∀ w m, fld w 1 3 = 1#3 → fld w 4 5 = op → decode32 w m none = some (mk (sfuOf w m)))
    (he : encode (mk o) = encPre none o.m ++ halvesOf (encSfu op o)) (hm : (mk o).mods = o.m)
    (hr : (mk o).resvBits = fieldMask 25 2) :
    (mk o).HasWord (encSfu op o) none := by
  obtain ⟨hc, hop⟩ := head_encSfu op o
  refine .of_none (hm ▸ he) (odd_append _) ?_ (and_eq_zero_of_fld 25 2 (by simp [fld, encSfu]) hr)
  rw [hm, hd _ _ hc hop, sfuOf_encSfu]

theorem of_ai {o : AiOp} {mk : AiOp → Instr}
    (hd : ∀ w m p, fld w 1 3 = 2#3 → fld w 4 5 = op → decode32 w m p = some (mk (aiOf w m p)))
    (he : encode (mk o) = encPre o.imm.pre o.m ++ halvesOf (encAi op o)) (hm : (mk o).mods = o.m)
    (hr : (mk o).resvBits = 0) (ht : (mk o).takesImm = true) (hi : (mk o).ImmInAi) :
    (mk o).HasWord (encAi op o) o.imm.pre := by
  obtain ⟨hc, hop⟩ := head_encAi op o
  refine ⟨hm ▸ he, odd_append _, ?_, fun _ => ht, and_resvBits_eq_zero hr, hi.immReserved_pre (imm8_encAi op o)⟩
  rw [hm, hd _ _ _ hc hop, aiOf_encAi]

theorem of_cmpImm {o : CmpImm} {mk : CmpImm → Instr}
    (hd : ∀ w m p, fld w 1 3 = 2#3 → fld w 4 5 = op → decode32 w m p = some (mk (cmpImmOf w m p)))
    (he : encode (mk o) = encPre o.imm.pre o.m ++ halvesOf (encCmpImm op o)) (hm : (mk o).mods = o.m)
    (hr : (mk o).resvBits = 0) (ht : (mk o).takesImm = true) (hi : (mk o).ImmInAi) :
    (mk o).HasWord (encCmpImm op o) o.imm.pre := by
  obtain ⟨hc, hop⟩ := head_encCmpImm op o
  refine ⟨hm ▸ he, odd_append _, ?_, fun _ => ht, and_resvBits_eq_zero hr,
    hi.immReserved_pre (imm8_encCmpImm op o)⟩
  rw [hm, hd _ _ _ hc hop, cmpImmOf_encCmpImm]

theorem of_mem {o : Mem} {mk : Mem → Instr}
    (hd : ∀ w m p, fld w 1 3 = 3#3 → fld w 4 5 = op → decode32 w m p = some (mk (memOf w m p)))
    (he : encode (mk o) = encPre (offPre o.off) o.m ++ halvesOf (encMem op o)) (hm : (mk o).mods = o.m)
    (hr : (mk o).resvBits = 0) (ht : (mk o).takesImm = true) (hi : (mk o).ImmInAi) :
    (mk o).HasWord (encMem op o) (offPre o.off) := by
  obtain ⟨hc, hop⟩ := head_encMem op o
  refine ⟨hm ▸ he, odd_append _, ?_, fun _ => ht, and_resvBits_eq_zero hr, hi.immReserved_m hc _⟩
  rw [hm, hd _ _ _ hc hop, memOf_encMem]

theorem of_atom {o : Atom} {mk : Atom → Instr}
    (hd : ∀ w m p, fld w 1 3 = 3#3 → fld w 4 5 = op → fld w 25 4 = o.kind →
      decode32 w m p = some (mk (atomOf w m p)))
    (he : encode (mk o) = encPre (offPre o.off) o.m ++ halvesOf (encAtom op o)) (hm : (mk o).mods = o.m)
    (hr : (mk o).resvBits = 0) (ht : (mk o).takesImm = true) (hi : (mk o).ImmInAi) :
    (mk o).HasWord (encAtom op o) (offPre o.off) := by
  obtain ⟨hc, hop⟩ := head_encAtom op o
  refine ⟨hm ▸ he, odd_append _, ?_, fun _ => ht, and_resvBits_eq_zero hr, hi.immReserved_m hc _⟩
  rw [hm, hd _ _ _ hc hop (kind_encAtom op o), atomOf_encAtom]

theorem of_x {o : XOp} {mk : XOp → Instr}
    (hd : ∀ w m, fld w 1 3 = 4#3 → fld w 4 5 = op → decode32 w m none = some (mk (xOf w)))
    (he : encode (mk o) = halvesOf (encX op o)) (hm : (mk o).mods = {})
    (hr : (mk o).resvBits = fieldMask 31 1) :
    (mk o).HasWord (encX op o) none := by
  obtain ⟨hc, hop⟩ := head_encX op o
  refine .of_none (by rw [he, hm]; rfl) (odd_append _) ?_ (and_eq_zero_of_fld 31 1 (by simp [fld, encX]) hr)
  rw [hm, hd _ _ hc hop, xOf_encX]

theorem of_bra {op : BitVec 4} {o : BraOp} {mk : BraOp → Instr}
    (hd : ∀ w m, fld w 1 3 = 5#3 → fld w 4 4 = op →
      decode32 w m none = some (mk { off := fld w 12 20, pred := fld w 8 3 }))
    (he : encode (mk o) = halvesOf (encBra op o)) (hm : (mk o).mods = {})
    (hr : (mk o).resvBits = fieldMask 11 1) :
    (mk o).HasWord (encBra op o) none := by
  obtain ⟨hc, hop⟩ := head_encBra op o
  refine .of_none (by rw [he, hm]; rfl) (odd_append _) ?_ (and_eq_zero_of_fld 11 1 (by simp [fld, encBra]) hr)
  rw [hm, hd _ _ hc hop, read_encBra]

theorem of_guard {op : BitVec 4} {o : GuardOp} {mk : GuardOp → Instr}
    (hd : ∀ w m, fld w 1 3 = 5#3 → fld w 4 4 = op → decode32 w m none = some (mk { pred := fld w 8 3 }))
    (he : encode (mk o) = halvesOf (encGuard op o)) (hm : (mk o).mods = {})
    (hr : (mk o).resvBits = fieldMask 12 20 ||| fieldMask 11 1) :
    (mk o).HasWord (encGuard op o) none := by
  obtain ⟨hc, hop⟩ := head_encGuard op o
  refine .of_none (by rw [he, hm]; rfl) (odd_append _) ?_ (and_eq_zero_of_flds 12 20 11 1 (by simp [fld, encGuard]) hr)
  rw [hm, hd _ _ hc hop, read_encGuard]

theorem of_s {op : BitVec 6} {o : SOp} {mk : SOp → Instr}
    (hd : ∀ w m, fld w 1 3 = 6#3 → fld w 4 6 = op → decode32 w m none = some (mk (sOf w)))
    (he : encode (mk o) = halvesOf (encS op o.la o.b o.a o.d)) (hm : (mk o).mods = {})
    (hr : (mk o).resvBits = 0) :
    (mk o).HasWord (encS op o.la o.b o.a o.d) none := by
  obtain ⟨hc, hop⟩ := head_encS op o.la o.b o.a o.d
  refine .of_none (by rw [he, hm]; rfl) (odd_append _) ?_ (and_resvBits_eq_zero hr)
  rw [hm, hd _ _ hc hop, sOf_encS]

theorem of_sMod {op : BitVec 6} {o : SMod} {mk : SMod → Instr}
    (hd : ∀ w m, fld w 1 3 = 6#3 → fld w 4 6 = op → decode32 w m none = some (mk (sModOf w m)))
    (he : encode (mk o) = encPre none o.m ++ halvesOf (encS op 0 o.b o.a o.d)) (hm : (mk o).mods = o.m)
    (hr : (mk o).resvBits = fieldMask 28 4) :
    (mk o).HasWord (encS op 0 o.b o.a o.d) none := by
  obtain ⟨hc, hop⟩ := head_encS op 0 o.b o.a o.d
  refine .of_none (hm ▸ he) (odd_append _) ?_ (and_eq_zero_of_fld 28 4 (by simp [fields_encS]) hr)
  rw [hm, hd _ _ hc hop, sModOf_encS]

theorem of_sImm {op : BitVec 6} {o : SImm} {mk : SImm → Instr}
    (hd : ∀ w m p, fld w 1 3 = 6#3 → fld w 4 6 = op → decode32 w m p = some (mk (sImmOf w p)))
    (he : encode (mk o) = encPre (offPre o.imm) {} ++ halvesOf (encS op 0 o.b o.a o.d)) (hm : (mk o).mods = {})
    (hr : (mk o).resvBits = fieldMask 28 4) (ht : (mk o).takesImm = true) (hi : ∀ w p, (mk o).immReserved w p = false) :
    (mk o).HasWord (encS op 0 o.b o.a o.d) (offPre o.imm) := by
  obtain ⟨hc, hop⟩ := head_encS op 0 o.b o.a o.d
  refine ⟨hm ▸ he, odd_append _, ?_, fun _ => ht, (and_eq_zero_of_fld 28 4 (by simp [fields_encS]) hr), hi _ _⟩
  rw [hm, hd _ _ _ hc hop, sImmOf_encS]

theorem of_relayImm {op : BitVec 6} {o : RelayImm} {mk : RelayImm → Instr}
    (hd : ∀ w m q, fld w 1 3 = 6#3 → fld w 4 6 = op → decode32 w m (some q) = some (mk (relayImmOf w q)))
    (he : encode (mk o) = halvesOf (prefixWord 0 (0#17 ++ o.seg ++ o.val)) ++ halvesOf (encS op 0 0 o.a o.d))
    (hm : (mk o).mods = {}) (hr : (mk o).resvBits = fieldMask 28 4 ||| fieldMask 22 6) (ht : (mk o).takesImm = true)
    (hi : ∀ w q, (mk o).immReserved w (some q) = (q.extractLsb' 9 17 != 0)) :
    (mk o).HasWord (encS op 0 0 o.a o.d) (some (0#17 ++ o.seg ++ o.val)) := by
  obtain ⟨hc, hop⟩ := head_encS op 0 0 o.a o.d
  refine ⟨by rw [he, hm]; rfl, odd_append _, ?_, fun _ => ht,
    and_eq_zero_of_flds 28 4 22 6 (by simp [fields_encS]) hr, ?_⟩
  · rw [hm, hd _ _ _ hc hop, relayImmOf_encS]
  · simp [hi]

end Forms

theorem cvt (o : Cvt) : (Instr.cvt o).HasWord (encCvt o) none := by
  obtain ⟨hc, hop⟩ := head_encCvt o
  refine .of_none rfl (odd_append _) ?_ BitVec.and_zero
  rw [decode32_a3b hc, decodeA3b, hop]
  exact congrArg (some ∘ Instr.cvt) (cvtOf_encCvt o)

theorem rand (o : RandOp) : (Instr.rand o).HasWord (encRand o) none := by
  obtain ⟨hc, hop⟩ := head_encRand o
  refine .of_none rfl (odd_append _) ?_ (and_eq_zero_of_fld 25 2 (by simp [fld, encRand]) rfl)
  rw [decode32_a3b hc, decodeA3b, hop]
  exact congrArg (some ∘ Instr.rand) (randOf_encRand o)

theorem fenceR (o : FenceR) : (Instr.fenceR o).HasWord (encFenceR o) none := by
  obtain ⟨hc, hop⟩ := head_encFenceR o
  refine .of_none rfl (odd_append _) ?_ (and_eq_zero_of_flds 25 2 21 4 (by simp [fld, encFenceR]) rfl)
  rw [decode32_m hc, decodeM, hop]
  exact congrArg (some ∘ Instr.fenceR) (read_encFenceR o)

theorem phase (o : PhaseOp) : (Instr.phase o).HasWord (encPhase o) none := by
  obtain ⟨hc, hop⟩ := head_encPhase o
  refine .of_none rfl (odd_append _) ?_ (and_eq_zero_of_fld 9 20 (by simp [fld, encPhase]) rfl)
  rw [decode32_m hc, decodeM, hop]
  exact congrArg (some ∘ Instr.phase) (read_encPhase o)

theorem prefetchG (o : Prefetch) : (Instr.prefetchG o).HasWord (encPrefetch o) none := by
  obtain ⟨hc, hop⟩ := head_encPrefetch o
  refine .of_none rfl (odd_append _) ?_ (and_eq_zero_of_flds 21 6 9 6 (by simp [fld, encPrefetch]) rfl)
  rw [decode32_m hc, decodeM, hop]
  exact congrArg (some ∘ Instr.prefetchG) (read_encPrefetch o)

theorem jmp (o : JmpOp) : (Instr.jmp o).HasWord (encJmp o) none := by
  obtain ⟨hc, hop⟩ := head_encJmp o
  refine .of_none rfl (odd_append _) ?_ (and_eq_zero_of_flds 18 14 11 1 (by simp [fld, encJmp]) rfl)
  rw [decode32_c hc, decodeC, hop]
  exact congrArg (some ∘ Instr.jmp) (read_encJmp o)

theorem brx (o : BrxOp) : (Instr.brx o).HasWord (encBrx o) none := by
  obtain ⟨hc, hop⟩ := head_encBrx o
  refine .of_none rfl (odd_append _) ?_ (and_eq_zero_of_fld 11 1 (by simp [fld, encBrx]) rfl)
  rw [decode32_c hc, decodeC, hop]
  exact congrArg (some ∘ Instr.brx) (read_encBrx o)

theorem loop (o : LoopOp) : (Instr.loop o).HasWord (encLoop o) none := by
  obtain ⟨hc, hop⟩ := head_encLoop o
  refine .of_none rfl (odd_append _) ?_ (and_eq_zero_of_fld 11 1 (by simp [fld, encLoop]) rfl)
  rw [decode32_c hc, decodeC, hop]
  exact congrArg (some ∘ Instr.loop) (read_encLoop o)

theorem texld (o : TexLd) : (Instr.texld o).HasWord (encS 41 o.la o.b o.a o.d) (offPre o.pre) := by
  obtain ⟨hc, hop⟩ := head_encS 41 o.la o.b o.a o.d
  refine ⟨rfl, odd_append _, ?_, fun _ => rfl, BitVec.and_zero, by cases offPre o.pre <;> rfl⟩
  rw [decode32_s hc, decodeS.eq_def, hop]
  exact congrArg (some ∘ Instr.texld) (texLdOf_encS 41 o)

end Instr.HasWord

/-! ## The 16-bit format (R55, R56) -/

theorem decode_half {x : Half} (h0 : x.getLsbD 0 = false) (h15 : x.getLsbD 15 = false) :
    decode [x] = (.ok (decode16 x), 1) := by
  rw [decode, decodeFrom_half _ _ _ (by rw [h0]; rfl), decodeLast16, h15]
  rfl

theorem fields_enc16 (op : BitVec 4) (o : R16) :
    (enc16 op o).extractLsb' 1 4 = op ∧ (enc16 op o).extractLsb' 5 5 = o.vd ∧ (enc16 op o).extractLsb' 10 5 = o.vb ∧
      (enc16 op o).getLsbD 0 = false ∧ (enc16 op o).getLsbD 15 = false := by
  simp [enc16, getLsbD_append_low, getLsbD_append_high, -BitVec.getLsbD_eq_getElem]

theorem decode_encode_of_enc16 {op : BitVec 4} {o : R16} {mk : R16 → Instr}
    (hd : ∀ x : Half, x.extractLsb' 1 4 = op → decode16 x = mk { vb := x.extractLsb' 10 5, vd := x.extractLsb' 5 5 })
    (he : encode (mk o) = [enc16 op o]) : decode (encode (mk o)) = (.ok (mk o), (encode (mk o)).length) := by
  obtain ⟨hop, hvd, hvb, h0, h15⟩ := fields_enc16 op o
  rw [he, decode_half h0 h15, hd _ hop, hvd, hvb]
  rfl

/-- The halfword of movi (R55). -/
def encMovi16 (o : Movi16) : Half := (0#1 ++ o.imm ++ o.vd ++ 15#4 ++ 0#1 : BitVec 16)

theorem fields_encMovi16 (o : Movi16) :
    (encMovi16 o).extractLsb' 1 4 = 15#4 ∧ (encMovi16 o).extractLsb' 5 5 = o.vd ∧ (encMovi16 o).extractLsb' 10 5 = o.imm ∧
      (encMovi16 o).getLsbD 0 = false ∧ (encMovi16 o).getLsbD 15 = false := by
  simp [encMovi16, getLsbD_append_low, getLsbD_append_high, -BitVec.getLsbD_eq_getElem]

theorem decode_encode_movi16 (o : Movi16) :
    decode (encode (.movi16 o)) = (.ok (.movi16 o), (encode (.movi16 o)).length) := by
  obtain ⟨hop, hvd, himm, h0, h15⟩ := fields_encMovi16 o
  have hd : decode16 (encMovi16 o) = .movi16 o := by
    rw [decode16, hop, hvd, himm]
    rfl
  exact (decode_half h0 h15).trans (by rw [hd]; rfl)

/-- Every instruction that has words is of the 16-bit format or has an instruction word. -/
theorem decode_encode_or_hasWord (i : Instr) (hne : encode i ≠ []) (hred : i.redKindOk = true) :
    decode (encode i) = (.ok i, (encode i).length) ∨ ∃ w p, i.HasWord w p := by
  cases i with
  | mov16 o | iadd16 o | isub16 o | and16 o | or16 o | xor16 o | shl16 o | shr16 o | imin16 o | imax16 o | fadd16 o
  | fsub16 o | fmul16 o | fmax16 o | fmin16 o =>
    exact .inl (decode_encode_of_enc16 (fun x hop => by rw [decode16, hop]; rfl) rfl)
  | movi16 o => exact .inl (decode_encode_movi16 o)
  | iadd o | isub o | imul o | imulhi o | imac o | imin o | imax o | iminu o | imaxu o | and o | or o | xor o | andn o
  | shl o | shr o | sar o | rot o | bfe o | bfi o | popc o | clz o | brev o | bsel o | sel o | iaddc o | lea o | mov o =>
    exact .inr ⟨_, _, .of_a3 (fun w m hc hop => by rw [decode32_a3a hc, decodeA3a, hop]; rfl) rfl rfl rfl⟩
  | icmp o => exact .inr ⟨_, _, .of_cmp (fun w m hc hop => by rw [decode32_a3a hc, decodeA3a, hop]; rfl) rfl rfl rfl⟩
  | fadd o | fsub o | fmul o | ffma o | fmin o | fmax o | fclass o | hadd2 o | hmul2 o | hfma2 o | bfma2 o | fdiv o =>
    exact .inr ⟨_, _, .of_a3 (fun w m hc hop => by rw [decode32_a3b hc, decodeA3b, hop]; rfl) rfl rfl rfl⟩
  | fcmp o => exact .inr ⟨_, _, .of_cmp (fun w m hc hop => by rw [decode32_a3b hc, decodeA3b, hop]; rfl) rfl rfl rfl⟩
  | cvt o => exact .inr ⟨_, _, .cvt o⟩
  | frcp o | frsq o | fsqrt o | fexp2 o | flog2 o | fsinp o | fcosp o =>
    exact .inr ⟨_, _, .of_sfu (fun w m hc hop => by rw [decode32_a3b hc, decodeA3b, hop]; rfl) rfl rfl rfl⟩
  | rand o => exact .inr ⟨_, _, .rand o⟩
  | iaddImm o | imulImm o | iminImm o | imaxImm o | iminuImm o | imaxuImm o | andImm o | orImm o | xorImm o | shlImm o
  | shrImm o | sarImm o | rotImm o | movImm o | faddImm o | fmulImm o | fminImm o | fmaxImm o | ffmaImm o | leaImm o =>
    exact .inr ⟨_, _, .of_ai (fun w m p hc hop => by rw [decode32_ai hc, decodeAi, hop]; rfl) rfl rfl rfl rfl
      fun _ _ => rfl⟩
  | icmpImm o | fcmpImm o =>
    exact .inr ⟨_, _, .of_cmpImm (fun w m p hc hop => by rw [decode32_ai hc, decodeAi, hop]; rfl) rfl rfl rfl rfl
      fun _ _ => rfl⟩
  | ldG o | ldS o | ldC o | ldX o | ldL o | ldK o | stG o | stS o | stC o | stX o | stL o | ldGSubword o | ldSSubword o
  | ldXSubword o | stGSubword o | stSSubword o | stXSubword o =>
    exact .inr ⟨_, _, .of_mem (fun w m p hc hop => by rw [decode32_m hc, decodeM, hop]; rfl) rfl rfl rfl rfl
      fun _ _ => rfl⟩
  | atomS o | atomC o | atomG o | atomX o =>
    exact .inr ⟨_, _, .of_atom (fun w m p hc hop _ => by rw [decode32_m hc, decodeM, hop]; rfl) rfl rfl rfl rfl
      fun _ _ => rfl⟩
  | redS o | redG o | redX o =>
    have hk : ¬ (o.kind = 9#4 ∨ o.kind = 10#4) := by simpa [Instr.redKindOk] using hred
    exact .inr ⟨_, _, .of_atom (fun w m p hc hop hkind => by
      rw [decode32_m hc, decodeM, hop]
      exact if_neg (hkind ▸ hk)) rfl rfl rfl rfl fun _ _ => rfl⟩
  | fenceR o => exact .inr ⟨_, _, .fenceR o⟩
  | phase o => exact .inr ⟨_, _, .phase o⟩
  | prefetchG o => exact .inr ⟨_, _, .prefetchG o⟩
  | cpy o | cpyMc o | cpyMm o | qfence o | osub o | opub o | caskres o | caskrel o | mgather o | mma o | mmaG o | gmma o
  | tzero o | tmovR o | tmovC o | tld o | tst o | tcvt o | tadd o | tscale o =>
    exact .inr ⟨_, _, .of_x (fun w m hc hop => by rw [decode32_x hc, decodeX, hop]; rfl) rfl rfl rfl⟩
  | bra o | call o =>
    exact .inr ⟨_, _, .of_bra (fun w m hc hop => by rw [decode32_c hc, decodeC, hop]; rfl) rfl rfl rfl⟩
  | ret o | exit o =>
    exact .inr ⟨_, _, .of_guard (fun w m hc hop => by rw [decode32_c hc, decodeC, hop]; rfl) rfl rfl rfl⟩
  | jmp o => exact .inr ⟨_, _, .jmp o⟩
  | brx o => exact .inr ⟨_, _, .brx o⟩
  | loop o => exact .inr ⟨_, _, .loop o⟩
  | barinit o | expect o =>
    exact .inr ⟨_, _, .of_sImm (fun w m p hc hop => by rw [decode32_s hc, decodeS.eq_def, hop]; rfl) rfl rfl rfl rfl
      fun w p => by cases p <;> rfl⟩
  | arrive o | wait o | bartest o =>
    exact .inr ⟨_, _, .of_sMod (fun w m hc hop => by rw [decode32_s hc, decodeS, hop]; rfl) rfl rfl rfl⟩
  | relayAtImm o | relayLoImm o | relayHiImm o | relaySwImm o =>
    exact .inr ⟨_, _, .of_relayImm (fun w m q hc hop => by rw [decode32_s hc, decodeS, hop]; rfl) rfl rfl rfl rfl
      fun _ _ => rfl⟩
  | texld o => exact .inr ⟨_, _, .texld o⟩
  | relayAt o | relayLo o | relayHi o | relaySw o | pollSome o | pollEach o | pollMask o | peers o | gred o | converge o
  | yield o | movs o | time o | cycles o | retired o | launch o | cont o | qpush o | qpop o | sqbind o | sqrd o | sqwr o
  | sqrel o | rayq o | raynext o | rayacc o | rayign o | rayend o | rayrd o | rtinv o | tex o | texq o | texfb o | emitv o
  | emitp o | pixout o | pixlock o | pixunlock o | discard o | brk o | agClaim o | agInst o | agEnd o | agSave o =>
    exact .inr ⟨_, _, .of_s (fun w m hc hop => by rw [decode32_s hc, decodeS, hop]; rfl) rfl rfl rfl⟩
  | _ => exact absurd rfl hne

/-- Settles O2, by the encoder's cases: each word form is read back field by field, and the prefixes before it are
those that its row accepts. -/
theorem encodeThenDecode : Obligations.EncodeThenDecode := by
  intro i hwf hne
  simp only [Instr.wf, Bool.and_eq_true, beq_iff_eq] at hwf
  obtain ⟨⟨⟨⟨hstatic, hmods⟩, hred⟩, -⟩, -⟩ := hwf
  obtain h | ⟨w, p, h⟩ := decode_encode_or_hasWord i hne hred
  · exact h
  · exact h.decode_encode hstatic hmods

end Sys2Proof
end

/-! # Proofs: task records (R79), and what the bundle rules refuse (R55, R73, R75, R78) -/
section

namespace Sys2Proof

open Spec

theorem taskRecOf_w0 (t : TaskRec) :
    taskRecOf t.w0 t.bufs t.w2 t.imm (t.pa.extractLsb' 0 32) (t.pa.extractLsb' 32 32) (t.pb.extractLsb' 0 32)
      (t.pb.extractLsb' 32 32) = t := by
  have hpa : t.pa.extractLsb' 32 32 ++ t.pa.extractLsb' 0 32 = t.pa := BitVec.extractLsb'_append_extractLsb'
  have hpb : t.pb.extractLsb' 32 32 ++ t.pb.extractLsb' 0 32 = t.pb := BitVec.extractLsb'_append_extractLsb'
  simp [taskRecOf, hpa, hpb, TaskRec.w0, fld, flag, getLsbD_append_low, getLsbD_append_high, -BitVec.getLsbD_eq_getElem,
    BitVec.getLsbD_ofBool]

/-- A field above another makes one field with it. -/
theorem fld_append_fld (w : Word) (lo n k : Nat) : fld w (lo + n) k ++ fld w lo n = fld w lo (k + n) :=
  BitVec.extractLsb'_append_extractLsb'_eq_extractLsb' rfl

theorem ofBool_flag (w : Word) (i : Nat) : BitVec.ofBool (flag w i) = fld w i 1 := by
  ext j hj
  obtain rfl : j = 0 := by omega
  simp [flag, fld]

theorem w0_taskRecOf (w0 w1 w2 w3 w4 w5 w6 w7 : Word) : (taskRecOf w0 w1 w2 w3 w4 w5 w6 w7).w0 = w0 := by
  simp only [TaskRec.w0, taskRecOf, ofBool_flag]
  rw [fld_append_fld w0 13 3 16, fld_append_fld w0 12 1 _, fld_append_fld w0 11 1 _, fld_append_fld w0 10 1 _,
    fld_append_fld w0 9 1 _, fld_append_fld w0 8 1 _, fld_append_fld w0 0 8 _]
  exact BitVec.extractLsb'_eq_self

theorem taskRecordWords : TaskRecordWords := by
  refine ⟨fun t => congrArg (some ∘ taskOf) (taskRecOf_w0 t), fun w0 w1 w2 w3 w4 w5 w6 w7 => ?_⟩
  simp only [TaskRec.words, w0_taskRecOf]
  simp [taskRecOf]

/-- Prefix kinds 10 and 11 are reserved (R73). -/
theorem Prefixes.badKind_add (ps : Prefixes) (k : BitVec 2) (q : BitVec 26) :
    (ps.add (prefixWord k q)).badKind = (ps.badKind || decide (2 ≤ k.toNat)) := by
  simp only [Prefixes.add, fields_prefixWord]
  split
  next h => simp [h]
  next h => simp [h]
  next h0 h1 =>
    have hk : 2 ≤ k.toNat := (Nat.two_le_iff _).mpr ⟨h0, h1⟩
    simp [hk]

theorem malformedBundles : MalformedBundles := by
  refine ⟨fun x r h0 h15 => ?_, fun q k x r hk h0 => ?_, fun q k w r hk ho hw => ?_⟩
  · rw [decode, decodeFrom_half _ _ _ (by rw [h0]; rfl), decodeLast16, h15]
    rfl
  · have hgood : (({} : Prefixes).add (prefixWord k q)).badKind = false := by
      simp [Prefixes.badKind_add, hk]
    rw [decode, decodeFrom_prefixWord, decodeFrom_half _ _ _ (by rw [h0]; rfl), decodeLast16, hgood, Prefixes.count_add]
    rfl
  · have hbad : (({} : Prefixes).add (prefixWord k q)).badKind = true := by
      simp [Prefixes.badKind_add, hk]
    rw [decode, List.append_assoc, decodeFrom_prefixWord, decodeFrom_halvesOf _ _ _ ho (by simp [hw]), decodeLast,
      hbad]
    rfl

/-- Settles O1: the decoder reads each of the words. -/
theorem specWordsDecode : Obligations.SpecWordsDecode :=
  ⟨rfl, rfl, rfl, rfl, rfl, rfl⟩

/-- Settles O37: records are read back field by field, and each refusal is the first check that fails. -/
theorem encodingRefusals : Obligations.EncodingRefusals :=
  ⟨taskRecordWords, malformedBundles⟩

end Sys2Proof
end

/-! # Proofs: what instructions do when they issue (R56, R64, R76, R78, R109 to R127)

First the lanes and the shared operations, one lemma for each that writes registers; then the values that the rules give
for the element functions; then each table of the statements, row by row. -/
section

namespace Sys2Proof.Machine

open Spec

/-! ## Halts at issue (R76, R78) -/

/-- What a kernel instruction does where its issue halts the warp does not depend on the instruction. -/
theorem exec_of_issue_halt {s : State} {i : Instr} {c : Ctx} {h : HaltInfo} (hi : s.issue i = .halt c h)
    (hne : encode i ≠ []) : exec i s = .next (s.haltWarp c h false) := by
  cases i with
  | mov16 o | iadd16 o | isub16 o | and16 o | or16 o | xor16 o | shl16 o | shr16 o | imin16 o | imax16 o | fadd16 o
  | fsub16 o | fmul16 o | fmax16 o | fmin16 o | movi16 o
  | iadd o | isub o | imul o | imulhi o | imac o | imin o | imax o | iminu o | imaxu o | and o | or o | xor o | andn o
  | shl o | shr o | sar o | rot o | bfe o | bfi o | popc o | clz o | brev o | bsel o | sel o | icmp o | iaddc o | lea o
  | mov o
  | fadd o | fsub o | fmul o | ffma o | fmin o | fmax o | fcmp o | fclass o | hadd2 o | hmul2 o | hfma2 o | bfma2 o | cvt o
  | fdiv o | frcp o | frsq o | fsqrt o | fexp2 o | flog2 o | fsinp o | fcosp o | rand o
  | iaddImm o | imulImm o | iminImm o | imaxImm o | iminuImm o | imaxuImm o | andImm o | orImm o | xorImm o | shlImm o
  | shrImm o | sarImm o | rotImm o | icmpImm o | movImm o | faddImm o | fmulImm o | fminImm o | fmaxImm o | ffmaImm o
  | fcmpImm o | leaImm o
  | ldG o | ldS o | ldC o | ldX o | ldL o | ldK o | stG o | stS o | stC o | stX o | stL o | ldGSubword o | ldSSubword o
  | ldXSubword o | stGSubword o | stSSubword o | stXSubword o | atomS o | atomC o | atomG o | atomX o | redS o | redG o
  | redX o | fenceR o | phase o | prefetchG o
  | cpy o | cpyMc o | cpyMm o | qfence o | osub o | opub o | caskres o | caskrel o | mgather o | mma o | mmaG o | gmma o
  | tzero o | tmovR o | tmovC o | tld o | tst o | tcvt o | tadd o | tscale o
  | bra o | call o | ret o | jmp o | brx o | loop o | exit o
  | barinit o | arrive o | expect o | wait o | bartest o | relayAt o | relayLo o | relayHi o | relaySw o | relayAtImm o
  | relayLoImm o | relayHiImm o | relaySwImm o | pollSome o | pollEach o | pollMask o | peers o | gred o | converge o
  | yield o | movs o | time o | cycles o | retired o | launch o | cont o | qpush o | qpop o | sqbind o | sqrd o | sqwr o
  | sqrel o | rayq o | raynext o | rayacc o | rayign o | rayend o | rayrd o | rtinv o | tex o | texld o | texq o | texfb o
  | emitv o | emitp o | pixout o | pixlock o | pixunlock o | discard o | brk o | agClaim o | agInst o | agEnd o | agSave o =>
    conv_lhs => whnf
    rw [hi]
  | _ => exact absurd rfl hne

section Halts

variable {s : State} {i : Instr} {c : Ctx} {t : Team} {w : Warp} (hc : s.cur = some c) (ht : s.team? c.team = some t)
  (hw : s.warp? c.team c.warp = some w) (hres : t.st = .resident) (hrun : w.halt = none) (hiss : issuable w c = true)
include hc ht hw hres hrun hiss

theorem State.issue_of_dynDetail {d : Nat} (hd : dynDetail w.width t.desc.vregs t.agent i = some d) :
    s.issue i = .halt c { cause := 1, detail := d } := by
  simp [State.issue, hc, ht, hw, hres, hrun, hiss, hd]

theorem State.issue_of_violates (hd : dynDetail w.width t.desc.vregs t.agent i = none)
    (hv : c.lanes.any (fun l => w.violates l (uses w.width i)) = true) : s.issue i = .halt c { cause := 2 } := by
  simp only [State.issue, hc, ht, hw, hres, hrun, hiss, hd, hv]
  rfl

end Halts

/-- Settles O11: both checks come before the instruction's own effect, whatever it is. -/
theorem issueHalts : Obligations.IssueHalts := by
  intro s i c t w hc ht hw hres hrun hiss hne
  exact ⟨fun d hd => exec_of_issue_halt (State.issue_of_dynDetail hc ht hw hres hrun hiss hd) hne,
    fun hd hv => exec_of_issue_halt (State.issue_of_violates hc ht hw hres hrun hiss hd hv) hne⟩

/-! ## The lanes that a guarded instruction writes -/

theorem mem_lanes_of_mem_active {w : Warp} {lanes : List Nat} {p : BitVec 3} {l : Nat} (h : l ∈ active w lanes p) :
    l ∈ lanes := List.mem_of_mem_filter h

/-- Predicate 7 is true in every lane (R57). -/
theorem active_seven (w : Warp) (lanes : List Nat) : active w lanes 7 = lanes := by
  simp [active, Thread.rp]

/-- Writes in the active lanes are writes in lanes of the group. -/
theorem mem_lanes_of_active_map {α : Type} {w : Warp} {lanes : List Nat} {p : BitVec 3} (g : Nat → α) :
    ∀ x ∈ (active w lanes p).map (fun l => (l, g l)), x.1 ∈ lanes := by
  simp only [List.mem_map]
  rintro _ ⟨l, hl, rfl⟩
  exact mem_lanes_of_mem_active hl

/-! ## The shared operations of the integer classes -/

theorem setWidth_six_toNat (x : BitVec 5) : (x.setWidth 6).toNat = x.toNat := by
  rw [BitVec.toNat_setWidth_of_le (by decide)]

/-- The 32-bit form of a 16-bit instruction writes vd alone, in every lane (R56). -/
theorem a3Writes_a3 (o : R16) (c : Ctx) (w : Warp) (f : Word → Word → Word → Word) :
    a3Writes (R16.a3 o) c w f = vWrites 7 o.vd.toNat c w (fun l =>
      f ((w.thr l).rv o.vd.toNat) ((w.thr l).rv o.vb.toNat) ((w.thr l).rv o.vd.toNat)) := by
  have hvd := setWidth_six_toNat o.vd
  have hvb := setWidth_six_toNat o.vb
  simp [a3Writes, vWrites, R16.a3, Width.n, A3.a, A3.b, A3.d, opnd, hvd, hvb]

section Integer

variable {s : State} {i : Instr} {c : Ctx} {t : Team} {w : Warp} (h : s.issue i = .go c t w)
include h

theorem aluA3_wrote (o : A3) (f : Word → Word → Word → Word) :
    ∃ s', aluA3 i o f s = .next s' ∧ Wrote s s' c w (a3Writes o c w f) :=
  ⟨_, kernelOp_go h _, State.writeLanes_wrote (State.issue_go h) _ (mem_lanes_of_active_map _)⟩

theorem aluImm_wrote (o : AiOp) (f : Word → Word → Word) :
    ∃ s', aluImm i o f s = .next s' ∧
      Wrote s s' c w (vWrites o.pred o.vd.toNat c w (fun l => f (opnd w l o.m.ka o.va 0) o.imm.int)) :=
  ⟨_, kernelOp_go h _, State.writeLanes_wrote (State.issue_go h) _ (mem_lanes_of_active_map _)⟩

theorem alu16_wrote (o : R16) (f : Word → Word → Word) :
    ∃ s', alu16 i o f s = .next s' ∧
      Wrote s s' c w (vWrites 7 o.vd.toNat c w (fun l => f ((w.thr l).rv o.vd.toNat) ((w.thr l).rv o.vb.toNat))) := by
  rw [← a3Writes_a3 o c w (fun a b _ => f a b)]
  exact aluA3_wrote h (R16.a3 o) (fun a b _ => f a b)

end Integer

/-! ## The values of the integer rules (R111) -/

theorem satS32_eq_clamp32 (x : Int) : satS32 x = clamp32 x := by
  unfold satS32 clamp32
  split
  next h =>
    rw [min_eq_right (by omega), max_eq_left (by omega)]
    rfl
  next h =>
    split
    next h' =>
      rw [min_eq_left (by omega), max_eq_right (by omega)]
      rfl
    next h' => rw [min_eq_right (by omega), max_eq_right (by omega)]

theorem iaddW_eq_narrow (sat : Bool) (a b : Word) : iaddW sat a b = narrow sat (a.toInt + b.toInt) := by
  cases sat
  · simp [iaddW, narrow, BitVec.ofInt_add]
  · exact satS32_eq_clamp32 _

theorem isubW_eq_narrow (sat : Bool) (a b : Word) : isubW sat a b = narrow sat (a.toInt - b.toInt) := by
  cases sat
  · change a - b = BitVec.ofInt 32 (a.toInt - b.toInt)
    rw [Int.sub_eq_add_neg, BitVec.ofInt_add, BitVec.ofInt_neg, BitVec.ofInt_toInt, BitVec.ofInt_toInt,
      BitVec.sub_eq_add_neg]
  · exact satS32_eq_clamp32 _

theorem iaddW_false (a b : Word) : iaddW false a b = BitVec.ofInt 32 (a.toInt + b.toInt) := iaddW_eq_narrow false a b

theorem isubW_false (a b : Word) : isubW false a b = BitVec.ofInt 32 (a.toInt - b.toInt) := isubW_eq_narrow false a b

theorem imulW_eq_narrow (sat : Bool) (a b : Word) : imulW sat a b = narrow sat (a.toInt * b.toInt) := by
  cases sat
  · simp [imulW, narrow, BitVec.ofInt_mul]
  · exact satS32_eq_clamp32 _

theorem imacW_eq_narrow (sat : Bool) (a b d : Word) : imacW sat a b d = narrow sat (a.toInt * b.toInt + d.toInt) := by
  cases sat
  · simp [imacW, narrow, BitVec.ofInt_mul, BitVec.ofInt_add]
  · exact satS32_eq_clamp32 _

theorem iminW_eq_min (a b : Word) : iminW a b = BitVec.ofInt 32 (min a.toInt b.toInt) := by
  unfold iminW
  split
  next h => rw [min_eq_right (le_of_lt h), BitVec.ofInt_toInt]
  next h => rw [min_eq_left (not_lt.mp h), BitVec.ofInt_toInt]

theorem imaxW_eq_max (a b : Word) : imaxW a b = BitVec.ofInt 32 (max a.toInt b.toInt) := by
  unfold imaxW
  split
  next h => rw [max_eq_right (le_of_lt h), BitVec.ofInt_toInt]
  next h => rw [max_eq_left (not_lt.mp h), BitVec.ofInt_toInt]

theorem iminuW_eq_min (a b : Word) : iminuW a b = BitVec.ofNat 32 (min a.toNat b.toNat) := by
  unfold iminuW
  split
  next h => rw [min_eq_right (le_of_lt h), BitVec.ofNat_toNat, BitVec.setWidth_eq]
  next h => rw [min_eq_left (not_lt.mp h), BitVec.ofNat_toNat, BitVec.setWidth_eq]

theorem imaxuW_eq_max (a b : Word) : imaxuW a b = BitVec.ofNat 32 (max a.toNat b.toNat) := by
  unfold imaxuW
  split
  next h => rw [max_eq_right (le_of_lt h), BitVec.ofNat_toNat, BitVec.setWidth_eq]
  next h => rw [max_eq_left (not_lt.mp h), BitVec.ofNat_toNat, BitVec.setWidth_eq]

theorem shlW_eq_mul (a b : Word) : shlW a b = BitVec.ofNat 32 (a.toNat * 2 ^ b.toNat) := by
  apply BitVec.eq_of_toNat_eq
  unfold shlW
  split
  next h => simp [Nat.shiftLeft_eq]
  next h =>
    have hdvd : 2 ^ 32 ∣ a.toNat * 2 ^ b.toNat := Dvd.dvd.mul_left (Nat.pow_dvd_pow 2 (not_lt.mp h)) _
    rw [BitVec.toNat_ofNat, Nat.mod_eq_zero_of_dvd hdvd]
    rfl

theorem shrW_eq_div (a b : Word) : shrW a b = BitVec.ofNat 32 (a.toNat / 2 ^ b.toNat) := by
  apply BitVec.eq_of_toNat_eq
  have hlt : a.toNat / 2 ^ b.toNat < 2 ^ 32 := (Nat.div_le_self _ _).trans_lt a.isLt
  rw [BitVec.toNat_ofNat, Nat.mod_eq_of_lt hlt]
  unfold shrW
  split
  next h => rw [BitVec.toNat_ushiftRight, Nat.shiftRight_eq_div_pow]
  next h =>
    rw [Nat.div_eq_of_lt (a.isLt.trans_le (Nat.pow_le_pow_right (by decide) (not_lt.mp h)))]
    rfl

theorem sarW_eq_div (a b : Word) : sarW a b = BitVec.ofInt 32 (a.toInt / 2 ^ b.toNat) := by
  unfold sarW
  split
  next h =>
    rw [← BitVec.ofInt_toInt (x := a.sshiftRight b.toNat), BitVec.toInt_sshiftRight, Int.shiftRight_eq_div_pow]
    push_cast
    rfl
  next h =>
    have hpow : (2 : Int) ^ 32 ≤ 2 ^ b.toNat := pow_le_pow_right₀ (by decide) (not_lt.mp h)
    have hlo := BitVec.le_toInt a
    have hhi := BitVec.toInt_lt (x := a)
    split
    next hm =>
      have hneg : a.toInt < 0 := by rwa [BitVec.msb_eq_toInt, decide_eq_true_iff] at hm
      have hdiv : a.toInt / 2 ^ b.toNat = -1 := by
        rw [Int.ediv_eq_iff_of_pos (by omega)]
        omega
      rw [hdiv]
      rfl
    next hm =>
      have hnn : 0 ≤ a.toInt := by simpa [BitVec.msb_eq_toInt] using hm
      rw [Int.ediv_eq_zero_of_lt hnn (by omega)]
      rfl

/-- From the top down, the elements before the first that fails. -/
theorem length_takeWhile_reverse_range (p : Nat → Bool) {m n : Nat} (hm : m < n) (hp : p m = false)
    (hall : ∀ j, m < j → j < n → p j = true) : ((List.range n).reverse.takeWhile p).length = n - 1 - m := by
  induction n with
  | zero => omega
  | succ n ih =>
    rw [List.range_succ, List.reverse_append]
    by_cases hmn : m = n
    · subst hmn
      simp [hp]
    · have hlt : m < n := by omega
      have hn := ih hlt (fun j h1 h2 => hall j h1 (by omega))
      simp only [List.reverse_singleton, List.singleton_append, List.takeWhile_cons, hall n hlt (by omega), if_true,
        List.length_cons, hn]
      omega

theorem clzW_eq_takeWhile (a : Word) :
    clzW a = BitVec.ofNat 32 (((List.range 32).reverse.takeWhile (fun j => !a.getLsbD j)).length) := by
  unfold clzW
  split
  next h =>
    subst h
    decide
  next h =>
    have ha : a.toNat ≠ 0 := fun h0 => h (BitVec.eq_of_toNat_eq h0)
    have hlt : Nat.log2 a.toNat < 32 := (Nat.log2_lt ha).mpr a.isLt
    have htop : (!a.getLsbD (Nat.log2 a.toNat)) = false := by
      simp [BitVec.getLsbD, Nat.testBit_log2 ha]
    have habove : ∀ j, Nat.log2 a.toNat < j → j < 32 → (!a.getLsbD j) = true := by
      intro j hj _
      have : a.toNat < 2 ^ j := (Nat.log2_lt ha).mp hj
      simp [BitVec.getLsbD, Nat.testBit_lt_two_pow this]
    rw [length_takeWhile_reverse_range (fun j => !a.getLsbD j) hlt htop habove]

/-! ## The integer tables -/

section Tables

variable {i : Instr} (s : State)

theorem exec_of_intA3 {o : A3} {f : Word → Word → Word → Word} (h : intA3 i = some (o, f)) :
    exec i s = aluA3 i o f s := by
  cases i with
  | iadd o => cases h; simp only [← iaddW_eq_narrow]; rfl
  | isub o => cases h; simp only [← isubW_eq_narrow]; rfl
  | imul o => cases h; simp only [← imulW_eq_narrow]; rfl
  | imac o => cases h; simp only [← imacW_eq_narrow]; rfl
  | imin o => cases h; simp only [← iminW_eq_min]; rfl
  | imax o => cases h; simp only [← imaxW_eq_max]; rfl
  | iminu o => cases h; simp only [← iminuW_eq_min]; rfl
  | imaxu o => cases h; simp only [← imaxuW_eq_max]; rfl
  | shl o => cases h; simp only [← shlW_eq_mul]; rfl
  | shr o => cases h; simp only [← shrW_eq_div]; rfl
  | sar o => cases h; simp only [← sarW_eq_div]; rfl
  | clz o => cases h; simp only [← clzW_eq_takeWhile]; rfl
  | imulhi o | and o | or o | xor o | andn o | rot o | bfe o | bfi o | popc o | brev o | bsel o | mov o => cases h; rfl
  | _ => cases h

theorem exec_of_int16 {o : R16} {f : Word → Word → Word} (h : int16 i = some (o, f)) : exec i s = alu16 i o f s := by
  cases i with
  | iadd16 o => cases h; simp only [← iaddW_false]; rfl
  | isub16 o => cases h; simp only [← isubW_false]; rfl
  | shl16 o => cases h; simp only [← shlW_eq_mul]; rfl
  | shr16 o => cases h; simp only [← shrW_eq_div]; rfl
  | imin16 o => cases h; simp only [← iminW_eq_min]; rfl
  | imax16 o => cases h; simp only [← imaxW_eq_max]; rfl
  | mov16 o | and16 o | or16 o | xor16 o => cases h; rfl
  | _ => cases h

theorem exec_of_intImm {o : AiOp} {f : Word → Word → Word} (h : intImm i = some (o, f)) : exec i s = aluImm i o f s := by
  cases i with
  | iaddImm o => cases h; simp only [← iaddW_eq_narrow]; rfl
  | imulImm o => cases h; simp only [← imulW_eq_narrow]; rfl
  | iminImm o => cases h; simp only [← iminW_eq_min]; rfl
  | imaxImm o => cases h; simp only [← imaxW_eq_max]; rfl
  | iminuImm o => cases h; simp only [← iminuW_eq_min]; rfl
  | imaxuImm o => cases h; simp only [← imaxuW_eq_max]; rfl
  | shlImm o => cases h; simp only [← shlW_eq_mul]; rfl
  | shrImm o => cases h; simp only [← shrW_eq_div]; rfl
  | sarImm o => cases h; simp only [← sarW_eq_div]; rfl
  | andImm o | orImm o | xorImm o | rotImm o | movImm o => cases h; rfl
  | _ => cases h

end Tables

/-- Settles O8: each row of the tables is the model's operation on the row's function. -/
theorem integerResults : Obligations.IntegerResults := by
  refine ⟨?_, ?_, ?_, ?_⟩
  · intro i o f hi s c t w h
    rw [exec_of_intA3 s hi]
    exact aluA3_wrote h o f
  · intro i o f hi s c t w h
    rw [exec_of_int16 s hi]
    exact alu16_wrote h o f
  · intro i o f hi s c t w h
    rw [exec_of_intImm s hi]
    exact aluImm_wrote h o f
  · intro o s c t w h
    have hx : exec (.movi16 o) s = execMovi16 o s := rfl
    rw [hx, execMovi16, kernelOp_go h, vWrites, active_seven]
    exact ⟨_, rfl, State.writeLanes_wrote (State.issue_go h) _ (by simp)⟩

/-! ## Floating point: results, and flags logged after them (R100, R101, R408) -/

theorem State.logArith_of_logCause_zero (s : State) (c : Ctx) {mode : Word} {fl : List (Nat × FpFlags)}
    (h : logCause mode (joinFlags (fl.map (fun p => p.2))) = 0) : s.logArith c mode fl = s := by
  simp only [State.logArith, h, if_true]

section Float

variable {s : State} {i : Instr} {c : Ctx} {t : Team} {w : Warp} (h : s.issue i = .go c t w)
include h

/-- An instruction that writes registers of the group's lanes and then logs flags. -/
theorem writesAndLogs_of_exec {ws : List (Nat × List (Reg × Word))} {fl : List (Nat × FpFlags)}
    (hx : exec i s = .next (((s.advance c w).writeLanes c ws).logArith c w.mode fl)) (hws : ∀ p ∈ ws, p.1 ∈ c.lanes) :
    WritesAndLogs i s c w ws fl :=
  ⟨_, State.writeLanes_wrote (State.issue_go h) ws hws, hx, fun hl => by rw [hx, State.logArith_of_logCause_zero _ _ hl]⟩

theorem aluF_writesAndLogs {o : A3} {f : FpCtl → Word → Word → Word → Word × FpFlags} (hx : exec i s = aluF i o f s) :
    WritesAndLogs i s c w (a3Writes o c w (fun a b d => (f (fpCtl w.mode o.m) a b d).1))
      ((active w c.lanes o.pred).map (fun l => (l, joinFlags ((List.range o.width.n).map (fun j =>
        (f (fpCtl w.mode o.m) (o.a w l j) (o.b w l j) (o.d w l j)).2))))) := by
  refine writesAndLogs_of_exec h ?_ (mem_lanes_of_active_map _)
  rw [hx, aluF, kernelOp_go h]
  simp only [List.map_map, Function.comp_def, a3Writes]

theorem aluImmF_writesAndLogs {o : AiOp} {f : FpCtl → Word → Word → Word → Word × FpFlags}
    (hx : exec i s = aluImmF i o f s) :
    WritesAndLogs i s c w
      (vWrites o.pred o.vd.toNat c w (fun l =>
        (f (fpCtl w.mode o.m) (opnd w l o.m.ka o.va 0) o.imm.flt ((w.thr l).rv o.vd.toNat)).1))
      ((active w c.lanes o.pred).map (fun l =>
        (l, (f (fpCtl w.mode o.m) (opnd w l o.m.ka o.va 0) o.imm.flt ((w.thr l).rv o.vd.toNat)).2))) := by
  refine writesAndLogs_of_exec h ?_ (mem_lanes_of_active_map _)
  rw [hx, aluImmF, kernelOp_go h]
  simp only [List.map_map, Function.comp_def, vWrites]

theorem alu16F_writesAndLogs {o : R16} {f : FpCtl → Word → Word → Word × FpFlags} (hx : exec i s = alu16F i o f s) :
    WritesAndLogs i s c w
      (vWrites 7 o.vd.toNat c w (fun l => (f (fpCtl w.mode {}) ((w.thr l).rv o.vd.toNat) ((w.thr l).rv o.vb.toNat)).1))
      ((active w c.lanes 7).map (fun l =>
        (l, joinFlags [(f (fpCtl w.mode {}) ((w.thr l).rv o.vd.toNat) ((w.thr l).rv o.vb.toNat)).2]))) := by
  have hvd := setWidth_six_toNat o.vd
  have hvb := setWidth_six_toNat o.vb
  have key := aluF_writesAndLogs h (o := R16.a3 o) (f := fun k a b _ => f k a b) hx
  rw [a3Writes_a3] at key
  simpa [R16.a3, Width.n, A3.a, A3.b, opnd, hvd, hvb] using key

end Float

section Tables

variable {i : Instr} (s : State)

theorem exec_of_floatA3 {o : A3} {f : FpCtl → Word → Word → Word → Word × FpFlags} (h : floatA3 i = some (o, f)) :
    exec i s = aluF i o f s := by
  cases i with
  | fadd o | fsub o | fmul o | ffma o | fdiv o | fmin o | fmax o | fclass o | hadd2 o | hmul2 o | hfma2 o | bfma2 o =>
    cases h; rfl
  | _ => cases h

theorem exec_of_float16 {o : R16} {f : FpCtl → Word → Word → Word × FpFlags} (h : float16 i = some (o, f)) :
    exec i s = alu16F i o f s := by
  cases i with
  | fadd16 o | fsub16 o | fmul16 o | fmax16 o | fmin16 o => cases h; rfl
  | _ => cases h

theorem exec_of_floatImm {o : AiOp} {f : FpCtl → Word → Word → Word → Word × FpFlags} (h : floatImm i = some (o, f)) :
    exec i s = aluImmF i o f s := by
  cases i with
  | faddImm o | fmulImm o | fminImm o | fmaxImm o | ffmaImm o => cases h; rfl
  | _ => cases h

end Tables

theorem floatResults : FloatResults := by
  refine ⟨fun i o f hi s c t w h => aluF_writesAndLogs h (exec_of_floatA3 s hi),
    fun i o f hi s c t w h => alu16F_writesAndLogs h (exec_of_float16 s hi),
    fun i o f hi s c t w h => aluImmF_writesAndLogs h (exec_of_floatImm s hi), fun o s c t w h => ?_⟩
  refine writesAndLogs_of_exec h ?_ (mem_lanes_of_active_map _)
  change execCvt o s = _
  rw [execCvt, kernelOp_go h]
  simp only [List.map_map, Function.comp_def, vWrites]

theorem floatCompares : FloatCompares := by
  refine ⟨fun o s c t w h => ?_, fun o s c t w h => ?_⟩
  · refine writesAndLogs_of_exec h ?_ (mem_lanes_of_active_map _)
    change execFcmp o s = _
    rw [execFcmp, kernelOp_go h]
    simp only [List.map_map, Function.comp_def, pWrites]
  · refine writesAndLogs_of_exec h ?_ (mem_lanes_of_active_map _)
    change execFcmpImm o s = _
    rw [execFcmpImm, kernelOp_go h]
    simp only [List.map_map, Function.comp_def, pWrites]

/-- Settles O39: each row of the tables is the model's operation on the row's function, which writes before it logs. -/
theorem floatInstructions : Obligations.FloatInstructions := ⟨floatResults, floatCompares⟩

/-! ## Special functions and rand (R125 to R127) -/

theorem exec_of_sfuOf (s : State) {i : Instr} {o : Sfu} {fn : SfuFn} (h : Spec.sfuOf i = some (o, fn)) :
    exec i s = sfuOp i o fn s := by
  cases i with
  | frcp o | frsq o | fsqrt o | fexp2 o | flog2 o | fsinp o | fcosp o => cases h; rfl
  | _ => cases h

theorem sfuOp_go {s : State} {i : Instr} {c : Ctx} {t : Team} {w : Warp} (h : s.issue i = .go c t w) (o : Sfu) (fn : SfuFn) :
    sfuOp i o fn s =
      let k := fpCtl w.mode o.m
      let r (l : Nat) := sfuResult fn k.rm k.ftz (fpA k .f32 (opnd w l o.m.ka o.va 0).toNat)
      .next (((s.advance c w).logArith c w.mode ((active w c.lanes o.pred).map (fun l => (l, (r l).2)))).commit c o.la.toNat
        [.v o.vd.toNat] (vWrites o.pred o.vd.toNat c w (fun l => BitVec.ofNat 32 (r l).1))) := by
  rw [sfuOp, kernelOp_go h]
  simp only [List.map_map, Function.comp_def, vWrites]

/-- No counter wraps, so no record is written. -/
theorem execRand_go {s : State} {o : RandOp} {c : Ctx} {t : Team} {w : Warp} (h : s.issue (.rand o) = .go c t w)
    (hwrap : ∀ l ∈ active w c.lanes o.pred, (w.thr l).rctr + 1 ≠ 0) :
    execRand o s = .next (((s.advance c w).mapThr c.team c.warp (fun l th =>
        if (active w c.lanes o.pred).contains l then { th with rctr := th.rctr + 1 } else th)).commit c o.la.toNat [.v o.vd.toNat]
      (vWrites o.pred o.vd.toNat c w (fun l => randValue (t.gidx w l) (w.rk o.ka.toNat) (w.thr l).rctr))) := by
  have hnone : (active w c.lanes o.pred).filter (fun l => (w.thr l).rctr + 1 == 0) = [] := by
    simpa using hwrap
  rw [execRand, kernelOp_go h]
  simp only [hnone, List.foldl_nil, vWrites]

/-- Settles O10: the flags are logged and the results handed over, at once or with a window. -/
theorem lookaheadResults : Obligations.LookaheadResults := by
  refine ⟨fun i o fn hi s c t w h => ?_, fun o s c t w h hwrap => execRand_go h hwrap⟩
  have hx := (exec_of_sfuOf s hi).trans (sfuOp_go h o fn)
  refine ⟨hx, fun hl => ⟨_, hx, ?_⟩⟩
  dsimp only
  rw [State.logArith_of_logCause_zero _ _ hl]
  exact State.commit_produced (State.issue_go h) _ _ _ (mem_lanes_of_active_map _)

end Sys2Proof.Machine
end

/-! # Proofs: fields, bytes, comparison, carry and address instructions (R112, R114 to R118) -/
section

namespace Sys2Proof.Machine

open Spec

/-! ## Kernel instructions that complete when they issue -/

section Completes

variable {s : State} {i : Instr} {c : Ctx} {t : Team} {w : Warp} {body : Ctx → Team → Warp → State → KOut}
  (h : s.issue i = .go c t w) (hx : exec i s = kernelOp i body s)
include h hx

theorem exec_of_body_ok {s1 : State} (hb : body c t w (s.advance c w) = .ok s1) : exec i s = .next s1 := by
  rw [hx, kernelOp_go h, hb]

theorem exec_of_body_halt {x : HaltInfo} (hb : body c t w (s.advance c w) = .halt x) :
    exec i s = .next (s.haltWarp c x false) := by
  rw [hx, kernelOp_go h, hb]

/-- An instruction that only writes registers of the group's lanes. -/
theorem exec_wrote {ws : List (Nat × List (Reg × Word))} (hws : ∀ p ∈ ws, p.1 ∈ c.lanes)
    (hb : body c t w (s.advance c w) = .ok ((s.advance c w).writeLanes c ws)) :
    ∃ s', exec i s = .next s' ∧ Wrote s s' c w ws :=
  ⟨_, exec_of_body_ok h hx hb, State.writeLanes_wrote (State.issue_go h) ws hws⟩

end Completes

/-- Writes in lanes of the group, one list for each. -/
theorem mem_lanes_of_map {α : Type} {lanes : List Nat} (g : Nat → α) :
    ∀ x ∈ lanes.map (fun l => (l, g l)), x.1 ∈ lanes := by
  simp only [List.mem_map]
  rintro _ ⟨l, hl, rfl⟩
  exact hl

/-! ## Fields of a word (R112) -/

theorem getLsbD_maskW (len k : Nat) : (maskW len).getLsbD k = (decide (k < 32) && decide (k < len)) := by
  simp [maskW, BitVec.getLsbD_ofNat, Nat.testBit_two_pow_sub_one]

theorem bfPos_eq (c : Word) : bfPos c = c.toNat % 32 := by
  simp [bfPos, BitVec.extractLsb'_toNat]

theorem bfLen_eq (c : Word) : bfLen c = min (c.toNat / 256 % 64) (32 - c.toNat % 32) := by
  simp [bfLen, bfPos_eq, BitVec.extractLsb'_toNat, Nat.shiftRight_eq_div_pow]

/-- The field taken, before its sign extension. -/
theorem getLsbD_field (a c : Word) (k : Nat) :
    ((a >>> bfPos c) &&& maskW (bfLen c)).getLsbD k = (decide (k < bfLen c) && a.getLsbD (bfPos c + k)) := by
  have hlen : bfLen c ≤ 32 - bfPos c := min_le_right _ _
  rw [BitVec.getLsbD_and, BitVec.getLsbD_ushiftRight, getLsbD_maskW]
  by_cases hk : k < bfLen c
  · simp [hk, show k < 32 by omega]
  · simp [hk]

theorem getLsbD_bfeW (a c : Word) {k : Nat} (hk : k < 32) :
    (bfeW a c).getLsbD k =
      if k < bfLen c then a.getLsbD (bfPos c + k)
      else decide (0 < bfLen c) && c.getLsbD 16 && a.getLsbD (bfPos c + bfLen c - 1) := by
  have hsign : (decide (0 < bfLen c) && ((a >>> bfPos c) &&& maskW (bfLen c)).getLsbD (bfLen c - 1)) =
      (decide (0 < bfLen c) && a.getLsbD (bfPos c + bfLen c - 1)) := by
    by_cases h0 : 0 < bfLen c
    · rw [getLsbD_field, show bfPos c + (bfLen c - 1) = bfPos c + bfLen c - 1 by omega]
      simp [show bfLen c - 1 < bfLen c by omega]
    · simp [h0]
  rw [bfeW, Bool.and_assoc, hsign, ← Bool.and_assoc, Bool.and_comm (c.getLsbD 16)]
  by_cases hl : k < bfLen c
  · rw [if_pos hl, apply_ite (fun x : Word => x.getLsbD k), BitVec.getLsbD_or, getLsbD_field, BitVec.getLsbD_not, getLsbD_maskW]
    simp [hl, hk]
  · rw [if_neg hl, apply_ite (fun x : Word => x.getLsbD k), BitVec.getLsbD_or, getLsbD_field, BitVec.getLsbD_not, getLsbD_maskW]
    simp [hl, hk]

theorem getLsbD_bfiW (a c d : Word) {k : Nat} (hk : k < 32) :
    (bfiW a c d).getLsbD k =
      if bfPos c ≤ k ∧ k < bfPos c + bfLen c then a.getLsbD (k - bfPos c) else d.getLsbD k := by
  have hin : (maskW (bfLen c) <<< bfPos c).getLsbD k = decide (bfPos c ≤ k ∧ k < bfPos c + bfLen c) := by
    rw [BitVec.getLsbD_shiftLeft, getLsbD_maskW]
    have hlen : bfLen c ≤ 32 - bfPos c := min_le_right _ _
    simp only [hk, decide_true, Bool.true_and, ← decide_not, ← Bool.decide_and, decide_eq_decide]
    omega
  rw [bfiW]
  simp only [BitVec.getLsbD_or, BitVec.getLsbD_and, BitVec.getLsbD_not, BitVec.getLsbD_shiftLeft, hin, getLsbD_maskW]
  by_cases hf : bfPos c ≤ k ∧ k < bfPos c + bfLen c
  · simp [hk, hf, Nat.not_lt.mpr hf.1]
    omega
  · simp [hk, hf]
    omega

theorem bitFieldRules : BitFieldRules := by
  refine ⟨fun o s c t w => ⟨fun h => aluA3_wrote h o (fun a b _ => bfeW a b), fun h => aluA3_wrote h o bfiW⟩,
    fun a c d k hk => ?_⟩
  rw [getLsbD_bfeW a c hk, getLsbD_bfiW a c d hk, bfPos_eq, bfLen_eq]
  exact ⟨fun h => if_pos h, fun h => if_neg (Nat.not_lt.mpr h), rfl⟩

/-! ## Bytes of a dword (R114) -/

theorem bselByte_eq (a b : Word) (i : Nat) :
    bselByte a b i = BitVec.ofNat 8 ((a.toNat + 4294967296 * b.toNat) / 256 ^ i) := by
  have hcat : (b ++ a : DWord).toNat = a.toNat + 4294967296 * b.toNat := by
    rw [BitVec.toNat_append, Nat.shiftLeft_eq, Nat.mul_comm, ← Nat.two_pow_add_eq_or_of_lt a.isLt]
    omega
  apply BitVec.eq_of_toNat_eq
  rw [bselByte, BitVec.extractLsb'_toNat, hcat, Nat.shiftRight_eq_div_pow, Nat.pow_mul, BitVec.toNat_ofNat]

theorem bselNibble_eq (a b : Word) (n : BitVec 4) :
    bselNibble a b n = if n.toNat < 8 then bselByte a b (n.toNat % 8)
      else if (bselByte a b (n.toNat % 8)).msb then 0xFF else 0 := by
  have hlow : (n.extractLsb' 0 3).toNat = n.toNat % 8 := by simp [BitVec.extractLsb'_toNat]
  have htop : n.getLsbD 3 = decide (8 ≤ n.toNat) := BitVec.msb_eq_decide n
  by_cases h8 : n.toNat < 8
  · simp only [bselNibble, hlow, htop, decide_eq_true_eq, h8, Nat.not_le.mpr h8, if_true, if_false]
  · simp only [bselNibble, hlow, htop, decide_eq_true_eq, h8, Nat.not_lt.mp h8, if_true, if_false]

theorem extractLsb'_bselW (a b sel : Word) {k : Nat} (hk : k < 4) :
    (bselW a b sel).extractLsb' (8 * k) 8 = bselNibble a b (sel.extractLsb' (4 * k) 4) := by
  unfold bselW
  interval_cases k <;> simp

theorem byteSelectRule : ByteSelectRule := by
  refine ⟨fun o s c t w h => aluA3_wrote h o bselW, fun a b d k hk => ?_⟩
  have hn : (d.extractLsb' (4 * k) 4).toNat = d.toNat / 2 ^ (4 * k) % 16 := by
    rw [BitVec.extractLsb'_toNat, Nat.shiftRight_eq_div_pow]
  rw [extractLsb'_bselW a b d hk, bselNibble_eq, bselByte_eq, hn]
  rfl

/-- Settles O38: the masks of the two field instructions bit by bit, and the bytes of bsel nibble by nibble. -/
theorem fieldAndByteInstructions : Obligations.FieldAndByteInstructions := ⟨bitFieldRules, byteSelectRule⟩

/-! ## Comparison (R116) -/

theorem beq_eq_decide_toInt (a b : Word) : (a == b) = decide (a.toInt = b.toInt) := by
  rw [Bool.eq_iff_iff, beq_iff_eq, decide_eq_true_iff, BitVec.toInt_inj]

theorem icmpW_eq_icmpHolds (cond : BitVec 3) (a b : Word) : icmpW cond a b = icmpHolds cond a b := by
  unfold icmpW icmpHolds
  generalize cond.toNat = n
  match n with
  | 0 => exact beq_eq_decide_toInt a b
  | 1 => exact (congrArg Bool.not (beq_eq_decide_toInt a b)).trans (decide_not (p := a.toInt = b.toInt)).symm
  | 2 | 3 | 4 | 5 | 6 | _ + 7 => rfl

/-! ## Carry (R117) -/

/-- The carry into element j of a chain of additions whose first carry is c. -/
def carryInto (g : Nat → Word × Word) (c : Bool) : Nat → Bool
  | 0 => c
  | j + 1 => decide (4294967296 ≤ (g j).1.toNat + (g j).2.toNat + (carryInto g c j).toNat)

theorem carryInto_succ (g : Nat → Word × Word) (c : Bool) (j : Nat) :
    carryInto (fun i => g (i + 1)) (carryInto g c 1) j = carryInto g c (j + 1) := by
  induction j with
  | zero => rfl
  | succ j ih => rw [carryInto, ih]; rfl

theorem toNat_carryInto_succ (g : Nat → Word × Word) (c : Bool) (j : Nat) :
    (carryInto g c (j + 1)).toNat = ((g j).1.toNat + (g j).2.toNat + (carryInto g c j).toNat) / 4294967296 := by
  have h1 := (g j).1.isLt
  have h2 := (g j).2.isLt
  have h3 := Bool.toNat_le (carryInto g c j)
  rw [carryInto]
  by_cases h : 4294967296 ≤ (g j).1.toNat + (g j).2.toNat + (carryInto g c j).toNat
  · simp only [h, decide_true, Bool.toNat_true]
    omega
  · simp only [h, decide_false, Bool.toNat_false]
    omega

theorem iaddcList_map_range (g : Nat → Word × Word) (c : Bool) (n : Nat) :
    iaddcList c ((List.range n).map g) =
      ((List.range n).map (fun j => BitVec.ofNat 32 ((g j).1.toNat + (g j).2.toNat + (carryInto g c j).toNat)),
        carryInto g c n) := by
  induction n generalizing g c with
  | zero => rfl
  | succ n ih =>
    have hs := ih (fun i => g (i + 1)) (carryInto g c 1)
    rw [List.range_succ_eq_map, List.map_cons, List.map_map, List.map_cons, List.map_map, iaddcList]
    simp only [carryInto_succ] at hs
    exact congrArg₂ (fun r b => (BitVec.ofNat 32 _ :: r, b)) (congrArg Prod.fst hs) (congrArg Prod.snd hs)

theorem mapIdx_map_range {α β : Type} (f : Nat → α → β) (g : Nat → α) (n : Nat) :
    ((List.range n).map g).mapIdx f = (List.range n).map (fun j => f j (g j)) := by
  apply List.ext_getElem <;> simp

/-- The carry into element j of an iaddc in a lane. -/
def iaddcCarry (o : A3) (w : Warp) (l : Nat) : Nat → Bool :=
  carryInto (fun j => (o.a w l j, o.b w l j)) ((w.thr l).rp o.pred.toNat)

/-- What iaddc writes in a lane: the sums with their carries, and the last carry. -/
theorem iaddc_lane (g : Nat → Word × Word) (c : Bool) (n vd pd : Nat) :
    (iaddcList c ((List.range n).map g)).1.mapIdx (fun j x => (Reg.v (vd + j), x)) ++
        [(Reg.p pd, if (iaddcList c ((List.range n).map g)).2 then (1 : Word) else 0)] =
      (List.range n).map (fun j =>
        (Reg.v (vd + j), BitVec.ofNat 32 ((g j).1.toNat + (g j).2.toNat + (carryInto g c j).toNat))) ++
        [(Reg.p pd, BitVec.ofNat 32 (carryInto g c n).toNat)] := by
  rw [iaddcList_map_range, mapIdx_map_range]
  cases carryInto g c n <;> rfl

/-! ## Addresses (R118) -/

theorem leaW_eq_ofInt (base : DWord) (b : Word) : leaW base b = BitVec.ofInt 64 (base.toInt + b.toInt) := by
  rw [leaW, BitVec.ofInt_add, BitVec.ofInt_toInt]
  rfl

/-! ## The statement -/

/-- Settles O9: each instruction's own writes, with the carries of iaddc as a chain from the first element up. -/
theorem compareSelectCarry : Obligations.CompareSelectCarry := by
  refine ⟨fun o s c t w h => ?_, fun o s c t w h => ?_, fun o s c t w h => ?_, fun o s c t w h => ?_,
    fun o s c t w h => ?_, fun o s c t w h => ?_⟩
  · simp only [← icmpW_eq_icmpHolds]
    exact exec_wrote h (rfl : exec _ s = execIcmp o s) (mem_lanes_of_active_map _) rfl
  · simp only [← icmpW_eq_icmpHolds]
    exact exec_wrote h (rfl : exec _ s = execIcmpImm o s) (mem_lanes_of_active_map _) rfl
  · exact exec_wrote h (rfl : exec _ s = execSel o s) (mem_lanes_of_map _) rfl
  · obtain ⟨s', hs, hw⟩ := exec_wrote h (rfl : exec _ s = execIaddc o s) (mem_lanes_of_map _) rfl
    simp only [iaddc_lane] at hw
    exact ⟨s', fun l j => (iaddcCarry o w l j).toNat, hs, fun l => Bool.cond_eq_ite _ _ _,
      fun l j => toNat_carryInto_succ _ _ _, hw⟩
  · simp only [← leaW_eq_ofInt]
    exact exec_wrote h (rfl : exec _ s = execLea o s) (mem_lanes_of_active_map _) rfl
  · simp only [← leaW_eq_ofInt]
    exact exec_wrote h (rfl : exec _ s = execLeaImm o s) (mem_lanes_of_active_map _) rfl

end Sys2Proof.Machine
end

/-! # Proofs: values of the floating-point rules (R91, R102, R120, R121) -/
section

namespace Sys2Proof.Machine

open Spec

/-! ## fmin and fmax (R121) -/

section MinMax

variable {x y : Num}

theorem fminNum_flags (f : Fmt) (x y : Num) : (fminNum f x y).2 = { nv := x.isSnan || y.isSnan } := by
  cases x <;> cases y <;> rfl

theorem fmaxNum_flags (f : Fmt) (x y : Num) : (fmaxNum f x y).2 = { nv := x.isSnan || y.isSnan } := by
  cases x <;> cases y <;> rfl

theorem fminmax_nan_nan (f : Fmt) (hx : x.isNan = true) (hy : y.isNan = true) :
    (fminNum f x y).1 = f.qnan ∧ (fmaxNum f x y).1 = f.qnan := by
  cases x <;> cases hx
  cases y <;> cases hy
  exact ⟨rfl, rfl⟩

theorem fminmax_nan_left (f : Fmt) (hx : x.isNan = true) (hy : y.isNan = false) :
    (fminNum f x y).1 = encodeNum f y ∧ (fmaxNum f x y).1 = encodeNum f y := by
  cases x <;> cases hx
  cases y <;> cases hy <;> exact ⟨rfl, rfl⟩

theorem fminmax_nan_right (f : Fmt) (hx : x.isNan = false) (hy : y.isNan = true) :
    (fminNum f x y).1 = encodeNum f x ∧ (fmaxNum f x y).1 = encodeNum f x := by
  cases y <;> cases hy
  cases x <;> cases hx <;> exact ⟨rfl, rfl⟩

/-- Of two numbers, the order of lessNum decides. -/
theorem fminmax_numbers (f : Fmt) (hx : x.isNan = false) (hy : y.isNan = false) :
    (fminNum f x y).1 = encodeNum f (if lessNum y x then y else x) ∧
      (fmaxNum f x y).1 = encodeNum f (if lessNum x y then y else x) := by
  cases x <;> cases hx <;> cases y <;> cases hy <;> exact ⟨rfl, rfl⟩

/-- The first number is the lesser where the second is not below it, and the first is below it or equal to it. -/
theorem fminmax_of_le (f : Fmt) (hx : x.isNan = false) (hy : y.isNan = false) (hyx : lessNum y x = false)
    (hxy : lessNum x y = true ∨ x = y) :
    (fminNum f x y).1 = encodeNum f x ∧ (fmaxNum f x y).1 = encodeNum f y := by
  obtain ⟨h1, h2⟩ := fminmax_numbers f hx hy
  rw [h1, h2, hyx]
  rcases hxy with hxy | rfl
  · simp [hxy]
  · simp

theorem fminmax_of_ge (f : Fmt) (hx : x.isNan = false) (hy : y.isNan = false) (hxy : lessNum x y = false)
    (hyx : lessNum y x = true ∨ x = y) :
    (fminNum f x y).1 = encodeNum f y ∧ (fmaxNum f x y).1 = encodeNum f x := by
  obtain ⟨h1, h2⟩ := fminmax_numbers f hx hy
  rw [h1, h2, hxy]
  rcases hyx with hyx | rfl
  · simp [hyx]
  · simp

/-! The order: the two infinities at its ends, and finite numbers by value. -/

theorem lessNum_negInf_right (x : Num) : lessNum x (.inf true) = false := by
  rcases x with _ | (_ | _) | _ <;> rfl

theorem lessNum_negInf_left (hy : y.isNan = false) : lessNum (.inf true) y = true ∨ .inf true = y := by
  rcases y with _ | (_ | _) | _
  · cases hy
  · exact .inl rfl
  · exact .inr rfl
  · exact .inl rfl

theorem lessNum_posInf_left (y : Num) : lessNum (.inf false) y = false := by
  rcases y with _ | (_ | _) | _ <;> rfl

theorem lessNum_posInf_right (hx : x.isNan = false) : lessNum x (.inf false) = true ∨ x = .inf false := by
  rcases x with _ | (_ | _) | _
  · cases hx
  · exact .inr rfl
  · exact .inl rfl
  · exact .inl rfl

theorem eq_fin_of_finite (hn : x.isNan = false) (hi : x.isInf = false) : ∃ n m, x = .fin n m := by
  cases x with
  | nan _ => cases hn
  | inf _ => cases hi
  | fin n m => exact ⟨n, m, rfl⟩

theorem lessNum_of_rat_lt (hx : x.isNan = false) (hy : y.isNan = false) (hxi : x.isInf = false) (hyi : y.isInf = false)
    (h : x.rat < y.rat) : lessNum x y = true ∧ lessNum y x = false := by
  obtain ⟨n, m, rfl⟩ := eq_fin_of_finite hx hxi
  obtain ⟨n', m', rfl⟩ := eq_fin_of_finite hy hyi
  simp [lessNum, h, not_lt.mpr h.le, h.ne']

theorem eq_fin_of_isZero (h : x.isZero = true) : ∃ n, x = .fin n 0 := by
  cases x with
  | nan _ => cases h
  | inf _ => cases h
  | fin n m => exact ⟨n, by simpa [Num.isZero] using h⟩

/-- -0 is below +0. -/
theorem lessNum_zeros (n n' : Bool) : lessNum (.fin n 0) (.fin n' 0) = (n && !n') := by
  cases n <;> cases n' <;> simp [lessNum, Num.rat, Num.neg?]

theorem fminmax_zeros (f : Fmt) (hx : x.isZero = true) (hy : y.isZero = true) :
    (fminNum f x y).1 = encodeNum f (if x.neg? then x else y) ∧
      (fmaxNum f x y).1 = encodeNum f (if x.neg? then y else x) := by
  obtain ⟨n, rfl⟩ := eq_fin_of_isZero hx
  obtain ⟨n', rfl⟩ := eq_fin_of_isZero hy
  obtain ⟨h1, h2⟩ := fminmax_numbers f (x := .fin n 0) (y := .fin n' 0) rfl rfl
  rw [h1, h2, lessNum_zeros, lessNum_zeros]
  cases n <;> cases n' <;> exact ⟨rfl, rfl⟩

end MinMax

theorem minMaxRule : MinMaxRule := by
  intro k a b
  refine ⟨fminNum_flags _ _ _, fmaxNum_flags _ _ _, fminmax_nan_nan .f32, fminmax_nan_left .f32, fminmax_nan_right .f32,
    fminmax_zeros .f32, fun hx hy => ?_, fun hx hy => ?_, fun hy hx => ?_, fun hy hx => ?_,
    fun hx hy hxi hyi => ⟨fun h => ?_, fun h => ?_⟩⟩
  · exact fminmax_of_le .f32 (by rw [hx]; rfl) hy (hx ▸ lessNum_negInf_right _) (hx ▸ lessNum_negInf_left hy)
  · exact fminmax_of_ge .f32 (by rw [hx]; rfl) hy (hx ▸ lessNum_posInf_left _)
      (hx ▸ (lessNum_posInf_right hy).imp_right Eq.symm)
  · exact fminmax_of_ge .f32 hx (by rw [hy]; rfl) (hy ▸ lessNum_negInf_right _)
      (hy ▸ (lessNum_negInf_left hx).imp_right Eq.symm)
  · exact fminmax_of_le .f32 hx (by rw [hy]; rfl) (hy ▸ lessNum_posInf_left _) (hy ▸ lessNum_posInf_right hx)
  · obtain ⟨h1, h2⟩ := lessNum_of_rat_lt hx hy hxi hyi h
    exact fminmax_of_le .f32 hx hy h2 (.inl h1)
  · obtain ⟨h1, h2⟩ := lessNum_of_rat_lt hy hx hyi hxi h
    exact fminmax_of_ge .f32 hx hy h2 (.inl h1)

/-! ## Rounding to an integer (R102) -/

theorem floorNat_eq_floor (a : Rat) : floorNat a = ⌊a⌋₊ := by
  rw [← Int.floor_toNat, Rat.floor_def']
  rfl

theorem floorNat_le {a : Rat} (h : 0 ≤ a) : (floorNat a : Rat) ≤ a := by
  rw [floorNat_eq_floor]
  exact Nat.floor_le h

theorem lt_floorNat_add_one (a : Rat) : a < (floorNat a : Rat) + 1 := by
  rw [floorNat_eq_floor]
  exact Nat.lt_floor_add_one a

theorem roundInt_up_bounds {a : Rat} (h : 0 ≤ a) :
    a ≤ (roundInt a .ru false : Rat) ∧ (roundInt a .ru false : Rat) < a + 1 := by
  have hlo := floorNat_le h
  have hhi := lt_floorNat_add_one a
  unfold roundInt
  simp only [beq_iff_eq, Bool.false_eq_true, if_false]
  split
  next hr => constructor <;> linarith
  next hr =>
    have hne : (floorNat a : Rat) < a := lt_of_le_of_ne hlo (fun e => hr (by linarith))
    push_cast
    constructor <;> linarith

theorem roundInt_nearest_bounds {a : Rat} (h : 0 ≤ a) (neg : Bool) :
    (roundInt a .rne neg : Rat) - 1 / 2 ≤ a ∧ a ≤ (roundInt a .rne neg : Rat) + 1 / 2 := by
  have hlo := floorNat_le h
  have hhi := lt_floorNat_add_one a
  unfold roundInt
  simp only [beq_iff_eq]
  split
  next hr => constructor <;> linarith
  next hr =>
    split
    next ht =>
      split
      · constructor <;> linarith
      · push_cast
        constructor <;> linarith
    next ht =>
      push_cast
      constructor <;> linarith

theorem roundInt_tie_even {a : Rat} (h : a = (floorNat a : Rat) + 1 / 2) (neg : Bool) : roundInt a .rne neg % 2 = 0 := by
  have htie : (a - (floorNat a : Rat)) * 2 = 1 := by linarith
  unfold roundInt
  simp only [htie, lt_irrefl, if_false, beq_self_eq_true, if_true]
  split
  next he => exact he
  next he => omega

theorem roundIntRule : RoundIntRule := fun a h neg =>
  ⟨⟨floorNat_le h, lt_floorNat_add_one a⟩, roundInt_nearest_bounds h neg, fun ht => roundInt_tie_even ht neg,
    roundInt_up_bounds h, rfl, rfl, rfl⟩

/-! ## NaN and invalid operands (R91, R120) -/

section Nan

variable {x y : Num} (rm : Rm)

theorem finishOp_nan (f : Fmt) (ftz sn b : Bool) : finishOp f rm false ftz sn (.nan b, false) = (f.qnan, { nv := b || sn }) := rfl

theorem finishOp_invalid (f : Fmt) (ftz sn : Bool) (z : Num) :
    finishOp f rm false ftz sn (z, true) = (f.qnan, { nv := true }) := rfl

@[simp] theorem Num.isNan_negate (x : Num) : x.negate.isNan = x.isNan := by cases x <;> rfl
@[simp] theorem Num.isSnan_negate (x : Num) : x.negate.isSnan = x.isSnan := by cases x <;> rfl

theorem addNum_nan (h : x.isNan = true ∨ y.isNan = true) : addNum rm x y = (.nan (x.isSnan || y.isSnan), false) := by
  cases x <;> cases y <;> simp_all [addNum, Num.isNan, Num.isSnan]

theorem mulNum_nan (h : x.isNan = true ∨ y.isNan = true) : mulNum x y = (.nan (x.isSnan || y.isSnan), false) := by
  cases x <;> cases y <;> simp_all [mulNum, Num.isNan, Num.isSnan]

theorem divNum_nan (h : x.isNan = true ∨ y.isNan = true) : divNum x y = (.nan (x.isSnan || y.isSnan), false, false) := by
  cases x <;> cases y <;> simp_all [divNum, Num.isNan, Num.isSnan]

theorem mulNum_inf_zero (hx : x.isInf = true) (hy : y.isZero = true) : mulNum x y = (.nan false, true) := by
  obtain ⟨n, rfl⟩ := eq_fin_of_isZero hy
  cases x <;> cases hx
  rfl

theorem divNum_zero (hz : x.isZero = false) (hi : x.isInf = false) (hn : x.isNan = false) (hy : y.isZero = true) :
    divNum x y = (.inf (x.neg? != y.neg?), false, true) := by
  obtain ⟨n, rfl⟩ := eq_fin_of_isZero hy
  obtain ⟨m, q, rfl⟩ := eq_fin_of_finite hn hi
  have hq : (q == 0) = false := hz
  simp [divNum, hq, Num.neg?]

end Nan

theorem nanRule : NanRule := by
  intro k a b hsat
  refine ⟨fun h => ?_, fun hx hy => ?_, fun hx hy => ?_, fun hz hi hn hy => ?_⟩
  · have hneg : (fpA k .f32 a).isNan = true ∨ (fpB k .f32 b).negate.isNan = true := by rwa [Num.isNan_negate]
    simp only [faddP, fsubP, fmulP, fdivP, hsat, addNum_nan _ h, addNum_nan _ hneg, mulNum_nan h, divNum_nan h, finishOp_nan,
      Bool.or_self, Num.isSnan_negate, and_true]
    exact ⟨rfl, rfl, rfl, rfl⟩
  · have hinv : addNum k.rm (fpA k .f32 a) (fpB k .f32 b) = (.nan false, true) := by rw [hx, hy]; rfl
    rw [faddP, hsat, hinv, finishOp_invalid]
    exact ⟨rfl, rfl⟩
  · rw [fmulP, hsat, mulNum_inf_zero hx hy, finishOp_invalid]
    exact ⟨rfl, rfl⟩
  · rw [fdivP, hsat, divNum_zero hz hi hn hy]
    exact ⟨rfl, rfl⟩

/-- Settles O40: the cases of fmin and fmax by the order of numbers, the floor of a magnitude, and the NaNs of each operation. -/
theorem floatValueRules : Obligations.FloatValueRules := ⟨minMaxRule, roundIntRule, nanRule⟩

end Sys2Proof.Machine
end

/-! # Proofs: special values, clocks and the instructions across lanes (R99, R129 to R136) -/
section

namespace Sys2Proof.Machine

open Spec

/-- Writes in one lane of the group. -/
theorem mem_lanes_of_single {s : State} {c : Ctx} {t : Team} {w : Warp} (h : Issued s c t w) (rs : List (Reg × Word)) :
    ∀ x ∈ [(c.lanes.headD 0, rs)], x.1 ∈ c.lanes := by
  have hmem : c.lanes.headD 0 ∈ c.lanes := by
    rw [List.headD_eq_head?_getD, List.head?_eq_some_head h.lanes]
    exact List.head_mem h.lanes
  simpa using hmem

/-! ## Special values (R129, R130) -/

theorem specialValueMoves : SpecialValueMoves := by
  intro o s c t w h
  have hx : exec (.movs o) s = execMovs o s := rfl
  have h1 := mem_lanes_of_single (State.issue_go h)
  refine ⟨fun hb => ?_, fun hb => ?_, fun hb => ?_, fun hb ha => ?_, fun hb ha => ?_, fun hb => ?_, fun hb => ?_⟩
  · exact exec_wrote h hx (mem_lanes_of_map _) (by simp only [hb]; rfl)
  · exact exec_of_body_ok h hx (by simp only [hb])
  · exact exec_wrote h hx (h1 _) (by simp only [hb]; rfl)
  · have ha' : o.a = 21 := BitVec.eq_of_toNat_eq ha
    exact exec_of_body_ok h hx (by simp only [hb, if_pos ha']; rfl)
  · have ha' : o.a ≠ 21 := fun e => ha (congrArg BitVec.toNat e)
    exact exec_of_body_ok h hx (by simp only [hb, if_neg ha'])
  · exact exec_wrote h hx (h1 _) (by simp only [hb]; rfl)
  · exact exec_wrote h hx (h1 _) (by simp only [hb]; rfl)

/-! ## The clocks (R131) -/

/-- The write of a u64 to a k pair. -/
def kPairWrites (c : Ctx) (d : BitVec 6) (x : DWord) : List (Nat × List (Reg × Word)) :=
  [(c.lanes.headD 0, [(Reg.k d.toNat, x.extractLsb' 0 32), (Reg.k (d.toNat + 1), x.extractLsb' 32 32)])]

/-- The value that time reads is not before the warp's last, and lies within 16 ns of the clock unless that last one is later. -/
theorem time_bounds (last now : Nat) (x : BitVec 8) :
    last ≤ max last (now + x.toNat % 33 - 16) ∧ now ≤ max last (now + x.toNat % 33 - 16) + 16 ∧
      (last ≤ now + 16 → max last (now + x.toNat % 33 - 16) ≤ now + 16) := by
  omega

theorem State.setKPair_wrote {s : State} {c : Ctx} {t : Team} {w : Warp} (h : Issued s c t w) (d : BitVec 6) (x : DWord) :
    Wrote s ((s.advance c w).setKPair c d x) c w (kPairWrites c d x) :=
  State.writeLanes_wrote h (kPairWrites c d x) (mem_lanes_of_single h _)

theorem clockReads : ClockReads := by
  intro o s c t w
  refine ⟨fun h => ?_, fun h hd => ?_, fun h hd => ?_, fun h hd => ?_, fun h hd => ?_⟩
  · exact exec_wrote h (rfl : exec _ s = execRetired o s) (mem_lanes_of_single (State.issue_go h) _) rfl
  · exact exec_wrote h (rfl : exec _ s = execCycles o s) (mem_lanes_of_single (State.issue_go h) _)
      (if_pos hd)
  · exact ⟨_, _, le_max_left _ _, State.setKPair_wrote (State.issue_go h) o.d _,
      exec_of_body_ok h (rfl : exec _ s = execCycles o s) (if_neg (Bool.not_eq_true _ ▸ hd))⟩
  · exact exec_wrote h (rfl : exec _ s = execTime o s) (mem_lanes_of_single (State.issue_go h) _)
      (if_pos hd)
  · obtain ⟨h1, h2, h3⟩ := time_bounds w.lastTime s.ptime ((s.advance c w).free 8).1
    exact ⟨_, _, State.setKPair_wrote (State.issue_go h) o.d _, h1, h2, h3,
      exec_of_body_ok h (rfl : exec _ s = execTime o s) (if_neg (Bool.not_eq_true _ ▸ hd))⟩

/-- Settles O41: each form of movs is a write of one register or of one special value, and each clock a write of a k pair. -/
theorem specialValuesAndClocks : Obligations.SpecialValuesAndClocks := ⟨specialValueMoves, clockReads⟩

/-! ## Relays (R133) -/

/-- Two lanes lie in one segment where their quotients agree. -/
theorem mem_segment_iff {seg : Nat} (hseg : 0 < seg) (l y : Nat) :
    (l - l % seg ≤ y ∧ y < l - l % seg + seg) ↔ y / seg = l / seg := by
  have hbase : l - l % seg = l / seg * seg := by
    have := Nat.div_add_mod' l seg
    omega
  rw [hbase, Nat.div_eq_iff hseg]
  omega

theorem relaySrc_eq_relayLane (r : RelayKind) {seg : Nat} (hseg : 0 < seg) (l x : Nat) :
    relaySrc r seg l x = relayLane r seg l x := by
  have hbase : l - l % seg = seg * (l / seg) := by
    have := Nat.div_add_mod l seg
    omega
  have hle : seg * (l / seg) ≤ l := Nat.mul_div_le l seg
  cases r
  · simp only [relaySrc, relayLane, hbase]
  · simp only [relaySrc, relayLane, hbase]
    exact if_congr (by omega) rfl rfl
  · simp only [relaySrc, relayLane, hbase]
  · simp only [relaySrc, relayLane]
    exact if_congr (mem_segment_iff hseg l _) rfl rfl

theorem relayOp_relays {s : State} {i : Instr} {c : Ctx} {t : Team} {w : Warp} (h : s.issue i = .go c t w) (r : RelayKind)
    (a d : BitVec 6) (seg : Warp → Nat) (x : Warp → Nat → Nat) (hx : exec i s = relayOp i r a d seg x s)
    (hseg : 0 < seg w) :
    Relays i s c w r a d (seg w) (x w) := by
  refine exec_wrote h hx (mem_lanes_of_map _)
    (congrArg (fun ws => KOut.ok ((s.advance c w).writeLanes c ws)) (List.map_congr_left fun l _ => ?_))
  simp only [relaySrc_eq_relayLane r hseg]
  cases relayLane r (seg w) l (x w l) with
  | none => rfl
  | some j => by_cases hj : c.lanes.contains j = true <;> simp only [Option.filter, hj] <;> rfl

theorem exec_of_relayReg (s : State) {i : Instr} {r : RelayKind} {o : SOp} (h : Spec.relayReg i = some (r, o)) :
    exec i s = Machine.relayReg i r o s := by
  cases i with
  | relayAt o | relayLo o | relayHi o | relaySw o => cases h; rfl
  | _ => cases h

theorem exec_of_relayImm (s : State) {i : Instr} {r : RelayKind} {o : RelayImm} (h : Spec.relayImm i = some (r, o)) :
    exec i s = Machine.relayImm i r o s := by
  cases i with
  | relayAtImm o | relayLoImm o | relayHiImm o | relaySwImm o => cases h; rfl
  | _ => cases h

theorem relayResults : RelayResults := by
  refine ⟨fun i r o hi s c t w h hw => ?_, fun i r o hi s c t w h hw => ?_⟩
  · exact relayOp_relays h r o.a o.d Warp.width _ (exec_of_relayReg s hi) hw
  · refine relayOp_relays h r o.a o.d _ _ (exec_of_relayImm s hi) ?_
    split
    · exact hw
    · exact Nat.two_pow_pos _

/-! ## Polls, peers and gred (R134 to R136) -/

theorem pollOp_wrote {s : State} {i : Instr} {c : Ctx} {t : Team} {w : Warp} (h : s.issue i = .go c t w) {o : SOp}
    {f : List Bool → Bool} (hx : exec i s = pollOp i o f s) :
    ∃ s', exec i s = .next s' ∧ Wrote s s' c w (c.lanes.map (fun l =>
      (l, [(Reg.p (o.d.toNat % 8), if f (c.lanes.map (pollSrc w o)) then 1 else 0)]))) :=
  exec_wrote h hx (mem_lanes_of_map _) rfl

theorem groupResults : GroupResults := by
  intro o s c t w
  refine ⟨fun h => ?_, fun h => ?_, fun h => ?_, fun h => ?_, fun h => ?_⟩
  · have key := pollOp_wrote h (rfl : exec _ s = execPollSome o s)
    rwa [List.any_map] at key
  · have key := pollOp_wrote h (rfl : exec _ s = execPollEach o s)
    rwa [List.all_map] at key
  · exact exec_wrote h (rfl : exec _ s = execPollMask o s) (mem_lanes_of_map _) rfl
  · refine exec_wrote h (rfl : exec _ s = execPeers o s) (mem_lanes_of_map _) ?_
    simp only [Bool.beq_eq_decide_eq]
  · exact exec_of_body_ok h (rfl : exec _ s = execGred o s) rfl

/-- Settles O42: the segment of a relay by quotients, and the polls over the group's lanes. -/
theorem crossLaneResults : Obligations.CrossLaneResults := ⟨relayResults, groupResults⟩

end Sys2Proof.Machine
end

/-! # Proofs: control transfers and halts (R9, R78, R137 to R141, R146, R410, R411) -/
section

namespace Sys2Proof.Machine

open Spec

/-! ## Transfers (R138 to R140) -/

theorem relTarget_eq (pc off : DWord) : relTarget pc off = pc + 2 * off := by
  rw [relTarget, BitVec.add_assoc, two_mul]

theorem transfers : Transfers := by
  intro s c t w
  refine ⟨fun o h => ?_, fun o h hall => ?_, fun o h hall => ?_, fun o h hodd hact => ?_, fun o h => ?_, fun o h hact => ?_⟩
  · rw [← relTarget_eq]
    exact exec_of_body_ok h (rfl : exec _ s = execBra o s) rfl
  · have hnone : (active w c.lanes o.pred).find? (fun l => decide (16 ≤ (w.thr l).rstack.length)) = none := by
      simpa using hall
    rw [← relTarget_eq]
    exact exec_of_body_ok h (rfl : exec _ s = execCall o s) (by simp only [hnone])
  · have hnone : (active w c.lanes o.pred).find? (fun l => (w.thr l).rstack.isEmpty) = none := by
      simpa using hall
    exact exec_of_body_ok h (rfl : exec _ s = execRet o s) (by simp only [hnone])
  · obtain ⟨l, r, hlr⟩ := List.exists_cons_of_ne_nil hact
    refine exec_of_body_ok h (rfl : exec _ s = execJmp o s) ?_
    simp only [hlr, hodd]
    rfl
  · have hentry (n : Nat) : BitVec.ofNat 64 (4 * n) = 4 * BitVec.ofNat 64 n := BitVec.ofNat_mul _ _
    rw [← hentry]
    exact exec_of_body_ok h (rfl : exec _ s = execBrx o s) rfl
  · have hzero : w.rk o.k.toNat - 1 = 0 ↔ w.rk o.k.toNat = 1 := sub_eq_zero
    rw [← relTarget_eq]
    refine exec_of_body_ok h (rfl : exec _ s = execLoop o s) ?_
    simp only [List.isEmpty_iff, hact, if_false, hzero]
    rfl

theorem guardedOff : GuardedOff := by
  intro s c t w
  refine ⟨fun o h hact => ?_, fun o h hact => ?_, fun o h hact => ?_⟩
  · exact exec_of_body_ok h (rfl : exec _ s = execJmp o s) (by simp only [hact])
  · exact exec_of_body_ok h (rfl : exec _ s = execLoop o s) (by simp only [hact]; rfl)
  · exact exec_of_body_ok h (rfl : exec _ s = execExit o s) (by simp only [hact]; rfl)

/-- Settles O43: each transfer moves the program counters of its active lanes, which are none where its guard is false. -/
theorem controlTransfers : Obligations.ControlTransfers := ⟨transfers, guardedOff⟩

/-! ## Halts of a transfer (R137, R138) -/

theorem transferHalts : TransferHalts := by
  intro s c t w
  refine ⟨fun o l h hl => ?_, fun o l h hl => ?_, fun o l r h hact hodd => ?_⟩
  · exact exec_of_body_halt h (rfl : exec _ s = execCall o s) (by simp only [hl])
  · exact exec_of_body_halt h (rfl : exec _ s = execRet o s) (by simp only [hl])
  · exact exec_of_body_halt h (rfl : exec _ s = execJmp o s) (by simp only [hact, hodd, if_true])

/-! ## What a halt keeps (R410, R411) -/

@[simp] theorem State.wrAll_teams (m : Maker) (ws : List (Nat × Byte)) (s : State) : (s.wrAll m ws).teams = s.teams := by
  induction ws generalizing s with
  | nil => rfl
  | cons p r ih => rw [State.wrAll, ih, State.wr1_teams]

@[simp] theorem State.wrRec_teams (s : State) (pa : Nat) (bs : List Byte) : (s.wrRec pa bs).teams = s.teams := by
  simp [State.wrRec, State.wrPub, State.wr]

@[simp] theorem State.logWrite_teams (s : State) (d : Nat) (r : LogRec) : (s.logWrite d r).teams = s.teams := by
  unfold State.logWrite
  dsimp only
  split
  · rfl
  · split <;> simp

@[simp] theorem State.haltRecWrite_teams (s : State) : s.haltRecWrite.teams = s.teams := by
  unfold State.haltRecWrite
  dsimp only
  split
  · rfl
  · split
    · rfl
    · split <;> simp

@[simp] theorem State.pushHalt_teams (s : State) (r : List Byte) : (s.pushHalt r).teams = s.teams := by
  unfold State.pushHalt
  dsimp only
  split <;> simp

@[simp] theorem State.journal_teams (s : State) (r : JRec) : (s.journal r).teams = s.teams := by
  obtain ⟨c, hc⟩ := s.journal_eq_setRcv r
  rw [hc]

theorem State.warp?_of_teams {s s' : State} (h : s'.teams = s.teams) (t w : Nat) : s'.warp? t w = s.warp? t w := by
  simp only [State.warp?, State.team?, h]

/-- A warp's open log record is closed, and nothing else of the warp changes (R409). -/
theorem State.warp?_closeLog {s : State} {team warp : Nat} {t : Team} {w : Warp} (ht : s.team? team = some t)
    (hw : s.warp? team warp = some w) : (s.closeLog team warp).warp? team warp = some { w with log := none } := by
  simp only [State.closeLog, ht, hw]
  cases hl : w.log with
  | none => exact hw.trans (by rw [← hl])
  | some o =>
    rw [State.warp?_of_teams (State.logWrite_teams _ _ _), State.warp?_updWarp, hw]
    rfl

/-- The record of a halt (R411). -/
def State.haltRecord (s : State) (c : Ctx) (t : Team) (w : Warp) (h : HaltInfo) (b : Bool) : Halt where
  cause := h.cause
  detail := h.detail
  lane := h.lane
  code := h.code
  pc := c.pc
  words := c.words
  faddr := h.faddr
  stamp := s.ptime
  group := c.lanes
  boundary := b
  id := haltId t w

theorem State.warp?_haltWarp {s : State} {c : Ctx} {t : Team} {w : Warp} (h : HaltInfo) (b : Bool)
    (ht : s.team? c.team = some t) (hw : s.warp? c.team c.warp = some w) :
    (s.haltWarp c h b).warp? c.team c.warp = some { w with halt := some (s.haltRecord c t w h b), log := none } := by
  have hteams : (s.haltWarp c h b).teams = ((s.closeLog c.team c.warp).updWarp c.team c.warp
      (fun v => { v with halt := some (s.haltRecord c t w h b) })).teams := by
    simp only [State.haltWarp, ht, hw]
    split <;> simp only [State.journal_teams, State.pushHalt_teams] <;> rfl
  rw [State.warp?_of_teams hteams, State.warp?_updWarp, State.warp?_closeLog ht hw]
  rfl

theorem haltKeepsWarp : HaltKeepsWarp := fun _ _ _ _ h b ht hw =>
  ⟨_, _, State.warp?_haltWarp h b ht hw, rfl, rfl, rfl, rfl, rfl, rfl, rfl, rfl, rfl⟩

/-! ## brk and illegal encodings (R78, R146) -/

theorem breakAndIllegalHalt : BreakAndIllegalHalt := by
  intro s c t w
  refine ⟨fun o h => ?_, fun d h => ?_⟩
  · exact exec_of_body_ok h (rfl : exec _ s = execBrk o s) rfl
  · exact exec_of_body_halt h (rfl : exec _ s = execIllegalEncoding d s) rfl

/-- Settles O44: a transfer's halt comes before its effect, and of a warp a halt changes the halt and log records alone. -/
theorem haltingInstructions : Obligations.HaltingInstructions := ⟨transferHalts, haltKeepsWarp, breakAndIllegalHalt⟩

end Sys2Proof.Machine
end

/-! # Proofs: exit, yield and converge (R141 to R145) -/
section

namespace Sys2Proof.Machine

open Spec

/-! ## Threads of the issuing warp -/

section Threads

variable {w : Warp} {lanes : List Nat}

/-- An update of some lanes' threads. -/
theorem Warp.thr_mapThr_lanes (g : Thread → Thread) (hlt : ∀ l ∈ lanes, l < w.threads.length) (l : Nat) :
    (w.mapThr (fun l th => if lanes.contains l then g th else th)).thr l = if l ∈ lanes then g (w.thr l) else w.thr l := by
  by_cases hl : l ∈ lanes
  · rw [Warp.thr_mapThr _ _ _ (hlt l hl), if_pos hl, if_pos (List.contains_iff_mem.mpr hl)]
  · rw [if_neg hl]
    exact Warp.thr_mapThr_id _ _ _ (if_neg (mt List.contains_iff_mem.mp hl))

/-- What the issue of a bundle changes of a thread. -/
theorem Warp.issued_thr_rest {c : Ctx} (hlt : ∀ l ∈ c.lanes, l < w.threads.length) (tick l : Nat) :
    let th := (w.issued c tick).thr l
    th = { w.thr l with pc := th.pc, ready := th.ready, issued := th.issued, wait := th.wait } := by
  dsimp only
  by_cases hl : l ∈ c.lanes
  · rw [Warp.issued_thr w c tick l hl (hlt l hl)]
  · rw [Warp.issued_thr_ne w c tick l hl]

theorem Warp.issued_width (w : Warp) (c : Ctx) (tick : Nat) : (w.issued c tick).width = w.width := by
  rw [Warp.issued_rest]

theorem Warp.issued_k (w : Warp) (c : Ctx) (tick : Nat) : (w.issued c tick).k = w.k := by rw [Warp.issued_rest]

theorem Warp.issued_halt (w : Warp) (c : Ctx) (tick : Nat) : (w.issued c tick).halt = w.halt := by rw [Warp.issued_rest]

theorem Warp.issued_log (w : Warp) (c : Ctx) (tick : Nat) : (w.issued c tick).log = w.log := by rw [Warp.issued_rest]

theorem Warp.issued_pend_nil (c : Ctx) (tick : Nat) (h : w.pend = []) : (w.issued c tick).pend = [] := by
  unfold Warp.issued
  dsimp only
  split <;> simp [Warp.mapThr, Warp.count, h]

theorem Warp.complete_of_pend_nil (h : w.pend = []) (p : Pend → Bool) : w.complete p = w := by
  have hw : w = { w with pend := [] } := by rw [← h]
  rw [hw]
  rfl

theorem lanes_lt {s : State} {c : Ctx} {t : Team} (h : Issued s c t w) : ∀ l ∈ c.lanes, l < w.threads.length :=
  fun l hl => Warp.lt_of_live (h.live l hl).1

end Threads

theorem State.closeLog_of_log_none {s : State} {team warp : Nat} {w : Warp} (hw : s.warp? team warp = some w)
    (hl : w.log = none) : s.closeLog team warp = s := by
  unfold State.closeLog
  rw [hw]
  cases s.team? team with
  | none => rfl
  | some t => simp only [hl]

/-! ## Held lanes (R142, R144) -/

section Held

variable {w : Warp}

theorem Thread.heldAt_iff {th : Thread} {a : Nat} : th.heldAt a = true ↔ ∃ m, th.conv = some (a, m) := by
  unfold Thread.heldAt
  split
  next b m h => simp [h]
  next h => simp [h]

theorem Warp.convDone_iff {l : Nat} : w.convDone l = true ↔ ∃ b m, (w.thr l).conv = some (b, m) ∧
    ∀ j < w.width, maskHas m j = true → (w.thr j).live = true → (w.thr j).exited = false → (w.thr j).heldAt b = true := by
  unfold Warp.convDone
  split
  next h => simp [h]
  next b m h =>
    simp only [h, List.all_eq_true, List.mem_range, Option.some.injEq, Prod.mk.injEq]
    constructor
    · intro hall
      refine ⟨b, m, ⟨rfl, rfl⟩, fun j hj hm hl he => ?_⟩
      simpa [hm, hl, he] using hall j hj
    · rintro ⟨_, _, ⟨rfl, rfl⟩, hall⟩ j hj
      have := hall j hj
      grind

theorem Warp.convDone_of_conv_none {l : Nat} (h : (w.thr l).conv = none) : w.convDone l = false := by
  rw [Warp.convDone, h]

/-- A thread that is held nowhere keeps its warp from a deadlock. -/
theorem Warp.allHeld_eq_false_of {l : Nat} (hl : l < w.width) (hlive : (w.thr l).live = true) (hex : (w.thr l).exited = false)
    (hconv : (w.thr l).conv = none) : w.allHeld = false := by
  rw [Warp.allHeld, Bool.and_eq_false_iff]
  exact .inr (List.all_eq_false.mpr ⟨l, List.mem_range.mpr hl, by simp [hlive, hex, hconv]⟩)

theorem Warp.allHeld_eq_false_of_conv_none (h : ∀ l, (w.thr l).conv = none) : w.allHeld = false := by
  by_cases hany : ∃ l < w.width, (w.thr l).live = true ∧ (w.thr l).exited = false
  · obtain ⟨l, hl, hlive, hex⟩ := hany
    exact Warp.allHeld_eq_false_of hl hlive hex (h l)
  · rw [Warp.allHeld, Bool.and_eq_false_iff]
    refine .inl (List.any_eq_false.mpr fun l hl => ?_)
    simp only [Bool.and_eq_true, Bool.not_eq_true', not_and]
    exact fun hlive hex => hany ⟨l, List.mem_range.mp hl, hlive, hex⟩

theorem Warp.allHeld_of {l : Nat} (hl : l < w.width) (hlive : (w.thr l).live = true) (hex : (w.thr l).exited = false)
    (hall : ∀ j < w.width, (w.thr j).live = true → (w.thr j).exited = false → (w.thr j).conv.isSome = true) :
    w.allHeld = true := by
  rw [Warp.allHeld, Bool.and_eq_true, List.any_eq_true, List.all_eq_true]
  refine ⟨⟨l, List.mem_range.mpr hl, by simp [hlive, hex]⟩, fun j hj => ?_⟩
  have := hall j (List.mem_range.mp hj)
  grind

end Held

/-! ## The release of held lanes (R142, R143) -/

section Release

variable {s : State} {c : Ctx} {w : Warp} (t : Team) (k : TaskCtx)

/-- What the release of held lanes leaves alone in a warp. -/
structure ConvFrame (w w' : Warp) : Prop where
  width : w'.width = w.width
  k : w'.k = w.k
  v : ∀ l, (w'.thr l).v = (w.thr l).v
  p : ∀ l, (w'.thr l).p = (w.thr l).p
  live : ∀ l, (w'.thr l).live = (w.thr l).live
  exited : ∀ l, (w'.thr l).exited = (w.thr l).exited

theorem ConvFrame.refl (w : Warp) : ConvFrame w w := ⟨rfl, rfl, fun _ => rfl, fun _ => rfl, fun _ => rfl, fun _ => rfl⟩

theorem ConvFrame.trans {a b c : Warp} (h : ConvFrame a b) (g : ConvFrame b c) : ConvFrame a c where
  width := g.width.trans h.width
  k := g.k.trans h.k
  v l := (g.v l).trans (h.v l)
  p l := (g.p l).trans (h.p l)
  live l := (g.live l).trans (h.live l)
  exited l := (g.exited l).trans (h.exited l)

/-- The thread of a lane that leaves a converge with the threads `ths`. -/
def Thread.leave (det : Bool) (tick : Nat) (ths : List Thread) (th : Thread) : Thread :=
  if det then { th with conv := none, ready := tick } else joinViews ths { th with conv := none, ready := tick }

theorem Warp.mem_convMates_live {l j : Nat} (h : j ∈ w.convMates l) : (w.thr j).live = true := by
  unfold Warp.convMates at h
  split at h
  · cases h
  · simp only [List.mem_filter, Bool.and_eq_true] at h
    obtain ⟨-, ⟨-, hlive⟩, -⟩ := h
    exact hlive

/-- The warp as the participants `ls` of a converge leave. -/
def Warp.leaving (w : Warp) (det : Bool) (tick : Nat) (ls : List Nat) : Warp :=
  w.mapThr (fun j th => if ls.contains j then th.leave det tick (ls.map w.thr) else th)

theorem State.convLeave_eq (s : State) (c : Ctx) (w : Warp) (l : Nat) : s.convLeave c t k w l =
    if k.det then
      (s.mapThr c.team c.warp (fun j th => if (w.convMates l).contains j then
        th.leave k.det s.tick ((w.convMates l).map w.thr) else th)).hold { c with lanes := w.convMates l }
          (.release (w.convMates l) { scope := .core, spans := some [] } (some [spaceSpan t .s]))
    else s.mapThr c.team c.warp (fun j th => if (w.convMates l).contains j then
      th.leave k.det s.tick ((w.convMates l).map w.thr) else th) := rfl

/-- In deterministic mode a release is held besides. -/
theorem State.convLeave_warp (hw : s.warp? c.team c.warp = some w) (l : Nat) :
    (s.convLeave c t k w l).mem = s.mem ∧ ∃ hs, (s.convLeave c t k w l).warp? c.team c.warp =
      some { w.leaving k.det s.tick (w.convMates l) with held := hs } := by
  rw [State.convLeave_eq]
  split
  · refine ⟨rfl, ?_⟩
    rw [State.hold, State.mapThr, State.updWarp_updWarp, State.warp?_updWarp, hw]
    exact ⟨_, rfl⟩
  · refine ⟨rfl, w.held, ?_⟩
    rw [State.mapThr, State.warp?_updWarp, hw]
    rfl

theorem Warp.thr_leaving (det : Bool) (tick l j : Nat) : (w.leaving det tick (w.convMates l)).thr j =
    if j ∈ w.convMates l then (w.thr j).leave det tick ((w.convMates l).map w.thr) else w.thr j :=
  Warp.thr_mapThr_lanes _ (fun _ hj => Warp.lt_of_live (Warp.mem_convMates_live hj)) j

theorem Warp.thr_leaving_rest (w : Warp) (det : Bool) (tick l j : Nat) :
    let th := (w.leaving det tick (w.convMates l)).thr j
    th = { w.thr j with conv := th.conv, ready := th.ready, view := th.view, seen := th.seen } := by
  dsimp only
  rw [Warp.thr_leaving]
  split
  · cases det <;> rfl
  · rfl

theorem Warp.convFrame_leaving (det : Bool) (tick l : Nat) (hs : List Held) :
    ConvFrame w { w.leaving det tick (w.convMates l) with held := hs } := by
  have hrest := w.thr_leaving_rest det tick l
  exact ⟨rfl, rfl, fun j => (congrArg Thread.v (hrest j) :), fun j => (congrArg Thread.p (hrest j) :),
    fun j => (congrArg Thread.live (hrest j) :), fun j => (congrArg Thread.exited (hrest j) :)⟩

theorem Warp.conv_leaving (det : Bool) (tick l j : Nat) :
    ((w.leaving det tick (w.convMates l)).thr j).conv = if j ∈ w.convMates l then none else (w.thr j).conv := by
  rw [Warp.thr_leaving]
  split
  · cases det <;> rfl
  · rfl

/-- Releases only end marks, and touch neither registers nor memory. -/
theorem State.convRelease_frame (hw : s.warp? c.team c.warp = some w) (n : Nat) :
    (s.convRelease c t k n).mem = s.mem ∧ ∃ w', (s.convRelease c t k n).warp? c.team c.warp = some w' ∧ ConvFrame w w' ∧
      ∀ j, (w.thr j).conv = none → (w'.thr j).conv = none := by
  induction n generalizing s w with
  | zero => exact ⟨rfl, w, hw, ConvFrame.refl w, fun _ h => h⟩
  | succ n ih =>
    simp only [State.convRelease, hw]
    split
    next => exact ⟨rfl, w, hw, ConvFrame.refl w, fun _ h => h⟩
    next l hl =>
      obtain ⟨hmem, hs, hleft⟩ := State.convLeave_warp t k hw l
      obtain ⟨hmem', w', hw', hframe, hnone⟩ := ih hleft
      refine ⟨hmem'.trans hmem, w', hw', (Warp.convFrame_leaving _ _ _ _).trans hframe, fun j hj => hnone j ?_⟩
      refine (Warp.conv_leaving k.det s.tick l j).trans ?_
      rw [hj, ite_self]

/-- Where no held lane is complete, none is released. -/
theorem State.convRelease_eq_self (hw : s.warp? c.team c.warp = some w) (hquiet : ∀ j < w.width, w.convDone j = false)
    (n : Nat) : s.convRelease c t k n = s := by
  cases n with
  | zero => rfl
  | succ n =>
    have hnone : (List.range w.width).find? w.convDone = none := by simpa using hquiet
    simp only [State.convRelease, hw, hnone]

theorem State.convRelease_of_find? (hw : s.warp? c.team c.warp = some w) {l : Nat}
    (hl : (List.range w.width).find? w.convDone = some l) (n : Nat) :
    s.convRelease c t k (n + 1) = (s.convLeave c t k w l).convRelease c t k n := by
  simp only [State.convRelease, hw, hl]

end Release

/-! ## Arrivals (R142) -/

/-- Warp w as the lanes `ls` have arrived at the converge at address a with mask m. -/
structure ArrivedAt (w w' : Warp) (ls : List Nat) (a : Nat) (m : Option DWord) : Prop
    extends ConvFrame w w' where
  view : ∀ l, (w'.thr l).view = (w.thr l).view
  conv : ∀ l, (w'.thr l).conv = if l ∈ ls then some (a, m) else (w.thr l).conv

theorem Warp.issued_arrivedAt {w : Warp} {c : Ctx} (hlt : ∀ l ∈ c.lanes, l < w.threads.length) (tick a : Nat)
    (m : Option DWord) :
    ArrivedAt w ((w.issued c tick).mapThr (fun l th => if c.lanes.contains l then { th with conv := some (a, m) } else th))
      c.lanes a m := by
  have hthr := Warp.thr_mapThr_lanes (w := w.issued c tick) (fun th => { th with conv := some (a, m) })
    (fun l hl => (w.issued_length c tick).symm ▸ hlt l hl)
  have hrest := Warp.issued_thr_rest hlt tick
  refine ⟨⟨w.issued_width c tick, w.issued_k c tick, fun l => ?_, fun l => ?_, fun l => ?_, fun l => ?_⟩, fun l => ?_,
    fun l => ?_⟩ <;> (rw [hthr, hrest l]; split <;> rfl)

section Mask

variable {w : Warp} {l a : Nat} {m : Option DWord} (h : convBad w a m l = false)
include h

/-- A lane that arrives by the rules is in its own mask. -/
theorem maskHas_of_convBad : maskHas m l = true := by
  rw [convBad, Bool.or_eq_false_iff, Bool.not_eq_false'] at h
  exact h.1

/-- A lane that is held at the address and whose mask names the arriving lane has that lane's mask. -/
theorem mask_eq_of_convBad {j : Nat} {m1 : Option DWord} (hj : j < w.width) (hconv : (w.thr j).conv = some (a, m1))
    (hm : maskHas m1 l = true) : m1 = m := by
  rw [convBad, Bool.or_eq_false_iff, List.any_eq_false] at h
  obtain ⟨-, hall⟩ := h
  simpa [hconv, hm] using hall j (List.mem_range.mpr hj)

end Mask

section Arrived

variable {w v : Warp} {ls : List Nat} {a : Nat} {m : Option DWord} (h : ArrivedAt w v ls a m)
include h

/-- Every participant stands at the converge where every one has arrived that has not exited. -/
theorem ArrivedAt.heldAt_of_full (hfull : convFull w ls a m) {j : Nat} (hj : j < v.width) (hm : maskHas m j = true)
    (hlive : (v.thr j).live = true) (hex : (v.thr j).exited = false) : (v.thr j).heldAt a = true := by
  rw [Thread.heldAt_iff, h.conv]
  split
  next => exact ⟨m, rfl⟩
  next hn =>
    rw [h.width] at hj
    rw [h.live] at hlive
    rw [h.exited] at hex
    exact Thread.heldAt_iff.mp ((hfull j hj hm hlive hex).resolve_left hn)

theorem ArrivedAt.full_of_heldAt (hall : ∀ j < v.width, maskHas m j = true → (v.thr j).live = true →
    (v.thr j).exited = false → (v.thr j).heldAt a = true) : convFull w ls a m := by
  intro j hj hm hlive hex
  by_cases hjl : j ∈ ls
  · exact .inl hjl
  · have hheld := hall j (h.width ▸ hj) hm (h.live j ▸ hlive) (h.exited j ▸ hex)
    rw [Thread.heldAt_iff, h.conv, if_neg hjl] at hheld
    exact .inr (Thread.heldAt_iff.mpr hheld)

variable (hbad : ∀ l ∈ ls, convBad w a m l = false) (hquiet : ∀ j < w.width, w.convDone j = false)
include hbad hquiet

/-- An arrival completes no converge but its own: the lanes that it may complete name one of its lanes in their mask, and then
their mask is its own (R142). -/
theorem ArrivedAt.conv_of_convDone {l : Nat} (hl : l < w.width) (hd : v.convDone l = true) :
    (v.thr l).conv = some (a, m) ∧ convFull w ls a m := by
  obtain ⟨b, m1, hconv, hall⟩ := Warp.convDone_iff.mp hd
  suffices hbm : b = a ∧ m1 = m by
    obtain ⟨rfl, rfl⟩ := hbm
    exact ⟨hconv, h.full_of_heldAt hall⟩
  by_cases hin : l ∈ ls
  · rw [h.conv, if_pos hin] at hconv
    cases hconv
    exact ⟨rfl, rfl⟩
  · rw [h.conv, if_neg hin] at hconv
    have hopen : ¬ w.convDone l = true := by rw [hquiet l hl]; decide
    rw [Warp.convDone_iff] at hopen
    obtain ⟨j, hj, hm, hlive, hex, hnot⟩ : ∃ j < w.width, maskHas m1 j = true ∧ (w.thr j).live = true ∧
        (w.thr j).exited = false ∧ ¬ (w.thr j).heldAt b = true := by
      by_contra hno
      push Not at hno
      exact hopen ⟨b, m1, hconv, hno⟩
    have hheld := hall j (h.width ▸ hj) hm (h.live j ▸ hlive) (h.exited j ▸ hex)
    rw [Thread.heldAt_iff, h.conv] at hheld
    split at hheld
    next hjl =>
      obtain ⟨_, hsome⟩ := hheld
      obtain ⟨rfl, -⟩ := Prod.mk.inj (Option.some.inj hsome)
      exact ⟨rfl, mask_eq_of_convBad (hbad j hjl) hl hconv hm⟩
    next => exact absurd (Thread.heldAt_iff.mpr hheld) hnot

/-- Before the last participant arrives no held lane leaves. -/
theorem ArrivedAt.not_convDone (hfull : ¬ convFull w ls a m) : ∀ j < v.width, v.convDone j = false := by
  intro j hj
  rw [Bool.eq_false_iff]
  exact fun hd => hfull (h.conv_of_convDone hbad hquiet (h.width ▸ hj) hd).2

variable {l : Nat} (hl : l ∈ ls) (hlw : l < w.width) (hlive : (w.thr l).live = true)
include hl hlw hlive

/-- When the last participant arrives, those that leave are the participants that stand there, and the lane is one of them. -/
theorem ArrivedAt.find?_convDone (hfull : convFull w ls a m) :
    ∃ l0, (List.range v.width).find? v.convDone = some l0 ∧ v.convMates l0 = convAt w ls a m ∧ l ∈ v.convMates l0 := by
  have hdone : v.convDone l = true := Warp.convDone_iff.mpr
    ⟨a, m, by rw [h.conv, if_pos hl], fun j hj hm hlive hex => h.heldAt_of_full hfull hj hm hlive hex⟩
  obtain ⟨l0, hl0⟩ := Option.isSome_iff_exists.mp
    (List.find?_isSome.mpr ⟨l, List.mem_range.mpr (h.width.symm ▸ hlw), hdone⟩)
  have hl0w : l0 < w.width := h.width ▸ List.mem_range.mp (List.mem_of_find?_eq_some hl0)
  obtain ⟨hconv, -⟩ := h.conv_of_convDone hbad hquiet hl0w (List.find?_some hl0)
  have hmates : v.convMates l0 = convAt w ls a m := by
    simp only [Warp.convMates, hconv, convAt, h.width]
    refine List.filter_congr fun j _ => ?_
    rw [h.live, h.conv]
    by_cases hj : j ∈ ls <;> simp [hj]
  refine ⟨l0, hl0, hmates, ?_⟩
  rw [hmates, convAt, List.mem_filter]
  exact ⟨List.mem_range.mpr hlw, by simp [maskHas_of_convBad (hbad l hl), hlive, hl]⟩

/-- After they have left no held lane is complete: the lane, which is a participant, is held no more. -/
theorem ArrivedAt.leaving_not_convDone {l0 : Nat} (hex : (w.thr l).exited = false) (hmem : l ∈ v.convMates l0) (det : Bool)
    (tick : Nat) : ∀ j < v.width, (v.leaving det tick (v.convMates l0)).convDone j = false := by
  intro j hj
  have hframe := Warp.convFrame_leaving (w := v) det tick l0 v.held
  rw [Bool.eq_false_iff]
  intro hd
  obtain ⟨b, m1, hconv, hall⟩ := Warp.convDone_iff.mp hd
  rw [Warp.conv_leaving] at hconv
  split at hconv
  next => cases hconv
  next =>
    have hdone : v.convDone j = true := by
      refine Warp.convDone_iff.mpr ⟨b, m1, hconv, fun i hi hm hil hie => ?_⟩
      have hheld := hall i hi hm (hframe.live i ▸ hil) (hframe.exited i ▸ hie)
      rw [Thread.heldAt_iff, Warp.conv_leaving] at hheld
      split at hheld
      next => obtain ⟨_, hsome⟩ := hheld; cases hsome
      next => exact Thread.heldAt_iff.mpr hheld
    obtain ⟨hjc, -⟩ := h.conv_of_convDone hbad hquiet (h.width ▸ hj) hdone
    obtain ⟨rfl, rfl⟩ := Prod.mk.inj (Option.some.inj (hconv.symm.trans hjc))
    have hheld := hall l (h.width ▸ hlw) (maskHas_of_convBad (hbad l hl)) (((hframe.live l).trans (h.live l)).trans hlive)
      (((hframe.exited l).trans (h.exited l)).trans hex)
    rw [Thread.heldAt_iff, Warp.conv_leaving, if_pos hmem] at hheld
    obtain ⟨_, hsome⟩ := hheld
    cases hsome

end Arrived

/-- A view joined depends on the threads' views alone. -/
theorem joinViews_view_congr {ls : List Nat} {f g : Nat → Thread} (h : ∀ l, (f l).view = (g l).view) {x y : Thread}
    (hxy : x.view = y.view) : (joinViews (ls.map f) x).view = (joinViews (ls.map g) y).view := by
  simp only [joinViews, List.foldl_map, h, hxy]

/-! ## converge (R142 to R144) -/

/-- The group has issued a converge with mask m, and its lanes are held at it. -/
def State.arrive (s : State) (c : Ctx) (w : Warp) (m : Option DWord) : State :=
  (s.advance c w).mapThr c.team c.warp (fun l th =>
    if c.lanes.contains l then { th with conv := some (c.pc.toNat, m) } else th)

section Converge

variable {s : State} {c : Ctx} {t : Team} {w : Warp}

theorem State.warp?_arrive (h : Issued s c t w) (m : Option DWord) :
    ∃ v, (s.arrive c w m).warp? c.team c.warp = some v ∧ ArrivedAt w v c.lanes c.pc.toNat m := by
  refine ⟨_, ?_, Warp.issued_arrivedAt (lanes_lt h) s.tick c.pc.toNat m⟩
  rw [State.arrive, State.mapThr, State.warp?_updWarp, State.warp?_advance h]
  rfl

/-- The warp when the arrival has released what it completes. -/
theorem State.convRelease_arrive (h : Issued s c t w) (k : TaskCtx) {m : Option DWord}
    (hbad : ∀ l ∈ c.lanes, convBad w c.pc.toNat m l = false) (hquiet : ∀ j < w.width, w.convDone j = false) :
    ((s.arrive c w m).convRelease c t k w.width).mem = s.mem ∧
    ∃ v, ((s.arrive c w m).convRelease c t k w.width).warp? c.team c.warp = some v ∧ ConvFrame w v ∧
      (∀ l, l ∉ c.lanes → (w.thr l).conv = none → (v.thr l).conv = none) ∧
      (¬ convFull w c.lanes c.pc.toNat m → ArrivedAt w v c.lanes c.pc.toNat m) ∧
      (convFull w c.lanes c.pc.toNat m → ∀ l ∈ c.lanes, l < w.width → (v.thr l).conv = none ∧
        (k.det = false → (v.thr l).view = (joinViews ((convAt w c.lanes c.pc.toNat m).map w.thr) (w.thr l)).view)) := by
  obtain ⟨v, hv, harr⟩ := State.warp?_arrive h m
  obtain ⟨hmem, v', hv', hframe, hnone⟩ := State.convRelease_frame t k hv w.width
  refine ⟨hmem, v', hv', harr.toConvFrame.trans hframe, fun l hl hc => hnone l ?_, fun hfull => ?_, fun hfull l hl hlw => ?_⟩
  · rw [harr.conv, if_neg hl, hc]
  · rw [State.convRelease_eq_self t k hv (harr.not_convDone hbad hquiet hfull), hv] at hv'
    cases hv'
    exact harr
  · obtain ⟨hlive, hex, -, -⟩ := h.live l hl
    obtain ⟨l0, hl0, hmates, hin⟩ := harr.find?_convDone hbad hquiet hl hlw hlive hfull
    have hquiet' := harr.leaving_not_convDone hbad hquiet hl hlw hlive hex hin k.det (s.arrive c w m).tick
    obtain ⟨-, hs, hleft⟩ := State.convLeave_warp t k hv l0
    obtain ⟨n, hn⟩ : ∃ n, w.width = n + 1 := ⟨w.width - 1, by omega⟩
    rw [hn, State.convRelease_of_find? t k hv hl0, State.convRelease_eq_self t k hleft hquiet', hleft] at hv'
    cases hv'
    have hthr := (Warp.thr_leaving k.det (s.arrive c w m).tick l0 l).trans (if_pos hin)
    refine ⟨(Warp.conv_leaving k.det (s.arrive c w m).tick l0 l).trans (if_pos hin), fun hd => ?_⟩
    refine (congrArg Thread.view hthr).trans ?_
    rw [hd, ← hmates]
    exact joinViews_view_congr harr.view (harr.view l)

/-- A converge whose masks agree halts where its arrival leaves every thread held, and goes on otherwise. -/
theorem exec_converge {o : SOp} (h : s.issue (.converge o) = .go c t w)
    (hbad : ∀ l ∈ c.lanes, convBad w c.pc.toNat (convMask w o) l = false) {v : Warp}
    (hv : ((s.arrive c w (convMask w o)).convRelease c t (s.ctxOf t) w.width).warp? c.team c.warp = some v) :
    exec (.converge o) s = .next (if v.allHeld then s.haltWarp c { cause := 6, detail := 2, lane := minOf c.lanes } false
      else (s.arrive c w (convMask w o)).convRelease c t (s.ctxOf t) w.width) := by
  have hnone : c.lanes.find? (convBad w c.pc.toNat (convMask w o)) = none := by simpa using hbad
  have hx : exec (.converge o) s = execConverge o s := rfl
  have hv' : (((s.advance c w).mapThr c.team c.warp (fun l th =>
      if c.lanes.contains l then { th with conv := some (c.pc.toNat, convMask w o) } else th)).convRelease c t
        ((s.advance c w).ctxOf t) w.width).warp? c.team c.warp = some v := hv
  cases hall : v.allHeld with
  | true => exact exec_of_body_halt h hx (by simp only [hnone, hv', hall, if_true])
  | false =>
    refine exec_of_body_ok h hx ?_
    simp only [hnone, hv', hall]
    rfl

/-- An arrival before the last that leaves every thread held halts the warp (R144). -/
theorem exec_converge_deadlock {o : SOp} (h : s.issue (.converge o) = .go c t w)
    (hbad : ∀ l ∈ c.lanes, convBad w c.pc.toNat (convMask w o) l = false) (hquiet : ∀ j < w.width, w.convDone j = false)
    (hfull : ¬ convFull w c.lanes c.pc.toNat (convMask w o))
    (hall : ∀ l < w.width, (w.thr l).live = true → (w.thr l).exited = false →
      l ∈ c.lanes ∨ (w.thr l).conv.isSome = true) :
    exec (.converge o) s = .next (s.haltWarp c { cause := 6, detail := 2, lane := minOf c.lanes } false) := by
  obtain ⟨-, v, hv, -, -, hopen, -⟩ := State.convRelease_arrive (State.issue_go h) (s.ctxOf t) hbad hquiet
  have harr := hopen hfull
  obtain ⟨j, hj, -, hlive, hex, -⟩ : ∃ j < w.width, maskHas (convMask w o) j = true ∧ (w.thr j).live = true ∧
      (w.thr j).exited = false ∧ ¬ (j ∈ c.lanes ∨ (w.thr j).heldAt c.pc.toNat = true) := by
    by_contra hno
    push Not at hno
    exact hfull hno
  have hheld : v.allHeld = true := by
    refine Warp.allHeld_of (harr.width ▸ hj) ((harr.live j).trans hlive) ((harr.exited j).trans hex) fun l hl hl1 hl2 => ?_
    rw [harr.conv]
    split
    next => rfl
    next hin => exact (hall l (harr.width ▸ hl) (harr.live l ▸ hl1) (harr.exited l ▸ hl2)).resolve_left hin
  rw [exec_converge h hbad hv, hheld, if_pos rfl]

/-- Where the arrival leaves a thread that is held nowhere, the warp goes on. -/
theorem exec_converge_of_free {o : SOp} (h : s.issue (.converge o) = .go c t w)
    (hbad : ∀ l ∈ c.lanes, convBad w c.pc.toNat (convMask w o) l = false) {v : Warp}
    (hv : ((s.arrive c w (convMask w o)).convRelease c t (s.ctxOf t) w.width).warp? c.team c.warp = some v)
    (hframe : ConvFrame w v) {l : Nat} (hl : l < w.width) (hlive : (w.thr l).live = true) (hex : (w.thr l).exited = false)
    (hconv : (v.thr l).conv = none) :
    exec (.converge o) s = .next ((s.arrive c w (convMask w o)).convRelease c t (s.ctxOf t) w.width) := by
  have hheld : v.allHeld = false := Warp.allHeld_eq_false_of (hframe.width ▸ hl) ((hframe.live l).trans hlive)
    ((hframe.exited l).trans hex) hconv
  rw [exec_converge h hbad hv, hheld]
  rfl

end Converge

/-! ## exit (R141) -/

section Exit

variable {s : State} {c : Ctx} {t : Team} {w : Warp}

/-- A thread that ends. -/
def Thread.ended (th : Thread) : Thread := { th with exited := true, wait := none, last := none, conv := none }

/-- The warp as the threads of lanes `act` end. -/
def Warp.exiting (w : Warp) (act : List Nat) : Warp := w.mapThr (fun l th => if act.contains l then th.ended else th)

/-- The threads of an issued bundle's warp as some of its lanes end. -/
theorem Warp.thr_exiting_issued (h : Issued s c t w) {act : List Nat} (hact : ∀ l ∈ act, l ∈ c.lanes) (tick l : Nat) :
    (((w.issued c tick).exiting act).thr l).v = (w.thr l).v ∧ (((w.issued c tick).exiting act).thr l).p = (w.thr l).p ∧
    (((w.issued c tick).exiting act).thr l).exited = (act.contains l || (w.thr l).exited) ∧
    ((w.thr l).conv = none → (((w.issued c tick).exiting act).thr l).conv = none) := by
  rw [Warp.exiting, Warp.thr_mapThr_lanes _ (fun l hl => (w.issued_length c tick).symm ▸ lanes_lt h l (hact l hl)),
    Warp.issued_thr_rest (lanes_lt h)]
  by_cases hl : l ∈ act <;> simp [hl, Thread.ended]

theorem State.exitPixel_of_no_job (hjob : t.job = none) (s : State) (c : Ctx) (w : Warp) (k : TaskCtx) (l : Nat) :
    s.exitPixel c t w k l = s := by
  have hpix : t.pixelAt w l = none := by rw [Team.pixelAt, hjob]; rfl
  simp only [State.exitPixel, State.resolveLane, State.unlockLane, hpix]

/-- Nothing follows the exit of threads in a warp where no thread is held and no log record is open. -/
theorem State.afterExit_eq_self (hw : s.warp? c.team c.warp = some w) (hconv : ∀ l, (w.thr l).conv = none)
    (hlog : w.log = none) (k : TaskCtx) : s.afterExit c t k = s := by
  have hrel := State.convRelease_eq_self t k hw (fun j _ => Warp.convDone_of_conv_none (hconv j)) 64
  rw [State.afterExit, hrel]
  simp only [hw, Warp.allHeld_eq_false_of_conv_none hconv, Bool.false_eq_true, if_false,
    State.closeLog_of_log_none hw hlog, ite_self]

/-- The exit of threads of a team with no pixels, whose warp has no result to come, no held thread and no open log record. -/
theorem State.exitLanes_warp (h : Issued s c t w) {act : List Nat} (hact : ∀ l ∈ act, l ∈ c.lanes) (hjob : t.job = none)
    (hpend : w.pend = []) (hlog : w.log = none) (hconv : ∀ l, (w.thr l).conv = none) (k : TaskCtx) :
    ((s.advance c w).exitLanes c t w k act).mem = s.mem ∧
    ((s.advance c w).exitLanes c t w k act).warp? c.team c.warp = some ((w.issued c s.tick).exiting act) := by
  have hwarp (p : Pend → Bool) : (((s.advance c w).updWarp c.team c.warp (fun v => v.complete p)).endThreads c act).warp?
      c.team c.warp = some ((w.issued c s.tick).exiting act) := by
    rw [State.endThreads, State.mapThr, State.updWarp_updWarp, State.warp?_updWarp, State.warp?_advance h, Option.map_some,
      Warp.complete_of_pend_nil (Warp.issued_pend_nil c s.tick hpend)]
    rfl
  have hnone (l : Nat) : (((w.issued c s.tick).exiting act).thr l).conv = none := by
    obtain ⟨-, -, -, hc⟩ := Warp.thr_exiting_issued h hact s.tick l
    exact hc (hconv l)
  have hkeep (p : Pend → Bool) := State.afterExit_eq_self (t := t) (hwarp p) hnone ((w.issued_log c s.tick).trans hlog) k
  simp only [State.exitLanes, State.exitPixel_of_no_job hjob, List.foldl_fixed, hkeep]
  exact ⟨rfl, hwarp _⟩

end Exit

/-! ## The statement -/

/-- Settles O12: an exit marks its threads alone, and the lanes that an arrival completes are its converge's participants. -/
theorem exitYieldConverge : Obligations.ExitYieldConverge := by
  intro s c t w
  have hexit (o : GuardOp) (h : s.issue (.exit o) = .go c t w) (hact : active w c.lanes o.pred ≠ []) :
      exec (.exit o) s = .next ((s.advance c w).exitLanes c t w (s.ctxOf t) (active w c.lanes o.pred)) :=
    exec_of_body_ok h (rfl : exec _ s = execExit o s) (if_neg (by simpa using hact))
  refine ⟨hexit, fun o h hact hjob hpend hlog hconv => ?_, fun o h => ?_,
    fun o h => ⟨fun l hl => ?_, fun hbad hquiet => ?_⟩⟩
  · have hi := State.issue_go h
    obtain ⟨hmem, hw⟩ := State.exitLanes_warp hi (fun l hl => mem_lanes_of_mem_active hl) hjob hpend hlog hconv (s.ctxOf t)
    refine ⟨_, _, hexit o h hact, hw, hmem, w.issued_k c s.tick, w.issued_halt c s.tick, fun l _ => ?_⟩
    obtain ⟨hv, hp, hex, -⟩ := Warp.thr_exiting_issued hi (fun l hl => mem_lanes_of_mem_active hl) s.tick l
    exact ⟨hv, hp, hex⟩
  · exact ⟨_, exec_of_body_ok h (rfl : exec _ s = execYield o s) rfl, State.advance_wrote (State.issue_go h)⟩
  · exact exec_of_body_halt h (rfl : exec _ s = execConverge o s) (by simp only [hl])
  · have hi := State.issue_go h
    obtain ⟨hmem, v, hv, hframe, hnone, hopen, hclosed⟩ := State.convRelease_arrive hi (s.ctxOf t) hbad hquiet
    refine ⟨exec_converge_deadlock h hbad hquiet, fun hgo => ?_⟩
    obtain ⟨l, hl, hlive, hex, hfree⟩ : ∃ l < w.width, (w.thr l).live = true ∧ (w.thr l).exited = false ∧
        (v.thr l).conv = none := by
      rcases hgo with ⟨l, hl, hlive, hex, hin, hc⟩ | ⟨hfull, hall⟩
      · exact ⟨l, hl, hlive, hex, hnone l hin hc⟩
      · obtain ⟨l, hl⟩ := List.exists_mem_of_ne_nil _ hi.lanes
        obtain ⟨hlive, hex, -, -⟩ := hi.live l hl
        exact ⟨l, hall l hl, hlive, hex, (hclosed hfull l hl (hall l hl)).1⟩
    refine ⟨_, v, exec_converge_of_free h hbad hv hframe hl hlive hex hfree, hv, hmem, hframe.k,
      fun l => ⟨hframe.v l, hframe.p l⟩, fun l hl hlw => ⟨fun hfull => ?_, fun hfull => hclosed hfull l hl hlw⟩⟩
    rw [(hopen hfull).conv, if_pos hl]

end Sys2Proof.Machine
end

/-! # Proofs: the matrix engine accepts commands (R148, R149, R164 to R173)

First what a bundle's issue and its memory events leave of the registers of every team; then the checks that the matrix
instructions share, each once where it passes and once where it halts; then the instructions. -/
section

namespace Sys2Proof.Spec

open Machine

theorem SameRegs.of_teams {s s' : State} (h : s'.teams = s.teams) : SameRegs s s' := congrArg (List.map bare) h

theorem SameRegs.trans {s s1 s2 : State} (h : SameRegs s s1) (h' : SameRegs s1 s2) : SameRegs s s2 := Eq.trans h' h

end Sys2Proof.Spec

namespace Sys2Proof.Machine

open Spec

/-! ## What the issue of a bundle leaves of the registers -/

/-- A thread without what a bundle's issue and its memory events move. -/
def bareThread (th : Thread) : Thread := { th with pc := 0, ready := 0, issued := 0, wait := none, view := [], seen := 0 }

/-- A warp without them; `bare` is this, warp by warp. -/
def bareWarp (w : Warp) : Warp :=
  { w with retired := 0, pend := [], held := [], lastTime := 0, qfences := [], threads := w.threads.map bareThread }

theorem bare_eq_map_bareWarp (t : Team) : bare t = { t with warps := t.warps.map bareWarp } := rfl

theorem map_updAt_of_fixed {α β : Type} {g : α → β} {f : α → α} (h : ∀ x, g (f x) = g x) (n : Nat) (xs : List α) :
    (updAt f n xs).map g = xs.map g := by
  induction xs generalizing n with
  | nil => cases n <;> rfl
  | cons x xs ih => cases n <;> simp [updAt, h, ih]

theorem map_mapIx_of_fixed {α β : Type} {g : α → β} {f : Nat → α → α} (h : ∀ i x, g (f i x) = g x) (k : Nat) (xs : List α) :
    (mapIx f k xs).map g = xs.map g := by
  induction xs generalizing k with
  | nil => rfl
  | cons x xs ih => simp [mapIx, h, ih]

theorem bareWarp_updThr {f : Thread → Thread} (h : ∀ th, bareThread (f th) = bareThread th) (l : Nat) (w : Warp) :
    bareWarp (w.updThr l f) = bareWarp w := by
  simp only [bareWarp, Warp.updThr, map_updAt_of_fixed h]

theorem bareWarp_mapThr {f : Nat → Thread → Thread} (h : ∀ i th, bareThread (f i th) = bareThread th) (w : Warp) :
    bareWarp (w.mapThr f) = bareWarp w := by
  simp only [bareWarp, Warp.mapThr, map_mapIx_of_fixed h]

theorem State.updWarp_sameRegs {f : Warp → Warp} (h : ∀ v, bareWarp (f v) = bareWarp v) (s : State) (t w : Nat) :
    SameRegs s (s.updWarp t w f) := by
  simp only [SameRegs, State.updWarp, State.updTeam, List.map_map]
  refine List.map_congr_left fun u _ => ?_
  rw [Function.comp_apply]
  split
  · simp only [bare_eq_map_bareWarp, Team.updWarp, map_updAt_of_fixed h]
  · rfl

theorem State.advance_sameRegs (s : State) (c : Ctx) (w : Warp) : SameRegs s (s.advance c w) := by
  refine SameRegs.trans (State.updWarp_sameRegs (fun v => ?_) s c.team c.warp) (SameRegs.of_teams rfl)
  rw [bareWarp_mapThr]
  · split <;> rfl
  · intro l th
    split <;> rfl

theorem State.pendOn_sameRegs (s : State) (c : Ctx) (la : Nat) (regs : List Reg) (cmd : Option Nat) :
    SameRegs s (s.pendOn c la regs cmd) := by
  unfold State.pendOn
  exact State.updWarp_sameRegs (fun _ => by rfl) s c.team c.warp

theorem State.hold_sameRegs (s : State) (c : Ctx) (fx : HeldFx) : SameRegs s (s.hold c fx) := by
  unfold State.hold
  exact State.updWarp_sameRegs (fun _ => by rfl) s c.team c.warp

/-! ## The engine's queue (R149) -/

/-- The engine accepts a command as its bundle issues. -/
theorem State.accept_accepted {s : State} {c : Ctx} {t : Team} {w : Warp} (h : Issued s c t w) (la : BitVec 4)
    (regs : List Reg) (op : MatOp) : Accepted s ((s.advance c w).accept c t w la regs op) c t w la.toNat regs op := by
  unfold State.accept
  cases regs with
  | nil => exact ⟨rfl, (s.advance_sameRegs c w).trans (SameRegs.of_teams rfl), fun hne => absurd rfl hne⟩
  | cons r rs =>
    refine ⟨rfl, ((s.advance_sameRegs c w).trans (SameRegs.of_teams rfl)).trans (State.pendOn_sameRegs _ c _ _ _), fun _ => ?_⟩
    have hpend := State.updWarp_advance h (fun v => { v with pend := v.pend ++
      [{ regs := r :: rs, lanes := c.lanes.map (fun l => (l, la.toNat)), ready := false, cmd := some s.nextId }] })
    exact ⟨_, hpend.2.2.2, List.getLast?_concat⟩

/-! ## The checks of the matrix instructions -/

section Checks

variable {t : Team} {f : KOut}

theorem withTiles_of_lt {ts : List (BitVec 6)} (h : ∀ x ∈ ts, x.toNat < t.desc.tiles) : withTiles t ts f = f := by
  rw [withTiles, if_neg]
  simpa using h

/-- A tile that the team does not have (R148, R173). -/
theorem withTiles_of_le {ts : List (BitVec 6)} {x : BitVec 6} (hx : x ∈ ts) (h : t.desc.tiles ≤ x.toNat) :
    withTiles t ts f = matFault 1 := by
  rw [withTiles, if_pos]
  exact List.any_eq_true.mpr ⟨x, hx, decide_eq_true h⟩

theorem mmaChecks_of_le {g : Bool} {d : BitVec 6} (a b : BitVec 6) (h : t.desc.tiles ≤ d.toNat) (go : CaskRec → CaskRec → KOut) :
    mmaChecks t g d a b go = matFault 1 := withTiles_of_le List.mem_cons_self h

variable {g : Bool} {d a b : BitVec 6} (hd : d.toNat < t.desc.tiles)
include hd

/-- A range that is not reserved (R164, R173). -/
theorem mmaChecks_of_range_none (h : t.range? a.toNat = none ∨ t.range? b.toNat = none) (go : CaskRec → CaskRec → KOut) :
    mmaChecks t g d a b go = matFault 2 := by
  rw [mmaChecks, withTiles_of_lt (by simpa using hd)]
  rcases h with h | h
  · simp only [h]
  · cases ha : t.range? a.toNat <;> simp only [h]

variable {ra rb : CaskRec} (ha : t.range? a.toNat = some ra) (hb : t.range? b.toNat = some rb)
include ha hb

/-- A pair of formats that is not listed (R159, R173). -/
theorem mmaChecks_of_pairCap_none (h : pairCap ra.fmt rb.fmt = none) (go : CaskRec → CaskRec → KOut) :
    mmaChecks t g d a b go = matFault 4 := by
  rw [mmaChecks, withTiles_of_lt (by simpa using hd)]
  simp only [ha, hb, h]

/-- Ranges that a product may take (R164). -/
theorem mmaChecks_of_fitting (hrow : (if g then ra.index != 0xFFFFFFFF else ra.rows == 64) = true) (hrb : rb.rows = 64)
    (hfit : fitting ra rb = true) (go : CaskRec → CaskRec → KOut) : mmaChecks t g d a b go = go ra rb := by
  simp only [fitting, Option.any_eq_true, decide_eq_true_eq] at hfit
  obtain ⟨cap, hcap, kp, hkp, hle⟩ := hfit
  rw [mmaChecks, withTiles_of_lt (by simpa using hd)]
  simp only [ha, hb, hcap, hkp, hrow, hrb, hle, decide_true, beq_self_eq_true, Bool.and_self, if_true]

end Checks

theorem flatMap_map_ite (P : Prop) [Decidable P] (g : Nat → Nat) (f : Nat → Nat → Nat) (xs ys : List Nat) :
    xs.flatMap (fun i => ys.map (fun j => if P then g (f i j) else f i j)) =
      if P then (xs.flatMap (fun i => ys.map (fun j => f i j))).map g else xs.flatMap (fun i => ys.map (fun j => f i j)) := by
  split <;> simp only [List.map_flatMap, List.map_map, Function.comp_def]

/-- The locations of a tile's elements, where every check of R169 passes. -/
theorem tileLocs_of_tileAt {s : State} {t : Team} {w : Warp} {o : XOp} {acc : Acc} {z : Nat} {ls : List (Nat × Nat)}
    (h : tileAt s t w o acc z ls) (go : Nat → List Nat → KOut) :
    tileLocs s t (s.ctxOf t) w o acc go = go z (ls.map (fun p => p.2)) := by
  unfold tileAt at h
  dsimp only at h
  rw [flatMap_map_ite _ (fun y => y % 18446744073709551616)] at h
  obtain ⟨hsp, hsz, hres, hlow, hz, ha, hp, hls⟩ := h
  unfold tileLocs
  dsimp only
  rw [if_neg (by omega), ← hz, if_neg (by omega), hls]

/-! ## Instructions that the engine accepts -/

/-- What the engine accepts of a product: the two ranges, which pass the checks of R164. -/
theorem matReady_product {t : Team} {w : Warp} {g : Bool} {o : XOp} {la : Nat} {regs : List Reg} {op : MatOp}
    (hr : matReady t w (if g then .mmaG o else .mma o) = some (la, regs, op)) :
    ∃ ra rb, (∀ go, mmaChecks t g o.d o.a o.b go = go ra rb) ∧ la = o.la.toNat ∧ regs = [.t o.d.toNat] ∧
      op = .mma o.d.toNat ra rb g := by
  cases g with
  | false | true =>
    simp only [matReady, if_true, Bool.false_eq_true, if_false] at hr
    split at hr
    next ra rb ha hb =>
      simp only [Option.ite_none_right_eq_some, Option.some.injEq, Prod.mk.injEq] at hr
      obtain ⟨⟨hd, hra, hrb, hfit⟩, rfl, rfl, rfl⟩ := hr
      exact ⟨ra, rb, mmaChecks_of_fitting hd ha hb (by simpa using hra) hrb hfit, rfl, rfl, rfl⟩
    next => cases hr

section Accepts

variable {s : State} {c : Ctx} {t : Team} {w : Warp}

/-- tmov.r and tmov.c (R168). -/
theorem tmovOp_accept {i : Instr} (h : s.issue i = .go c t w) (row : Bool) {o : XOp} (ha : o.a.toNat < t.desc.tiles)
    (hx : (w.rk o.b.toNat).toNat < 16384 ∧ (w.rk o.b.toNat).toNat / 64 % 4 = 0) :
    tmovOp i row o s = .next ((s.advance c w).accept c t w o.la [.v o.d.toNat] (.tmov row o.d.toNat o.a.toNat
      ((w.rk o.b.toNat).toNat / 256 % 64) ((w.rk o.b.toNat).toNat % 64))) := by
  have hok : ¬ (16384 ≤ (w.rk o.b.toNat).toNat ∨ (w.rk o.b.toNat).toNat / 64 % 4 ≠ 0) := by omega
  rw [tmovOp, kernelOp_go h]
  dsimp only
  rw [withTiles_of_lt (by simpa using ha), if_neg hok]

theorem tmovOp_halt {i : Instr} (h : s.issue i = .go c t w) (row : Bool) {o : XOp} (ha : t.desc.tiles ≤ o.a.toNat) :
    tmovOp i row o s = .next (s.haltWarp c { cause := 8, detail := 1 } false) := by
  rw [tmovOp, kernelOp_go h]
  dsimp only
  rw [withTiles_of_le List.mem_cons_self ha, matFault]

/-- Where the operands meet the checks the engine accepts the command (R148, R149). -/
theorem exec_of_matReady {i : Instr} {la : Nat} {regs : List Reg} {op : MatOp} (h : s.issue i = .go c t w)
    (hr : matReady t w i = some (la, regs, op)) :
    ∃ n : BitVec 4, n.toNat = la ∧ exec i s = .next ((s.advance c w).accept c t w n regs op) := by
  cases i with
  | mma o =>
    obtain ⟨ra, rb, hgo, rfl, rfl, rfl⟩ := matReady_product (g := false) hr
    exact ⟨o.la, rfl, exec_of_body_ok h (rfl : exec _ s = execMma o s) (hgo _)⟩
  | mmaG o =>
    obtain ⟨ra, rb, hgo, rfl, rfl, rfl⟩ := matReady_product (g := true) hr
    exact ⟨o.la, rfl, exec_of_body_ok h (rfl : exec _ s = execMmaG o s) (hgo _)⟩
  | gmma o =>
    simp only [matReady] at hr
    split at hr
    next ra rb ha hb =>
      simp only [Option.ite_none_right_eq_some, Option.some.injEq, Prod.mk.injEq] at hr
      obtain ⟨⟨hd, hx, hy, h1, h8, hsa, hsb, hna, hnb, hcap, hwa, hwb, hgx, hgy⟩, rfl, rfl, rfl⟩ := hr
      obtain ⟨cap, hcap, hn⟩ := (Option.any_eq_true _ _).mp hcap
      have hsel : ¬ (1024 ≤ (w.rk o.a.toNat).toNat ∨ 512 ≤ (w.rk o.b.toNat).toNat ∨ (w.rk o.a.toNat).toNat / 64 % 16 = 0 ∨
          ra.klen / 64 ≤ (w.rk o.b.toNat).toNat % 16 ∨ rb.klen / 64 ≤ (w.rk o.b.toNat).toNat / 16 % 16 ∨
          ra.klen / 64 < (w.rk o.a.toNat).toNat / 64 % 16 ∨ rb.klen / 64 < (w.rk o.a.toNat).toNat / 64 % 16) := by omega
      refine ⟨o.la, rfl, exec_of_body_ok h (rfl : exec _ s = execGmma o s) ?_⟩
      have hfit : (!ra.window || !rb.window || decide (cap / 256 < (w.rk o.a.toNat).toNat / 64 % 16)) = false := by
        simpa [hwa, hwb] using hn
      have hgang : ¬ (t.desc.gangX ≠ 4 ∨ t.desc.gangY ≠ 4) := by omega
      simp only [ha, hb, hcap, if_neg (not_le.mpr hd), if_neg hsel, hfit, Bool.false_eq_true, if_false, if_neg hgang]
    next => cases hr
  | tzero o =>
    simp only [matReady, Option.ite_none_right_eq_some, Option.some.injEq, Prod.mk.injEq] at hr
    obtain ⟨hd, rfl, rfl, rfl⟩ := hr
    exact ⟨o.la, rfl, exec_of_body_ok h (rfl : exec _ s = execTzero o s) (withTiles_of_lt (by simpa using hd))⟩
  | tmovR o =>
    simp only [matReady, Option.ite_none_right_eq_some, Option.some.injEq, Prod.mk.injEq] at hr
    obtain ⟨⟨ha, hx⟩, rfl, rfl, rfl⟩ := hr
    exact ⟨o.la, rfl, tmovOp_accept h true ha hx⟩
  | tmovC o =>
    simp only [matReady, Option.ite_none_right_eq_some, Option.some.injEq, Prod.mk.injEq] at hr
    obtain ⟨⟨ha, hx⟩, rfl, rfl, rfl⟩ := hr
    exact ⟨o.la, rfl, tmovOp_accept h false ha hx⟩
  | tcvt o =>
    simp only [matReady, Option.ite_none_right_eq_some, Option.some.injEq, Prod.mk.injEq] at hr
    obtain ⟨hd, rfl, rfl, rfl⟩ := hr
    exact ⟨o.la, rfl, exec_of_body_ok h (rfl : exec _ s = execTcvt o s) (withTiles_of_lt (by simpa using hd))⟩
  | tadd o =>
    simp only [matReady, Option.ite_none_right_eq_some, Option.some.injEq, Prod.mk.injEq] at hr
    obtain ⟨hd, rfl, rfl, rfl⟩ := hr
    exact ⟨o.la, rfl, exec_of_body_ok h (rfl : exec _ s = execTadd o s) (withTiles_of_lt (by simpa using hd))⟩
  | tscale o =>
    simp only [matReady, Option.ite_none_right_eq_some, Option.some.injEq, Prod.mk.injEq] at hr
    obtain ⟨hd, rfl, rfl, rfl⟩ := hr
    exact ⟨o.la, rfl, exec_of_body_ok h (rfl : exec _ s = execTscale o s) (withTiles_of_lt (by simpa using hd))⟩
  | caskrel o =>
    cases hr
    exact ⟨0, rfl, exec_of_body_ok h (rfl : exec _ s = execCaskrel o s) rfl⟩
  | _ => cases hr

theorem matrixCommands : MatrixCommands := by
  refine ⟨fun i s c t w la regs op h hr => ?_, fun o s c t w z ls h hd hat => ?_, fun o s c t w z ls h hd hat => ?_⟩
  · obtain ⟨n, rfl, hx⟩ := exec_of_matReady h hr
    exact ⟨_, hx, State.accept_accepted (State.issue_go h) n regs op⟩
  · have hb := (withTiles_of_lt (ts := [o.d]) (by simpa using hd)).trans (tileLocs_of_tileAt hat (fun z ls =>
      .ok ((s.advance c w).accept c t w o.la [.t o.d.toNat] (.tld o.d.toNat (ls.map (fun l =>
        (locRange l z).map (fun a => (a, (s.advance c w).rdThr w (w.thr (c.lanes.headD 0)) a))))))))
    rw [List.map_map] at hb
    exact ⟨_, exec_of_body_ok h (rfl : exec _ s = execTld o s) hb, State.accept_accepted (State.issue_go h) _ _ _⟩
  · have hb := (withTiles_of_lt (ts := [o.d]) (by simpa using hd)).trans (tileLocs_of_tileAt hat (fun z ls =>
      .ok ((s.advance c w).accept c t w 0 [] (.tst o.d.toNat (ls.map (fun l => locRange l z))))))
    rw [List.map_map] at hb
    exact ⟨_, exec_of_body_ok h (rfl : exec _ s = execTst o s) hb, State.accept_accepted (State.issue_go h) _ _ _⟩

end Accepts

/-! ## Halts with cause MATRIX (R148, R173) -/

theorem matrixHalts : MatrixHalts := by
  intro s c t w o
  refine ⟨fun hd => ⟨fun h => ?_, fun h => ?_, fun h => ?_, fun h => ?_, fun h => ?_, fun h => ?_, fun h => ?_, fun h => ?_,
    fun h => ?_⟩, fun ha => ⟨fun h => ?_, fun h => ?_⟩, fun hd hr => ⟨fun h => ?_, fun h => ?_⟩,
    fun a b hd ha hb hp => ⟨fun h => ?_, fun h => ?_⟩⟩
  · exact exec_of_body_halt h (rfl : exec _ s = execMma o s) (mmaChecks_of_le _ _ hd _)
  · exact exec_of_body_halt h (rfl : exec _ s = execMmaG o s) (mmaChecks_of_le _ _ hd _)
  · exact exec_of_body_halt h (rfl : exec _ s = execGmma o s) (if_pos (by omega))
  · exact exec_of_body_halt h (rfl : exec _ s = execTzero o s) (withTiles_of_le List.mem_cons_self hd)
  · exact exec_of_body_halt h (rfl : exec _ s = execTld o s) (withTiles_of_le List.mem_cons_self hd)
  · exact exec_of_body_halt h (rfl : exec _ s = execTst o s) (withTiles_of_le List.mem_cons_self hd)
  · exact exec_of_body_halt h (rfl : exec _ s = execTcvt o s) (withTiles_of_le List.mem_cons_self hd)
  · exact exec_of_body_halt h (rfl : exec _ s = execTadd o s) (withTiles_of_le List.mem_cons_self hd)
  · exact exec_of_body_halt h (rfl : exec _ s = execTscale o s) (withTiles_of_le List.mem_cons_self hd)
  · exact tmovOp_halt h true ha
  · exact tmovOp_halt h false ha
  · exact exec_of_body_halt h (rfl : exec _ s = execMma o s) (mmaChecks_of_range_none hd hr _)
  · exact exec_of_body_halt h (rfl : exec _ s = execMmaG o s) (mmaChecks_of_range_none hd hr _)
  · exact exec_of_body_halt h (rfl : exec _ s = execMma o s) (mmaChecks_of_pairCap_none hd ha hb hp _)
  · exact exec_of_body_halt h (rfl : exec _ s = execMmaG o s) (mmaChecks_of_pairCap_none hd ha hb hp _)

/-- Settles O48: one rule for the engine's queue, one for each check, and a row for each instruction. -/
theorem matrixInstructions : Obligations.MatrixInstructions := ⟨matrixCommands, matrixHalts⟩

end Sys2Proof.Machine
end

/-! # Proofs: Cask reservations, gathers and operand streams (R153 to R158, R205, R242, R243)

What the memory events of a bundle's issue and the binding of a stream leave unchanged; then the four instructions. -/
section

namespace Sys2Proof.Spec

open Machine

/-- A team is there after what leaves the registers alone, and differs in what `bare` forgets at most. -/
theorem SameRegs.team? {s s' : State} (h : SameRegs s s') {id : Nat} {t : Team} (ht : s.team? id = some t) :
    ∃ t', s'.team? id = some t' ∧ bare t' = bare t := by
  have hbare (s : State) : (s.team? id).map bare = (s.teams.map bare).find? (fun u => u.id == id) := by
    rw [List.find?_map]
    rfl
  have h' : (s'.team? id).map bare = some (bare t) := by rw [hbare, h, ← hbare, ht, Option.map_some]
  simpa [Option.map_eq_some_iff] using h'

theorem Quiet.trans {s s1 s2 : State} (h : Quiet s s1) (h' : Quiet s1 s2) : Quiet s s2 :=
  ⟨h'.1.trans h.1, SameRegs.trans h.2 h'.2⟩

end Sys2Proof.Spec

namespace Sys2Proof.Machine

open Spec

/-! ## Memory events of an issue (R198, R205) -/

theorem State.advance_quiet (s : State) (c : Ctx) (w : Warp) : Quiet s (s.advance c w) := ⟨rfl, s.advance_sameRegs c w⟩

theorem State.updThr_quiet {f : Thread → Thread} (h : ∀ th, bareThread (f th) = bareThread th) (s : State) (t w l : Nat) :
    Quiet s (s.updThr t w l f) := ⟨rfl, State.updWarp_sameRegs (bareWarp_updThr h l) s t w⟩

theorem State.evAcquire_quiet (s : State) (c : Ctx) (t : Team) (k : TaskCtx) (lanes : List Nat) (cov : Cover) :
    Quiet s (s.evAcquire c t k lanes cov) := by
  unfold State.evAcquire
  split
  · exact ⟨rfl, SameRegs.of_teams rfl⟩
  · induction lanes generalizing s with
    | nil => exact ⟨rfl, SameRegs.of_teams rfl⟩
    | cons l ls ih => exact (State.updThr_quiet (fun _ => by rfl) s c.team c.warp l).trans (ih _)

/-- A release changes the publications, or in deterministic mode the effects that the warp holds. -/
theorem State.evRelease_frame (s : State) (c : Ctx) (t : Team) (k : TaskCtx) (lanes : List Nat) (cov : Cover)
    (flush : Option (List (Nat × Nat))) :
    SameRegs s (s.evRelease c t k lanes cov flush) ∧
      ∃ ts ps, s.evRelease c t k lanes cov flush = { s with teams := ts, publs := ps } := by
  unfold State.evRelease
  split
  · exact ⟨SameRegs.of_teams rfl, _, _, rfl⟩
  · split
    · exact ⟨s.hold_sameRegs c _, _, _, rfl⟩
    · clear * -
      induction lanes generalizing s with
      | nil => exact ⟨SameRegs.of_teams rfl, _, _, rfl⟩
      | cons l ls ih =>
        rw [List.foldl_cons]
        split
        · exact ih s
        next th _ =>
          obtain ⟨hr, ts, ps, he⟩ := ih (s.release (.core t.core) th cov)
          exact ⟨(SameRegs.of_teams rfl).trans hr, ts, ps, he⟩

theorem State.issueRelease_quiet (s : State) (c : Ctx) (t : Team) (spans : List (Nat × Nat)) :
    Quiet s (s.issueRelease c t spans) := by
  obtain ⟨hr, ts, ps, he⟩ := s.evRelease_frame c t (s.ctxOf t) c.lanes { scope := .chip, spans := some spans } (some spans)
  exact ⟨(congrArg State.mem he :), hr⟩

@[simp] theorem State.issueRelease_gathers (s : State) (c : Ctx) (t : Team) (spans : List (Nat × Nat)) :
    (s.issueRelease c t spans).gathers = s.gathers := by
  obtain ⟨-, ts, ps, he⟩ := s.evRelease_frame c t (s.ctxOf t) c.lanes { scope := .chip, spans := some spans } (some spans)
  exact (congrArg State.gathers he :)

@[simp] theorem State.issueRelease_spubs (s : State) (c : Ctx) (t : Team) (spans : List (Nat × Nat)) :
    (s.issueRelease c t spans).spubs = s.spubs := by
  obtain ⟨-, ts, ps, he⟩ := s.evRelease_frame c t (s.ctxOf t) c.lanes { scope := .chip, spans := some spans } (some spans)
  exact (congrArg State.spubs he :)

/-! ## The binding of a stream (R244) -/

theorem State.bindStream_quiet (s : State) (g n : Nat) : Quiet s (s.bindStream g n) := by
  unfold State.bindStream
  split <;> exact ⟨rfl, SameRegs.of_teams rfl⟩

/-- A binding writes of a publication only whom it serves. -/
theorem State.mem_spubs_bindStream {s : State} {p : StreamPub} (hp : p ∈ s.spubs) (g n : Nat) :
    ∃ q ∈ (s.bindStream g n).spubs, q = { p with served := q.served } := by
  unfold State.bindStream
  split
  · exact ⟨p, hp, rfl⟩
  · refine ⟨_, List.mem_map_of_mem hp, ?_⟩
    split <;> rfl

/-- A binding writes of a subscription only what it is bound to. -/
theorem State.mem_ssubs_bindStream {s : State} {x : StreamSub} (hx : x ∈ s.ssubs) (g n : Nat) :
    ∃ y ∈ (s.bindStream g n).ssubs, y = { x with pub := y.pub } := by
  unfold State.bindStream
  split
  · exact ⟨x, hx, rfl⟩
  · refine ⟨_, List.mem_map_of_mem hx, ?_⟩
    split <;> rfl

/-- A publication that stands when the release of its issue and the binding of its name are done. -/
theorem State.publication_stands {r : Out} {s a : State} {c : Ctx} {t : Team} {spans : List (Nat × Nat)} {g n : Nat}
    {p : StreamPub} (hx : r = .next ((a.issueRelease c t spans).bindStream g n)) (ha : Quiet s a) (hp : p ∈ a.spubs) :
    ∃ s' q, r = .next s' ∧ Quiet s s' ∧ q ∈ s'.spubs ∧ q = { p with served := q.served } := by
  have hp' : p ∈ (a.issueRelease c t spans).spubs := by rwa [State.issueRelease_spubs]
  obtain ⟨q, hq, he⟩ := State.mem_spubs_bindStream hp' g n
  exact ⟨_, q, hx, (ha.trans (a.issueRelease_quiet c t spans)).trans (State.bindStream_quiet _ g n), hq, he⟩

theorem State.subscription_stands {r : Out} {s a : State} {g n : Nat} {x : StreamSub} (hr : r = .next (a.bindStream g n))
    (ha : Quiet s a) (hx : x ∈ a.ssubs) :
    ∃ s' y, r = .next s' ∧ Quiet s s' ∧ y ∈ s'.ssubs ∧ y = { x with pub := y.pub } := by
  obtain ⟨y, hy, he⟩ := State.mem_ssubs_bindStream hx g n
  exact ⟨_, y, hr, ha.trans (a.bindStream_quiet g n), hy, he⟩

/-! ## The instructions -/

section Commands

variable {s : State} {c : Ctx} {t : Team} {w : Warp} {o : XOp} {l : Nat}

theorem Team.range?_setRange {u : Team} {n : Nat} (h : n < u.ranges.length) (r : Option CaskRec) (m : Nat) :
    (u.setRange n r).range? m = if m = n then r else u.range? m := by
  simp only [Team.range?, Team.setRange, List.getD_eq_getElem?_getD, updAt_getElem?]
  split
  next hm => simp [hm, List.getElem?_eq_getElem h]
  next => rfl

/-- caskres (R155): the range stands in the team's table, and every other range is the same. -/
theorem State.setRange_ranges {s2 : State} (ht : s.team? c.team = some t) (hr : SameRegs s s2) {n : Nat} (hn : n < t.ranges.length)
    (r : CaskRec) :
    ∃ t', (s2.updTeam c.team (fun u => u.setRange n (some r))).team? c.team = some t' ∧ t'.range? n = some r ∧
      ∀ m, m ≠ n → t'.range? m = t.range? m := by
  obtain ⟨u, hu, hb⟩ := hr.team? ht
  have hranges : u.ranges = t.ranges := (congrArg Team.ranges hb :)
  have hn' : n < u.ranges.length := hranges ▸ hn
  refine ⟨u.setRange n (some r), ?_, ?_, fun m hm => ?_⟩
  · rw [State.team?_updTeam s2 c.team c.team _ (fun _ => by rfl), if_pos rfl, hu, Option.map_some]
  · rw [Team.range?_setRange hn', if_pos rfl]
  · rw [Team.range?_setRange hn', if_neg hm, Team.range?, Team.range?, hranges]

end Commands

theorem State.ctxOf_advance (s : State) (c : Ctx) (t : Team) (w : Warp) : (s.advance c w).ctxOf t = s.ctxOf t := rfl

section Issues

variable {s : State} {c : Ctx} {t : Team} {w : Warp} {o : XOp}

/-- mgather issues where its record, its range, its barrier and its index vector pass (R158). -/
theorem exec_mgather_of_checks {l : Nat} {r : CaskRec} {bs : List Byte} {ls : List Nat} (h : s.issue (.mgather o) = .go c t w)
    (hl : (s.advance c w).recAt (s.ctxOf t) (w.rkPair o.a.toNat).toNat 32 = .loc l)
    (hbs : (s.advance c w).recBytes (s.ctxOf t) c t w l 32 = bs) (hr : t.range? o.d.toNat = some r)
    (hix : fieldOf bs 8 8 % 4 = 0) (hok : ¬ ((w.rk o.b.toNat).toNat = 0 ∨ 64 < (w.rk o.b.toNat).toNat ∨
      r.rows < fieldOf bs 0x14 2 + (w.rk o.b.toNat).toNat ∨ fieldOf bs 0x16 2 ≠ 0 ∨
      (r.blk = 0 ∧ fieldOf bs 0x1C 4 ≠ 0x80000000))) (hbar : scratchBar t (fieldOf bs 0x18 4) = none)
    (hls : wordLocs (s.advance c w) (s.ctxOf t) ((List.range (w.rk o.b.toNat).toNat).map (fun i =>
      (fieldOf bs 8 8 + 4 * i) % 18446744073709551616)) = .ok ls) :
    ∃ spans, exec (.mgather o) s = .next (({ s.advance c w with nextId := s.nextId + 1, gathers := s.gathers ++
      [{ id := s.nextId, core := t.core, team := c.team, warp := c.warp, pc := c.pc, range := r, rowBase := fieldOf bs 0 8,
         pitch := fieldOf bs 0x10 4, index := ls.map (fun x => leNat ((s.advance c w).recBytes (s.ctxOf t) c t w x 4)),
         first := fieldOf bs 0x14 2, bar := fieldOf bs 0x18 4,
         scOff := if fieldOf bs 0x1C 4 = 0x80000000 then none else some (BitVec.ofNat 32 (fieldOf bs 0x1C 4)).toInt,
         round := ((s.grid? t.grid).map Grid.round).getD 0, at_ := s.tick + 1 }] } : State).issueRelease c t spans) := by
  have hx : exec (.mgather o) s = execMgather o s := rfl
  rw [execMgather, kernelOp_go h] at hx
  simp only [State.ctxOf_advance, hl, hbs, hr, hbar, hls, if_neg (not_not.mpr hix), if_neg hok] at hx
  exact ⟨_, hx⟩

/-- opub issues with no barrier of its own where its operands and its record pass and its name is free (R242). -/
theorem exec_opub_of_checks {l : Nat} {bs : List Byte} (h : s.issue (.opub o) = .go c t w)
    (hl : (s.advance c w).recAt (s.ctxOf t) (w.rkPair o.a.toNat).toNat 32 = .loc l)
    (hbs : (s.advance c w).recBytes (s.ctxOf t) c t w l 32 = bs)
    (hops : ¬ (256 ≤ (w.rk o.d.toNat).toNat ∨ 64 ≤ (w.rk o.b.toNat).toNat))
    (hrec : ¬ ((w.rk o.b.toNat).toNat = 0 ∨ fieldOf bs 0x10 2 = 0 ∨ 128 < fieldOf bs 0x10 2 ∨ fieldOf bs 0x12 2 % 64 ≠ 0 ∨
      fieldOf bs 0x12 2 = 0 ∨ 4096 < fieldOf bs 0x12 2 ∨ fieldOf bs 0x14 2 = 0 ∨ fieldOf bs 0x16 2 ≠ 0 ∨ fieldOf bs 0x1C 4 ≠ 0))
    (hbar : fieldOf bs 0x18 4 = 0xFFFFFFFF)
    (hfree : s.spubs.any (fun p => p.grid == t.grid && p.name == (w.rk o.d.toNat).toNat) = false) :
    ∃ spans, exec (.opub o) s = .next ((({ s.advance c w with nextId := s.nextId + 1, spubs := s.spubs ++
      [{ id := s.nextId, grid := t.grid, name := (w.rk o.d.toNat).toNat, team := c.team, warp := c.warp, core := t.core, pc := c.pc,
         ctx := s.ctxOf t, index := t.index, at_ := s.tick + 1, src := fieldOf bs 0 8, cpitch := fieldOf bs 8 4,
         rpitch := fieldOf bs 0xC 4, rows := fieldOf bs 0x10 2, rowBytes := fieldOf bs 0x12 2, count := fieldOf bs 0x14 2,
         pbar := none, subs := (w.rk o.b.toNat).toNat }] } : State).issueRelease c t spans).bindStream t.grid
      (w.rk o.d.toNat).toNat) := by
  have hx : exec (.opub o) s = execOpub o s := rfl
  rw [execOpub, kernelOp_go h] at hx
  simp only [State.ctxOf_advance, hl, hbs, if_neg hops, if_neg hrec, if_pos hbar, State.advance_spubs, hfree, Bool.false_eq_true,
    if_false] at hx
  exact ⟨_, hx⟩

/-- osub returns credits to a subscription of the team (R243). -/
theorem exec_osub_of_return {y : StreamSub} (h : s.issue (.osub o) = .go c t w) (hret : (w.rk o.d.toNat).toNat / 2 ^ 31 = 1)
    (hops : ¬ ((w.rk o.d.toNat).toNat / 256 % 2 ^ 23 ≠ 0 ∨ w.rk o.a.toNat ≠ 0 ∨ w.rk (o.a.toNat + 1) ≠ 0 ∨
      65536 ≤ (w.rk o.b.toNat).toNat))
    (hy : (s.ssubs.filter (fun z => z.team == c.team)).find? (fun z => z.name == (w.rk o.d.toNat).toNat % 256) = some y)
    (hle : y.credits + (w.rk o.b.toNat).toNat ≤ y.w) :
    exec (.osub o) s = .next { s.advance c w with ssubs := s.ssubs.map (fun z =>
      if z.id == y.id then { z with credits := z.credits + (w.rk o.b.toNat).toNat } else z) } := by
  have hx : exec (.osub o) s = execOsub o s := rfl
  rw [execOsub, kernelOp_go h] at hx
  simp only [if_pos hret, if_neg hops, State.advance_ssubs, hy, if_neg (not_lt.mpr hle)] at hx
  exact hx

/-- osub subscribes with slots in the core scratchpad (R243). -/
theorem exec_osub_of_scratch {q : Space × Nat} (h : s.issue (.osub o) = .go c t w) (hret : ¬ (w.rk o.d.toNat).toNat / 2 ^ 31 = 1)
    (hscr : ((w.rk o.d.toNat).toNat / 2 ^ 19 % 2 == 1) = true)
    (hops : ¬ ((w.rk o.d.toNat).toNat / 2 ^ 20 % 2 ^ 11 ≠ 0 ∨ (w.rk o.d.toNat).toNat / 2 ^ 12 % 16 ≠ 0 ∨
      16 ≤ (w.rk o.b.toNat).toNat))
    (hq : s.barAddr t (s.ctxOf t) (w.rk o.a.toNat) .write = .ok q)
    (hlen : (s.ssubs.filter (fun z => z.team == c.team)).length < 8)
    (hnew : (s.ssubs.filter (fun z => z.team == c.team)).any (fun z => z.name == (w.rk o.d.toNat).toNat % 256) = false) :
    exec (.osub o) s = .next (({ s.advance c w with nextId := s.nextId + 1, ssubs := s.ssubs ++
      [{ id := s.nextId, grid := t.grid, name := (w.rk o.d.toNat).toNat % 256, team := c.team, warp := c.warp, pc := c.pc,
         w := (w.rk o.d.toNat).toNat / 256 % 16 + 1, credits := (w.rk o.d.toNat).toNat / 256 % 16 + 1, at_ := s.tick + 1,
         cask := none, base := (w.rk (o.a.toNat + 1)).toNat, bar := (w.rk o.a.toNat).toNat,
         first := (w.rk o.b.toNat).toNat }] } : State).bindStream t.grid ((w.rk o.d.toNat).toNat % 256)) := by
  have hq' : (s.advance c w).barAddr t (s.ctxOf t) (w.rk o.a.toNat) .write = .ok q := hq
  have hx : exec (.osub o) s = execOsub o s := rfl
  rw [execOsub, kernelOp_go h] at hx
  simp only [if_neg hret, hscr, Bool.not_true, Bool.false_eq_true, false_and, false_or, if_neg hops, State.ctxOf_advance, hq',
    State.advance_ssubs, hnew, Bool.false_and, or_false, if_neg (not_le.mpr hlen), if_true] at hx
  exact hx

end Issues

/-- Settles O20: each record's checks pass in turn, and what the issue's events and the binding of a stream change is no register. -/
theorem caskAndStreamCommands : Obligations.CaskAndStreamCommands := by
  intro s c t w o l
  refine ⟨fun w1 h hl hw1 hok hn => ?_, fun r ls h hl hr hix h0 h64 hrows hres hsc hbar hfit hls => ?_,
    fun h hl hname hsubs0 hsubs hrows0 hrows hrb hrb0 hrb4 hcount hres hres1 hbar hfree => ?_,
    fun h hd y hx0 ha0 ha1 hb hy hle => ?_, fun q h hlt hx1 hx2 hb hq hlen hnew => ?_⟩
  · have hq := (s.advance_quiet c w).trans ((s.advance c w).evAcquire_quiet c t (s.ctxOf t) c.lanes
      { scope := .chip, spans := some [(l, l + 32)] })
    obtain ⟨t', ht', hsame, hother⟩ := State.setRange_ranges (c := c) (State.issue_go h).team hq.2 hn _
    refine ⟨_, _, t', hq.2, hq.1, exec_of_body_ok h (rfl : exec _ s = execCaskres o s) ?_, rfl, ht', hsame, hother⟩
    simp only [State.ctxOf_advance, hl, hw1, hok, if_true]
    rfl
  · obtain ⟨spans, hx⟩ := exec_mgather_of_checks h hl rfl hr hix (by omega)
      (by rw [scratchBar, if_neg (not_not.mpr hbar), if_neg (not_lt.mpr hfit)]) hls
    refine ⟨_, hx, (s.advance_quiet c w).trans (Quiet.trans ?_ (State.issueRelease_quiet _ c t _)),
      State.issueRelease_gathers _ c t _⟩
    exact ⟨rfl, SameRegs.of_teams rfl⟩
  · obtain ⟨spans, hx⟩ := exec_opub_of_checks h hl rfl (by omega) (by omega) hbar hfree
    obtain ⟨s', p, hx, hq, hmem, he⟩ := State.publication_stands hx
      ((s.advance_quiet c w).trans ⟨rfl, SameRegs.of_teams rfl⟩) (List.mem_append_right _ (List.mem_singleton_self _))
    refine ⟨s', p, hx, hq, hmem, ?_⟩
    rw [he]
    exact ⟨rfl, rfl, rfl, rfl, rfl, rfl, rfl, rfl, rfl⟩
  · have hret : (w.rk o.d.toNat).toNat / 2 ^ 31 = 1 := by
      rw [BitVec.getLsbD, Nat.testBit_eq_decide_div_mod_eq, decide_eq_true_eq] at hd
      omega
    refine exec_osub_of_return h hret ?_ hy hle
    simp only [hx0, ha0, ha1, ne_eq, not_true, false_or]
    omega
  · have hx := exec_osub_of_scratch h (by omega) (by rw [hx1]; rfl) (by omega) hq hlen hnew
    obtain ⟨s', y, hx, hquiet, hmem, he⟩ := State.subscription_stands hx
      ((s.advance_quiet c w).trans ⟨rfl, SameRegs.of_teams rfl⟩) (List.mem_append_right _ (List.mem_singleton_self _))
    refine ⟨s', y, hx, hquiet, hmem, ?_⟩
    rw [he]
    exact ⟨rfl, rfl, rfl, rfl, rfl, rfl, rfl⟩

end Sys2Proof.Machine
end

/-! # Proofs: what the matrix engine's operations make of tiles (R160 to R172)

First the elements of a tile after the functions that write tiles; then a block of a product and the order of its blocks;
then each operation, element by element. -/
section

namespace Sys2Proof.Machine

open Spec

/-! ## Elements of tiles -/

/-- The keys of different elements of tiles differ. -/
theorem tileKey_inj {d e i j k l : Nat} (hi : i < 64) (hj : j < 64) (hk : k < 64) (hl : l < 64)
    (h : tileKey e k l = tileKey d i j) : e = d ∧ k = i ∧ l = j := by
  unfold tileKey at h
  omega

theorem Team.tile_setTile (t : Team) {d e i j k l : Nat} (x : Word) (hi : i < 64) (hj : j < 64) (hk : k < 64) (hl : l < 64) :
    (t.setTile d i j x).tile e k l = if e = d ∧ k = i ∧ l = j then x else t.tile e k l := by
  rw [Team.tile, Team.setTile, KV.get_put]
  by_cases h : e = d ∧ k = i ∧ l = j
  · obtain ⟨rfl, rfl, rfl⟩ := h
    simp
  · rw [if_neg h, if_neg (fun hkey => h (tileKey_inj hi hj hk hl hkey))]
    rfl

/-- The elements at a list of places, set one after the other. -/
theorem Team.tile_foldl_setTile {d e k l : Nat} (x : Nat → Nat → Word × FpFlags) (hk : k < 64) (hl : l < 64)
    (ps : List (Nat × Nat)) (hps : ∀ p ∈ ps, p.1 < 64 ∧ p.2 < 64) (a : Team × FpFlags) :
    (ps.foldl (fun a p => (a.1.setTile d p.1 p.2 (x p.1 p.2).1, a.2.join (x p.1 p.2).2)) a).1.tile e k l =
      if e = d ∧ (k, l) ∈ ps then (x k l).1 else a.1.tile e k l := by
  induction ps generalizing a with
  | nil => simp
  | cons p ps ih =>
    obtain ⟨hp, hps⟩ := List.forall_mem_cons.mp hps
    rw [List.foldl_cons, ih hps, Team.tile_setTile _ _ hp.1 hp.2 hk hl]
    by_cases hd : e = d
    · by_cases hmem : (k, l) ∈ ps
      · simp [hd, hmem]
      · by_cases hpk : p = (k, l)
        · simp [hd, hmem, hpk]
        · have hne : ¬ (k = p.1 ∧ l = p.2) := fun h => hpk (Prod.ext h.1.symm h.2.symm)
          simp [hd, hmem, Ne.symm hpk, hne]
    · simp [hd]

theorem Team.mapTile_eq_foldl (t : Team) (d : Nat) (f : Nat → Nat → Word → Word × FpFlags) :
    t.mapTile d f = ((List.range 64).flatMap (fun i => (List.range 64).map (fun n => (i, n)))).foldl (fun a p =>
      (a.1.setTile d p.1 p.2 (f p.1 p.2 (t.tile d p.1 p.2)).1, a.2.join (f p.1 p.2 (t.tile d p.1 p.2)).2)) (t, {}) := by
  simp only [List.foldl_flatMap, List.foldl_map]
  rfl

/-- A tile mapped is the function of its old elements; every other tile is the same. -/
theorem Team.tile_mapTile (t : Team) (d e : Nat) (f : Nat → Nat → Word → Word × FpFlags) {i j : Nat} (hi : i < 64) (hj : j < 64) :
    (t.mapTile d f).1.tile e i j = if e = d then (f i j (t.tile d i j)).1 else t.tile e i j := by
  rw [Team.mapTile_eq_foldl, Team.tile_foldl_setTile (fun i n => f i n (t.tile d i n)) hi hj]
  · simp [hi, hj]
  · simp only [List.mem_flatMap, List.mem_map, List.mem_range]
    rintro _ ⟨x, hx, y, hy, rfl⟩
    exact ⟨hx, hy⟩

/-- A team but for its tiles and ranges. -/
def untiled (t : Team) : Team := { t with tiles := [], ranges := [] }

theorem foldl_fst_of_fixed {α β γ δ : Type} {f : α × β → γ → α × β} {g : α → δ} (h : ∀ a x, g (f a x).1 = g a.1)
    (xs : List γ) (a : α × β) : g (xs.foldl f a).1 = g a.1 := by
  induction xs generalizing a with
  | nil => rfl
  | cons x xs ih => rw [List.foldl_cons, ih, h]

theorem Team.untiled_mapTile (t : Team) (d : Nat) (f : Nat → Nat → Word → Word × FpFlags) :
    untiled (t.mapTile d f).1 = untiled t := by
  rw [Team.mapTile_eq_foldl]
  generalize (List.range 64).flatMap (fun i => (List.range 64).map (fun n => (i, n))) = ps
  exact foldl_fst_of_fixed (g := untiled) (fun _ _ => by rfl) ps (t, ({} : FpFlags))

/-- An operation of the engine changes tiles and ranges of its team, and nothing else of it. -/
theorem MatOp.untiled_onTiles (op : MatOp) (t : Team) (mode : Word) (rd : Nat → Nat → Nat) :
    untiled (op.onTiles t mode rd).1 = untiled t := by
  cases op with
  | mma | tzero | tld | tcvt | tadd | tscale => simp only [MatOp.onTiles, Team.untiled_mapTile]
  | gmma =>
    simp only [MatOp.onTiles]
    generalize List.range 4 = qs
    exact foldl_fst_of_fixed (g := untiled) (fun a q => by simp only [Team.untiled_mapTile]) qs (t, ({} : FpFlags))
  | tmov | tst | caskrel => rfl

/-- Several tiles from d up, each mapped once. -/
theorem Team.tile_foldl_mapTile (d : Nat) (f : Nat → Nat → Nat → Word → Word × FpFlags) {i j : Nat} (hi : i < 64) (hj : j < 64)
    (qs : List Nat) (hqs : qs.Nodup) (a : Team × FpFlags) (q : Nat) :
    (qs.foldl (fun u q => ((u.1.mapTile (d + q) (f q)).1, u.2.join (u.1.mapTile (d + q) (f q)).2)) a).1.tile (d + q) i j =
      if q ∈ qs then (f q i j (a.1.tile (d + q) i j)).1 else a.1.tile (d + q) i j := by
  induction qs generalizing a with
  | nil => simp
  | cons p qs ih =>
    obtain ⟨hp, hqs⟩ := List.nodup_cons.mp hqs
    rw [List.foldl_cons, ih hqs]
    simp only [Team.tile_mapTile _ _ _ _ hi hj, Nat.add_left_cancel_iff, List.mem_cons]
    by_cases hq : q = p
    · simp [hq, hp]
    · simp [hq]

/-! ## Products (R162, R163) -/

/-- The blocks of a product in ascending order. -/
theorem accBlocks_eq_accRow {n : Nat} (acc : Word) (f : FpFlags) {ps : List (Num × Num)} (h : ps.length ≤ 16 * n) :
    (accBlocks n acc f ps).1 = accRow acc ps := by
  induction n generalizing acc f ps with
  | zero =>
    rw [List.eq_nil_of_length_eq_zero (by omega : ps.length = 0)]
    rfl
  | succ n ih =>
    cases ps with
    | nil => rfl
    | cons p ps =>
      have hlen : ((p :: ps).length + 15) / 16 = ((((p :: ps).drop 16).length) + 15) / 16 + 1 := by
        simp only [List.length_cons, List.length_drop]
        omega
      rw [accBlocks, ih _ _ (by simp only [List.length_drop]; omega), accRow, accRow, hlen, List.range_succ_eq_map,
        List.foldl_cons, List.foldl_map]
      · simp only [List.drop_drop, Nat.mul_zero, List.drop_zero, Nat.succ_eq_add_one, Nat.mul_add, Nat.mul_one, Nat.add_comm]
      · simp

theorem Num.rat_ofRat (x : Rat) (z : Bool) : (Num.ofRat x z).rat = x := by
  unfold Num.ofRat
  split
  next h => cases z <;> simp [Num.rat, beq_iff_eq.mp h]
  · split <;> simp [Num.rat]

theorem Num.ofRat_eq_of_ne_zero {x : Rat} (h : x ≠ 0) (y z : Bool) : Num.ofRat x y = Num.ofRat x z := by
  simp [Num.ofRat, h]

theorem finite_ofRat (x : Rat) (z : Bool) : finite (Num.ofRat x z) = true := by
  unfold Num.ofRat
  split
  · rfl
  · split <;> rfl

theorem Num.eq_fin_of_finite {x : Num} (h : finite x = true) : ∃ n m, x = .fin n m := by
  cases x with
  | fin n m => exact ⟨n, m, rfl⟩
  | nan | inf => cases h

section Finite

variable {x y : Num} (hx : finite x = true)
include hx

theorem Num.isNan_of_finite : x.isNan = false := by
  obtain ⟨n, m, rfl⟩ := Num.eq_fin_of_finite hx
  rfl

theorem Num.isInf_of_finite : x.isInf = false := by
  obtain ⟨n, m, rfl⟩ := Num.eq_fin_of_finite hx
  rfl

variable (hy : finite y = true)
include hy

theorem mulNum_of_finite : (mulNum x y).2 = false ∧ finite (mulNum x y).1 = true ∧ (mulNum x y).1.rat = x.rat * y.rat := by
  obtain ⟨n, m, rfl⟩ := Num.eq_fin_of_finite hx
  obtain ⟨n', m', rfl⟩ := Num.eq_fin_of_finite hy
  refine ⟨rfl, rfl, ?_⟩
  cases n <;> cases n' <;> simp [mulNum, Num.rat]

theorem addNum_of_finite (rm : Rm) : ∃ z, addNum rm x y = (.ofRat (x.rat + y.rat) z, false) := by
  obtain ⟨n, m, rfl⟩ := Num.eq_fin_of_finite hx
  obtain ⟨n', m', rfl⟩ := Num.eq_fin_of_finite hy
  exact ⟨_, rfl⟩

end Finite

theorem sumNum_of_finite (rm : Rm) {ts : List Num} (h : ∀ v ∈ ts, finite v = true) :
    ∃ z, sumNum rm ts = .ofRat ((ts.map Num.rat).sum) z := by
  have hinf : ts.find? Num.isInf = none := by
    rw [List.find?_eq_none]
    exact fun v hv => by simp [Num.isInf_of_finite (h v hv)]
  rw [sumNum, hinf, List.sum_eq_foldl, List.foldl_map]
  exact ⟨_, rfl⟩

theorem blockSum_eq_add_sum (acc : Word) (ps : List (Num × Num)) :
    blockSum acc ps = (value .f32 acc.toNat).rat + (ps.map (fun p => p.1.rat * p.2.rat)).sum := by
  rw [blockSum]
  generalize (value .f32 acc.toNat).rat = a
  induction ps generalizing a with
  | nil => simp
  | cons p ps ih => rw [List.foldl_cons, ih, List.map_cons, List.sum_cons, add_assoc]

/-- The products of a block, as accBlock takes them. -/
def blockTerms (ps : List (Num × Num)) : List Num := (ps.map (fun p => mulNum p.1 p.2)).map (fun p => p.1)

section Block

variable {ps : List (Num × Num)} (hps : ∀ p ∈ ps, finite p.1 = true ∧ finite p.2 = true)
include hps

theorem finite_of_mem_blockTerms : ∀ v ∈ blockTerms ps, finite v = true := by
  simp only [blockTerms, List.map_map, List.mem_map]
  rintro _ ⟨p, hp, rfl⟩
  exact (mulNum_of_finite (hps p hp).1 (hps p hp).2).2.1

theorem sum_blockTerms : ((blockTerms ps).map Num.rat).sum = (ps.map (fun p => p.1.rat * p.2.rat)).sum := by
  rw [blockTerms, List.map_map, List.map_map]
  exact congrArg List.sum (List.map_congr_left fun p hp => (mulNum_of_finite (hps p hp).1 (hps p hp).2).2.2)

theorem no_invalid_product : (ps.map (fun p => mulNum p.1 p.2)).any (fun p => p.2) = false := by
  simp only [List.any_eq_false, List.mem_map]
  rintro _ ⟨p, hp, rfl⟩
  rw [(mulNum_of_finite (hps p hp).1 (hps p hp).2).1]
  decide

theorem no_nan_product : (blockTerms ps).any Num.isNan = false := by
  rw [List.any_eq_false]
  exact fun v hv => by simp [Num.isNan_of_finite (finite_of_mem_blockTerms hps v hv)]

theorem no_inf_product (b : Bool) : (blockTerms ps).contains (.inf b) = false := by
  rw [← Bool.not_eq_true, List.contains_iff_mem]
  exact fun hmem => by cases finite_of_mem_blockTerms hps _ hmem

/-- A block of finite operands: its exact sum with the accumulator, rounded once (R163). -/
theorem accBlock_of_finite {acc : Word} (hacc : finite (value .f32 acc.toNat) = true) :
    ∃ z, (accBlock acc ps).1 = BitVec.ofNat 32 (roundF (.ofRat (blockSum acc ps) z) .f32 .rne false false).1 := by
  obtain ⟨z, hz⟩ := sumNum_of_finite .rne (finite_of_mem_blockTerms hps)
  obtain ⟨z', hz'⟩ := addNum_of_finite hacc (finite_ofRat (((blockTerms ps).map Num.rat).sum) z) .rne
  rw [Num.rat_ofRat, sum_blockTerms hps, ← blockSum_eq_add_sum] at hz'
  rw [sum_blockTerms hps] at hz
  obtain ⟨n, q, hfin⟩ := Num.eq_fin_of_finite (finite_ofRat (blockSum acc ps) z')
  refine ⟨z', ?_⟩
  have hterms : (ps.map (fun p => mulNum p.1 p.2)).map (fun p => p.1) = blockTerms ps := rfl
  unfold accBlock
  simp only [hterms, no_invalid_product hps, no_inf_product hps, no_nan_product hps, Bool.and_self, Bool.or_self, Bool.false_eq_true,
    if_false, hz, hz', hfin]

end Block

theorem accBlock_of_blockSum_ne_zero {acc : Word} {ps : List (Num × Num)} (hacc : finite (value .f32 acc.toNat) = true)
    (hps : ∀ p ∈ ps, finite p.1 = true ∧ finite p.2 = true) (h : blockSum acc ps ≠ 0) :
    (accBlock acc ps).1 = BitVec.ofNat 32 (roundF (.ofRat (blockSum acc ps) false) .f32 .rne false false).1 := by
  obtain ⟨z, hz⟩ := accBlock_of_finite hps hacc
  rw [hz, Num.ofRat_eq_of_ne_zero h z false]

/-- An exact zero is a zero of either sign. -/
theorem accBlock_of_blockSum_zero {acc : Word} {ps : List (Num × Num)} (hacc : finite (value .f32 acc.toNat) = true)
    (hps : ∀ p ∈ ps, finite p.1 = true ∧ finite p.2 = true) (h : blockSum acc ps = 0) :
    (accBlock acc ps).1.toNat % 2147483648 = 0 := by
  obtain ⟨z, hz⟩ := accBlock_of_finite hps hacc
  have hzero : Num.ofRat 0 z = .fin z 0 := by simp [Num.ofRat]
  rw [hz, h, hzero]
  cases z <;> rfl

/-! ## Operations on tiles (R164 to R172) -/

/-- The controls of tadd and tscale: MODE's rounding and flushing, with no saturation (R172). -/
theorem fpCtl_noSat (mode : Word) : fpCtl (mode &&& ~~~ 16#32) {} =
    { rm := modeRm mode, sat := false, ftz := modeFtz mode, absa := false, nega := false, absb := false, negb := false,
      negc := false } := by
  have hrm : (mode &&& ~~~ 16#32).toNat % 4 = mode.toNat % 4 := by
    rw [BitVec.toNat_and, Nat.and_mod_two_pow (n := 2), show (~~~ 16#32).toNat % 2 ^ 2 = 2 ^ 2 - 1 from rfl,
      Nat.and_two_pow_sub_one_eq_mod, Nat.mod_mod]
  have hftz : (mode &&& ~~~ 16#32).getLsbD 2 = mode.getLsbD 2 := by simp
  simp only [fpCtl, selRm, selFtz, modeRm, modeFtz, hrm, hftz]

section Operations

variable (t : Team) (mode : Word) (rd : Nat → Nat → Nat) (d : Nat) {i j : Nat} (hi : i < 64) (hj : j < 64)
include hi hj

theorem MatOp.tile_mma {ra rb : CaskRec} (g : Bool) (h : max ra.klen rb.klen ≤ 2048) :
    ((MatOp.mma d ra rb g).onTiles t mode rd).1.tile d i j = accRow (t.tile d i j) (mmaPairs rd ra rb
      (if g then (if rd (ra.index + 2 * i) 2 < ra.rows then some (rd (ra.index + 2 * i) 2) else none) else some i) j) := by
  rw [MatOp.onTiles, Team.tile_mapTile _ _ _ _ hi hj, if_pos rfl]
  refine accBlocks_eq_accRow _ _ ?_
  simpa [mmaPairs] using h

theorem MatOp.tile_gmma (ra rb : CaskRec) {n q : Nat} (sa sb : Nat) (g : Bool) (hn : n ≤ 16) (hq : q < 4) :
    ((MatOp.gmma d ra rb n sa sb g).onTiles t mode rd).1.tile (d + q) i j = accRow (t.tile (d + q) i j)
      (gmmaPairs rd ra rb n sa sb (i + 64 * (q / 2)) (j + 64 * (q % 2))) := by
  refine (Team.tile_foldl_mapTile d (fun q i n acc => accBlocks 128 acc {} (gmmaPairs rd ra rb _ sa sb (i + 64 * (q / 2))
    (n + 64 * (q % 2)))) hi hj _ List.nodup_range _ q).trans ?_
  rw [if_pos (List.mem_range.mpr hq)]
  refine accBlocks_eq_accRow _ _ ?_
  simp only [gmmaPairs, List.length_map, List.length_range]
  omega

end Operations

/-- The operands of an element of mma: a row that A does not store gives zeros (R164). -/
theorem mmaPairs_eq_map (rd : Nat → Nat → Nat) (ra rb : CaskRec) (row : Option Nat) (j : Nat) :
    mmaPairs rd ra rb row j = (List.range (max ra.klen rb.klen)).map (fun p =>
      ((row.map (fun r => elemOf rd ra r (if rb.dmap.isEmpty then p else expand rb.dmap p))).getD (.fin false 0),
       elemOf rd rb j (if ra.dmap.isEmpty then p else expand ra.dmap p))) := by
  cases row <;> rfl

end Sys2Proof.Machine
end

/-! # Proofs: the matrix engine's moves (R149, R157, R162, R168 to R170)

What a command's completion leaves of the queue and of a team beside its warps: first the log and the halts, then
its own stages. -/
section

namespace Sys2Proof.Machine

open Spec

/-! ## The queue and the teams beside their warps -/

/-- A team without its warps. -/
def shell (t : Team) : Team := { t with warps := [] }

/-- The queue of the matrix engine is as it was, and of the teams only warps have changed. -/
def SameShells (s s' : State) : Prop := s'.matq = s.matq ∧ s'.teams.map shell = s.teams.map shell

theorem SameShells.trans {s s1 s2 : State} (h : SameShells s s1) (h' : SameShells s1 s2) : SameShells s s2 :=
  ⟨h'.1.trans h.1, h'.2.trans h.2⟩

theorem SameShells.of_eq {s s' : State} (hq : s'.matq = s.matq) (ht : s'.teams = s.teams) : SameShells s s' :=
  ⟨hq, congrArg (List.map shell) ht⟩

theorem State.updWarp_shells (s : State) (t w : Nat) (f : Warp → Warp) : (s.updWarp t w f).teams.map shell = s.teams.map shell := by
  simp only [State.updWarp, State.updTeam, List.map_map]
  refine List.map_congr_left fun u _ => ?_
  rw [Function.comp_apply]
  split <;> rfl

theorem SameShells.updWarp (s : State) (t w : Nat) (f : Warp → Warp) : SameShells s (s.updWarp t w f) :=
  ⟨rfl, s.updWarp_shells t w f⟩

/-- A team is there after what changes warps alone, with the rest of it. -/
theorem team?_of_shells {s s' : State} (h : s'.teams.map shell = s.teams.map shell) {id : Nat} {t : Team} (ht : s.team? id = some t) :
    ∃ t', s'.team? id = some t' ∧ shell t' = shell t := by
  have hshell (s : State) : (s.team? id).map shell = (s.teams.map shell).find? (fun u => u.id == id) := by
    rw [List.find?_map]
    rfl
  have h' : (s'.team? id).map shell = some (shell t) := by rw [hshell, h, ← hshell, ht, Option.map_some]
  simpa [Option.map_eq_some_iff] using h'

@[simp] theorem State.wrAll_matq (m : Maker) (ws : List (Nat × Byte)) (s : State) : (s.wrAll m ws).matq = s.matq := by
  induction ws generalizing s with
  | nil => rfl
  | cons p r ih => rw [State.wrAll, ih, State.wr1_matq]

@[simp] theorem State.wrRec_matq (s : State) (pa : Nat) (bs : List Byte) : (s.wrRec pa bs).matq = s.matq := by
  simp [State.wrRec, State.wrPub, State.wr]

@[simp] theorem State.logWrite_matq (s : State) (d : Nat) (r : LogRec) : (s.logWrite d r).matq = s.matq := by
  unfold State.logWrite
  dsimp only
  split
  · rfl
  · split <;> simp

theorem SameShells.closeLog (s : State) (t w : Nat) : SameShells s (s.closeLog t w) := by
  unfold State.closeLog
  split
  · split
    · exact .of_eq rfl rfl
    · exact (SameShells.updWarp s t w _).trans (.of_eq (State.logWrite_matq _ _ _) (State.logWrite_teams _ _ _))
  · exact .of_eq rfl rfl

theorem SameShells.logArith (s : State) (c : Ctx) (mode : Word) (fs : List (Nat × FpFlags)) : SameShells s (s.logArith c mode fs) := by
  unfold State.logArith State.logEvent
  dsimp only
  split
  · exact .of_eq rfl rfl
  · split
    · exact .of_eq rfl rfl
    · split
      · split
        · exact .updWarp s _ _ _
        · exact (SameShells.closeLog s _ _).trans (.updWarp _ _ _ _)
      · exact .updWarp s _ _ _

theorem SameShells.logEngine (s : State) (x : EngCtx) (lane : Nat) (mode : Word) (f : FpFlags) :
    SameShells s (s.logEngine x lane mode f) := by
  unfold State.logEngine
  dsimp only
  have h := SameShells.logArith s { team := x.team, warp := x.warp, lanes := [], pc := x.pc, words := [] } mode [(lane, f)]
  split
  · exact h
  · split
    · exact h.trans (.closeLog _ _ _)
    · exact h

theorem SameShells.pendDone (s : State) (t w id : Nat) (ws : List (Nat × List (Reg × Word))) : SameShells s (s.pendDone t w id ws) :=
  .updWarp s t w _

/-! ## Halts that waited for the engine (R51) -/

/-- What a halt does to a team's threads publishes, and changes warps alone. -/
theorem State.haltEffects_shells (s : State) (t : Team) : SameShells s (s.haltEffects t) := by
  have hrel (ths : List Thread) (a : State) :
      SameShells a (ths.foldl (fun a th => a.release (.core t.core) th { scope := .chip }) a) := by
    induction ths generalizing a with
    | nil => exact .of_eq rfl rfl
    | cons th ths ih => exact (SameShells.of_eq rfl rfl).trans (ih _)
  have hcomplete : SameShells s (s.updTeam t.id (fun u => { u with warps := u.warps.map (fun w => w.complete (fun _ => true)) })) := by
    refine ⟨rfl, ?_⟩
    simp only [State.updTeam, List.map_map]
    refine List.map_congr_left fun u _ => ?_
    rw [Function.comp_apply]
    split <;> rfl
  unfold State.haltEffects
  dsimp only
  split
  · exact hcomplete
  · exact hcomplete.trans (hrel _ _)

theorem State.haltDue_matq (s : State) (id : Nat) : (s.haltDue id).matq = s.matq := by
  unfold State.haltDue
  split
  · rfl
  next t _ =>
    split
    · rfl
    · split
      · exact (s.haltEffects_shells t).1
      · split
        · exact (s.haltEffects_shells t).1
        · rfl

theorem State.haltDue_of_resident {s : State} {id : Nat} {t : Team} (ht : s.team? id = some t) (hst : t.st = .resident) :
    s.haltDue id = s := by
  simp only [State.haltDue, ht, hst]
  split <;> rfl

/-- A halt leaves the tiles of the team. -/
theorem State.team?_haltDue {s : State} {id : Nat} {t : Team} (ht : s.team? id = some t) :
    ∃ t', (s.haltDue id).team? id = some t' ∧ t'.tiles = t.tiles := by
  have hkeep (st : TeamSt) : ∃ t', ((s.haltEffects t).updTeam t.id (fun u => { u with st := st })).team? id = some t' ∧
      t'.tiles = t.tiles := by
    obtain ⟨u, hu, hshell⟩ := team?_of_shells (s.haltEffects_shells t).2 ht
    have hid : t.id = id := by simpa using List.find?_some ht
    refine ⟨{ u with st := st }, ?_, (congrArg Team.tiles hshell :)⟩
    rw [State.team?_updTeam _ _ _ _ (fun _ => by rfl), hid, if_pos rfl, hu, Option.map_some]
  unfold State.haltDue
  simp only [ht]
  split
  · exact ⟨t, ht, rfl⟩
  · split
    · exact hkeep .halted
    · split
      · exact hkeep .resident
      · exact ⟨t, ht, rfl⟩

/-! ## What a completion changes beside tiles (R166, R168, R170) -/

/-- What a completed command changes beside tiles and registers: tst's stores, and the credits that gmma returns. -/
def State.matEffect (s : State) (t : Team) (m : MatCmd) : State :=
  match m.op with
  | .tst d locs => s.tstStore t m (tstBytes t d locs)
  | .gmma _ a b c _ _ true => (s.giveCredits m.team a.n c).giveCredits m.team b.n c
  | _ => s

/-- The state whose queue and tiles a completion has changed. -/
def State.matTiles (s : State) (t : Team) (m : MatCmd) (bytes : KV Byte) : State :=
  ({ s with freeCtr := s.freeCtr + 262144, matq := s.matq.filter (fun x => x.id != m.id) } : State).updTeam m.team
    (fun _ => (m.op.onTiles t m.mode (mixRead bytes t.cask s.freeCtr)).1)

/-- The state whose registers it has changed too; only the log is to come. -/
def State.matRegs (s : State) (t : Team) (m : MatCmd) (bytes : KV Byte) : State :=
  ((s.matTiles t m bytes).matEffect t m).pendDone m.team m.warp m.id (m.op.laneWrites t m.lanes)

/-- A completion changes the queue and the tiles, then what matEffect says, then the registers, then the log. -/
theorem State.matDone_eq (s : State) (t : Team) (m : MatCmd) (bytes : KV Byte) : s.matDone t m bytes =
    (s.matRegs t m bytes).logEngine
      { team := m.team, warp := m.warp, pc := m.pc, unit := 0 } (m.lanes.headD 0) m.mode
      (m.op.onTiles t m.mode (mixRead bytes t.cask s.freeCtr)).2 := by
  unfold State.matDone State.matRegs State.matEffect
  rfl

/-- The registers and the log are of warps alone. -/
theorem State.matDone_sameShells (s : State) (t : Team) (m : MatCmd) (bytes : KV Byte) :
    SameShells ((s.matTiles t m bytes).matEffect t m) (s.matDone t m bytes) := by
  rw [State.matDone_eq]
  exact (SameShells.pendDone _ _ _ _ _).trans (.logEngine _ _ _ _ _)

theorem State.matEffect_of_not_tst (s : State) (t : Team) {m : MatCmd} (h : m.op.isTst = false) : SameShells s (s.matEffect t m) := by
  unfold State.matEffect
  split
  next hop => rw [hop] at h; cases h
  · exact .of_eq rfl rfl
  · exact .of_eq rfl rfl

theorem MatCmd.afterStore_id (ws : List (Nat × Byte)) (m : MatCmd) : (m.afterStore ws).id = m.id := by
  unfold MatCmd.afterStore
  split <;> rfl

/-- Of tst's stores the queue keeps its order, and of the teams only warps change. -/
theorem State.tstStore_shells (s : State) (t : Team) (m : MatCmd) (ws : List (Nat × Byte)) :
    (s.tstStore t m ws).matq.map MatCmd.id = s.matq.map MatCmd.id ∧ (s.tstStore t m ws).teams.map shell = s.teams.map shell := by
  have hids : (s.matq.map (fun x => if x.team == m.team && x.warp == m.warp then x.afterStore ws else x)).map MatCmd.id =
      s.matq.map MatCmd.id := by
    rw [List.map_map]
    refine List.map_congr_left fun x _ => ?_
    rw [Function.comp_apply]
    split
    · exact x.afterStore_id ws
    · rfl
  unfold State.tstStore
  dsimp only
  split
  · exact ⟨hids, State.updWarp_shells _ _ _ _⟩
  · refine ⟨?_, ?_⟩
    · rw [State.mapThr_matq, State.wr, State.wrAll_matq]
      exact hids
    · rw [State.mapThr, State.updWarp_shells, State.wr, State.wrAll_teams]

theorem State.matEffect_shells (s : State) (t : Team) (m : MatCmd) :
    (s.matEffect t m).matq.map MatCmd.id = s.matq.map MatCmd.id ∧ (s.matEffect t m).teams.map shell = s.teams.map shell := by
  cases hop : m.op with
  | tst d locs =>
    simp only [State.matEffect, hop]
    exact s.tstStore_shells t m _
  | _ =>
    obtain ⟨hq, ht⟩ := s.matEffect_of_not_tst t (m := m) (by rw [hop]; rfl)
    exact ⟨congrArg _ hq, ht⟩

/-! ## The team of a completed command -/

theorem State.team?_updTeam_const {s : State} {id : Nat} {t u : Team} (ht : s.team? id = some t) (hu : u.id = id) :
    (s.updTeam id (fun _ => u)).team? id = some u := by
  have hconst : s.updTeam id (fun _ => u) = s.updTeam id (fun v => { u with id := v.id }) := by
    simp only [State.updTeam]
    congr 1
    refine List.map_congr_left fun v _ => ?_
    split
    next hv => rw [beq_iff_eq.mp hv, ← hu]
    next => rfl
  have hid : t.id = id := by simpa using List.find?_some ht
  rw [hconst, State.team?_updTeam _ _ _ _ (fun _ => by rfl), if_pos rfl, ht, Option.map_some, hid, ← hu]

section Done

variable {s : State} {t : Team} {m : MatCmd} (ht : s.team? m.team = some t) (bytes : KV Byte)
include ht

theorem State.team?_matTiles : (s.matTiles t m bytes).team? m.team =
    some (m.op.onTiles t m.mode (mixRead bytes t.cask s.freeCtr)).1 := by
  refine State.team?_updTeam_const (s := { s with freeCtr := _, matq := _ }) ht ?_
  have hid : t.id = m.team := by simpa using List.find?_some ht
  exact (congrArg Team.id (m.op.untiled_onTiles t m.mode _) :).trans hid

theorem State.warp?_matTiles (n : Nat) : (s.matTiles t m bytes).warp? m.team n = s.warp? m.team n := by
  have hwarps : (m.op.onTiles t m.mode (mixRead bytes t.cask s.freeCtr)).1.warps = t.warps :=
    (congrArg Team.warps (m.op.untiled_onTiles t m.mode _) :)
  simp only [State.warp?, State.team?_matTiles ht bytes, ht, Option.bind_some, hwarps]

/-- The team of a completed command has the tiles that the operation makes, and stands where it stood. -/
theorem State.team?_matDone : ∃ t', (s.matDone t m bytes).team? m.team = some t' ∧
    t'.tiles = (m.op.onTiles t m.mode (mixRead bytes t.cask s.freeCtr)).1.tiles ∧ t'.st = t.st := by
  obtain ⟨u, hu, hshell⟩ := team?_of_shells ((s.matDone_sameShells t m bytes).2.trans
    (State.matEffect_shells (s.matTiles t m bytes) t m).2) (State.team?_matTiles ht bytes)
  have hrest := m.op.untiled_onTiles t m.mode (mixRead bytes t.cask s.freeCtr)
  exact ⟨u, hu, (congrArg Team.tiles hshell :), (congrArg Team.st hshell :).trans (congrArg Team.st hrest :)⟩

end Done

theorem State.matDone_ids (s : State) (t : Team) (m : MatCmd) (bytes : KV Byte) :
    (s.matDone t m bytes).matq.map MatCmd.id = (s.matq.filter (fun x => x.id != m.id)).map MatCmd.id := by
  rw [(s.matDone_sameShells t m bytes).1]
  exact (State.matEffect_shells (s.matTiles t m bytes) t m).1

theorem State.matDone_matq (s : State) (t : Team) {m : MatCmd} (bytes : KV Byte) (h : m.op.isTst = false) :
    (s.matDone t m bytes).matq = s.matq.filter (fun x => x.id != m.id) := by
  rw [(s.matDone_sameShells t m bytes).1]
  exact ((s.matTiles t m bytes).matEffect_of_not_tst t h).1

end Sys2Proof.Machine
end

/-! # Proofs: the warp and the memory after a command of the matrix engine (R162, R168, R170), and the statement

First the pending registers and the bytes that a completion writes; then the log; then the moves. -/
section

namespace Sys2Proof.Machine

open Spec

/-! ## Pending registers of a completed command -/

/-- The warp of a command that is done: its pending instructions complete with what it writes. -/
def Warp.donePend (w : Warp) (id : Nat) (ws : List (Nat × List (Reg × Word))) : Warp :=
  ({ w with pend := w.pend.map (fun p => if p.cmd == some id then { p with ready := true, writes := ws } else p) } : Warp).complete
    (fun p => p.cmd == some id)

theorem State.pendDone_eq (s : State) (t w id : Nat) (ws : List (Nat × List (Reg × Word))) :
    s.pendDone t w id ws = s.updWarp t w (fun v => v.donePend id ws) := rfl

theorem RegFrame.foldl_wrLanes (xs : List Pend) (w : Warp) : RegFrame w (xs.foldl (fun a x => a.wrLanes x.writes) w) := by
  induction xs generalizing w with
  | nil => exact .refl w
  | cons x xs ih => exact (w.wrLanes_frame x.writes).trans (ih _)

theorem Warp.donePend_log (w : Warp) (id : Nat) (ws : List (Nat × List (Reg × Word))) : (w.donePend id ws).log = w.log := by
  unfold Warp.donePend Warp.complete
  dsimp only
  rw [(RegFrame.foldl_wrLanes _ _).rest]

theorem Pend.finish_cmd (x : Pend) (p : Pend → Bool) : (x.finish p).cmd = x.cmd := by
  unfold Pend.finish
  split <;> rfl

/-- Nothing of a command that is done stays pending. -/
theorem Warp.done_of_mem_donePend {w : Warp} {id : Nat} {ws : List (Nat × List (Reg × Word))} {p : Pend}
    (hp : p ∈ (w.donePend id ws).pend) (hid : p.cmd = some id) : p.done = true := by
  unfold Warp.donePend Warp.complete at hp
  dsimp only at hp
  rw [(RegFrame.foldl_wrLanes _ _).rest] at hp
  obtain ⟨q, hq, rfl⟩ := List.mem_map.mp (List.mem_of_mem_filter hp)
  obtain ⟨r, -, rfl⟩ := List.mem_map.mp hq
  have hr : r.cmd = some id := by
    rw [Pend.finish_cmd] at hid
    split at hid <;> exact hid
  simp only [hr, beq_self_eq_true, if_true, Pend.finish]
  cases hdone : r.done <;> simp

/-- A vector register written in several lanes. -/
theorem Warp.wrLanes_map_rv {lanes : List Nat} {l n : Nat} (g : Nat → Word) (w : Warp) (hl : l ∈ lanes) (hlt : l < w.threads.length) :
    ((w.wrLanes (lanes.map (fun l => (l, [(Reg.v n, g l)])))).thr l).rv n = g l := by
  induction lanes generalizing w with
  | nil => cases hl
  | cons a lanes ih =>
    rw [List.map_cons, Warp.wrLanes]
    by_cases hmem : l ∈ lanes
    · exact ih _ hmem (by rwa [(w.wrRegs_frame a _).length])
    · obtain rfl : l = a := (List.mem_cons.mp hl).resolve_right hmem
      rw [Warp.wrLanes_thr_ne, Warp.wrRegs_rv w l l n _ hlt, if_pos rfl]
      · simp [lastReg]
      · simp only [List.mem_map]
        rintro _ ⟨b, hb, rfl⟩ rfl
        exact hmem hb

theorem Warp.foldl_wrLanes_rv {lanes : List Nat} {l n : Nat} (g : Nat → Word) {xs : List Pend} (hne : xs ≠ [])
    (hws : ∀ x ∈ xs, x.writes = lanes.map (fun l => (l, [(Reg.v n, g l)]))) (w : Warp) (hl : l ∈ lanes) (hlt : l < w.threads.length) :
    ((xs.foldl (fun a x => a.wrLanes x.writes) w).thr l).rv n = g l := by
  obtain ⟨ys, q, rfl⟩ := (List.eq_nil_or_concat xs).resolve_left hne
  rw [List.concat_eq_append, List.foldl_append, List.foldl_cons, List.foldl_nil, hws q (by simp)]
  refine Warp.wrLanes_map_rv g _ hl ?_
  rwa [(RegFrame.foldl_wrLanes ys w).length]

/-- What a command writes stands in its lanes once a pending instruction of it completes. -/
theorem Warp.donePend_rv {w : Warp} {id l n : Nat} {lanes : List Nat} (g : Nat → Word) (hl : l ∈ lanes) (hlt : l < w.threads.length)
    (hp : ∃ p ∈ w.pend, p.cmd = some id ∧ p.done = false) :
    ((w.donePend id (lanes.map (fun l => (l, [(Reg.v n, g l)])))).thr l).rv n = g l := by
  obtain ⟨p, hp, hid, hdone⟩ := hp
  refine Warp.foldl_wrLanes_rv g ?_ ?_ _ hl hlt
  · refine List.ne_nil_of_mem (List.mem_filter.mpr ⟨List.mem_map_of_mem hp, ?_⟩)
    simp [hid, hdone]
  · intro x hx
    obtain ⟨hmem, hcmd⟩ := List.mem_filter.mp hx
    obtain ⟨q, -, rfl⟩ := List.mem_map.mp hmem
    by_cases hq : (q.cmd == some id) = true
    · rw [if_pos hq]
    · rw [if_neg hq, Bool.and_eq_true] at hcmd
      exact absurd hcmd.2 hq

/-! ## Bytes of tst (R169, R170) -/

theorem leBytes_getElem? (n x i : Nat) : (leBytes n x)[i]? = if i < n then some (BitVec.ofNat 8 (x / 256 ^ i)) else none := by
  induction n generalizing x i with
  | zero => simp [leBytes]
  | succ n ih =>
    cases i with
    | zero => simp [leBytes]
    | succ i => simp [leBytes, ih, Nat.div_div_eq_div_mul, Nat.pow_succ, Nat.mul_comm]

theorem ofNat_div_eq_extractLsb' (x : Word) (i : Nat) : BitVec.ofNat 8 (x.toNat / 256 ^ i) = x.extractLsb' (8 * i) 8 := by
  rw [BitVec.extractLsb', Nat.shiftRight_eq_div_pow, Nat.pow_mul]

theorem tstBytes_eq_tstWrites (t : Team) (d : Nat) (locs : List (List Nat)) : tstBytes t d locs = tstWrites t d locs := by
  refine List.flatMap_congr fun p _ => List.ext_getElem? fun i => ?_
  rw [List.zip_eq_zipWith, List.getElem?_zipWith, leBytes_getElem?, List.getElem?_map, List.getElem?_zipIdx]
  by_cases hi : i < p.1.length
  · simp [hi, ofNat_div_eq_extractLsb']
  · simp [hi]

/-- The byte at each location after a write of bytes in order: the last one's. -/
theorem State.rdNew_wrAll (g : Maker) (ws : List (Nat × Byte)) (s : State) (a : Nat) :
    (s.wrAll g ws).rdNew a = lastByte a ws (s.rdNew a) := by
  induction ws generalizing s with
  | nil => rfl
  | cons p ws ih =>
    obtain ⟨l, b⟩ := p
    rw [State.wrAll, ih, State.rdNew_wr1, lastByte, lastByte, List.reverse_cons, List.find?_append]
    cases ws.reverse.find? (fun q => q.1 == a) with
    | some q => rfl
    | none => by_cases h : a = l <;> simp [h, Ne.symm]

theorem State.tstStore_mem_det {s : State} {t : Team} (h : (s.ctxOf t).det = true) (m : MatCmd) (ws : List (Nat × Byte)) :
    (s.tstStore t m ws).mem = s.mem := by
  unfold State.tstStore
  dsimp only
  rw [if_pos h]
  rfl

theorem State.tstStore_rdNew {s : State} {t : Team} (h : (s.ctxOf t).det = false) (m : MatCmd) (ws : List (Nat × Byte)) (a : Nat) :
    (s.tstStore t m ws).rdNew a = lastByte a ws (s.rdNew a) := by
  unfold State.tstStore
  dsimp only
  rw [if_neg (by exact Bool.eq_false_iff.mp h)]
  exact State.rdNew_wrAll _ ws { s with matq := _ } a

theorem State.tstStore_warp? {s : State} {m : MatCmd} {w : Warp} (hw : s.warp? m.team m.warp = some w) (t : Team)
    (ws : List (Nat × Byte)) :
    ∃ v, (s.tstStore t m ws).warp? m.team m.warp = some v ∧ v.log = w.log := by
  unfold State.tstStore
  dsimp only
  split
  · rw [State.warp?_updWarp]
    exact ⟨_, congrArg _ hw, rfl⟩
  · rw [State.mapThr, State.warp?_updWarp, State.warp?_of_teams (s := s) (by simp [State.wr]), hw]
    exact ⟨_, rfl, rfl⟩

/-! ## The log of a command that raises no flag (R162, R408) -/

theorem logCause_noFlags (mode : Word) : logCause mode (joinFlags [{}]) = 0 := rfl

/-- The record that is open is closed where the warp has no thread left, and that is all. -/
theorem State.logEngine_of_noFlags (s : State) (x : EngCtx) (lane : Nat) (mode : Word) :
    s.logEngine x lane mode {} = s ∨ s.logEngine x lane mode {} = s.closeLog x.team x.warp := by
  have harith : s.logArith { team := x.team, warp := x.warp, lanes := [], pc := x.pc, words := [] } mode [(lane, {})] = s :=
    State.logArith_of_logCause_zero _ _ (logCause_noFlags mode)
  simp only [State.logEngine, harith]
  split
  · exact .inl rfl
  · split
    · exact .inr rfl
    · exact .inl rfl

section Warp

variable {s : State} {t : Team} {m : MatCmd} {w : Warp} (ht : s.team? m.team = some t) (hw : s.warp? m.team m.warp = some w)
include ht hw

/-- tmov's warp, up to the log (R168). -/
theorem State.warp?_matDone_tmov {row : Bool} {v a i0 x : Nat} (hop : m.op = .tmov row v a i0 x) (bytes : KV Byte) :
    ∃ o, (s.matDone t m bytes).warp? m.team m.warp = some { w.donePend m.id (m.op.laneWrites t m.lanes) with log := o } := by
  have hregs : (s.matRegs t m bytes).warp? m.team m.warp = some (w.donePend m.id (m.op.laneWrites t m.lanes)) := by
    have heff : (s.matTiles t m bytes).matEffect t m = s.matTiles t m bytes := by simp only [State.matEffect, hop]
    rw [State.matRegs, State.pendDone_eq, State.warp?_updWarp, heff, State.warp?_matTiles ht, hw, Option.map_some]
  have hfl : (m.op.onTiles t m.mode (mixRead bytes t.cask s.freeCtr)).2 = {} := by rw [hop]; rfl
  rw [State.matDone_eq, hfl]
  rcases State.logEngine_of_noFlags (s.matRegs t m bytes)
    { team := m.team, warp := m.warp, pc := m.pc, unit := 0 } (m.lanes.headD 0) m.mode with h | h
  · exact ⟨_, by rw [h, hregs]⟩
  · obtain ⟨u, hu, -⟩ := State.warp?_team? hregs
    exact ⟨_, by rw [h, State.warp?_closeLog hu hregs]⟩

/-- tst's stores and nothing else change memory (R170). -/
theorem State.matDone_mem_tst {d : Nat} {locs : List (List Nat)} (hop : m.op = .tst d locs) (hlog : w.log = none) (bytes : KV Byte) :
    (s.matDone t m bytes).mem = ((s.matTiles t m bytes).tstStore t m (tstBytes t d locs)).mem := by
  have heff : (s.matTiles t m bytes).matEffect t m = (s.matTiles t m bytes).tstStore t m (tstBytes t d locs) := by
    simp only [State.matEffect, hop]
  have hfl : (m.op.onTiles t m.mode (mixRead bytes t.cask s.freeCtr)).2 = {} := by rw [hop]; rfl
  obtain ⟨v, hv, hvlog⟩ := State.tstStore_warp? ((State.warp?_matTiles ht bytes m.warp).trans hw) t (tstBytes t d locs)
  have hregs : (s.matRegs t m bytes).warp? m.team m.warp = some (v.donePend m.id (m.op.laneWrites t m.lanes)) := by
    rw [State.matRegs, State.pendDone_eq, State.warp?_updWarp, heff, hv, Option.map_some]
  have hclose := State.closeLog_of_log_none hregs ((v.donePend_log _ _).trans (hvlog.trans hlog))
  rw [State.matDone_eq, hfl, ← heff]
  rcases State.logEngine_of_noFlags (s.matRegs t m bytes)
    { team := m.team, warp := m.warp, pc := m.pc, unit := 0 } (m.lanes.headD 0) m.mode with h | h
  · rw [h]
    rfl
  · rw [h, hclose]
    rfl

end Warp

/-! ## The moves -/

theorem exec_matrixCommandStart {s : State} {core : Nat} {m : MatCmd} {t : Team} (harg : s.arg = .idx core)
    (hm : s.matHead core = some m) (hst : m.started = false) (ht : s.team? m.team = some t) :
    exec .matrixCommandStart s = .next { s with matq := s.matq.map (fun x =>
      if x.id == m.id then { x with started := true, bytes := t.cask } else x) } := by
  change execMatrixCommandStart s = _
  simp only [execMatrixCommandStart, harg, hm, hst, ht]
  rfl

theorem exec_matrixCommandComplete {s : State} {core : Nat} {m : MatCmd} {t : Team} (harg : s.arg = .idx core)
    (hm : s.matHead core = some m) (hst : m.started = true) (ht : s.team? m.team = some t) :
    exec .matrixCommandComplete s = .next ((s.matDone t m m.bytes).haltDue m.team) := by
  change execMatrixCommandComplete s = _
  simp only [execMatrixCommandComplete, harg, hm, hst, ht]
  rfl

/-- A completion of a resident team's command halts nothing (R51). -/
theorem State.haltDue_matDone {s : State} {t : Team} {m : MatCmd} (ht : s.team? m.team = some t) (hst : t.st = .resident)
    (bytes : KV Byte) : (s.matDone t m bytes).haltDue m.team = s.matDone t m bytes := by
  obtain ⟨u, hu, -, hust⟩ := State.team?_matDone ht bytes
  exact State.haltDue_of_resident hu (hust.trans hst)

/-- Settles O18: the queue and the tiles by what each stage of a completion leaves, a block by its exact sum, and each operation
element by element. -/
theorem matrixMoves : Obligations.MatrixMoves := by
  refine ⟨fun s core m t harg hm hst ht => ?_, fun s core m t harg hm hst ht => ?_, fun acc ps hacc hps => ?_,
    fun t mode rd d a b i j k hi hj => ?_⟩
  · refine ⟨_, exec_matrixCommandStart harg hm hst ht, List.length_map _, fun x hx => ⟨fun hid => ?_, fun hid => ?_⟩⟩
    · exact List.mem_map.mpr ⟨x, hx, if_pos (beq_iff_eq.mpr hid)⟩
    · exact List.mem_map.mpr ⟨x, hx, if_neg (fun h => hid (beq_iff_eq.mp h))⟩
  · obtain ⟨u, hu, htiles, -⟩ := State.team?_matDone ht m.bytes
    obtain ⟨t', ht', htiles'⟩ := State.team?_haltDue hu
    refine ⟨_, exec_matrixCommandComplete harg hm hst ht, ?_, fun hop => ?_, ⟨t', ht', htiles'.trans htiles⟩,
      fun w row v a i0 x hres hw hop hpend => ?_, fun w d locs hres hw hlog hop => ?_⟩
    · rw [State.haltDue_matq, State.matDone_ids]
    · rw [State.haltDue_matq, State.matDone_matq _ _ _ hop]
    · rw [State.haltDue_matDone ht hres]
      obtain ⟨o, hw'⟩ := State.warp?_matDone_tmov ht hw hop m.bytes
      refine ⟨_, hw', fun p hp hid => Warp.done_of_mem_donePend hp hid, fun l hl hlt => ?_⟩
      rw [hop]
      exact Warp.donePend_rv _ hl hlt hpend
    · rw [State.haltDue_matDone ht hres]
      have hmem := State.matDone_mem_tst ht hw hop hlog m.bytes
      refine ⟨fun hdet a => ?_, fun hdet => hmem.trans (State.tstStore_mem_det (s := s.matTiles t m m.bytes) hdet m _)⟩
      rw [State.rdNew, hmem, ← tstBytes_eq_tstWrites]
      exact State.tstStore_rdNew (s := s.matTiles t m m.bytes) hdet m _ a
  · exact ⟨accBlock_of_blockSum_ne_zero hacc hps, accBlock_of_blockSum_zero hacc hps⟩
  · refine ⟨?_, fun cells => ?_, fun code => ?_, fun ra rb g h => ?_, fun ra rb n sa sb q g hn hq => ?_, ?_, ?_,
      fun e he x y hx hy => ?_⟩
    · simp only [MatOp.onTiles, Team.tile_mapTile _ _ _ _ hi hj, if_true]
    · simp only [MatOp.onTiles, Team.tile_mapTile _ _ _ _ hi hj, if_true, Nat.mul_comm]
    · simp only [MatOp.onTiles, Team.tile_mapTile _ _ _ _ hi hj, if_true]
    · rw [MatOp.tile_mma t mode rd d hi hj g h, mmaPairs_eq_map]
    · exact MatOp.tile_gmma t mode rd d hi hj ra rb sa sb g hn hq
    · simp only [MatOp.onTiles, Team.tile_mapTile _ _ _ _ hi hj, if_true, fpCtl_noSat]
    · simp only [MatOp.onTiles, Team.tile_mapTile _ _ _ _ hi hj, if_true, fpCtl_noSat]
    · simp only [MatOp.onTiles, Team.tile_mapTile _ _ _ _ hx hy, if_neg he]

end Sys2Proof.Machine
end

/-! # Proofs: deterministic rounds and pending results (R76, R180, R182, R183, R186)

The two moves of one warp first; then a boundary, which starts every share of its window anew, and which only turns the round where
nothing is held and no launch is queued. -/
section

namespace Sys2Proof.Machine

open Spec

/-! ## The moves -/

theorem arg_At (s : State) (a : Arg) : (At s a).arg = a := rfl

theorem exec_quantumExpiry_eq (s : State) : exec .quantumExpiry s = execQuantumExpiry s := rfl

theorem exec_pendingWriteback_eq (s : State) : exec .pendingWriteback s = execPendingWriteback s := rfl

theorem exec_roundBoundary_eq (s : State) : exec .roundBoundary s = execRoundBoundary s := rfl

/-! ## The end of a share (R182) -/

theorem exec_quantumExpiry {s : State} {u : Team} {w : Nat} {v : Warp} (hu : s.team? u.id = some u) (hv : s.warp? u.id w = some v) :
    exec .quantumExpiry (At s (.idx2 u.id w)) =
      if (s.ctxOf u).det = true ∧ s.quantumOf (s.ctxOf u).region ≤ (v.retired - v.roundBase).toNat then
        .next ((At s (.idx2 u.id w)).updWarp u.id w (fun x => { x with shareEnd := true }))
      else .next (At s (.idx2 u.id w)) := by
  have hu' : (At s (.idx2 u.id w)).team? u.id = some u := hu
  have hv' : (At s (.idx2 u.id w)).warp? u.id w = some v := hv
  simp only [exec_quantumExpiry_eq, execQuantumExpiry, arg_At, hu', hv']
  rfl

/-! ## Pending results (R76) -/

theorem exec_pendingWriteback_of_none {s : State} {t w i : Nat} (h : ∀ v, s.warp? t w = some v → v.pend[i]? = none) :
    exec .pendingWriteback (At s (.idx3 t w i)) = .next (At s (.idx3 t w i)) := by
  have hnone : ((At s (.idx3 t w i)).warp? t w).bind (fun v => v.pend[i]?) = none := Option.bind_eq_none_iff.mpr h
  simp only [exec_pendingWriteback_eq, execPendingWriteback, arg_At, hnone]

theorem exec_pendingWriteback_of_some {s : State} {t w i : Nat} {v : Warp} {p : Pend} (hv : s.warp? t w = some v)
    (hp : v.pend[i]? = some p) : exec .pendingWriteback (At s (.idx3 t w i)) =
      .next ((At s (.idx3 t w i)).updWarp t w (fun x => x.complete (fun q => q == p))) := by
  have hsome : ((At s (.idx3 t w i)).warp? t w).bind (fun v => v.pend[i]?) = some p := Option.bind_eq_some_iff.mpr ⟨v, hv, hp⟩
  simp only [exec_pendingWriteback_eq, execPendingWriteback, arg_At, hsome]

/-- An instruction that is pending once, with its results known, writes them and no others. -/
theorem Warp.complete_threads_of_count_one {w : Warp} {p : Pend} (hready : p.ready = true) (hdone : p.done = false)
    (hcount : w.pend.count p = 1) : (w.complete (fun x => x == p)).threads = (w.wrLanes p.writes).threads := by
  have honly : w.pend.filter (fun x => !x.done && x.ready && x == p) = [p] := by
    have hpred : (fun x : Pend => !x.done && x.ready && x == p) = (fun x => x == p) := by
      funext x
      by_cases hx : x = p
      · simp [hx, hready, hdone]
      · simp [hx]
    rw [hpred, List.filter_beq, hcount, List.replicate_one]
  simp only [Warp.complete, honly, List.foldl_cons, List.foldl_nil]

/-! ## The start of a round (R183, R186) -/

/-- The teams whose threads a boundary starts anew: those of the grid's window. -/
def Team.InWindow (u : Team) (g : Nat) (seqs : List Nat) : Prop := u.grid = g ∧ u.agent = false ∧ u.pos ∈ seqs

/-- A warp at the start of a share. -/
def Warp.AtShareStart (w : Warp) : Prop :=
  w.shareEnd = false ∧ w.roundBase = w.retired ∧ ∀ th ∈ w.threads, th.issued = 0

theorem State.startRound_atShareStart {s : State} {g : Grid} {seqs : List Nat} {u : Team} (hu : u ∈ (s.startRound g seqs).teams)
    (hwin : u.InWindow g.id seqs) : ∀ w ∈ u.warps, w.AtShareStart := by
  obtain ⟨t, -, rfl⟩ := List.mem_map.mp hu
  obtain ⟨hgrid, hagent, hpos⟩ := hwin
  split at hgrid
  · rename_i hmine
    rw [if_pos hmine]
    intro w hw
    obtain ⟨w0, -, rfl⟩ := List.mem_map.mp hw
    refine ⟨rfl, rfl, fun th hth => ?_⟩
    obtain ⟨th0, -, rfl⟩ := List.mem_map.mp hth
    rfl
  · rename_i hother
    rw [if_neg hother] at hagent hpos
    simp [hgrid, hagent, hpos] at hother

/-- One admission from the queue of a sequence number's team, where there is one. -/
def State.admitOne (s : State) (g n : Nat) : State :=
  match s.seqTeam g n with
  | none => s
  | some t => s.enroll t

/-- The admissions of a boundary, in sequence order: at most four launches of each team (R453). -/
def State.admitAll (s : State) (g : Nat) (seqs : List Nat) : State :=
  seqs.foldl (fun a n => (List.range 4).foldl (fun b _ => b.admitOne g n) a) s

/-- The last step of a boundary: the window's shares start anew, and the grid counts one more round with its slots refilled. -/
def State.turnRound (s : State) (g : Grid) : State :=
  let r := refill (s.seqOver g) g.desc.gang g.limit g.slots.length g.nextSeq g.slots
  (s.startRound g g.inOrder).updGrid g.id (fun x => { x with round := x.round + 1, slots := r.1, nextSeq := r.2, mark := s.nextSer })

/-- The reductions that a boundary finds held: those of earlier rounds and those of this one. -/
def State.roundReds (s : State) (g : Grid) : List (List Nat × AtomOp × Scope × Nat) :=
  g.reds ++ g.inOrder.flatMap (fun n => ((s.seqTeam g.id n).map (heldReds g)).getD [])

theorem State.boundary_of_applySlots {s : State} {g : Grid} {a : Applied} (ha : s.applySlots g g.inOrder = .ok a) :
    s.boundary g = .ok ((((a.s.flushReds g ((s.roundReds g).filter (fun x => a.rels.any (fun r => flushes r x)))).updGrid g.id
      (fun x => { x with reds := (s.roundReds g).filter (fun x => !a.rels.any (fun r => flushes r x)) })).admitAll g.id
        (g.inOrder.mergeSort (fun a b => decide (a ≤ b)))).turnRound g) := by
  unfold State.boundary
  dsimp only
  rw [ha]
  rfl

/-- Whatever a boundary applied before, it ends with the turn of the round. -/
theorem State.boundary_eq_turnRound {s s1 : State} {g : Grid} (h : s.boundary g = .ok s1) : ∃ s2 : State, s1 = s2.turnRound g := by
  cases ha : s.applySlots g g.inOrder with
  | error e =>
    unfold State.boundary at h
    dsimp only at h
    rw [ha] at h
    cases h
  | ok a =>
    rw [State.boundary_of_applySlots ha] at h
    exact ⟨_, (Except.ok.inj h).symm⟩

theorem State.boundary_atShareStart {s s1 : State} {g : Grid} {u : Team} (h : s.boundary g = .ok s1) (hu : u ∈ s1.teams)
    (hwin : u.InWindow g.id g.inOrder) : ∀ w ∈ u.warps, w.AtShareStart := by
  obtain ⟨s2, rfl⟩ := State.boundary_eq_turnRound h
  exact State.startRound_atShareStart hu hwin

theorem State.grid?_updGrid {s : State} {id : Nat} {g : Grid} (hg : s.grid? id = some g) {f : Grid → Grid} (hf : ∀ x, (f x).id = x.id) :
    (s.updGrid id f).grid? id = some (f g) := by
  have h := find?_map_id Grid.id id id f hf s.grids
  rw [if_pos rfl] at h
  exact h.trans (congrArg (Option.map f) hg)

theorem State.turnRound_round {s : State} {g x : Grid} (hx : s.grid? g.id = some x) :
    ∃ g', (s.turnRound g).grid? g.id = some g' ∧ g'.round = x.round + 1 := by
  have hstart : (s.startRound g g.inOrder).grid? g.id = some x := hx
  exact ⟨_, State.grid?_updGrid hstart (fun _ => rfl), rfl⟩

theorem State.flushReds_nil (s : State) (g : Grid) : s.flushReds g [] = s := by
  simp only [State.flushReds, List.mergeSort_nil, List.foldl_nil]

/-! ## A boundary where nothing is held -/

/-- No team of a grid holds an effect or has a launch in its queue. -/
def State.NothingHeld (s : State) (g : Nat) : Prop :=
  ∀ u ∈ s.teams, u.grid = g → u.launchQ = [] ∧ ∀ w ∈ u.warps, w.held = []

/-- The held effects of one warp are taken from it, as a boundary takes them. -/
def State.dropHeld (s : State) (t w : Nat) : State := s.updWarp t w (fun v => { v with held := [] })

theorem mem_updAt {α : Type} {f : α → α} {n : Nat} {xs : List α} {x : α} (h : x ∈ updAt f n xs) : x ∈ xs ∨ ∃ y ∈ xs, x = f y := by
  obtain ⟨i, hi⟩ := List.mem_iff_getElem?.mp h
  rw [updAt_getElem?] at hi
  split at hi
  · obtain ⟨y, hy, rfl⟩ := Option.map_eq_some_iff.mp hi
    exact .inr ⟨y, List.mem_of_getElem? hy, rfl⟩
  · exact .inl (List.mem_of_getElem? hi)

theorem State.NothingHeld.dropHeld {s : State} {g : Nat} (h : s.NothingHeld g) (t w : Nat) : (s.dropHeld t w).NothingHeld g := by
  intro u hu hgrid
  obtain ⟨u0, hu0, rfl⟩ := List.mem_map.mp hu
  by_cases hid : (u0.id == t) = true
  · rw [if_pos hid] at hgrid ⊢
    obtain ⟨hq, hheld⟩ := h u0 hu0 hgrid
    refine ⟨hq, fun v hv => ?_⟩
    obtain hv | ⟨v0, -, rfl⟩ := mem_updAt hv
    · exact hheld v hv
    · rfl
  · rw [if_neg hid] at hgrid ⊢
    exact h u0 hu0 hgrid

theorem State.mem_of_seqTeam {s : State} {g n : Nat} {t : Team} (h : s.seqTeam g n = some t) : t ∈ s.teams ∧ t.grid = g := by
  refine ⟨List.mem_of_find?_eq_some h, ?_⟩
  have hfound := List.find?_some h
  simp only [Bool.and_eq_true, beq_iff_eq] at hfound
  exact hfound.1.1

/-- What applying held effects keeps where there is none: the memory, the grids, and that nothing is held. -/
structure AppliedNothing (g : Nat) (s s' : State) : Prop where
  mem : s'.mem = s.mem
  grids : s'.grids = s.grids
  held : s'.NothingHeld g

theorem AppliedNothing.trans {g : Nat} {a b c : State} (h : AppliedNothing g a b) (h' : AppliedNothing g b c) : AppliedNothing g a c :=
  ⟨h'.mem.trans h.mem, h'.grids.trans h.grids, h'.held⟩

theorem State.NothingHeld.applied_dropHeld {s : State} {g : Nat} (h : s.NothingHeld g) (t w : Nat) :
    AppliedNothing g s (s.dropHeld t w) := ⟨rfl, rfl, h.dropHeld t w⟩

theorem State.applyTeam_cons_of_held_nil {s s' : State} {g : Grid} {t : Team} {w : Warp} {ws : List Warp} (hw : w.held = [])
    (h : (s.dropHeld t.id w.idx).applyTeam g t ws = .ok { s := s' }) : s.applyTeam g t (w :: ws) = .ok { s := s' } := by
  rw [State.dropHeld] at h
  simp only [State.applyTeam, hw, State.applyWarp, State.updWarp_updWarp, h, List.append_nil]

theorem State.applyTeam_of_nothing_held {s : State} {g : Grid} (t : Team) {ws : List Warp} (hws : ∀ w ∈ ws, w.held = [])
    (h : s.NothingHeld g.id) : ∃ s', s.applyTeam g t ws = .ok { s := s' } ∧ AppliedNothing g.id s s' := by
  induction ws generalizing s with
  | nil => exact ⟨s, rfl, rfl, rfl, h⟩
  | cons w ws ih =>
    obtain ⟨s', hs', hkept⟩ := ih (fun x hx => hws x (List.mem_cons_of_mem w hx)) (h.dropHeld t.id w.idx)
    exact ⟨s', State.applyTeam_cons_of_held_nil (hws w List.mem_cons_self) hs', (h.applied_dropHeld t.id w.idx).trans hkept⟩

theorem State.applySlots_of_nothing_held {s : State} {g : Grid} (h : s.NothingHeld g.id) (seqs : List Nat) :
    ∃ s', s.applySlots g seqs = .ok { s := s' } ∧ AppliedNothing g.id s s' := by
  induction seqs generalizing s with
  | nil => exact ⟨s, rfl, rfl, rfl, h⟩
  | cons n seqs ih =>
    cases ht : s.seqTeam g.id n with
    | none =>
      obtain ⟨s', hs', hkept⟩ := ih h
      exact ⟨s', by simp only [State.applySlots, ht, hs'], hkept⟩
    | some t =>
      obtain ⟨hmem, hgrid⟩ := State.mem_of_seqTeam ht
      obtain ⟨a, ha, hfirst⟩ := State.applyTeam_of_nothing_held t (h t hmem hgrid).2 h
      obtain ⟨s', hs', hrest⟩ := ih hfirst.held
      exact ⟨s', by simp only [State.applySlots, ht, ha, hs', List.append_nil], hfirst.trans hrest⟩

theorem State.enroll_of_launchQ_nil (s : State) {t : Team} (h : t.launchQ = []) : s.enroll t = s := by
  simp only [State.enroll, h]

theorem State.NothingHeld.admitOne_eq_self {s : State} {g : Nat} (h : s.NothingHeld g) (n : Nat) : s.admitOne g n = s := by
  unfold State.admitOne
  split
  · rfl
  · rename_i t ht
    obtain ⟨hmem, hgrid⟩ := State.mem_of_seqTeam ht
    exact s.enroll_of_launchQ_nil (h t hmem hgrid).1

theorem State.NothingHeld.admitAll_eq_self {s : State} {g : Nat} (h : s.NothingHeld g) (seqs : List Nat) : s.admitAll g seqs = s :=
  List.foldl_fixed' (fun n => List.foldl_fixed' (fun _ => h.admitOne_eq_self n) _) seqs

/-- With nothing held a boundary flushes no reduction and admits no grid: it only turns the round. -/
theorem State.boundary_of_nothing_held {s : State} {g : Grid} (hg : s.grid? g.id = some g) (h : s.NothingHeld g.id) :
    ∃ s1 g', s.boundary g = .ok s1 ∧ s1.mem = s.mem ∧ s1.grid? g.id = some g' ∧ g'.round = g.round + 1 := by
  obtain ⟨a, ha, hmem, hgrids, hheld⟩ := State.applySlots_of_nothing_held h g.inOrder
  let b := a.updGrid g.id (fun x => { x with reds := s.roundReds g })
  have hb : s.boundary g = .ok (b.turnRound g) := by
    have hadmit : ∀ seqs, b.admitAll g.id seqs = b := State.NothingHeld.admitAll_eq_self (s := b) hheld
    simp only [State.boundary_of_applySlots ha, List.any_nil, Bool.not_false, List.filter_false, List.filter_true, State.flushReds_nil]
    exact congrArg (fun x : State => Except.ok (x.turnRound g)) (hadmit _)
  have hgb : b.grid? g.id = some { g with reds := s.roundReds g } := by
    have hga : a.grid? g.id = some g := by rw [State.grid?, hgrids]; exact hg
    exact State.grid?_updGrid hga (fun _ => rfl)
  obtain ⟨g', hg', hround⟩ := State.turnRound_round hgb
  exact ⟨_, g', hb, hmem, hg', hround⟩

/-! ## What a move's operands leave of the state

The readiness of a slot asks for the bundle that each thread stands at, so the fetch is followed through its fuel. -/

theorem State.fetchFrom_At (s : State) (x : Arg) (k : TaskCtx) (n : Nat) (a : DWord) :
    (At s x).fetchFrom k n a = s.fetchFrom k n a := by
  have hhalf : (At s x).fetchHalf k = s.fetchHalf k := rfl
  induction n generalizing a with
  | zero => rfl
  | succ n ih => simp only [State.fetchFrom, hhalf, ih]

theorem State.namesHeld_At (s : State) (x : Arg) (k : TaskCtx) (w : Warp) : (At s x).namesHeld k w = s.namesHeld k w := by
  funext l
  simp only [State.namesHeld, State.bundle, State.fetchFrom_At]

theorem State.shareOver_At (s : State) (x : Arg) (k : TaskCtx) (w : Warp) : (At s x).shareOver k w = s.shareOver k w := by
  have hstill : (At s x).stoodStill k w = s.stoodStill k w := by
    funext l
    simp only [State.stoodStill, State.groupHeld, State.namesHeld_At]
  have hquantum : (At s x).quantumOf = s.quantumOf := rfl
  simp only [State.shareOver, hstill, hquantum]

theorem State.slotReady_At (s : State) (x : Arg) (g : Grid) (n : Nat) : (At s x).slotReady g n = s.slotReady g n := by
  have hteam : (At s x).seqTeam = s.seqTeam := rfl
  have hgone : (At s x).seqGone = s.seqGone := rfl
  simp only [State.slotReady, State.shareOver_At, hteam, hgone]
  rfl

theorem State.roundDue_At (s : State) (x : Arg) (g : Grid) : (At s x).roundDue g = s.roundDue g := by
  have hover : (At s x).seqOver = s.seqOver := rfl
  have hteam : (At s x).seqTeam = s.seqTeam := rfl
  have hquantum : (At s x).quantumOf = s.quantumOf := rfl
  unfold State.roundDue
  rw [hover, hteam, hquantum]

/-! ## The end of a round (R182) -/

/-- A round that may end now: every slot of the window is ready, no chunk is about to land, and something is due. -/
def State.RoundEnds (s : State) (g : Grid) : Prop :=
  g.task.det = true ∧ (∀ n ∈ g.inOrder, s.slotReady g n = true) ∧ s.chunkDue g.id = false ∧ s.roundDue g = true

theorem State.roundEnds_iff (s : State) (g : Grid) : s.RoundEnds g ↔
    ¬ (!g.task.det || !g.inOrder.all (s.slotReady g) || s.chunkDue g.id || !s.roundDue g) = true := by
  simp only [State.RoundEnds, Bool.or_eq_true, Bool.not_eq_true', not_or, Bool.not_eq_false, Bool.not_eq_true, List.all_eq_true,
    and_assoc]

theorem State.roundEnds_At (s : State) (x : Arg) (g : Grid) : (At s x).RoundEnds g ↔ s.RoundEnds g := by
  have hchunk : (At s x).chunkDue = s.chunkDue := rfl
  simp only [State.RoundEnds, State.slotReady_At, State.roundDue_At, hchunk]

section RoundEnds

variable {s : State} {g : Grid} (harg : s.arg = .idx g.id) (hg : s.grid? g.id = some g)

include harg hg

theorem exec_roundBoundary_stays (h : ¬ s.RoundEnds g) : exec .roundBoundary s = .next s := by
  rw [State.roundEnds_iff, not_not] at h
  simp only [exec_roundBoundary_eq, execRoundBoundary, harg, hg, if_pos h]

theorem exec_roundBoundary_ends {s1 : State} (h : s.RoundEnds g) (hb : s.boundary g = .ok s1) :
    exec .roundBoundary s = .next s1 := by
  rw [State.roundEnds_iff] at h
  simp only [exec_roundBoundary_eq, execRoundBoundary, harg, hg, hb, if_neg h]

end RoundEnds

/-- Settles O35: the moves of one warp by their equations, a boundary by the turn of the round that ends it. -/
theorem roundMoves : Obligations.RoundMoves := by
  refine ⟨fun s u w v hu hv => ⟨fun hdue => ?_, fun hnot => ?_⟩, fun s g hg => ⟨fun hstay => ?_, fun s1 hdet hready hchunk hdue hb => ?_,
    fun hdet hready hchunk hdue hnone => ?_⟩, fun s t w i => ⟨fun hno => ?_, fun v p hv hp hready hdone hcount => ?_⟩⟩
  · refine ⟨_, (exec_quantumExpiry hu hv).trans (if_pos hdue), ?_, rfl⟩
    exact (State.warp?_updWarp _ _ _ _).trans (congrArg (Option.map _) hv)
  · exact (exec_quantumExpiry hu hv).trans (if_neg hnot)
  · refine exec_roundBoundary_stays rfl hg (fun hends => ?_)
    obtain ⟨hdet, hready, hchunk, hdue⟩ := (s.roundEnds_At _ g).mp hends
    obtain h | ⟨n, hn, h⟩ | h | h := hstay
    · exact Bool.false_ne_true (h.symm.trans hdet)
    · exact Bool.false_ne_true (h.symm.trans (hready n hn))
    · exact Bool.false_ne_true (hchunk.symm.trans h)
    · exact Bool.false_ne_true (h.symm.trans hdue)
  · have hends := (s.roundEnds_At (.idx g.id) g).mpr ⟨hdet, hready, hchunk, hdue⟩
    exact ⟨exec_roundBoundary_ends (s := At s (.idx g.id)) rfl hg hends hb,
      fun u hu hgrid hagent hpos => State.boundary_atShareStart hb hu ⟨hgrid, hagent, hpos⟩⟩
  · have hends := (s.roundEnds_At (.idx g.id) g).mpr ⟨hdet, hready, hchunk, hdue⟩
    obtain ⟨s1, g', hb, hmem, hg', hround⟩ := State.boundary_of_nothing_held (s := At s (.idx g.id)) hg hnone
    exact ⟨s1, g', exec_roundBoundary_ends (s := At s (.idx g.id)) rfl hg hends hb, hmem, hg', hround⟩
  · exact exec_pendingWriteback_of_none hno
  · refine ⟨_, _, exec_pendingWriteback_of_some hv hp, rfl, ?_, Warp.complete_threads_of_count_one hready hdone hcount⟩
    exact (State.warp?_updWarp _ _ _ _).trans (congrArg (Option.map _) hv)

end Sys2Proof.Machine
end

/-! # Proofs: release, acquire and the fences (R196, R199, R200, R221 to R223)

A view that takes writes in and what a release and an acquire of one thread do; then the events of one lane of a fence, outside
deterministic mode and in it; then the lanes in order, and the three instructions. -/
section

namespace Sys2Proof.Machine

open Spec

/-! ## A thread's view and the events of one thread -/

theorem moveView_le (v : KV Nat) (ws : List (Nat × Nat)) (l : Nat) : KV.get 0 l v ≤ KV.get 0 l (moveView v ws) := by
  induction ws generalizing v with
  | nil => exact le_rfl
  | cons x xs ih =>
    obtain ⟨a, n⟩ := x
    refine le_trans ?_ (ih _)
    split
    next hlt =>
      rw [KV.get_put]
      split
      next hl => exact hl ▸ hlt.le
      next => exact le_rfl
    next => exact le_rfl

theorem le_moveView_of_mem {ws : List (Nat × Nat)} {l n : Nat} (h : (l, n) ∈ ws) (v : KV Nat) :
    n ≤ KV.get 0 l (moveView v ws) := by
  induction ws generalizing v with
  | nil => cases h
  | cons x xs ih =>
    obtain ⟨a, m⟩ := x
    obtain he | ht := List.mem_cons.mp h
    · cases he
      refine le_trans ?_ (moveView_le _ xs l)
      split
      next => rw [KV.get_put, if_pos rfl]
      next hge => exact not_lt.mp hge
    · exact ih ht _

theorem State.acquire_view_le (s : State) (Q : Party) (c : Cover) (th : Thread) (l : Nat) :
    KV.get 0 l th.view ≤ KV.get 0 l (s.acquire Q c th).view := moveView_le _ _ l

/-- An acquire takes in every publication that reaches it and that it covers (R200). -/
theorem State.acquire_takes {s : State} {Q : Party} {c : Cover} {p : Publ} (hp : p ∈ s.publs)
    (hr : p.reaches c.scope Q = true) (hc : c.has p.loc = true) (th : Thread) :
    p.ser ≤ KV.get 0 p.loc (s.acquire Q c th).view :=
  le_moveView_of_mem (List.mem_map.mpr ⟨p, List.mem_filter.mpr ⟨hp, by rw [hr, hc]; rfl⟩, rfl⟩) _

/-- A release publishes every write that the view names and that it covers (R199). -/
theorem State.publOf_mem_release {s : State} {th : Thread} {c : Cover} {x : Nat × Nat} (hx : x ∈ s.named th)
    (hc : c.has x.1 = true) (P : Party) : s.publOf c.scope P x ∈ (s.release P th c).publs :=
  List.mem_append_left _ (List.mem_map_of_mem (List.mem_filter.mpr ⟨hx, hc⟩))

theorem State.mem_publs_release {s : State} {p : Publ} (hp : p ∈ s.publs) (P : Party) (th : Thread) (c : Cover) :
    p ∈ (s.release P th c).publs := List.mem_append_right _ hp

theorem releaseAcquire : Spec.ReleaseAcquire := by
  refine fun s P Q th th' c d => ⟨fun l n hn hc hd hsync => ?_, State.acquire_view_le s Q d th', rfl, rfl⟩
  have hreach : (s.publOf c.scope P (l, n)).reaches d.scope Q = true := Bool.or_eq_true_iff.mpr (.inl hsync)
  exact State.acquire_takes (State.publOf_mem_release hn hc P) hreach hd th'

/-! ## The events of one lane -/

theorem State.fenceLane_quiet (s : State) (c : Ctx) (t : Team) (k : TaskCtx) (f : FenceKind) (scope : Scope)
    (spans : Option (List (Nat × Nat))) (l : Nat) : Quiet s (s.fenceLane c t k f scope spans l) := by
  have hrel (a : State) (cov : Cover) : Quiet a (a.evRelease c t k [l] cov spans) := by
    obtain ⟨hregs, ts, ps, he⟩ := a.evRelease_frame c t k [l] cov spans
    exact ⟨(congrArg State.mem he :), hregs⟩
  unfold State.fenceLane
  cases f with
  | acq => exact State.evAcquire_quiet s c t k [l] _
  | rel => exact hrel s _
  | dflt => exact (hrel s _).trans (State.evAcquire_quiet _ c t k [l] _)
  | ar => exact (hrel s _).trans (State.evAcquire_quiet _ c t k [l] _)

/-- The state in which a lane of a fence acquires: the one that its release leaves, where it raises one. -/
def State.fenceReleased (s : State) (P : Party) (f : FenceKind) (cov : Cover) (th : Thread) : State :=
  if f = .acq then s else s.release P th cov

theorem State.fenceReleased_teams (s : State) (P : Party) (f : FenceKind) (cov : Cover) (th : Thread) :
    (s.fenceReleased P f cov th).teams = s.teams := by
  unfold State.fenceReleased
  split <;> rfl

theorem State.fenceReleased_hist (s : State) (P : Party) (f : FenceKind) (cov : Cover) (th : Thread) :
    (s.fenceReleased P f cov th).hist = s.hist := by
  unfold State.fenceReleased
  split <;> rfl

theorem State.mem_publs_fenceReleased {s : State} {p : Publ} (hp : p ∈ s.publs) (P : Party) (f : FenceKind) (cov : Cover)
    (th : Thread) : p ∈ (s.fenceReleased P f cov th).publs := by
  unfold State.fenceReleased
  split
  next => exact hp
  next => exact State.mem_publs_release hp P th cov

/-- Outside deterministic mode a lane's events are those of its thread (R199, R200). -/
theorem State.fenceLane_of_nondet {s : State} {c : Ctx} {v : Warp} {k : TaskCtx} {l : Nat} (hdet : k.det = false)
    (hv : s.warp? c.team c.warp = some v) (hl : l < v.threads.length) (t : Team) (f : FenceKind) (scope : Scope)
    (spans : Option (List (Nat × Nat))) :
    s.fenceLane c t k f scope spans l =
      let a := s.fenceReleased (.core t.core) f { scope := scope, spans := spans } (v.thr l)
      if f = .rel then a else a.updThr c.team c.warp l (fun th => a.acquire (.core t.core) { scope := scope, spans := spans } th) := by
  have hth : s.thr? c.team c.warp l = some (v.thr l) := by
    rw [State.thr?, hv, Option.bind_some, List.getElem?_eq_getElem hl, Warp.thr, List.getD_eq_getElem _ _ hl]
  simp only [State.fenceLane, State.fenceReleased, State.evRelease, State.evAcquire, hdet, Bool.false_eq_true, if_false,
    List.isEmpty_cons, List.foldl_cons, List.foldl_nil, hth]

/-! ## The lanes of a fence outside deterministic mode -/

/-- What the events of the lanes ls have made of the publications and of the views of the warp v (R199, R200). -/
structure Fenced (s s' : State) (v v' : Warp) (P : Party) (f : FenceKind) (cov : Nat → Cover) (ls : List Nat) : Prop where
  hist : s'.hist = s.hist
  length : v'.threads.length = v.threads.length
  other : ∀ l, l ∉ ls → v'.thr l = v.thr l
  forward : ∀ l a, KV.get 0 a (v.thr l).view ≤ KV.get 0 a (v'.thr l).view
  kept : ∀ p ∈ s.publs, p ∈ s'.publs
  published : f ≠ .acq → ∀ l ∈ ls, ∀ x ∈ s.named (v.thr l), (cov l).has x.1 = true → s.publOf (cov l).scope P x ∈ s'.publs
  silent : f = .acq → s'.publs = s.publs
  taken : f ≠ .rel → ∀ l ∈ ls, ∀ p ∈ s.publs, p.reaches (cov l).scope P = true → (cov l).has p.loc = true →
    p.ser ≤ KV.get 0 p.loc (v'.thr l).view
  still : f = .rel → v' = v

section Fenced

variable {s s1 s' : State} {v v1 v' : Warp} {P : Party} {f : FenceKind} {cov : Nat → Cover}

theorem Fenced.nil : Fenced s s v v P f cov [] where
  hist := rfl
  length := rfl
  other _ _ := rfl
  forward _ _ := le_rfl
  kept _ hp := hp
  published _ _ hl := absurd hl List.not_mem_nil
  silent _ := rfl
  taken _ _ hl := absurd hl List.not_mem_nil
  still _ := rfl

theorem Fenced.named_eq {ls : List Nat} (h : Fenced s s1 v v1 P f cov ls) (th : Thread) : s1.named th = s.named th := by
  rw [State.named, State.named, h.hist]

theorem Fenced.publOf_eq {ls : List Nat} (h : Fenced s s1 v v1 P f cov ls) (S : Scope) (x : Nat × Nat) :
    s1.publOf S P x = s.publOf S P x := by
  rw [State.publOf, State.publOf, State.writerOf, State.writerOf, h.hist]

/-- A lane's events before those of the lanes after it. -/
theorem Fenced.cons {l : Nat} {ls : List Nat} (h : Fenced s s1 v v1 P f cov [l]) (hs : Fenced s1 s' v1 v' P f cov ls) :
    Fenced s s' v v' P f cov (l :: ls) where
  hist := hs.hist.trans h.hist
  length := hs.length.trans h.length
  other j hj := by
    obtain ⟨hjl, hjs⟩ := not_or.mp (mt List.mem_cons.mpr hj)
    exact (hs.other j hjs).trans (h.other j (mt List.mem_singleton.mp hjl))
  forward j a := (h.forward j a).trans (hs.forward j a)
  kept p hp := hs.kept p (h.kept p hp)
  published hf j hj x hx hc := by
    by_cases hjl : j = l
    · exact hs.kept _ (h.published hf j (List.mem_singleton.mpr hjl) x hx hc)
    · have hthr := h.other j (mt List.mem_singleton.mp hjl)
      have hpub := hs.published hf j ((List.mem_cons.mp hj).resolve_left hjl) x (by rwa [hthr, h.named_eq]) hc
      rwa [h.publOf_eq] at hpub
  silent hf := (hs.silent hf).trans (h.silent hf)
  taken hf j hj p hp hr hc := by
    by_cases hjl : j = l
    · exact (h.taken hf j (List.mem_singleton.mpr hjl) p hp hr hc).trans (hs.forward j p.loc)
    · exact hs.taken hf j ((List.mem_cons.mp hj).resolve_left hjl) p (h.kept p hp) hr hc
  still hf := (hs.still hf).trans (h.still hf)

end Fenced

section Nondeterministic

variable {s : State} {c : Ctx} {v : Warp} {k : TaskCtx} (hdet : k.det = false)

include hdet

/-- One lane's events of a fence. -/
theorem State.fenceLane_fenced {l : Nat} (hv : s.warp? c.team c.warp = some v) (hl : l < v.threads.length) (t : Team)
    (f : FenceKind) (scope : Scope) (spans : Nat → Option (List (Nat × Nat))) :
    ∃ v', (s.fenceLane c t k f scope (spans l) l).warp? c.team c.warp = some v' ∧
      Fenced s (s.fenceLane c t k f scope (spans l) l) v v' (.core t.core) f
        (fun j => { scope := scope, spans := spans j }) [l] := by
  let cov : Cover := { scope := scope, spans := spans l }
  let a := s.fenceReleased (.core t.core) f cov (v.thr l)
  have hteams : a.teams = s.teams := s.fenceReleased_teams (.core t.core) f cov (v.thr l)
  have hhist : a.hist = s.hist := s.fenceReleased_hist (.core t.core) f cov (v.thr l)
  have hkept : ∀ p ∈ s.publs, p ∈ a.publs := fun _ hp => State.mem_publs_fenceReleased hp _ f cov _
  have hav : a.warp? c.team c.warp = some v := (State.warp?_of_teams hteams _ _).trans hv
  have hpub : f ≠ .acq → ∀ j ∈ [l], ∀ x ∈ s.named (v.thr j), cov.has x.1 = true →
      s.publOf scope (.core t.core) x ∈ a.publs := by
    intro hf j hj x hx hc
    rw [List.mem_singleton.mp hj] at hx
    rw [show a = s.release (.core t.core) (v.thr l) cov from if_neg hf]
    exact State.publOf_mem_release hx hc _
  have hsilent : f = .acq → a.publs = s.publs := fun hf => congrArg State.publs (if_pos hf : a = s)
  have hcov : ∀ j ∈ [l], ({ scope := scope, spans := spans j } : Cover) = cov := fun j hj => by rw [List.mem_singleton.mp hj]
  rw [State.fenceLane_of_nondet hdet hv hl]
  by_cases hrel : f = .rel
  · simp only [if_pos hrel]
    exact ⟨v, hav, {
      hist := hhist, length := rfl, other := fun _ _ => rfl, forward := fun _ _ => le_rfl, kept := hkept,
      published := fun hf j hj x hx hc => hpub hf j hj x hx (hcov j hj ▸ hc), silent := hsilent,
      taken := fun hf => absurd hrel hf, still := fun _ => rfl }⟩
  · simp only [if_neg hrel]
    have hthr (j : Nat) := Warp.thr_updThr v l j (fun th => a.acquire (.core t.core) cov th) hl
    refine ⟨_, (State.warp?_updWarp a _ _ _).trans (congrArg (Option.map _) hav), {
      hist := hhist, length := updAt_length _ _ _, other := fun j hj => ?_, forward := fun j x => ?_, kept := hkept,
      published := fun hf j hj x hx hc => hpub hf j hj x hx (hcov j hj ▸ hc), silent := hsilent,
      taken := fun _ j hj p hp hr hc => ?_, still := fun hf => absurd hf hrel }⟩
    · rw [hthr, if_neg (mt List.mem_singleton.mpr hj)]
    · rw [hthr]
      split
      next => exact State.acquire_view_le a _ _ _ x
      next => exact le_rfl
    · rw [hthr, if_pos (List.mem_singleton.mp hj)]
      have hc' : cov.has p.loc = true := (congrArg (fun q => q.has p.loc) (hcov j hj)).symm.trans hc
      exact State.acquire_takes (c := cov) (hkept p hp) hr hc' _

theorem State.fenceLanes_fenced (t : Team) (f : FenceKind) (scope : Scope) (spans : Nat → Option (List (Nat × Nat)))
    {ls : List Nat} (hv : s.warp? c.team c.warp = some v) (hls : ∀ l ∈ ls, l < v.threads.length) :
    ∃ v', (ls.foldl (fun a l => a.fenceLane c t k f scope (spans l) l) s).warp? c.team c.warp = some v' ∧
      Fenced s (ls.foldl (fun a l => a.fenceLane c t k f scope (spans l) l) s) v v' (.core t.core) f
        (fun j => { scope := scope, spans := spans j }) ls := by
  induction ls generalizing s v with
  | nil => exact ⟨v, hv, Fenced.nil⟩
  | cons l ls ih =>
    obtain ⟨v1, hv1, h1⟩ := State.fenceLane_fenced hdet hv (hls l List.mem_cons_self) t f scope spans
    obtain ⟨v', hv', h'⟩ := ih hv1 (fun j hj => h1.length.symm ▸ hls j (List.mem_cons_of_mem l hj))
    exact ⟨v', hv', h1.cons h'⟩

end Nondeterministic

/-! ## The lanes of a fence in deterministic mode (R183) -/

section Deterministic

variable {s : State} {c : Ctx} {v : Warp} {k : TaskCtx} (hdet : k.det = true)

include hdet

theorem State.fenceLane_of_det (t : Team) (f : FenceKind) (scope : Scope) (spans : Option (List (Nat × Nat))) (l : Nat) :
    s.fenceLane c t k f scope spans l =
      if f = .acq then s else s.hold c (.release [l] { scope := scope, spans := spans } spans) := by
  simp only [State.fenceLane, State.evRelease, State.evAcquire, hdet, if_true, ite_self, List.isEmpty_cons, Bool.false_eq_true,
    if_false]

/-- The lanes of a fence only hold their releases. -/
theorem State.fenceLanes_held (t : Team) (f : FenceKind) (scope : Scope) (spans : Nat → Option (List (Nat × Nat)))
    (ls : List Nat) (hv : s.warp? c.team c.warp = some v) :
    (ls.foldl (fun a l => a.fenceLane c t k f scope (spans l) l) s).publs = s.publs ∧
      (ls.foldl (fun a l => a.fenceLane c t k f scope (spans l) l) s).warp? c.team c.warp = some { v with
        held := v.held ++ (if f = .acq then [] else ls.map (fun l =>
          { fx := .release [l] { scope := scope, spans := spans l } (spans l), at_ := s.tick, pc := c.pc, words := c.words })) } := by
  simp only [State.fenceLane_of_det hdet]
  by_cases hf : f = .acq
  · simp only [if_pos hf, List.foldl_fixed, List.append_nil]
    exact ⟨trivial, hv⟩
  · simp only [if_neg hf]
    induction ls generalizing s v with
    | nil => exact ⟨rfl, by rw [List.map_nil, List.append_nil]; exact hv⟩
    | cons l ls ih =>
      have hw := (State.warp?_updWarp s c.team c.warp (fun w => { w with held := w.held ++ [({
        fx := .release [l] { scope := scope, spans := spans l } (spans l), at_ := s.tick, pc := c.pc, words := c.words } : Held)] })).trans
          (congrArg (Option.map _) hv)
      obtain ⟨hpubs, hheld⟩ := ih hw
      refine ⟨hpubs, hheld.trans ?_⟩
      rw [List.map_cons, List.append_assoc]
      rfl

end Deterministic

/-! ## The instructions -/

theorem State.fenceLanes_quiet (c : Ctx) (t : Team) (k : TaskCtx) (f : FenceKind) (scope : Scope)
    (spans : Nat → Option (List (Nat × Nat))) (ls : List Nat) (s : State) :
    Quiet s (ls.foldl (fun a l => a.fenceLane c t k f scope (spans l) l) s) := by
  induction ls generalizing s with
  | nil => exact ⟨rfl, SameRegs.of_teams rfl⟩
  | cons l ls ih => exact (s.fenceLane_quiet c t k f scope (spans l) l).trans (ih _)

/-- A fence after the issue of its bundle. -/
theorem State.fenceLanes_fenceLaw {s : State} {c : Ctx} {t : Team} {w : Warp} (h : Issued s c t w) (f : FenceKind)
    (scope : Scope) (p : BitVec 3) (spans : Nat → Option (List (Nat × Nat))) :
    FenceLaw s ((active w c.lanes p).foldl (fun a l => a.fenceLane c t (s.ctxOf t) f scope (spans l) l) (s.advance c w))
      c t w f scope (active w c.lanes p) spans := by
  obtain ⟨hmem, hregs⟩ := (s.advance_quiet c w).trans
    (State.fenceLanes_quiet c t (s.ctxOf t) f scope spans (active w c.lanes p) (s.advance c w))
  have hv := State.warp?_advance h
  have hlt : ∀ l ∈ c.lanes, l < w.threads.length := fun l hl => Warp.lt_of_live (h.live l hl).1
  have hview (l : Nat) : ((w.issued c s.tick).thr l).view = (w.thr l).view := by rw [Warp.issued_thr_rest hlt]
  have hnamed (l : Nat) : (s.advance c w).named ((w.issued c s.tick).thr l) = s.named (w.thr l) := by
    rw [Warp.issued_thr_rest hlt]
    rfl
  cases hdet : (s.ctxOf t).det with
  | false =>
    have hlanes : ∀ l ∈ active w c.lanes p, l < (w.issued c s.tick).threads.length := fun l hl => by
      rw [Warp.issued_length]
      exact hlt l (List.mem_of_mem_filter hl)
    obtain ⟨v', hv', hfen⟩ := State.fenceLanes_fenced hdet t f scope spans hv hlanes
    refine ⟨hmem, hregs, v', hv', fun l hl => ?_, fun _ => ⟨fun hf l hl x hx hc => ?_, hfen.silent, hfen.taken,
      fun hf l => ?_, fun l a => ?_⟩, fun hd => ?_⟩
    · rw [hfen.other l hl, hview]
    · exact hfen.published hf l hl x (by rwa [hnamed]) hc
    · rw [hfen.still hf, hview]
    · exact hview l ▸ hfen.forward l a
    · exact absurd (hdet.symm.trans hd) Bool.false_ne_true
  | true =>
    obtain ⟨hpubs, hv'⟩ := State.fenceLanes_held hdet t f scope spans (active w c.lanes p) hv
    refine ⟨hmem, hregs, _, hv', fun l _ => hview l, fun hd => ?_, fun _ => ⟨hpubs, hview, ?_⟩⟩
    · exact absurd (hd.symm.trans hdet) Bool.false_ne_true
    · rw [Warp.issued_rest]
      rfl

theorem fences : Spec.Fences := by
  refine fun s c t w => ⟨fun o h => ?_, fun o h => ?_, fun o h => ?_⟩
  · have hx : exec (.fenceR o) s = execFenceR o s := rfl
    exact ⟨_, hx.trans (kernelOp_go h _), State.fenceLanes_fenceLaw (State.issue_go h) o.m.fence _ o.pred _⟩
  · have hx : exec (.phase o) s = execPhase o s := rfl
    exact ⟨_, hx.trans (kernelOp_go h _), State.fenceLanes_fenceLaw (State.issue_go h) o.m.fence _ o.pred (fun _ => none)⟩
  · have hx : exec (.prefetchG o) s = execPrefetchG o s := rfl
    exact ⟨_, hx.trans (kernelOp_go h _), State.advance_wrote (State.issue_go h)⟩

/-- Settles O46: a release and an acquire by the publications between them, and a fence by its lanes in order. -/
theorem synchronisation : Obligations.Synchronisation := ⟨releaseAcquire, fences⟩

end Sys2Proof.Machine
end

/-! # Proofs: memory after reset (R191) -/
section

namespace Sys2Proof.Machine

/-- Settles O5: nothing is listed. -/
theorem resetMemoryCanonical : Obligations.ResetMemoryCanonical := Memory.wf_nil

end Sys2Proof.Machine
end

/-! # Proofs: memory stays canonical (R191): the state, accesses and the engines

The predicate on states and on what carries a state; then one lemma for each function of the model, in the order of the model. -/
section

namespace Sys2Proof.Machine

/-! ## The predicate

A function that writes no byte has an equation `…_mem : (… s).mem = s.mem`; one that may write has `…_canonical`, and both
stand in the simp set, so that a function's lemma follows from those of the functions it calls. -/

/-- Memory is in its canonical form (R191). -/
@[simp] abbrev State.Canonical (s : State) : Prop := Memory.wf s.mem = true

/-- The state that a bundle's effect leaves, where it has one. Irreducible, as the next one, so that no elaboration runs the
function whose outcome a goal speaks of. -/
@[irreducible] def KOut.Canonical : KOut → Prop
  | .ok s => s.Canonical
  | _ => True

/-- The state that an instruction leaves, where it has one. -/
@[irreducible] def Out.Canonical : Out → Prop
  | .next s => s.Canonical
  | _ => True

/-- The state that a part of a task's decode leaves. -/
def Dec.Canonical {α : Type} : Dec α → Prop
  | .ok s _ => s.Canonical
  | .fault s _ _ => s.Canonical
  | .stall s => s.Canonical

/-- The state that renaming leaves. -/
def Renamed.Canonical : Renamed → Prop
  | .ok s _ => s.Canonical
  | .fault s _ _ _ => s.Canonical
  | .stall s => s.Canonical

/-- The state that a record's write leaves. -/
def RecWr.Canonical : RecWr → Prop
  | .done s => s.Canonical
  | .wait s => s.Canonical
  | .forbidden s => s.Canonical

/-- The state that the read of a task's descriptor leaves, where it gives one. -/
def TaskDesc.Canonical : TaskDesc → Prop
  | .wait s => s.Canonical
  | .err s => s.Canonical
  | _ => True

/-- The state that a fetch leaves. -/
def Fetched.Canonical : Fetched → Prop
  | .run _ s => s.Canonical
  | .stop s => s.Canonical

/-- The state that the resolution of a pixel leaves. -/
def Resolved.Canonical : Resolved → Prop
  | .done s => s.Canonical
  | .wait s => s.Canonical

@[simp] abbrev Burst.Canonical (b : Burst) : Prop := b.s.Canonical
@[simp] abbrev TaskBurst.Canonical (b : TaskBurst) : Prop := b.s.Canonical

section Carriers

variable (s : State)

@[simp] theorem KOut.canonical_ok : KOut.Canonical (.ok s) ↔ s.Canonical := by rw [KOut.Canonical]
@[simp] theorem KOut.canonical_halt (h : HaltInfo) : KOut.Canonical (.halt h) ↔ True := by rw [KOut.Canonical]; simp
@[simp] theorem KOut.canonical_page (ps : List PageNeed) : KOut.Canonical (.page ps) ↔ True := by rw [KOut.Canonical]; simp
@[simp] theorem KOut.canonical_memErr (h : HaltInfo) (l : Nat) : KOut.Canonical (.memErr h l) ↔ True := by
  rw [KOut.Canonical]; simp

@[simp] theorem Out.canonical_next : Out.Canonical (.next s) ↔ s.Canonical := by rw [Out.Canonical]

@[simp] theorem Dec.canonical_ok {α : Type} (a : α) : Dec.Canonical (.ok s a) ↔ s.Canonical := Iff.rfl
@[simp] theorem Dec.canonical_fault {α : Type} (c i : Nat) : (Dec.fault s c i : Dec α).Canonical ↔ s.Canonical := Iff.rfl
@[simp] theorem Dec.canonical_stall {α : Type} : (Dec.stall s : Dec α).Canonical ↔ s.Canonical := Iff.rfl

@[simp] theorem Renamed.canonical_ok (e : Entry) : Renamed.Canonical (.ok s e) ↔ s.Canonical := Iff.rfl
@[simp] theorem Renamed.canonical_fault (e : Entry) (c i : Nat) : Renamed.Canonical (.fault s e c i) ↔ s.Canonical := Iff.rfl
@[simp] theorem Renamed.canonical_stall : Renamed.Canonical (.stall s) ↔ s.Canonical := Iff.rfl

@[simp] theorem RecWr.canonical_done : RecWr.Canonical (.done s) ↔ s.Canonical := Iff.rfl
@[simp] theorem RecWr.canonical_wait : RecWr.Canonical (.wait s) ↔ s.Canonical := Iff.rfl
@[simp] theorem RecWr.canonical_forbidden : RecWr.Canonical (.forbidden s) ↔ s.Canonical := Iff.rfl

@[simp] theorem Fetched.canonical_run (i : Instr) : Fetched.Canonical (.run i s) ↔ s.Canonical := Iff.rfl
@[simp] theorem Fetched.canonical_stop : Fetched.Canonical (.stop s) ↔ s.Canonical := Iff.rfl

@[simp] theorem Resolved.canonical_done : Resolved.Canonical (.done s) ↔ s.Canonical := Iff.rfl
@[simp] theorem Resolved.canonical_wait : Resolved.Canonical (.wait s) ↔ s.Canonical := Iff.rfl

end Carriers

/-! ## Choices and folds -/

section Combinators

variable {α : Type}

@[simp] theorem State.mem_ite (c : Prop) [Decidable c] (a b : State) :
    (if c then a else b).mem = if c then a.mem else b.mem := apply_ite _ _ _ _

@[simp] theorem wf_ite (c : Prop) [Decidable c] {a b : List Host.Cell} (ha : Memory.wf a = true) (hb : Memory.wf b = true) :
    Memory.wf (if c then a else b) = true := by
  split <;> assumption

@[simp] theorem Out.canonical_ite (c : Prop) [Decidable c] {a b : Out} (ha : a.Canonical) (hb : b.Canonical) :
    Out.Canonical (if c then a else b) := by
  split <;> assumption

@[simp] theorem KOut.canonical_ite (c : Prop) [Decidable c] {a b : KOut} (ha : a.Canonical) (hb : b.Canonical) :
    KOut.Canonical (if c then a else b) := by
  split <;> assumption

@[simp] theorem foldl_mem {f : State → α → State} (hf : ∀ s a, (f s a).mem = s.mem) (xs : List α) (s : State) :
    (xs.foldl f s).mem = s.mem := by
  induction xs generalizing s with
  | nil => rfl
  | cons x t ih => simp [ih, hf]

theorem foldl_canonical {f : State → α → State} (hf : ∀ s a, s.Canonical → (f s a).Canonical) (xs : List α) {s : State}
    (h : s.Canonical) : (xs.foldl f s).Canonical := by
  induction xs generalizing s with
  | nil => exact h
  | cons x t ih => exact ih (hf _ _ h)

theorem getD_map_mem {f : α → State} {t : State} {m : List Host.Cell} (hf : ∀ a, (f a).mem = m) (ht : t.mem = m)
    (o : Option α) : ((o.map f).getD t).mem = m := by
  cases o with
  | none => exact ht
  | some a => exact hf a

end Combinators

/-! ## Writes, publications and fresh numbers (R191, R199) -/

@[simp] theorem State.wrAll_canonical {s : State} (m : Maker) (ws : List (Nat × Byte)) (hm : s.Canonical) :
    (s.wrAll m ws).Canonical :=
  State.wrAll_wf m ws hm

@[simp] theorem State.wr_canonical {s : State} (m : Maker) (ws : List (Nat × Byte)) (hm : s.Canonical) :
    (s.wr m ws).Canonical :=
  State.wr_wf m ws hm

@[simp] theorem State.release_mem {s : State} (P : Party) (th : Thread) (c : Cover) : (s.release P th c).mem = s.mem := by rfl

@[simp] theorem State.wrPub_canonical {s : State} (S : Scope) (P : Party) (grid : Option Nat) (ws : List (Nat × Byte))
    (hm : s.Canonical) : (s.wrPub S P grid ws).Canonical :=
  State.wrPub_wf hm S P grid ws

@[simp] theorem State.free_mem {s : State} (w : Nat) : (s.free w).2.mem = s.mem := by rfl
@[simp] theorem State.fresh_mem {s : State} : s.fresh.2.mem = s.mem := by rfl

/-! ## The journal, the log, halts, barrier objects and queues -/

@[simp] theorem State.wrRec_canonical {s : State} (pa : Nat) (bs : List Byte) (hm : s.Canonical) : (s.wrRec pa bs).Canonical :=
  State.wrRec_wf hm pa bs

theorem State.regWr_canonical {s : State} {f : State → State} (hf : (f s).Canonical) (hm : s.Canonical) :
    Out.Canonical (s.regWr f) := by
  simp [State.regWr, hf, hm]

@[simp] theorem State.stage_mem {s : State} (r : JRec) : (s.stage r).mem = s.mem := by simp [State.stage]
@[simp] theorem State.journal_mem {s : State} (r : JRec) : (s.journal r).mem = s.mem := by simp [State.journal]

@[simp] theorem State.logWrite_canonical {s : State} (fdom : Nat) (r : LogRec) (hm : s.Canonical) :
    (s.logWrite fdom r).Canonical := by
  simp only [State.logWrite]
  repeat' split
  all_goals simp [hm]

@[simp] theorem State.engineErr_canonical {s : State} (k : TaskCtx) (cause unit warp team pc lane : Nat) (hm : s.Canonical) :
    (s.engineErr k cause unit warp team pc lane).Canonical := by
  simp [State.engineErr, hm]

@[simp] theorem State.closeLog_canonical {s : State} (team warp : Nat) (hm : s.Canonical) :
    (s.closeLog team warp).Canonical := by
  simp only [State.closeLog]
  repeat' split
  all_goals simp [hm]

@[simp] theorem State.logEvent_canonical {s : State} (c : Ctx) (kind cause lane : Nat) (hm : s.Canonical) :
    (s.logEvent c kind cause lane).Canonical := by
  simp only [State.logEvent]
  repeat' split
  all_goals simp [hm]

@[simp] theorem State.haltRecWrite_canonical {s : State} (hm : s.Canonical) : s.haltRecWrite.Canonical := by
  simp only [State.haltRecWrite]
  split <;> simp [hm]

@[simp] theorem State.pushHalt_canonical {s : State} (r : List Byte) (hm : s.Canonical) : (s.pushHalt r).Canonical := by
  simp [State.pushHalt, hm]

@[simp] theorem State.haltWarp_canonical {s : State} (c : Ctx) (h : HaltInfo) (boundary : Bool) (hm : s.Canonical) :
    (s.haltWarp c h boundary).Canonical := by
  simp only [State.haltWarp]
  split <;> simp [hm]

@[simp] theorem State.resumeWarp_canonical {s : State} (team warp : Nat) (skip : Bool) (hm : s.Canonical) :
    (s.resumeWarp team warp skip).Canonical := by
  simp only [State.resumeWarp]
  repeat' split
  all_goals simp [hm]

@[simp] theorem State.wake_carry_mem (s : State) (p : WaitOn → Bool) (r : Bool) (carry : List BarEntry) :
    (s.wake p r carry).mem = s.mem :=
  rfl

@[simp] theorem State.barWrite_canonical {s : State} (sp : Space) (P : Party) (grid : Option Nat) (l : Nat) (o : BarObj)
    (fs : List BarField) (hm : s.Canonical) : (s.barWrite sp P grid l o fs).Canonical := by
  simp [State.barWrite, hm]

@[simp] theorem State.barUpdate_canonical {s : State} (sp : Space) (P : Party) (grid : Option Nat) (l stamp : Nat) (u : BarUpd)
    (ents : List BarEntry) (hm : s.Canonical) : (s.barUpdate sp P grid l stamp u ents).Canonical := by
  unfold State.barUpdate
  simp only []
  split
  · exact hm
  · split
    · simp [hm]
    · simp [hm]

@[simp] theorem State.barInit_canonical {s : State} (sp : Space) (P : Party) (grid : Option Nat) (l count : Nat)
    (hm : s.Canonical) : (s.barInit sp P grid l count).Canonical := by
  simp [State.barInit, State.barWrite, hm]

@[simp] theorem State.barBreak_canonical {s : State} (sp : Space) (P : Party) (l : Nat) (hm : s.Canonical) :
    (s.barBreak sp P l).Canonical := by
  simp [State.barBreak, hm]

@[simp] theorem State.barLand_canonical {s : State} (sp : Space) (P : Party) (grid : Option Nat) (k : TaskCtx) (l n : Nat)
    (ents : List BarEntry) (hm : s.Canonical) : (s.barLand sp P grid k l n ents).1.Canonical := by
  simp only [State.barLand]
  repeat' split
  all_goals simp [hm]

/-- Unfolded by `delta`: `unfold` would evaluate the queue's arithmetic on 32-bit literals. -/
theorem State.demand_canonical {s s1 : State} {region : Nat} {p : PageNeed} (hm : s.Canonical)
    (hs : s.demand region p = some s1) : s1.Canonical := by
  have hd : @State.demand = @State.demand := rfl
  conv_rhs at hd => delta State.demand
  rw [hd] at hs
  beta_reduce at hs
  clear hd
  revert hs
  split
  · simp only [Option.some.injEq]
    rintro rfl
    simp [hm]
  · split
    · simp
    · simp only [Option.some.injEq]
      rintro rfl
      simp [hm]

theorem State.demandsNew_canonical {s s1 : State} {region : Nat} {seen : List Nat} {ps : List PageNeed} (hm : s.Canonical)
    (hs : s.demandsNew region seen ps = some s1) : s1.Canonical := by
  induction ps generalizing s seen with
  | nil => cases hs; exact hm
  | cons p t ih =>
    unfold State.demandsNew at hs
    split at hs
    · exact ih hm hs
    · obtain ⟨s2, h2, h1⟩ := Option.bind_eq_some_iff.mp hs
      exact ih (State.demand_canonical hm h2) h1

theorem State.demands_canonical {s s1 : State} {region : Nat} {ps : List PageNeed} (hm : s.Canonical)
    (hs : s.demands region ps = some s1) : s1.Canonical :=
  State.demandsNew_canonical hm hs

@[simp] theorem State.stall_canonical {s : State} (cmd region : Nat) (p : PageNeed) (hm : s.Canonical) :
    (s.stall cmd region p).Canonical := by
  unfold State.stall
  split
  · exact hm
  · split
    · exact hm
    · next s1 hd =>
      have h1 : s1.Canonical := State.demand_canonical hm hd
      exact h1

@[simp] theorem State.pageWait_canonical {s : State} (c : Ctx) (t : Team) (ps : List PageNeed) (hm : s.Canonical) :
    (s.pageWait c t ps).Canonical := by
  unfold State.pageWait
  split
  · exact hm
  · split
    · exact hm
    · next s1 hd =>
      have h1 : s1.Canonical := State.demands_canonical hm hd
      simp [h1]

@[simp] theorem State.memErr_mem {s : State} (seq l : Nat) : (s.memErr seq l).mem = s.mem := by simp [State.memErr]

theorem kernelOp_canonical {i : Instr} {body : Ctx → Team → Warp → State → KOut} {s : State}
    (hbody : ∀ c t w s, s.Canonical → (body c t w s).Canonical) (hm : s.Canonical) : Out.Canonical (kernelOp i body s) := by
  unfold kernelOp
  split
  · simp [hm]
  · simp [hm]
  · next c t w _ =>
    have hb := hbody c t w (s.advance c w) (by simpa using hm)
    split
    · next h => simpa [h] using hb
    · simp [hm]
    · simp [hm]
    · simp [hm]

/-! ## Accesses and their events (R196, R198) -/

@[simp] theorem State.store_canonical {s : State} (c : Ctx) (grid lane : Nat) (ws : List (Nat × Byte)) (hm : s.Canonical) :
    (s.store c grid lane ws).Canonical := by
  simp [State.store, hm]

@[simp] theorem State.storeLane_canonical {s : State} (c : Ctx) (k : TaskCtx) (sp : Space) (grid lane l : Nat) (bs : List Byte)
    (hm : s.Canonical) : (s.storeLane c k sp grid lane l bs).Canonical := by
  simp only [State.storeLane]
  split <;> simp [hm]

@[simp] theorem State.storeLanes_canonical {s : State} (c : Ctx) (k : TaskCtx) (sp : Space) (grid : Nat)
    (a : List (Nat × Nat × List Byte)) (hm : s.Canonical) : (s.storeLanes c k sp grid a).Canonical := by
  induction a generalizing s with
  | nil => exact hm
  | cons x rest ih => exact ih (by simp [hm])

@[simp] theorem State.evRelease_mem {s : State} (c : Ctx) (t : Team) (k : TaskCtx) (lanes : List Nat) (cov : Cover)
    (flush : Option (List (Nat × Nat))) : (s.evRelease c t k lanes cov flush).mem = s.mem := by
  unfold State.evRelease
  repeat' split
  · rfl
  · simp
  · exact foldl_mem (fun a l => by split <;> simp) _ _

@[simp] theorem State.evAcquire_mem {s : State} (c : Ctx) (t : Team) (k : TaskCtx) (lanes : List Nat) (cov : Cover) :
    (s.evAcquire c t k lanes cov).mem = s.mem := by
  unfold State.evAcquire
  split
  · rfl
  · exact foldl_mem (fun a l => State.updThr_mem a _ _ l _) _ _

/-! ## The barrier instructions (R224 to R232) -/

@[simp] theorem withBar_canonical {s : State} {t : Team} {k : TaskCtx} {b : Word} {acc : Acc} {f : Space → Nat → KOut}
    (hf : ∀ sp l, (f sp l).Canonical) : (withBar s t k b acc f).Canonical := by
  unfold withBar
  split <;> simp [hf]

@[simp] theorem soundBar_canonical {s : State} {l : Nat} {f : KOut} (hf : f.Canonical) : (soundBar s l f).Canonical := by
  simp [soundBar, hf]

@[simp] theorem execBarinit_canonical (o : SImm) {a : State} (hm : a.Canonical) : Out.Canonical (execBarinit o a) := by
  refine kernelOp_canonical (fun c t w s h => withBar_canonical fun sp l => ?_) hm
  repeat' split
  all_goals simp [h]

@[simp] theorem execArrive_canonical (o : SMod) {a : State} (hm : a.Canonical) : Out.Canonical (execArrive o a) := by
  refine kernelOp_canonical (fun c t w s h => withBar_canonical fun sp l => KOut.canonical_ite _ (by simp [h]) ?_) hm
  dsimp only
  split <;> simp [h]

@[simp] theorem execExpect_canonical (o : SImm) {a : State} (hm : a.Canonical) : Out.Canonical (execExpect o a) := by
  refine kernelOp_canonical (fun c t w s h => withBar_canonical fun sp l => KOut.canonical_ite _ (by simp [h]) ?_) hm
  exact soundBar_canonical (by simp [h])

@[simp] theorem barWaitOp_canonical (i : Instr) (test : Bool) (o : SMod) {a : State} (hm : a.Canonical) :
    Out.Canonical (barWaitOp i test o a) := by
  refine kernelOp_canonical (fun c t w s h => withBar_canonical fun sp l => soundBar_canonical ?_) hm
  rw [KOut.canonical_ok]
  refine foldl_canonical (fun a x ha => ?_) _ h
  split <;> simp [ha]

@[simp] theorem execWait_canonical (o : SMod) {a : State} (hm : a.Canonical) : Out.Canonical (execWait o a) := by
  simp [execWait, hm]

@[simp] theorem execBartest_canonical (o : SMod) {a : State} (hm : a.Canonical) : Out.Canonical (execBartest o a) := by
  simp [execBartest, hm]

/-! ## Raised floating-point flags (R100, R408) -/

@[simp] theorem State.logArith_canonical {s : State} (c : Ctx) (mode : Word) (fs : List (Nat × FpFlags)) (hm : s.Canonical) :
    (s.logArith c mode fs).Canonical := by
  simp [State.logArith, hm]

/-! ## What the engines that act for teams share (R204, R205) -/

@[simp] theorem State.engRecord_canonical {s : State} (x : EngCtx) (cause : Nat) (hm : s.Canonical) :
    (s.engRecord x cause).Canonical := by
  simp only [State.engRecord]
  split <;> simp [hm]

@[simp] theorem State.countAt_canonical {s : State} (x : EngCtx) (k : TaskCtx) (core grid index l n : Nat)
    (ents : List BarEntry) (hm : s.Canonical) : (s.countAt x k core grid index l n ents).Canonical := by
  simp only [State.countAt]
  repeat' split
  all_goals simp [hm]

@[simp] theorem State.countOn_canonical {s : State} (x : EngCtx) (t : Team) (b : Word) (n : Nat) (ents : List BarEntry)
    (hm : s.Canonical) : (s.countOn x t b n ents).Canonical := by
  simp only [State.countOn]
  split <;> simp [hm]

@[simp] theorem State.breakOn_canonical {s : State} (t : Team) (b : Word) (hm : s.Canonical) : (s.breakOn t b).Canonical := by
  simp only [State.breakOn]
  split <;> simp [hm]

@[simp] theorem State.heal_mem {s : State} (ws : List (Nat × Byte)) : (s.heal ws).mem = s.mem := by rfl

@[simp] theorem State.issueRelease_mem {s : State} (c : Ctx) (t : Team) (spans : List (Nat × Nat)) :
    (s.issueRelease c t spans).mem = s.mem := by
  simp [State.issueRelease]

theorem State.recAt_canonical {s : State} {k : TaskCtx} {va al : Nat} {o : KOut} (ho : s.recAt k va al = .stop o) :
    o.Canonical := by
  unfold State.recAt at ho
  split at ho
  · cases ho; simp
  · split at ho
    · cases ho; simp
    · cases ho; simp
    · cases ho; simp
    · split at ho
      · cases ho; simp
      · cases ho

@[simp] theorem State.logEngine_canonical {s : State} (x : EngCtx) (lane : Nat) (mode : Word) (f : FpFlags) (hm : s.Canonical) :
    (s.logEngine x lane mode f).Canonical := by
  simp only [State.logEngine]
  repeat' split
  all_goals simp [hm]

end Sys2Proof.Machine
end

/-! # Proofs: memory stays canonical (R191): kernel instructions and the units that serve them -/
section

namespace Sys2Proof.Machine

/-! ## Loads, stores, atomics and fences (R213 to R223) -/

@[simp] theorem Chk.bind_canonical {x : Chk} {k : List (Nat × Nat) → KOut} (hk : ∀ ls, (k ls).Canonical) :
    (x.bind k).Canonical := by
  cases x <;> simp [Chk.bind, hk]

@[simp] theorem State.accEvents_mem {s : State} (c : Ctx) (t : Team) (k : TaskCtx) (sp : Space) (m : Mods) (lanes : List Nat) :
    (s.accEvents c t k sp m lanes).mem = s.mem := by
  simp [State.accEvents]

@[simp] theorem loadOp_canonical (i : Instr) (sp : Space) (o : Mem) (f : LoadForm) {a : State} (hm : a.Canonical) :
    Out.Canonical (loadOp i sp o f a) := by
  refine kernelOp_canonical (fun c t w s h => ?_) hm
  dsimp only
  repeat' split
  all_goals simp [h]

@[simp] theorem storeOp_canonical (i : Instr) (sp : Space) (o : Mem) (n : Nat) (bs : Warp → Nat → List Byte) {a : State}
    (hm : a.Canonical) : Out.Canonical (storeOp i sp o n bs a) :=
  kernelOp_canonical (fun _ _ _ _ h => by simp [h]) hm

/-- The loads and the stores. -/
@[simp] theorem loadsStores_canonical (o : Mem) {a : State} (hm : a.Canonical) :
    Out.Canonical (execLdG o a) ∧ Out.Canonical (execLdS o a) ∧ Out.Canonical (execLdC o a) ∧ Out.Canonical (execLdX o a) ∧
    Out.Canonical (execLdL o a) ∧ Out.Canonical (execLdK o a) ∧ Out.Canonical (execLdGSubword o a) ∧
    Out.Canonical (execLdSSubword o a) ∧ Out.Canonical (execLdXSubword o a) ∧ Out.Canonical (execStG o a) ∧
    Out.Canonical (execStS o a) ∧ Out.Canonical (execStC o a) ∧ Out.Canonical (execStX o a) ∧ Out.Canonical (execStL o a) ∧
    Out.Canonical (execStGSubword o a) ∧ Out.Canonical (execStSSubword o a) ∧ Out.Canonical (execStXSubword o a) := by
  simp [execLdG, execLdS, execLdC, execLdX, execLdL, execLdK, execLdGSubword, execLdSSubword, execLdXSubword, execStG,
    execStS, execStC, execStX, execStL, execStGSubword, execStSSubword, execStXSubword, hm]

@[simp] theorem State.atomic_canonical {s : State} (sp : Space) (P : Party) (grid : Option Nat) (a : AtomOp) (hm : s.Canonical)
    : (s.atomic sp P grid a).2.Canonical :=
  State.wrPub_wf hm _ _ _ _

@[simp] theorem State.atomics_canonical {s : State} (c : Ctx) (sp : Space) (P : Party) (grid : Nat) (view : Bool)
    (ops : List AtomOp) (hm : s.Canonical) : (s.atomics c sp P grid view ops).2.Canonical := by
  induction ops generalizing s with
  | nil => exact hm
  | cons a rest ih => exact ih (by simp [hm])

@[simp] theorem atomInstr_canonical (i : Instr) (sp : Space) (o : Atom) {a : State} (hm : a.Canonical) :
    Out.Canonical (atomInstr i sp o a) := by
  refine kernelOp_canonical (fun c t w s h => ?_) hm
  dsimp only
  repeat' split
  all_goals simp [h]

@[simp] theorem redInstr_canonical (i : Instr) (sp : Space) (o : Atom) {a : State} (hm : a.Canonical) :
    Out.Canonical (redInstr i sp o a) := by
  refine kernelOp_canonical (fun c t w s h => ?_) hm
  dsimp only
  repeat' split
  all_goals simp [h]

/-- The atomics and the reductions. -/
@[simp] theorem atomicsReductions_canonical (o : Atom) {a : State} (hm : a.Canonical) :
    Out.Canonical (execAtomS o a) ∧ Out.Canonical (execAtomC o a) ∧ Out.Canonical (execAtomG o a) ∧
    Out.Canonical (execAtomX o a) ∧ Out.Canonical (execRedS o a) ∧ Out.Canonical (execRedG o a) ∧ Out.Canonical (execRedX o a) := by
  simp [execAtomS, execAtomC, execAtomG, execAtomX, execRedS, execRedG, execRedX, hm]

@[simp] theorem State.fenceLane_mem {s : State} (c : Ctx) (t : Team) (k : TaskCtx) (f : FenceKind) (scope : Scope)
    (spans : Option (List (Nat × Nat))) (l : Nat) : (s.fenceLane c t k f scope spans l).mem = s.mem := by
  simp [State.fenceLane]

@[simp] theorem execFenceR_canonical (o : FenceR) {a : State} (hm : a.Canonical) : Out.Canonical (execFenceR o a) :=
  kernelOp_canonical (fun _ _ _ _ h => by simp [h]) hm

@[simp] theorem execPhase_canonical (o : PhaseOp) {a : State} (hm : a.Canonical) : Out.Canonical (execPhase o a) :=
  kernelOp_canonical (fun _ _ _ _ h => by simp [h]) hm

@[simp] theorem execPrefetchG_canonical (o : Prefetch) {a : State} (hm : a.Canonical) : Out.Canonical (execPrefetchG o a) :=
  kernelOp_canonical (fun _ _ _ _ h => by simp [h]) hm

/-! ## Work queues (R247 to R250) -/

@[simp] theorem withQueue_canonical {s : State} {t : Team} {k : TaskCtx} {b : Word} {f : Nat → KOut}
    (hf : ∀ l, (f l).Canonical) : (withQueue s t k b f).Canonical := by
  simp only [withQueue]
  repeat' split
  all_goals simp [hf]

theorem qRecLocs_canonical {s : State} {k : TaskCtx} {hdr : Nat} {q : QHdr} {acc : Acc} {n m : Nat} {o : KOut}
    (ho : qRecLocs s k hdr q acc n m = .error o) : o.Canonical := by
  induction m generalizing n with
  | zero => cases ho
  | succ m ih =>
    simp only [qRecLocs] at ho
    split at ho
    · split at ho
      · next hx => cases ho; exact ih hx
      · cases ho
    · split at ho
      · cases ho; simp
      · split at ho
        · cases ho; simp
        · cases ho; simp
        · cases ho; simp
        · split at ho
          · cases ho; simp
          · split at ho
            · next hx => cases ho; exact ih hx
            · cases ho

@[simp] theorem State.qSignal_canonical {s : State} (P : Party) (grid : Option Nat) (l stamp : Nat) (hm : s.Canonical) :
    (s.qSignal P grid l stamp).Canonical := by
  simp [State.qSignal, hm]

@[simp] theorem State.qPush1_canonical {s : State} (P : Party) (grid : Option Nat) (hdr : Nat) (locOfRec : Nat → Nat)
    (words : List Word) (hm : s.Canonical) : (s.qPush1 P grid hdr locOfRec words).2.Canonical := by
  simp only [State.qPush1]
  split <;> simp [hm]

@[simp] theorem State.qPushes_canonical {s : State} (P : Party) (grid hdr : Nat) (locOfRec : Nat → Nat)
    (recs : List (Nat × List Word)) (hm : s.Canonical) : (s.qPushes P grid hdr locOfRec recs).2.Canonical := by
  induction recs generalizing s with
  | nil => exact hm
  | cons r rest ih => exact ih (by simp [hm])

@[simp] theorem execQpush_canonical (o : SOp) {a : State} (hm : a.Canonical) : Out.Canonical (execQpush o a) := by
  refine kernelOp_canonical (fun c t w s h => withQueue_canonical fun l => KOut.canonical_ite _ (by simp [h]) ?_) hm
  split
  · next hx => exact qRecLocs_canonical hx
  · rw [KOut.canonical_ok, State.Canonical, State.writeLanes_mem]
    split
    · exact State.qPushes_canonical _ _ _ _ _ (by simp [h])
    · exact State.qSignal_canonical _ _ _ _ (State.qPushes_canonical _ _ _ _ _ (by simp [h]))

@[simp] theorem execQpop_canonical (o : SOp) {a : State} (hm : a.Canonical) : Out.Canonical (execQpop o a) := by
  refine kernelOp_canonical (fun c t w s h => withQueue_canonical fun l => KOut.canonical_ite _ (by simp [h]) ?_) hm
  split
  · next hx => exact qRecLocs_canonical hx
  · simp [h]

/-! ## Integer and logic (R111 to R119) -/

@[simp] theorem aluA3_canonical (i : Instr) (o : A3) (f : Word → Word → Word → Word) {a : State} (hm : a.Canonical) :
    Out.Canonical (aluA3 i o f a) :=
  kernelOp_canonical (fun _ _ _ _ h => by simp [h]) hm

/-- Class A3a over the shared integer operation. -/
@[simp] theorem integerOps_canonical (o : A3) {a : State} (hm : a.Canonical) :
    Out.Canonical (execIadd o a) ∧ Out.Canonical (execIsub o a) ∧ Out.Canonical (execImul o a) ∧
    Out.Canonical (execImulhi o a) ∧ Out.Canonical (execImac o a) ∧ Out.Canonical (execImin o a) ∧
    Out.Canonical (execImax o a) ∧ Out.Canonical (execIminu o a) ∧ Out.Canonical (execImaxu o a) ∧
    Out.Canonical (execAnd o a) ∧ Out.Canonical (execOr o a) ∧ Out.Canonical (execXor o a) ∧ Out.Canonical (execAndn o a) ∧
    Out.Canonical (execShl o a) ∧ Out.Canonical (execShr o a) ∧ Out.Canonical (execSar o a) ∧ Out.Canonical (execRot o a) ∧
    Out.Canonical (execBfe o a) ∧ Out.Canonical (execBfi o a) ∧ Out.Canonical (execPopc o a) ∧ Out.Canonical (execClz o a) ∧
    Out.Canonical (execBrev o a) ∧ Out.Canonical (execBsel o a) ∧ Out.Canonical (execMov o a) := by
  simp [execIadd, execIsub, execImul, execImulhi, execImac, execImin, execImax, execIminu, execImaxu, execAnd, execOr,
    execXor, execAndn, execShl, execShr, execSar, execRot, execBfe, execBfi, execPopc, execClz, execBrev, execBsel, execMov,
    hm]

@[simp] theorem execSel_canonical (o : A3) {a : State} (hm : a.Canonical) : Out.Canonical (execSel o a) :=
  kernelOp_canonical (fun _ _ _ _ h => by simp [h]) hm

@[simp] theorem execIcmp_canonical (o : Cmp) {a : State} (hm : a.Canonical) : Out.Canonical (execIcmp o a) :=
  kernelOp_canonical (fun _ _ _ _ h => by simp [h]) hm

@[simp] theorem execIaddc_canonical (o : A3) {a : State} (hm : a.Canonical) : Out.Canonical (execIaddc o a) :=
  kernelOp_canonical (fun _ _ _ _ h => by simp [h]) hm

@[simp] theorem execLea_canonical (o : A3) {a : State} (hm : a.Canonical) : Out.Canonical (execLea o a) :=
  kernelOp_canonical (fun _ _ _ _ h => by simp [h]) hm

/-! ## Floating point and rand (R120 to R127) -/

@[simp] theorem aluF_canonical (i : Instr) (o : A3) (f : FpCtl → Word → Word → Word → Word × FpFlags) {a : State}
    (hm : a.Canonical) : Out.Canonical (aluF i o f a) :=
  kernelOp_canonical (fun _ _ _ _ h => by simp [h]) hm

/-- Class A3b over the shared floating-point operation. -/
@[simp] theorem floatOps_canonical (o : A3) {a : State} (hm : a.Canonical) :
    Out.Canonical (execFadd o a) ∧ Out.Canonical (execFsub o a) ∧ Out.Canonical (execFmul o a) ∧
    Out.Canonical (execFfma o a) ∧ Out.Canonical (execFdiv o a) ∧ Out.Canonical (execFmin o a) ∧
    Out.Canonical (execFmax o a) ∧ Out.Canonical (execFclass o a) ∧ Out.Canonical (execHadd2 o a) ∧
    Out.Canonical (execHmul2 o a) ∧ Out.Canonical (execHfma2 o a) ∧ Out.Canonical (execBfma2 o a) := by
  simp [execFadd, execFsub, execFmul, execFfma, execFdiv, execFmin, execFmax, execFclass, execHadd2, execHmul2, execHfma2,
    execBfma2, hm]

@[simp] theorem execFcmp_canonical (o : Cmp) {a : State} (hm : a.Canonical) : Out.Canonical (execFcmp o a) :=
  kernelOp_canonical (fun _ _ _ _ h => by simp [h]) hm

@[simp] theorem execCvt_canonical (o : Cvt) {a : State} (hm : a.Canonical) : Out.Canonical (execCvt o a) :=
  kernelOp_canonical (fun _ _ _ _ h => by simp [h]) hm

@[simp] theorem sfuOp_canonical (i : Instr) (o : Sfu) (fn : SfuFn) {a : State} (hm : a.Canonical) :
    Out.Canonical (sfuOp i o fn a) :=
  kernelOp_canonical (fun _ _ _ _ h => by simp [h]) hm

/-- The special functions. -/
@[simp] theorem specialFunctions_canonical (o : Sfu) {a : State} (hm : a.Canonical) :
    Out.Canonical (execFrcp o a) ∧ Out.Canonical (execFrsq o a) ∧ Out.Canonical (execFsqrt o a) ∧
    Out.Canonical (execFexp2 o a) ∧ Out.Canonical (execFlog2 o a) ∧ Out.Canonical (execFsinp o a) ∧
    Out.Canonical (execFcosp o a) := by
  simp [execFrcp, execFrsq, execFsqrt, execFexp2, execFlog2, execFsinp, execFcosp, hm]

@[simp] theorem execRand_canonical (o : RandOp) {a : State} (hm : a.Canonical) : Out.Canonical (execRand o a) := by
  refine kernelOp_canonical (fun c t w s h => ?_) hm
  simp only [KOut.canonical_ok, State.Canonical, State.commit_mem]
  exact foldl_canonical (fun _ _ ha => by simp [ha]) _ (by simp [h])

/-! ## The copy engine (R233 to R240) -/

@[simp] theorem State.pushCopy_mem {s : State} (c : Ctx) (t : Team) (w : Warp) (q kind : Nat) (d : CopyDesc) (id : Nat)
    (follow : Option (MatOp × Nat)) : (s.pushCopy c t w q kind d id follow).mem = s.mem := by
  rfl

@[simp] theorem copyChecks_canonical {s : State} {t : Team} {k : TaskCtx} {form : CpyForm} {bs : List Byte}
    {go : CopyDesc → KOut} (hgo : ∀ d, (go d).Canonical) : (copyChecks s t k form bs go).Canonical := by
  simp only [copyChecks]
  repeat' split
  all_goals simp [hgo]

@[simp] theorem execCpy_canonical (o : XOp) {a : State} (hm : a.Canonical) : Out.Canonical (execCpy o a) := by
  refine kernelOp_canonical (fun c t w s h => ?_) hm
  dsimp only
  split
  · next hx => exact State.recAt_canonical hx
  · exact copyChecks_canonical fun d => by simp [h]

@[simp] theorem execCpyMc_canonical (o : XOp) {a : State} (hm : a.Canonical) : Out.Canonical (execCpyMc o a) := by
  refine kernelOp_canonical (fun c t w s h => ?_) hm
  dsimp only
  split
  · next hx => exact State.recAt_canonical hx
  · exact copyChecks_canonical fun d => KOut.canonical_ite _ (by simp) (by simp [h])

@[simp] theorem Burst.put_canonical (b : Burst) (u : Team) (a : Nat) (bs : List Byte) (hm : b.Canonical) :
    (b.put u a bs).Canonical := by
  unfold Burst.put
  split
  · exact State.wrAll_wf _ _ hm
  · exact hm
  · exact hm

@[simp] theorem Burst.elem_canonical (t : Team) (w : Option Warp) (b : Burst) (hm : b.Canonical) : (b.elem t w).Canonical := by
  have hput : ∀ (us : List Team) (b : Burst) (a : Nat) (bs : List Byte), b.Canonical →
      (us.foldl (fun x u => x.put u a bs) b).Canonical := by
    intro us
    induction us with
    | nil => exact fun _ _ _ h => h
    | cons u us ih => exact fun b a bs h => ih _ a bs (b.put_canonical u a bs h)
  unfold Burst.elem
  dsimp only
  split
  · split
    · exact hm
    · exact hput _ _ _ _ hm
  · exact hm

@[simp] theorem Burst.run_canonical (t : Team) (w : Option Warp) (n : Nat) (b : Burst) (hm : b.Canonical) :
    (Burst.run t w n b).Canonical := by
  induction n generalizing b with
  | zero => exact hm
  | succ n ih =>
    unfold Burst.run
    split
    · exact hm
    · exact ih _ (b.elem_canonical t w hm)

@[simp] theorem Burst.count_canonical (t : Team) (b : Burst) (hm : b.Canonical) : (Burst.count t b).Canonical := by
  unfold Burst.count
  split
  · exact hm
  · exact foldl_canonical (fun _ _ h => by simp [h]) _ hm

@[simp] theorem State.dropCopy_mem {s : State} (id : Nat) : (s.dropCopy id).mem = s.mem := by rfl
@[simp] theorem State.setCopy_mem {s : State} (x : CopyCmd) : (s.setCopy x).mem = s.mem := by rfl

@[simp] theorem State.pendDone_mem {s : State} (team warp id : Nat) (ws : List (Nat × List (Reg × Word))) :
    (s.pendDone team warp id ws).mem = s.mem := by
  rfl

@[simp] theorem State.handOver_canonical {s : State} (t : Team) (x : CopyCmd) (hm : s.Canonical) :
    (s.handOver t x).Canonical := by
  simp only [State.handOver]
  split <;> simp [hm]

@[simp] theorem State.copyDone_canonical {s : State} (t : Team) (x : CopyCmd) (hm : s.Canonical) :
    (s.copyDone t x).Canonical := by
  simp [State.copyDone, hm]

@[simp] theorem State.handOvers_canonical {s : State} (core q : Nat) (hm : s.Canonical) : (s.handOvers core q).Canonical := by
  unfold State.handOvers
  refine foldl_canonical (fun a x ha => ?_) _ hm
  split
  · split
    · exact State.handOver_canonical _ _ ha
    · exact ha
  · exact ha

@[simp] theorem State.copyStop_canonical {s : State} (t : Team) (x : CopyCmd) (cause : Nat) (hm : s.Canonical) :
    (s.copyStop t x cause).Canonical := by
  have hb : ∀ b : Nat, ((s.copyTargets t x).foldl (fun a u => a.breakOn u (BitVec.ofNat 32 b)) s).Canonical :=
    fun b => foldl_canonical (fun _ _ h => by simp [h]) _ hm
  unfold State.copyStop
  dsimp only
  split
  · split
    · exact State.logEngine_canonical _ _ _ _ (by simp [hm])
    · exact State.logEngine_canonical _ _ _ _ (by simp [hb])
  · simp only [State.Canonical, State.pendDone_mem]
    split
    · exact State.logEngine_canonical _ _ _ _ (by simp [hm])
    · exact State.logEngine_canonical _ _ _ _ (by simp [hb])

@[simp] theorem State.dropMark_mem {s : State} (x : CopyCmd) : (s.dropMark x).mem = s.mem := by rfl

@[simp] theorem State.skipFences_mem {s : State} (core q a : Nat) : (s.skipFences core q a).mem = s.mem := by
  induction a generalizing s with
  | zero => rfl
  | succ n ih =>
    simp only [State.skipFences]
    repeat' split
    · simp [ih]
    · rfl
    · rfl

@[simp] theorem execCopyBurstLanding_canonical {s : State} (hm : s.Canonical) : Out.Canonical (execCopyBurstLanding s) := by
  unfold execCopyBurstLanding
  split
  · next core q _ =>
    have h0 : ((s.handOvers core q).skipFences core q s.copies.length).Canonical := by simp [hm]
    have hn := (Out.canonical_next _).mpr h0
    generalize (s.handOvers core q).skipFences core q s.copies.length = s0 at h0 hn
    dsimp only
    split
    · exact hn
    · next x _ =>
      split
      · exact hn
      · next t _ =>
        split
        · exact hn
        · have hb := Burst.count_canonical t _ (Burst.run_canonical t (s0.warp? x.team x.warp) (4096 / x.d.dsize)
            { s := s0, cmd := x, op := s0.nextSer } h0)
          split
          · rw [Out.canonical_next]
            exact State.stall_canonical _ _ _ (by simpa using hb)
          · rw [Out.canonical_next]
            exact State.copyStop_canonical _ _ _ (by simpa using hb)
          · rw [Out.canonical_next]
            exact State.copyStop_canonical _ _ _ (by simpa using hb)
          · rw [Out.canonical_next]
            split
            · exact State.copyDone_canonical _ _ (by simpa using hb)
            · simpa using hb
  · simp [hm]

@[simp] theorem execQfence_canonical (o : XOp) {a : State} (hm : a.Canonical) : Out.Canonical (execQfence o a) :=
  kernelOp_canonical (fun _ _ _ _ h => by simp [h]) hm

/-! ## Special values and cross-lane instructions (R129 to R136) -/

@[simp] theorem execMovs_canonical (o : SOp) {a : State} (hm : a.Canonical) : Out.Canonical (execMovs o a) := by
  refine kernelOp_canonical (fun c t w s h => ?_) hm
  split <;> simp [h]

@[simp] theorem State.setKPair_mem {s : State} (c : Ctx) (d : BitVec 6) (x : DWord) : (s.setKPair c d x).mem = s.mem := by rfl

@[simp] theorem relayOp_canonical (i : Instr) (r : RelayKind) (a d : BitVec 6) (seg : Warp → Nat) (x : Warp → Nat → Nat)
    {a1 : State} (hm : a1.Canonical) : Out.Canonical (relayOp i r a d seg x a1) :=
  kernelOp_canonical (fun _ _ _ _ h => by simp [h]) hm

@[simp] theorem relayReg_canonical (i : Instr) (r : RelayKind) (o : SOp) {a : State} (hm : a.Canonical) :
    Out.Canonical (relayReg i r o a) := by
  simp [relayReg, hm]

@[simp] theorem relayImm_canonical (i : Instr) (r : RelayKind) (o : RelayImm) {a : State} (hm : a.Canonical) :
    Out.Canonical (relayImm i r o a) := by
  simp [relayImm, hm]

/-- The relays with an immediate. -/
@[simp] theorem relayImmediates_canonical (o : RelayImm) {a : State} (hm : a.Canonical) :
    Out.Canonical (execRelayAtImm o a) ∧ Out.Canonical (execRelayLoImm o a) ∧ Out.Canonical (execRelayHiImm o a) ∧
    Out.Canonical (execRelaySwImm o a) := by
  simp [execRelayAtImm, execRelayLoImm, execRelayHiImm, execRelaySwImm, hm]

@[simp] theorem pollOp_canonical (i : Instr) (o : SOp) (f : List Bool → Bool) {a : State} (hm : a.Canonical) :
    Out.Canonical (pollOp i o f a) :=
  kernelOp_canonical (fun _ _ _ _ h => by simp [h]) hm

/-- The relays, and the polls of one bit. -/
@[simp] theorem relaysPolls_canonical (o : SOp) {a : State} (hm : a.Canonical) :
    Out.Canonical (execRelayAt o a) ∧ Out.Canonical (execRelayLo o a) ∧ Out.Canonical (execRelayHi o a) ∧
    Out.Canonical (execRelaySw o a) ∧ Out.Canonical (execPollSome o a) ∧ Out.Canonical (execPollEach o a) := by
  simp [execRelayAt, execRelayLo, execRelayHi, execRelaySw, execPollSome, execPollEach, hm]

/-- The clocks, and what reads the lanes of a group. -/
@[simp] theorem clocksGroupReads_canonical (o : SOp) {a : State} (hm : a.Canonical) :
    Out.Canonical (execTime o a) ∧ Out.Canonical (execCycles o a) ∧ Out.Canonical (execRetired o a) ∧
    Out.Canonical (execPollMask o a) ∧ Out.Canonical (execPeers o a) ∧ Out.Canonical (execGred o a) := by
  refine ⟨?_, ?_, ?_, ?_, ?_, ?_⟩ <;>
    exact kernelOp_canonical (fun _ _ _ _ h => by simp [h]) hm

/-! ## The matrix engine, the Cask and gathers (R147 to R174) -/

@[simp] theorem execCaskres_canonical (o : XOp) {a : State} (hm : a.Canonical) : Out.Canonical (execCaskres o a) := by
  refine kernelOp_canonical (fun c t w s h => ?_) hm
  dsimp only
  split
  · next hx => exact State.recAt_canonical hx
  · split
    · simp [h]
    · exact KOut.canonical_ite _ (by simp [h]) (by simp)

@[simp] theorem State.accept_mem {s : State} (c : Ctx) (t : Team) (w : Warp) (la : BitVec 4) (regs : List Reg) (op : MatOp) :
    (s.accept c t w la regs op).mem = s.mem := by
  simp [State.accept]

@[simp] theorem matFault_canonical (d : Nat) : (matFault d).Canonical := by simp [matFault]

@[simp] theorem withTiles_canonical {t : Team} {ts : List (BitVec 6)} {f : KOut} (hf : f.Canonical) :
    (withTiles t ts f).Canonical := by
  simp [withTiles, hf]

@[simp] theorem mmaChecks_canonical {t : Team} {gather : Bool} {d a b : BitVec 6} {go : CaskRec → CaskRec → KOut}
    (hgo : ∀ x y, (go x y).Canonical) : (mmaChecks t gather d a b go).Canonical := by
  refine withTiles_canonical ?_
  repeat' split
  all_goals simp [hgo]

@[simp] theorem execCpyMm_canonical (o : XOp) {a : State} (hm : a.Canonical) : Out.Canonical (execCpyMm o a) := by
  refine kernelOp_canonical (fun c t w s h => ?_) hm
  dsimp only
  split
  · next hx => exact State.recAt_canonical hx
  · refine copyChecks_canonical fun d => ?_
    split
    · next hx => exact State.recAt_canonical hx
    · refine KOut.canonical_ite _ (by simp) ?_
      split
      · exact KOut.canonical_ite _ (mmaChecks_canonical fun x y => by simp [h]) (by simp)
      · exact KOut.canonical_ite _ (mmaChecks_canonical fun x y => by simp [h]) (by simp)
      · simp

@[simp] theorem execGmma_canonical (o : XOp) {a : State} (hm : a.Canonical) : Out.Canonical (execGmma o a) := by
  refine kernelOp_canonical (fun c t w s h => ?_) hm
  dsimp only
  repeat' split
  all_goals simp [h]

@[simp] theorem tmovOp_canonical (i : Instr) (row : Bool) (o : XOp) {a : State} (hm : a.Canonical) :
    Out.Canonical (tmovOp i row o a) :=
  kernelOp_canonical (fun _ _ _ _ h => by simp [h]) hm

@[simp] theorem execTmovR_canonical (o : XOp) {a : State} (hm : a.Canonical) : Out.Canonical (execTmovR o a) := by
  simp [execTmovR, hm]

@[simp] theorem execTmovC_canonical (o : XOp) {a : State} (hm : a.Canonical) : Out.Canonical (execTmovC o a) := by
  simp [execTmovC, hm]

@[simp] theorem tileLocs_canonical {s : State} {t : Team} {k : TaskCtx} {w : Warp} {o : XOp} {acc : Acc}
    {go : Nat → List Nat → KOut} (hgo : ∀ z ls, (go z ls).Canonical) : (tileLocs s t k w o acc go).Canonical := by
  simp only [tileLocs]
  repeat' split
  all_goals simp [hgo]

/-- What the matrix engine accepts. -/
@[simp] theorem matrixCommands_canonical (o : XOp) {a : State} (hm : a.Canonical) :
    Out.Canonical (execCaskrel o a) ∧ Out.Canonical (execMma o a) ∧ Out.Canonical (execMmaG o a) ∧
    Out.Canonical (execTzero o a) ∧ Out.Canonical (execTld o a) ∧ Out.Canonical (execTst o a) ∧ Out.Canonical (execTcvt o a) ∧
    Out.Canonical (execTadd o a) ∧ Out.Canonical (execTscale o a) := by
  refine ⟨?_, ?_, ?_, ?_, ?_, ?_, ?_, ?_, ?_⟩ <;>
    exact kernelOp_canonical (fun _ _ _ _ h => by simp [h]) hm

@[simp] theorem State.tstStore_canonical {s : State} (t : Team) (m : MatCmd) (ws : List (Nat × Byte)) (hm : s.Canonical) :
    (s.tstStore t m ws).Canonical := by
  simp [State.tstStore, hm]

@[simp] theorem State.giveCredits_mem {s : State} (team n c : Nat) : (s.giveCredits team n c).mem = s.mem := by rfl

@[simp] theorem execMatrixCommandStart_canonical {s : State} (hm : s.Canonical) : Out.Canonical (execMatrixCommandStart s) := by
  simp only [execMatrixCommandStart]
  repeat' split
  all_goals simp [hm]

@[simp] theorem State.haltEffects_mem {s : State} (t : Team) : (s.haltEffects t).mem = s.mem := by simp [State.haltEffects]
@[simp] theorem State.haltNow_mem {s : State} (t : Team) : (s.haltNow t).mem = s.mem := by simp [State.haltNow]
@[simp] theorem State.pauseNow_mem {s : State} (t : Team) : (s.pauseNow t).mem = s.mem := by simp [State.pauseNow]

@[simp] theorem State.haltDue_mem {s : State} (id : Nat) : (s.haltDue id).mem = s.mem := by
  simp only [State.haltDue]
  split <;> simp

@[simp] theorem State.matDone_canonical {s : State} (t : Team) (m : MatCmd) (bytes : KV Byte) (hm : s.Canonical) :
    (s.matDone t m bytes).Canonical := by
  simp only [State.matDone]
  split <;> simp [hm]

@[simp] theorem execMatrixCommandComplete_canonical {s : State} (hm : s.Canonical) :
    Out.Canonical (execMatrixCommandComplete s) := by
  simp only [execMatrixCommandComplete]
  repeat' split
  all_goals simp [hm]

@[simp] theorem State.matFinish_canonical {s : State} (id : Nat) (hm : s.Canonical) : (s.matFinish id).Canonical := by
  unfold State.matFinish
  refine foldl_canonical (fun a n ha => ?_) _ hm
  split
  · exact State.matDone_canonical _ _ _ ha
  · exact ha

theorem wordLocs_canonical {s : State} {k : TaskCtx} {vas : List Nat} {o : KOut} (ho : wordLocs s k vas = .error o) :
    o.Canonical := by
  induction vas with
  | nil => cases ho
  | cons va rest ih =>
    unfold wordLocs at ho
    split at ho
    · next hx => cases ho; exact State.recAt_canonical hx
    · split at ho
      · next hx => cases ho; exact ih hx
      · cases ho

@[simp] theorem execMgather_canonical (o : XOp) {a : State} (hm : a.Canonical) : Out.Canonical (execMgather o a) := by
  refine kernelOp_canonical (fun c t w s h => ?_) hm
  dsimp only
  split
  · next hx => exact State.recAt_canonical hx
  · split
    · simp
    · split
      · simp
      · split
        · simp
        · split
          · simp
          · split
            · next hx => exact wordLocs_canonical hx
            · simp [h]

@[simp] theorem State.dropGather_mem {s : State} (id : Nat) : (s.dropGather id).mem = s.mem := by rfl

@[simp] theorem State.gatherStop_canonical {s : State} (t : Team) (g : GatherCmd) (cause : Nat) (hm : s.Canonical) :
    (s.gatherStop t g cause).Canonical := by
  simp [State.gatherStop, hm]

@[simp] theorem execGatherRowLanding_canonical {s : State} (hm : s.Canonical) : Out.Canonical (execGatherRowLanding s) := by
  simp only [execGatherRowLanding]
  repeat' split
  all_goals simp [hm]

/-! ## Operand streams (R241 to R245) -/

@[simp] theorem copyFault_canonical (d : Nat) : (copyFault d).Canonical := by simp [copyFault]

@[simp] theorem State.bindStream_mem {s : State} (grid name : Nat) : (s.bindStream grid name).mem = s.mem := by
  unfold State.bindStream
  split <;> rfl

@[simp] theorem execOpub_canonical (o : XOp) {a : State} (hm : a.Canonical) : Out.Canonical (execOpub o a) := by
  refine kernelOp_canonical (fun c t w s h => ?_) hm
  dsimp only
  split
  · next hx => exact State.recAt_canonical hx
  · refine KOut.canonical_ite _ (by simp) (KOut.canonical_ite _ (by simp) ?_)
    refine KOut.canonical_ite _ (KOut.canonical_ite _ (by simp) (by simp [h])) ?_
    split
    · simp
    · exact KOut.canonical_ite _ (by simp) (by simp [h])

@[simp] theorem execOsub_canonical (o : XOp) {a : State} (hm : a.Canonical) : Out.Canonical (execOsub o a) := by
  refine kernelOp_canonical (fun c t w s h => ?_) hm
  dsimp only
  repeat' split
  all_goals simp [h]

@[simp] theorem State.dropSub_mem {s : State} (id : Nat) : (s.dropSub id).mem = s.mem := by rfl

@[simp] theorem State.pubRecord_canonical {s : State} (p : StreamPub) (cause : Nat) (hm : s.Canonical) :
    (s.pubRecord p cause).Canonical := by
  simp [State.pubRecord, hm]

@[simp] theorem State.countPbar_canonical {s : State} (p : StreamPub) (hm : s.Canonical) : (s.countPbar p).Canonical := by
  simp only [State.countPbar]
  split <;> simp [hm]

@[simp] theorem State.countChunks_canonical {s : State} (id a : Nat) (hm : s.Canonical) : (s.countChunks id a).Canonical := by
  induction a generalizing s with
  | zero => exact hm
  | succ n ih =>
    simp only [State.countChunks]
    repeat' split
    · exact hm
    · exact hm
    · exact ih (by simp [hm])
    · exact hm

@[simp] theorem State.pubStop_canonical {s : State} (p : StreamPub) (cause : Nat) (hm : s.Canonical) :
    (s.pubStop p cause).Canonical := by
  simp only [State.pubStop]
  refine State.pubRecord_canonical _ _ (foldl_canonical (fun a x h => by split <;> simp [h]) _ ?_)
  repeat' split
  all_goals simp [hm]

@[simp] theorem State.countLeft_canonical {s : State} (hm : s.Canonical) : s.countLeft.Canonical := by
  refine foldl_canonical (fun _ _ h => ?_) _ hm
  simp [h]

@[simp] theorem State.landChunk_canonical {s : State} (t : Team) (x : StreamSub) (p : StreamPub) (rows : List (List Byte))
    (hm : s.Canonical) : (s.landChunk t x p rows).Canonical := by
  simp only [State.landChunk]
  split <;> simp [hm]

@[simp] theorem execStreamChunkDelivery_canonical {s : State} (hm : s.Canonical) :
    Out.Canonical (execStreamChunkDelivery s) := by
  unfold execStreamChunkDelivery
  dsimp only
  repeat' split
  · simp [hm]
  · simp [hm]
  · rw [Out.canonical_next]
    refine State.countChunks_canonical _ _ ?_
    simp [hm]
  · simp [hm]
  · simp [hm]
  · simp [hm]
  · rw [Out.canonical_next]
    refine State.countChunks_canonical _ _ ?_
    simp [hm]
  · rw [Out.canonical_next]
    refine State.countChunks_canonical _ _ ?_
    simp [hm]
  · simp [hm]
  · simp [hm]

/-! ## Frame objects and stream records (R256 to R263) -/

@[simp] theorem State.frameWr_canonical {s : State} (f : Nat) (fields : List (Nat × List Byte)) (hm : s.Canonical) :
    (s.frameWr f fields).Canonical := by
  simp [State.frameWr, hm]

@[simp] theorem State.frameGo_canonical {s : State} (f st set clear : Nat) (more : List (Nat × List Byte)) (hm : s.Canonical) :
    (s.frameGo f st set clear more).Canonical := by
  simp [State.frameGo, hm]

@[simp] theorem State.frameSeal_canonical {s : State} (f : Nat) (on : Bool) (hm : s.Canonical) :
    (s.frameSeal f on).Canonical := by
  simp [State.frameSeal, hm]

@[simp] theorem State.frameBind_canonical {s : State} (f : Nat) (up : Bool) (hm : s.Canonical) :
    (s.frameBind f up).Canonical := by
  simp [State.frameBind, hm]

@[simp] theorem State.frameLate_canonical {s : State} (f : Nat) (hm : s.Canonical) : (s.frameLate f).Canonical := by
  simp [State.frameLate, hm]

@[simp] theorem State.streamWr_canonical {s : State} (i o : Nat) (bs : List Byte) (hm : s.Canonical) :
    (s.streamWr i o bs).Canonical := by
  simp [State.streamWr, hm]

@[simp] theorem State.updStream_mem {s : State} (i : Nat) (f : MediaStream → MediaStream) : (s.updStream i f).mem = s.mem := by
  rfl

/-! ## The fetch of a bundle (R47) -/

@[simp] theorem State.fetch_canonical {s : State} (c : Ctx) (hm : s.Canonical) : (s.fetch c).Canonical := by
  simp only [State.fetch]
  repeat' split
  all_goals simp [hm]

@[simp] theorem State.upset_mem {s : State} (l : Nat) : (s.upset l).mem = s.mem := by rfl

end Sys2Proof.Machine
end

/-! # Proofs: memory stays canonical (R191): grids, the task window, the scheduler and collectives -/
section

namespace Sys2Proof.Machine

/-! ## Grids and teams (R43 to R46) -/

@[simp] theorem State.instantiate_mem {s : State} (id : Nat) : (s.instantiate id).mem = s.mem := by
  simp only [State.instantiate]
  repeat' split
  all_goals simp

@[simp] theorem State.pushEvent_canonical {s : State} (core : Nat) (ws : List Word) (hm : s.Canonical) :
    (s.pushEvent core ws).Canonical := by
  simp only [State.pushEvent]
  split <;> simp [hm]

@[simp] theorem State.claimAt_mem {s : State} (g : Grid) (w core pos : Nat) : (s.claimAt g w core pos).mem = s.mem := by
  unfold State.claimAt
  split <;> rfl

theorem State.reserveGang_mem {s b : State} {g : Grid} {w : Wave} {i : Nat} {cs : List Nat}
    (hb : s.reserveGang g w i = some (b, cs)) : b.mem = s.mem := by
  unfold State.reserveGang at hb
  dsimp only at hb
  split at hb
  · cases hb
    exact foldl_mem (fun a m => State.claimAt_mem _ _ _ _) _ _
  · cases hb

@[simp] theorem State.reserveGangs_canonical {s : State} (g : Grid) (w : Wave) (tell : Bool) (hm : s.Canonical) :
    (s.reserveGangs g w tell).Canonical := by
  unfold State.reserveGangs
  split
  · exact hm
  · refine foldl_canonical (fun a i ha => ?_) _ hm
    split
    · exact ha
    · next b cs h =>
      have hb : b.Canonical := by rwa [State.Canonical, State.reserveGang_mem h]
      split
      · exact foldl_canonical (fun _ _ hx => State.pushEvent_canonical _ _ hx) _ hb
      · exact hb

@[simp] theorem State.retryWaves_canonical {s : State} (core : Nat) (hm : s.Canonical) : (s.retryWaves core).Canonical := by
  refine foldl_canonical (fun _ _ h => ?_) _ hm
  simp [h]

@[simp] theorem State.retryCore_canonical {s : State} (core : Nat) (hm : s.Canonical) : (s.retryCore core).Canonical := by
  refine State.retryWaves_canonical _ (foldl_canonical (fun a w ha => ?_) _ hm)
  split
  · exact ha
  · exact State.reserveGangs_canonical _ _ _ ha

@[simp] theorem State.breakScratch_canonical {s : State} (t : Team) (hm : s.Canonical) : (s.breakScratch t).Canonical := by
  refine foldl_canonical (fun _ _ h => ?_) _ hm
  simp [h]

@[simp] theorem State.dropLaunches_canonical {s : State} (t : Team) (hm : s.Canonical) : (s.dropLaunches t).Canonical := by
  simp only [State.dropLaunches, State.Canonical, State.updTeam_mem]
  refine foldl_canonical (fun a r ha => ?_) _ hm
  split
  · exact ha
  · split
    · exact ha
    · exact State.barBreak_canonical _ _ _ ha

@[simp] theorem State.closeLogs_canonical {s : State} (t : Team) (hm : s.Canonical) : (s.closeLogs t).Canonical := by
  refine foldl_canonical (fun _ _ h => ?_) _ hm
  simp [h]

@[simp] theorem State.dropEngines_mem {s : State} (id : Nat) : (s.dropEngines id).mem = s.mem := by rfl

@[simp] theorem State.stopTeam_canonical {s : State} (id : Nat) (hm : s.Canonical) : (s.stopTeam id).Canonical := by
  unfold State.stopTeam
  split
  · exact hm
  · next t _ =>
    dsimp only [State.Canonical]
    rw [State.dropEngines_mem]
    exact State.dropLaunches_canonical _ (State.breakScratch_canonical _ (by simp [hm]))

@[simp] theorem State.stopGrids_canonical {s : State} (gs : List Nat) (hm : s.Canonical) : (s.stopGrids gs).Canonical := by
  unfold State.stopGrids
  refine foldl_canonical (fun _ _ h => State.retryCore_canonical _ h) _ ?_
  exact foldl_canonical (f := State.stopTeam) (fun _ _ h => State.stopTeam_canonical _ h) _ hm

@[simp] theorem State.stopTask_canonical {s : State} (e : Entry) (hm : s.Canonical) : (s.stopTask e).Canonical := by
  simp [State.stopTask, hm]

/-! ## The task window (R276 to R303) -/

@[simp] theorem Dec.bind_canonical {α β : Type} {x : Dec α} {f : State → α → Dec β} (hx : x.Canonical)
    (hf : ∀ s a, s.Canonical → (f s a).Canonical) : (x.bind f).Canonical := by
  cases x with
  | ok s a => exact hf s a hx
  | fault s c i => exact hx
  | stall s => exact hx

@[simp] theorem State.stallWith_mem {s : State} (b : BitVec 5) : (s.stallWith b).mem = s.mem := by rfl
@[simp] theorem State.updEntry_mem {s : State} (seq : Nat) (f : Entry → Entry) : (s.updEntry seq f).mem = s.mem := by rfl

@[simp] theorem State.readVa_canonical {s : State} (region fuel va n : Nat) (hm : s.Canonical) :
    (s.readVa region fuel va n).Canonical := by
  induction fuel generalizing va n with
  | zero => exact hm
  | succ fuel ih =>
    simp only [State.readVa]
    repeat' split
    · exact hm
    · exact hm
    · exact hm
    · simp [hm]
    · simp [hm]
    · simp [hm]
    · exact Dec.bind_canonical (ih _ _) (fun _ _ h => h)

@[simp] theorem State.blockAt_canonical {s : State} (region va n al : Nat) (hm : s.Canonical) :
    (s.blockAt region va n al).Canonical := by
  unfold State.blockAt
  split
  · exact hm
  · exact State.readVa_canonical _ _ _ _ hm

@[simp] theorem State.chkBlock_canonical {s : State} (fs : List (Nat × Bool)) (hm : s.Canonical) :
    (s.chkBlock fs).Canonical := by
  simp only [State.chkBlock]
  split <;> simp [hm]

@[simp] theorem State.renameReads_canonical {s : State} (e : Entry) (is : List Nat) (hm : s.Canonical) :
    (s.renameReads e is).Canonical := by
  induction is generalizing e with
  | nil => exact hm
  | cons i rest ih =>
    unfold State.renameReads
    split
    · exact ih e
    · split
      · exact hm
      · exact ih _

@[simp] theorem State.renameWrite_canonical {s : State} (e : Entry) (i : Nat) (hm : s.Canonical) :
    (s.renameWrite e i).Canonical := by
  simp only [State.renameWrite]
  repeat' split
  all_goals simp [hm]

@[simp] theorem State.rename_canonical {s : State} (f : TaskForm) (e : Entry) (hm : s.Canonical) :
    (s.rename f e).Canonical := by
  unfold State.rename
  split
  · exact hm
  · have hr := State.renameReads_canonical e [0, 1] hm
    split
    · next h1 => simpa [h1] using hr
    · next h1 => simpa [h1] using hr
    · next s1 e1 h1 =>
      have hw := State.renameWrite_canonical e1 2 (s := s1) (by simpa [h1] using hr)
      split
      · next h2 => simpa [h2] using hw
      · simp [hm]
      · next s2 e2 h2 =>
        have hx := State.renameWrite_canonical e2 3 (s := s2) (by simpa [h2] using hw)
        split
        · next h3 => simpa [h3] using hx
        · simp [hm]
        · next h3 => simpa [h3] using hx

@[simp] theorem State.taskRec_mem {s : State} (e : Entry) (kind code info : Nat) :
    (s.taskRec e kind code info).mem = s.mem := by
  simp [State.taskRec]

@[simp] theorem State.enter_mem {s : State} (e : Entry) (next : Nat) : (s.enter e next).mem = s.mem := by simp [State.enter]

@[simp] theorem State.enterFault_mem {s : State} (e : Entry) (code info : Nat) : (s.enterFault e code info).mem = s.mem := by
  simp [State.enterFault]

theorem State.unreadRecord_canonical {s : State} (e : Entry) (hm : s.Canonical) :
    ∀ s1, s.unreadRecord e = some s1 → s1.Canonical := by
  intro s1 h1
  unfold State.unreadRecord at h1
  repeat' split at h1
  all_goals cases h1
  all_goals simp [hm]

theorem State.decode_canonical {s : State} (f : TaskForm) (t : TaskRec) {read : State → Nat → Dec TaskRead}
    {act : State → Entry → Dec (Entry × Nat)} (hread : ∀ s n, s.Canonical → (read s n).Canonical)
    (hact : ∀ s e, s.Canonical → (act s e).Canonical) (hm : s.Canonical) : Out.Canonical (s.decode f t read act) := by
  unfold State.decode
  dsimp only
  split
  · simp [hm]
  · split
    · next h1 => simpa using State.unreadRecord_canonical _ hm _ h1
    · simp [hm]
    · split
      · simp [hm]
      · have hr := hread s t.region.toNat hm
        split
        · next h1 => simpa [h1] using hr
        · next h1 =>
          rw [h1] at hr
          simpa using hr
        · next s1 r h1 =>
          rw [h1, Dec.canonical_ok] at hr
          have hn {x : Renamed} {e : Entry} (h : s1.rename f e = x) : x.Canonical := h ▸ State.rename_canonical f e hr
          split
          · simp [hr]
          · simp [hr]
          · split
            · next h2 => simpa using hn h2
            · next h2 => simpa using hn h2
            · next s2 e2 h2 =>
              have ha {x : Dec (Entry × Nat)} {e : Entry} (h : act s2 e = x) : x.Canonical := h ▸ hact s2 e (hn h2)
              split
              · next h3 => simpa using ha h3
              · next h3 => simpa using ha h3
              · next s3 e4 next h3 =>
                have hs3 : s3.Canonical := ha h3
                rw [Out.canonical_next]
                split
                · split
                  · simp [hs3]
                  · split <;> simp [hs3]
                · simpa using hs3

@[simp] theorem noRead_canonical (s : State) (n : Nat) (hm : s.Canonical) : (noRead s n).Canonical := hm
@[simp] theorem waitAct_canonical (s : State) (e : Entry) (hm : s.Canonical) : (waitAct s e).Canonical := hm
@[simp] theorem doneAct_canonical (s : State) (e : Entry) (hm : s.Canonical) : (doneAct s e).Canonical := hm
@[simp] theorem State.reOp_mem {s : State} : s.reOp.mem = s.mem := by rfl

@[simp] theorem State.complete_mem {s : State} (seq : Nat) (fault : Option (Nat × Nat)) :
    (s.complete seq fault).mem = s.mem := by
  rfl

@[simp] theorem State.freeBuf_mem {s : State} (p : Nat × Nat) : (s.freeBuf p).mem = s.mem := by rfl
@[simp] theorem State.unstall_mem {s : State} (key : Nat) : (s.unstall key).mem = s.mem := by rfl

@[simp] theorem State.writeRecord_canonical {s : State} (k : TaskCtx) (own : Bool) (va : Nat) (S : Scope) (bs : List Byte)
    (hm : s.Canonical) : (s.writeRecord k own va S bs).Canonical := by
  simp only [State.writeRecord]
  split <;> simp [hm]

@[simp] theorem State.streamRecord_mem {s : State} : s.streamRecord.mem = s.mem := by simp [State.streamRecord]

@[simp] theorem State.retireOk_canonical {s : State} (e : Entry) (hm : s.Canonical) : (s.retireOk e).Canonical := by
  simp only [State.retireOk]
  repeat' split
  all_goals simp [hm]

@[simp] theorem State.undoEntry_canonical {s : State} (e : Entry) (hm : s.Canonical) : (s.undoEntry e).Canonical := by
  have hframe : ∀ a : State, a.Canonical → (if !e.sound then a else
      match e.ctx.frame with
      | none => a
      | some f =>
        if isBound e.task then a.frameBind f false
        else if e.task.opcode = 0x21 then a.frameSeal f false
        else a).Canonical := by
    intro a ha
    repeat' split
    all_goals simp [ha]
  unfold State.undoEntry
  refine hframe _ ?_
  repeat' split
  all_goals simp [hm, -List.foldl_reverse]

@[simp] theorem State.tbarLeft_mem {s : State} (e : Entry) : (s.tbarLeft e).mem = s.mem := by simp [State.tbarLeft]

@[simp] theorem State.discard_canonical {s : State} (e : Entry) (hm : s.Canonical) : (s.discard e).Canonical := by
  simp [State.discard, hm]

@[simp] theorem State.preciseFault_canonical {s : State} (e : Entry) (code : Nat) (info : Word) (hm : s.Canonical) :
    (s.preciseFault e code info).Canonical := by
  unfold State.preciseFault
  dsimp only
  simp only [State.Canonical, State.irq_mem, State.taskRec_mem, State.tbarLeft_mem]
  refine State.undoEntry_canonical _ (foldl_canonical (fun _ _ h => State.discard_canonical _ h) _ ?_)
  exact hm

@[simp] theorem State.retireHead_canonical {s : State} (hm : s.Canonical) : s.retireHead.Canonical := by
  simp only [State.retireHead]
  split
  · exact hm
  · next e _ _ =>
    split
    · exact hm
    · split
      · simp [hm]
      · split
        · simp [hm]
        · have hr := State.writeRecord_canonical e.ctx true e.recAddr .chip e.record hm
          split
          · next h1 => simpa [h1] using hr
          · next h1 => simp [h1] at hr; simp [hr]
          · next h1 => simp [h1] at hr; simp [hr]

@[simp] theorem execTaskRetirement_canonical {s : State} (hm : s.Canonical) : Out.Canonical (execTaskRetirement s) := by
  simp [execTaskRetirement, hm]

/-! ## The scheduler (R307 to R316) -/

@[simp] theorem State.notePlaceable_mem {s : State} (seq : Nat) : (s.notePlaceable seq).mem = s.mem := by rfl
@[simp] theorem State.noteRestart_mem {s : State} (seq : Nat) : (s.noteRestart seq).mem = s.mem := by rfl

@[simp] theorem execHeldEventPush_canonical {s : State} (hm : s.Canonical) : Out.Canonical (execHeldEventPush s) := by
  simp only [execHeldEventPush]
  repeat' split
  all_goals simp [hm]

@[simp] theorem State.placeOn_canonical {s : State} (g : Grid) (i : Nat) (cores : List Nat) (hm : s.Canonical) :
    (s.placeOn g i cores).Canonical := by
  simp only [State.placeOn, State.Canonical, State.noteRestart_mem]
  refine foldl_canonical (fun _ _ h => State.pushEvent_canonical _ _ h) _ ?_
  refine State.reserveGangs_canonical _ _ _ ?_
  rw [State.Canonical, State.updEntry_mem]
  exact State.wrPub_canonical _ _ _ _ (by simp [hm])

@[simp] theorem State.shed_mem {s : State} (g : Grid) : (s.shed g).mem = s.mem := by simp [State.shed]

@[simp] theorem State.claim_canonical {s : State} (core off : Nat) (hm : s.Canonical) : (s.claim core off).2.Canonical := by
  simp only [State.claim]
  repeat' split
  all_goals simp [hm]

@[simp] theorem State.gangUp_mem {s : State} (id : Nat) : (s.gangUp id).mem = s.mem := by
  simp only [State.gangUp]
  split <;> simp

@[simp] theorem State.agentInst_mem {s : State} (id : Nat) : (s.agentInst id).mem = s.mem := by simp [State.agentInst]

@[simp] theorem State.waveEnd_mem {s : State} (id : Nat) : (s.waveEnd id).mem = s.mem := by
  simp only [State.waveEnd]
  split <;> simp

@[simp] theorem State.endTeam_canonical {s : State} (t : Team) (hm : s.Canonical) : (s.endTeam t).Canonical := by
  simp only [State.endTeam]
  split <;> simp [hm]

@[simp] theorem State.continueTeam_mem {s : State} (t : Team) : (s.continueTeam t).mem = s.mem := by
  simp only [State.continueTeam]
  repeat' split
  all_goals simp

@[simp] theorem State.agentEnd_canonical {s : State} (t : Team) (hm : s.Canonical) : (s.agentEnd t).Canonical := by
  simp [State.agentEnd, hm]

@[simp] theorem execTeamEnd_canonical {s : State} (hm : s.Canonical) : Out.Canonical (execTeamEnd s) := by
  unfold execTeamEnd
  dsimp only
  split
  · next id _ =>
    split
    · simp [hm]
    · next t _ =>
      split
      · simp [hm]
      · have hl : ((((s.closeLogs t).dropLaunches t).dropEngines id).countLeft).Canonical :=
        State.countLeft_canonical (by simp [hm])
        split
        · exact (Out.canonical_next _).mpr (State.agentEnd_canonical _ (by simpa using hl))
        · exact (Out.canonical_next _).mpr (State.pushEvent_canonical _ _ (by simpa using hl))
  · simp [hm]

@[simp] theorem State.haltTeam_mem {s : State} (id : Nat) : (s.haltTeam id).mem = s.mem := by
  simp only [State.haltTeam]
  split <;> simp

@[simp] theorem State.stateLost_mem {s : State} (t : Team) (l : Nat) : (s.stateLost t l).mem = s.mem := by
  simp [State.stateLost]

@[simp] theorem State.saveCopies_mem {s : State} (id : Nat) : (s.saveCopies id).mem = s.mem := by rfl
@[simp] theorem State.restoreCopies_mem {s : State} (id core : Nat) : (s.restoreCopies id core).mem = s.mem := by rfl

@[simp] theorem State.saveTeam_canonical {s : State} (t : Team) (area : Nat) (hm : s.Canonical) :
    (s.saveTeam t area).Canonical := by
  simp only [State.saveTeam]
  split <;> simp [hm]

@[simp] theorem State.restoreTeam_canonical {s : State} (t : Team) (core : Nat) (hm : s.Canonical) :
    (s.restoreTeam t core).Canonical := by
  have hplace : ∀ (t1 : Team) (a : State), a.Canonical → (t1.warps.foldl (fun a w =>
      match w.halt with
      | none => a
      | some x =>
        let y : Halt := { x with id := haltId t1 w, stamp := a.ptime }
        (a.updWarp t1.id w.idx (fun v => { v with halt := some y })).pushHalt (haltBytes a t1 w y)) a).Canonical :=
    fun t1 a h => foldl_canonical (fun a w h => by dsimp only; split <;> simp [h]) _ h
  unfold State.restoreTeam
  split
  · simp [hm]
  · exact hm
  · dsimp only
    split
    · simp [hm]
    · simp only [State.Canonical, State.gangUp_mem]
      exact hplace _ _ (by simp [hm])

@[simp] theorem State.agentPlace_canonical {s : State} (core off a : Nat) (hm : s.Canonical) :
    (s.agentPlace core off a).Canonical := by
  induction a generalizing s with
  | zero => exact hm
  | succ n ih =>
    have hc := State.claim_canonical core off hm
    simp only [State.agentPlace]
    repeat' split
    · exact hc
    · exact hc
    · exact ih (by simpa using hc)

@[simp] theorem State.agentAnswer_canonical {s : State} (core : Nat) (ws : List Word) (hm : s.Canonical) :
    (s.agentAnswer core ws).Canonical := by
  simp only [State.agentAnswer]
  repeat' split
  all_goals simp [hm]

@[simp] theorem State.agentStep_canonical {s : State} (core : Nat) (hm : s.Canonical) : (s.agentStep core).Canonical := by
  simp only [State.agentStep]
  split <;> simp [hm]

@[simp] theorem State.publishGrid_mem {s : State} (g : Nat) : (s.publishGrid g).mem = s.mem := by rfl

@[simp] theorem State.arriveOne_canonical {s : State} (P : Party) (l stamp : Nat) (ents : List BarEntry) (hm : s.Canonical) :
    (s.arriveOne P l stamp ents).Canonical := by
  simp only [State.arriveOne]
  repeat' split
  all_goals simp [hm]

@[simp] theorem State.heldErr_canonical {s : State} (g : Grid) (c : Ctx) (lane l : Nat) (hm : s.Canonical) :
    (s.heldErr g c lane l).Canonical := by
  simp only [State.heldErr]
  split <;> simp [hm]

@[simp] theorem State.flushRed_canonical {s : State} (g : Grid) (r : List Nat × AtomOp × Scope × Nat) (hm : s.Canonical) :
    (s.flushRed g r).Canonical := by
  simp only [State.flushRed]
  repeat' split
  all_goals simp [hm]

@[simp] theorem State.flushReds_canonical {s : State} (g : Grid) (rs : List (List Nat × AtomOp × Scope × Nat))
    (hm : s.Canonical) : (s.flushReds g rs).Canonical := by
  refine foldl_canonical (fun _ _ h => ?_) _ hm
  simp [h]

@[simp] theorem State.endGrid_canonical {s : State} (g : Grid) (hm : s.Canonical) : (s.endGrid g).Canonical := by
  simp only [State.endGrid]
  repeat' split
  all_goals simp [hm]

@[simp] theorem execGridEnd_canonical {s : State} (hm : s.Canonical) : Out.Canonical (execGridEnd s) := by
  simp only [execGridEnd]
  repeat' split
  all_goals simp [hm]

@[simp] theorem State.enroll_canonical {s : State} (t : Team) (hm : s.Canonical) : (s.enroll t).Canonical := by
  simp only [State.enroll]
  repeat' split
  all_goals simp [hm]

@[simp] theorem execLaunchAdmission_canonical {s : State} (hm : s.Canonical) : Out.Canonical (execLaunchAdmission s) := by
  simp only [execLaunchAdmission]
  repeat' split
  all_goals simp [hm]

@[simp] theorem execOpChangeSettled_canonical {s : State} (hm : s.Canonical) : Out.Canonical (execOpChangeSettled s) := by
  simp only [execOpChangeSettled]
  split <;> simp [hm]

@[simp] theorem execPowerSample_canonical {s : State} (hm : s.Canonical) : Out.Canonical (execPowerSample s) := by
  simp only [execPowerSample]
  split <;> simp [hm]

/-! ## Accesses of the engines that act for tasks (R302, R421) -/

@[simp] theorem State.taskErr_canonical {s : State} (k : TaskCtx) (cause : Nat) (hm : s.Canonical) :
    (s.taskErr k cause).Canonical := by
  simp [State.taskErr, hm]

@[simp] theorem State.bandBreak_canonical {s : State} (m : MediaStream) (l : Nat) (hm : s.Canonical) :
    (s.bandBreak m l).Canonical := by
  simp [State.bandBreak, hm]

theorem State.taskStop_canonical {s : State} {gone : State → State} (k : TaskCtx) (x : EngAt)
    (hgone : ∀ a, a.Canonical → (gone a).Canonical) (hm : s.Canonical) : (s.taskStop k x gone).Canonical := by
  unfold State.taskStop
  split
  · simp [hm]
  · simp [hgone, hm]
  · simp [hgone, hm]

/-! ## The structure builder (R334 to R336) -/

@[simp] theorem State.dropLeaves_mem {s : State} (va : Nat) : (s.dropLeaves va).mem = s.mem := by rfl

@[simp] theorem State.bvhIdle_canonical {s : State} (l : Nat) (hm : s.Canonical) : (s.bvhIdle l).Canonical := by
  simp [State.bvhIdle, hm]

@[simp] theorem State.bvhBuild_canonical {s : State} (e : Entry) (hm : s.Canonical) : (s.bvhBuild e).Canonical := by
  unfold State.bvhBuild
  dsimp only
  split
  · exact State.taskStop_canonical _ _ (fun _ ha => ha) hm
  · exact hm
  · split
    · exact State.taskStop_canonical _ _ (fun _ ha => ha) hm
    · simp [hm]
    · split
      · simp [hm]
      · split
        · exact State.taskStop_canonical _ _ (fun _ ha => ha) hm
        · rw [State.Canonical, State.complete_mem, State.unstall_mem]
          split <;> simp [hm]

theorem State.issueBvh_canonical {s : State} {begin_ : State → State} (e : Entry)
    (hbegin : ∀ a, a.Canonical → (begin_ a).Canonical) (hm : s.Canonical) : (s.issueBvh begin_ e).Canonical := by
  unfold State.issueBvh
  split
  · simp [hm]
  · exact State.taskStop_canonical _ _ (fun _ h => h) (hbegin s hm)
  · exact hm
  · simp [hbegin s hm]

@[simp] theorem execBvhBuildComplete_canonical {s : State} (hm : s.Canonical) : Out.Canonical (execBvhBuildComplete s) := by
  simp only [execBvhBuildComplete]
  repeat' split
  all_goals simp [hm]

/-! ## Collectives and the timed barrier (R369 to R386) -/

@[simp] theorem State.updColl_mem {s : State} (id : Nat) (f : Coll → Coll) : (s.updColl id f).mem = s.mem := by rfl
@[simp] theorem State.dropColl_mem {s : State} (id : Nat) : (s.dropColl id).mem = s.mem := by rfl
@[simp] theorem State.send_mem {s : State} (m : OutMsg) : (s.send m).mem = s.mem := by rfl

@[simp] theorem State.collBar_canonical {s : State} (c : Coll) (brk : Bool) (ents : List BarEntry) (hm : s.Canonical) :
    (s.collBar c brk ents).Canonical := by
  simp only [State.collBar]
  repeat' split
  all_goals simp [hm]

@[simp] theorem State.collDone_mem {s : State} (c : Coll) (fault : Option (Nat × Nat)) : (s.collDone c fault).mem = s.mem := by
  simp [State.collDone]

@[simp] theorem State.collFinish_canonical {s : State} (c : Coll) (st : Nat) (dst : List (Nat × Nat)) (hm : s.Canonical) :
    (s.collFinish c st dst).Canonical := by
  have hr := State.writeRecord_canonical c.ctx false c.result .system (s.collRecord c st) hm
  unfold State.collFinish
  split
  · next h1 => simpa [h1] using hr
  · next h1 =>
    rw [h1, RecWr.canonical_forbidden] at hr
    simp [hr]
  · next h1 =>
    rw [h1, RecWr.canonical_done] at hr
    simp [hr]

@[simp] theorem State.collStop_canonical {s : State} (c : Coll) (x : EngAt) (hm : s.Canonical) : (s.collStop c x).Canonical :=
  State.taskStop_canonical _ _ (fun a ha => by simp [ha]) hm

@[simp] theorem State.collData_canonical {s : State} (c0 : Coll) (st : Nat) (hm : s.Canonical) :
    (s.collData c0 st).Canonical := by
  simp only [State.collData]
  repeat' split
  all_goals simp [hm]

@[simp] theorem State.collTry_canonical {s : State} (id : Nat) (late : Bool) (hm : s.Canonical) :
    (s.collTry id late).Canonical := by
  simp only [State.collTry]
  repeat' split
  all_goals simp [hm]

@[simp] theorem State.collHear_canonical {s : State} (id : Nat) (set : DWord) (v : Verdict) (hm : s.Canonical) :
    (s.collHear id set v).Canonical := by
  simp only [State.collHear]
  split <;> simp [hm]

@[simp] theorem State.collClose_canonical {s : State} (c : Coll) (hm : s.Canonical) : (s.collClose c).Canonical := by
  simp [State.collClose, hm]

@[simp] theorem State.collFull_canonical {s : State} (id : Nat) (hm : s.Canonical) : (s.collFull id).Canonical := by
  simp only [State.collFull]
  split <;> simp [hm]

@[simp] theorem State.collArrive_canonical {s : State} (id : Nat) (fresh : Bool) (hm : s.Canonical) :
    (s.collArrive id fresh).Canonical := by
  simp only [State.collArrive]
  split <;> simp [hm]

@[simp] theorem State.collStart_mem {s : State} (e : Entry) : (s.collStart e).2.mem = s.mem := by rfl

@[simp] theorem State.collFailed_canonical {s : State} (e : Entry) (st : Nat) (hm : s.Canonical) :
    (s.collFailed e st).Canonical := by
  simp [State.collFailed, hm]

@[simp] theorem State.collIssue_canonical {s : State} (e : Entry) (hm : s.Canonical) : (s.collIssue e).Canonical := by
  simp only [State.collIssue]
  split <;> simp [hm]

@[simp] theorem State.collReport_canonical {s : State} (id egress : Nat) (locked subst : Bool) (hm : s.Canonical) :
    (s.collReport id egress locked subst).Canonical := by
  simp only [State.collReport]
  split <;> simp [hm]

@[simp] theorem State.tbarArrive_canonical {s : State} (e : Entry) (fresh : Bool) (hm : s.Canonical) :
    (s.tbarArrive e fresh).2.Canonical := by
  simp only [State.tbarArrive]
  repeat' split
  all_goals simp [hm]

@[simp] theorem State.tbarFrame_canonical {s : State} (f : Nat) (fresh : Bool) (hm : s.Canonical) :
    (s.tbarFrame f fresh).Canonical := by
  refine foldl_canonical (fun _ _ h => ?_) _ hm
  simp [h]

@[simp] theorem State.tbarDecoded_canonical {s : State} (e : Entry) (hm : s.Canonical) : (s.tbarDecoded e).1.Canonical := by
  simp only [State.tbarDecoded]
  repeat' split
  all_goals simp [hm]

@[simp] theorem State.tbarPorts_mem {s : State} (e : Entry) : (s.tbarPorts e).mem = s.mem := by
  simp only [State.tbarPorts]
  split <;> simp

@[simp] theorem State.tbarIssue_canonical {s : State} (e : Entry) (hm : s.Canonical) : (s.tbarIssue e).Canonical := by
  simp only [State.tbarIssue]
  repeat' split
  all_goals simp [hm]

@[simp] theorem State.frameLateRow_canonical {s : State} (f : Nat) (hm : s.Canonical) : (s.frameLateRow f).Canonical := by
  simp only [State.frameLateRow]
  split <;> simp [hm]

@[simp] theorem State.tbarEgress_canonical {s : State} (f egress : Nat) (hm : s.Canonical) :
    (s.tbarEgress f egress).Canonical := by
  refine foldl_canonical (fun _ _ h => ?_) _ hm
  simp [h]

@[simp] theorem State.holdArrival_mem {s : State} (g : Nat) (tag : Word) (rank : Nat) (digest : DWord) (fresh : Bool) :
    (s.holdArrival g tag rank digest fresh).mem = s.mem := by
  rfl

@[simp] theorem State.lateArrival_mem {s : State} (g : Nat) (tag : Word) (rank : Nat) (digest : DWord) (fresh : Bool) :
    (s.lateArrival g tag rank digest fresh).mem = s.mem := by
  simp only [State.lateArrival]
  split <;> simp

@[simp] theorem State.collArrival_canonical {s : State} (g : Nat) (tag : Word) (rank : Nat) (digest : DWord) (fresh : Bool)
    (hm : s.Canonical) : (s.collArrival g tag rank digest fresh).Canonical := by
  simp only [State.collArrival]
  repeat' split
  all_goals simp [hm]

@[simp] theorem State.collDue_canonical {s : State} (g : Nat) (tag : Word) (hm : s.Canonical) :
    (s.collDue g tag).Canonical := by
  simp only [State.collDue]
  split <;> simp [hm]

@[simp] theorem execCollectiveArrival_canonical {s : State} (hm : s.Canonical) : Out.Canonical (execCollectiveArrival s) := by
  simp only [execCollectiveArrival]
  split <;> simp [hm]

@[simp] theorem execCollectiveAnnouncement_canonical {s : State} (hm : s.Canonical) :
    Out.Canonical (execCollectiveAnnouncement s) := by
  simp only [execCollectiveAnnouncement]
  repeat' split
  all_goals simp [hm]

@[simp] theorem State.collLand_canonical {s : State} (c : Coll) (rank off : Nat) (bs : List Byte) (hm : s.Canonical) :
    (s.collLand c rank off bs).Canonical := by
  simp only [State.collLand]
  repeat' split
  all_goals simp [hm]

@[simp] theorem State.collRelay_mem {s : State} (g : Nat) (tag : Word) (dst rank off : Nat) (bs : List Byte) :
    (s.collRelay g tag dst rank off bs).mem = s.mem := by
  simp only [State.collRelay]
  split
  · exact getD_map_mem (fun c => by simp) rfl _
  · split
    · split <;> simp
    · exact getD_map_mem (fun c => by simp) (by simp) _

@[simp] theorem execCollectiveChunk_canonical {s : State} (hm : s.Canonical) : Out.Canonical (execCollectiveChunk s) := by
  simp only [execCollectiveChunk]
  repeat' split
  all_goals simp [hm]

@[simp] theorem execCollectiveDeadline_canonical {s : State} (hm : s.Canonical) : Out.Canonical (execCollectiveDeadline s) := by
  simp only [execCollectiveDeadline]
  split <;> simp [hm]

@[simp] theorem execCollNoroot_canonical {s : State} (hm : s.Canonical) : Out.Canonical (execCollNoroot s) := by
  simp only [execCollNoroot]
  repeat' split
  all_goals simp [hm]

@[simp] theorem execEgressReport_canonical {s : State} (hm : s.Canonical) : Out.Canonical (execEgressReport s) := by
  simp only [execEgressReport]
  repeat' split
  all_goals simp [hm]

@[simp] theorem execTbarReportTimeout_canonical {s : State} (hm : s.Canonical) : Out.Canonical (execTbarReportTimeout s) := by
  simp only [execTbarReportTimeout]
  repeat' split
  all_goals simp [hm]

@[simp] theorem State.collLost_canonical {s : State} (c : Coll) (up : Nat → Bool) (hm : s.Canonical) :
    (s.collLost c up).Canonical := by
  simp [State.collLost, hm]

@[simp] theorem State.collRoutes_canonical {s : State} (c : Coll) (hm : s.Canonical) : (s.collRoutes c).Canonical := by
  simp [State.collRoutes, hm]

@[simp] theorem State.routeDown_canonical {s : State} (g : Nat) (tag : Word) (rank : Nat) (hm : s.Canonical) :
    (s.routeDown g tag rank).Canonical := by
  simp only [State.routeDown]
  split <;> simp [hm]

@[simp] theorem execLinkStateChange_canonical {s : State} (hm : s.Canonical) : Out.Canonical (execLinkStateChange s) := by
  unfold execLinkStateChange
  split
  · split
    · simp [hm]
    · rw [Out.canonical_next]
      exact foldl_canonical (fun _ _ h => State.collRoutes_canonical _ h) _ (by simp [hm])
  · simp [hm]

end Sys2Proof.Machine
end

/-! # Proofs: memory stays canonical (R191): control, tasks and the raster pipeline -/
section

namespace Sys2Proof.Machine

/-! ## The pixels of pixel teams (R359 to R363) -/

@[simp] theorem State.resolve_mem {s : State} (j : PixelJob) (x y : Nat) (colour : Option (List Word)) :
    (s.resolve j x y colour).mem = s.mem := by
  rfl

@[simp] theorem State.dropLock_mem {s : State} (j : PixelJob) (x y : Nat) : (s.dropLock j x y).mem = s.mem := by rfl

@[simp] theorem State.unlockLane_mem {s : State} (c : Ctx) (t : Team) (w : Warp) (k : TaskCtx) (l : Nat) :
    (s.unlockLane c t w k l).mem = s.mem := by
  simp only [State.unlockLane]
  split <;> simp

@[simp] theorem State.resolveLane_mem {s : State} (c : Ctx) (t : Team) (w : Warp) (k : TaskCtx) (l : Nat)
    (colour : Option (List Word)) : (s.resolveLane c t w k l colour).mem = s.mem := by
  simp only [State.resolveLane]
  split <;> simp

@[simp] theorem State.exitPixel_mem {s : State} (c : Ctx) (t : Team) (w : Warp) (k : TaskCtx) (l : Nat) :
    (s.exitPixel c t w k l).mem = s.mem := by
  simp [State.exitPixel]

/-! ## Control transfer, exit, converge, yield and brk (R137 to R146) -/

@[simp] theorem State.goto_mem {s : State} (c : Ctx) (lanes : List Nat) (target : DWord) :
    (s.goto c lanes target).mem = s.mem := by
  rfl

@[simp] theorem execBra_canonical (o : BraOp) {a : State} (hm : a.Canonical) : Out.Canonical (execBra o a) :=
  kernelOp_canonical (fun _ _ _ _ h => by simp [h]) hm

@[simp] theorem execCall_canonical (o : BraOp) {a : State} (hm : a.Canonical) : Out.Canonical (execCall o a) := by
  refine kernelOp_canonical (fun c t w s h => ?_) hm
  dsimp only
  repeat' split
  all_goals simp [h]

@[simp] theorem execRet_canonical (o : GuardOp) {a : State} (hm : a.Canonical) : Out.Canonical (execRet o a) := by
  refine kernelOp_canonical (fun c t w s h => ?_) hm
  dsimp only
  repeat' split
  all_goals simp [h]

@[simp] theorem execJmp_canonical (o : JmpOp) {a : State} (hm : a.Canonical) : Out.Canonical (execJmp o a) := by
  refine kernelOp_canonical (fun c t w s h => ?_) hm
  dsimp only
  repeat' split
  all_goals simp [h]

@[simp] theorem execBrx_canonical (o : BrxOp) {a : State} (hm : a.Canonical) : Out.Canonical (execBrx o a) :=
  kernelOp_canonical (fun _ _ _ _ h => by simp [h]) hm

@[simp] theorem execLoop_canonical (o : LoopOp) {a : State} (hm : a.Canonical) : Out.Canonical (execLoop o a) :=
  kernelOp_canonical (fun _ _ _ _ h => by simp [h]) hm

@[simp] theorem State.convLeave_mem {s : State} (c : Ctx) (t : Team) (k : TaskCtx) (w : Warp) (l : Nat) :
    (s.convLeave c t k w l).mem = s.mem := by
  simp [State.convLeave]

@[simp] theorem State.convRelease_mem {s : State} (c : Ctx) (t : Team) (k : TaskCtx) (a : Nat) :
    (s.convRelease c t k a).mem = s.mem := by
  induction a generalizing s with
  | zero => rfl
  | succ n ih =>
    simp only [State.convRelease]
    repeat' split
    · rfl
    · rfl
    · simp [ih]

@[simp] theorem execConverge_canonical (o : SOp) {a : State} (hm : a.Canonical) : Out.Canonical (execConverge o a) := by
  refine kernelOp_canonical (fun c t w s h => ?_) hm
  dsimp only
  repeat' split
  all_goals simp [h]

@[simp] theorem State.endThreads_mem {s : State} (c : Ctx) (lanes : List Nat) : (s.endThreads c lanes).mem = s.mem := by rfl

@[simp] theorem State.afterExit_canonical {s : State} (c : Ctx) (t : Team) (k : TaskCtx) (hm : s.Canonical) :
    (s.afterExit c t k).Canonical := by
  simp only [State.afterExit]
  repeat' split
  all_goals simp [hm]

@[simp] theorem State.exitLanes_canonical {s : State} (c : Ctx) (t : Team) (w : Warp) (k : TaskCtx) (lanes : List Nat)
    (hm : s.Canonical) : (s.exitLanes c t w k lanes).Canonical := by
  simp [State.exitLanes, hm]

@[simp] theorem execExit_canonical (o : GuardOp) {a : State} (hm : a.Canonical) : Out.Canonical (execExit o a) :=
  kernelOp_canonical (fun _ _ _ _ h => by simp [h]) hm

@[simp] theorem execYield_canonical (o : SOp) {a : State} (hm : a.Canonical) : Out.Canonical (execYield o a) :=
  kernelOp_canonical (fun _ _ _ _ h => by simp [h]) hm

@[simp] theorem execBrk_canonical (o : SOp) {a : State} (hm : a.Canonical) : Out.Canonical (execBrk o a) :=
  kernelOp_canonical (fun _ _ _ _ h => by simp [h]) hm

@[simp] theorem execIllegalEncoding_canonical (d : Detail) {a : State} (hm : a.Canonical) :
    Out.Canonical (execIllegalEncoding d a) :=
  kernelOp_canonical (fun _ _ _ _ _ => by simp) hm

/-! ## Register and immediate (R64, R65, R111) -/

@[simp] theorem aluImm_canonical (i : Instr) (o : AiOp) (f : Word → Word → Word) {a : State} (hm : a.Canonical) :
    Out.Canonical (aluImm i o f a) :=
  kernelOp_canonical (fun _ _ _ _ h => by simp [h]) hm

@[simp] theorem aluImmF_canonical (i : Instr) (o : AiOp) (f : FpCtl → Word → Word → Word → Word × FpFlags) {a : State}
    (hm : a.Canonical) : Out.Canonical (aluImmF i o f a) :=
  kernelOp_canonical (fun _ _ _ _ h => by simp [h]) hm

/-- Class AI over the shared operations. -/
@[simp] theorem immediateOps_canonical (o : AiOp) {a : State} (hm : a.Canonical) :
    Out.Canonical (execIaddImm o a) ∧ Out.Canonical (execImulImm o a) ∧ Out.Canonical (execIminImm o a) ∧
    Out.Canonical (execImaxImm o a) ∧ Out.Canonical (execIminuImm o a) ∧ Out.Canonical (execImaxuImm o a) ∧
    Out.Canonical (execAndImm o a) ∧ Out.Canonical (execOrImm o a) ∧ Out.Canonical (execXorImm o a) ∧
    Out.Canonical (execShlImm o a) ∧ Out.Canonical (execShrImm o a) ∧ Out.Canonical (execSarImm o a) ∧
    Out.Canonical (execRotImm o a) ∧ Out.Canonical (execMovImm o a) ∧ Out.Canonical (execFaddImm o a) ∧
    Out.Canonical (execFmulImm o a) ∧ Out.Canonical (execFminImm o a) ∧ Out.Canonical (execFmaxImm o a) ∧
    Out.Canonical (execFfmaImm o a) := by
  simp [execIaddImm, execImulImm, execIminImm, execImaxImm, execIminuImm, execImaxuImm, execAndImm, execOrImm, execXorImm,
    execShlImm, execShrImm, execSarImm, execRotImm, execMovImm, execFaddImm, execFmulImm, execFminImm, execFmaxImm,
    execFfmaImm, hm]

@[simp] theorem execIcmpImm_canonical (o : CmpImm) {a : State} (hm : a.Canonical) : Out.Canonical (execIcmpImm o a) :=
  kernelOp_canonical (fun _ _ _ _ h => by simp [h]) hm

@[simp] theorem execFcmpImm_canonical (o : CmpImm) {a : State} (hm : a.Canonical) : Out.Canonical (execFcmpImm o a) :=
  kernelOp_canonical (fun _ _ _ _ h => by simp [h]) hm

@[simp] theorem execLeaImm_canonical (o : AiOp) {a : State} (hm : a.Canonical) : Out.Canonical (execLeaImm o a) :=
  kernelOp_canonical (fun _ _ _ _ h => by simp [h]) hm

/-! ## Task instructions at decode (R278 to R291) -/

@[simp] theorem execTNop_canonical (t : TaskRec) {s : State} (hm : s.Canonical) : Out.Canonical (execTNop t s) :=
  State.decode_canonical _ _ noRead_canonical doneAct_canonical hm

@[simp] theorem execTHalt_canonical (t : TaskRec) {s : State} (hm : s.Canonical) : Out.Canonical (execTHalt t s) :=
  State.decode_canonical _ _ noRead_canonical (fun _ _ h => h) hm

@[simp] theorem execTFence_canonical (t : TaskRec) {s : State} (hm : s.Canonical) : Out.Canonical (execTFence t s) :=
  State.decode_canonical _ _ noRead_canonical (fun _ _ h => h) hm

@[simp] theorem State.jmpTaken_canonical {s : State} (t : TaskRec) (n : Nat) (hm : s.Canonical) :
    (s.jmpTaken t n).Canonical := by
  simp only [State.jmpTaken]
  repeat' split
  all_goals simp [hm]

@[simp] theorem execTJmp_canonical (t : TaskRec) {s : State} (hm : s.Canonical) : Out.Canonical (execTJmp t s) := by
  refine State.decode_canonical _ _ noRead_canonical (fun a e h => ?_) hm
  dsimp only
  split
  · exact h
  · exact Dec.bind_canonical (by simp [h]) (fun _ _ hb => hb)

@[simp] theorem execTCall_canonical (t : TaskRec) {s : State} (hm : s.Canonical) : Out.Canonical (execTCall t s) := by
  refine State.decode_canonical _ _ noRead_canonical (fun a e h => ?_) hm
  split
  · exact h
  · exact h

@[simp] theorem execTRet_canonical (t : TaskRec) {s : State} (hm : s.Canonical) : Out.Canonical (execTRet t s) := by
  refine State.decode_canonical _ _ noRead_canonical (fun a e h => ?_) hm
  split
  · exact h
  · exact h

@[simp] theorem execTSlot_canonical (t : TaskRec) {s : State} (hm : s.Canonical) : Out.Canonical (execTSlot t s) :=
  State.decode_canonical _ _ noRead_canonical (fun _ _ h => h) hm

@[simp] theorem Dec.checked_canonical {x : Dec (List Byte)} (bad : List Byte → List (Nat × Bool)) (r : List Byte → TaskRead)
    (hx : x.Canonical) : (x.checked bad r).Canonical :=
  Dec.bind_canonical hx (fun _ _ h => Dec.bind_canonical (State.chkBlock_canonical _ h) (fun _ _ h1 => h1))

@[simp] theorem execTKern_canonical (t : TaskRec) {s : State} (hm : s.Canonical) : Out.Canonical (execTKern t s) :=
  State.decode_canonical _ _ (fun a r h => Dec.checked_canonical _ _ (by simp [h])) waitAct_canonical hm

@[simp] theorem execTDraw_canonical (t : TaskRec) {s : State} (hm : s.Canonical) : Out.Canonical (execTDraw t s) :=
  State.decode_canonical _ _ (fun a r h => Dec.checked_canonical _ _ (by simp [h])) waitAct_canonical hm

@[simp] theorem State.withDecls_canonical {s : State} (region pb : Nat) (r : TaskRead) (hm : s.Canonical) :
    (s.withDecls region pb r).Canonical := by
  unfold State.withDecls
  split
  · exact hm
  · simp [hm]

@[simp] theorem execTCopy_canonical (t : TaskRec) {s : State} (hm : s.Canonical) : Out.Canonical (execTCopy t s) :=
  State.decode_canonical _ _ (fun a r h => Dec.bind_canonical (by simp [h]) (fun b x hb => by simp [hb])) waitAct_canonical hm

@[simp] theorem execTFill_canonical (t : TaskRec) {s : State} (hm : s.Canonical) : Out.Canonical (execTFill t s) :=
  State.decode_canonical _ _ (fun a r h => Dec.bind_canonical (by simp [h]) (fun b x hb => by simp [hb])) waitAct_canonical hm

@[simp] theorem execTFeed_canonical (t : TaskRec) {s : State} (hm : s.Canonical) : Out.Canonical (execTFeed t s) :=
  State.decode_canonical _ _ noRead_canonical waitAct_canonical hm

@[simp] theorem execTSig_canonical (t : TaskRec) {s : State} (hm : s.Canonical) : Out.Canonical (execTSig t s) :=
  State.decode_canonical _ _ noRead_canonical waitAct_canonical hm

@[simp] theorem execTWait_canonical (t : TaskRec) {s : State} (hm : s.Canonical) : Out.Canonical (execTWait t s) :=
  State.decode_canonical _ _ noRead_canonical waitAct_canonical hm

@[simp] theorem collRead_canonical (timed : Bool) (t : TaskRec) {a : State} (r : Nat) (hm : a.Canonical) :
    (collRead timed t a r).Canonical :=
  Dec.checked_canonical _ _ (State.blockAt_canonical _ _ _ _ hm)

@[simp] theorem execTColl_canonical (t : TaskRec) {s : State} (hm : s.Canonical) : Out.Canonical (execTColl t s) :=
  State.decode_canonical _ _ (fun a r h => by simp [h]) waitAct_canonical hm

@[simp] theorem execTTbar_canonical (t : TaskRec) {s : State} (hm : s.Canonical) : Out.Canonical (execTTbar t s) :=
  State.decode_canonical _ _ (fun a r h => by simp [h]) (fun a e h => by simp [h]) hm

@[simp] theorem execTFrame_canonical (t : TaskRec) {s : State} (hm : s.Canonical) : Out.Canonical (execTFrame t s) :=
  State.decode_canonical _ _ (fun a r h => Dec.checked_canonical _ _ (by simp [h])) waitAct_canonical hm

@[simp] theorem execTPresent_canonical (t : TaskRec) {s : State} (hm : s.Canonical) : Out.Canonical (execTPresent t s) :=
  State.decode_canonical _ _ noRead_canonical waitAct_canonical hm

@[simp] theorem execTStream_canonical (t : TaskRec) {s : State} (hm : s.Canonical) : Out.Canonical (execTStream t s) := by
  refine State.decode_canonical _ _ (fun a r h => ?_) waitAct_canonical hm
  split
  · exact h
  · exact Dec.checked_canonical _ _ (by simp [h])

@[simp] theorem State.readPools_canonical {s : State} (region pa mask n c : Nat) (hm : s.Canonical) :
    (s.readPools region pa mask n c).Canonical := by
  induction n generalizing s c with
  | zero => exact hm
  | succ n ih =>
    unfold State.readPools
    split
    · exact Dec.bind_canonical (ih _ hm) (fun _ _ h => h)
    · exact Dec.bind_canonical (State.readVa_canonical _ _ _ _ hm) (fun _ _ h => Dec.bind_canonical (ih _ h) (fun _ _ h => h))

@[simp] theorem execTPool_canonical (t : TaskRec) {s : State} (hm : s.Canonical) : Out.Canonical (execTPool t s) := by
  unfold execTPool
  refine State.decode_canonical _ _ noRead_canonical (fun a e h => ?_) hm
  refine Dec.bind_canonical (by simp [h]) (fun b es hb => ?_)
  refine Dec.bind_canonical (by simp [hb]) (fun b1 _ h1 => ?_)
  split
  · exact h1
  · exact h1

@[simp] theorem execTBuf_canonical (t : TaskRec) {s : State} (hm : s.Canonical) : Out.Canonical (execTBuf t s) :=
  State.decode_canonical _ _ noRead_canonical (fun _ _ h => h) hm

@[simp] theorem execTRelease_canonical (t : TaskRec) {s : State} (hm : s.Canonical) : Out.Canonical (execTRelease t s) :=
  State.decode_canonical _ _ noRead_canonical (fun _ _ h => h) hm

@[simp] theorem execTBvh_canonical (t : TaskRec) {s : State} (hm : s.Canonical) : Out.Canonical (execTBvh t s) := by
  refine State.decode_canonical _ _ (fun a r h => ?_) waitAct_canonical hm
  split
  · exact h
  · exact Dec.checked_canonical _ _ (by simp [h])

@[simp] theorem execReservedTaskOpcode_canonical (t : TaskRec) {s : State} (hm : s.Canonical) :
    Out.Canonical (execReservedTaskOpcode t s) := by
  unfold execReservedTaskOpcode
  split
  · simp [hm]
  · cases h : s.unreadRecord (s.nextEntry t) with
    | none => simp [hm]
    | some s1 => simpa using State.unreadRecord_canonical _ hm _ h

/-! ## t.map (R396, R397) -/

@[simp] theorem execTMap_canonical (t : TaskRec) {s : State} (hm : s.Canonical) : Out.Canonical (execTMap t s) := by
  refine State.decode_canonical _ _ (fun a r h => ?_) waitAct_canonical hm
  split
  · exact h
  · refine Dec.bind_canonical (by simp [h]) (fun a1 bs h1 => ?_)
    dsimp only
    split
    · simp [h1]
    · exact Dec.bind_canonical (by simp [h1]) (fun _ _ hb => hb)

@[simp] theorem State.mapIssue_canonical {s : State} (e : Entry) (hm : s.Canonical) : (s.mapIssue e).Canonical := by
  simp only [State.mapIssue]
  repeat' split
  all_goals simp [hm]

/-! ## Texturing (R364 to R367) -/

@[simp] theorem withTexDesc_canonical {s : State} {k : TaskCtx} {w : Warp} {lanes : List Nat} {b : BitVec 6}
    {f : (Nat → TexDesc) → KOut} (hf : ∀ d, (f d).Canonical) : (withTexDesc s k w lanes b f).Canonical := by
  unfold withTexDesc
  split
  · simp
  · simp
  · next x _ _ hx => exact State.recAt_canonical hx
  · split
    · simp
    · exact hf _

@[simp] theorem execTex_canonical (o : SOp) {a : State} (hm : a.Canonical) : Out.Canonical (execTex o a) :=
  kernelOp_canonical (fun _ _ _ _ h => by simp [h]) hm

@[simp] theorem execTexld_canonical (o : TexLd) {a : State} (hm : a.Canonical) : Out.Canonical (execTexld o a) := by
  refine kernelOp_canonical (fun c t w s h => ?_) hm
  split <;> simp [h]

@[simp] theorem execTexq_canonical (o : SOp) {a : State} (hm : a.Canonical) : Out.Canonical (execTexq o a) :=
  kernelOp_canonical (fun _ _ _ _ h => by simp [h]) hm

@[simp] theorem execTexfb_canonical (o : SOp) {a : State} (hm : a.Canonical) : Out.Canonical (execTexfb o a) := by
  refine kernelOp_canonical (fun c t w s h => withTexDesc_canonical fun desc => Chk.bind_canonical fun ls => ?_) hm
  exact KOut.canonical_ite _ (by simp [h]) (by simp [h])

/-! ## The raster pipeline (R355 to R368) -/

@[simp] theorem rasterFault_canonical (d lane : Nat) : (rasterFault d lane).Canonical := by simp [rasterFault]

@[simp] theorem execEmitv_canonical (o : SOp) {a : State} (hm : a.Canonical) : Out.Canonical (execEmitv o a) :=
  kernelOp_canonical (fun _ _ _ _ h => by simp [h]) hm

@[simp] theorem execEmitp_canonical (o : SOp) {a : State} (hm : a.Canonical) : Out.Canonical (execEmitp o a) := by
  refine kernelOp_canonical (fun c t w s h => ?_) hm
  dsimp only
  repeat' split
  all_goals simp [h]

@[simp] theorem State.newPixelTeam_canonical {s : State} (p : Pass) (g : Grid) (j : PixelJob) (core : Nat) (ps : List WPlace)
    (hm : s.Canonical) : (s.newPixelTeam p g j core ps).Canonical := by
  simp [State.newPixelTeam, hm]

theorem State.placePixels_canonical {s : State} (p : Pass) (hm : s.Canonical) :
    ∀ s1, s.placePixels p = some s1 → s1.Canonical := by
  intro s1 h1
  unfold State.placePixels at h1
  split at h1
  · cases h1
  · split at h1
    · cases h1
    · obtain ⟨j, _, hj⟩ := List.exists_of_findSome?_eq_some h1
      obtain ⟨c, _, rfl⟩ := Option.map_eq_some_iff.mp hj
      simp [hm]

@[simp] theorem execBinnedRasterisation_canonical {s : State} (hm : s.Canonical) :
    Out.Canonical (execBinnedRasterisation s) := by
  simp only [execBinnedRasterisation]
  repeat' split
  all_goals simp [hm]

@[simp] theorem State.markApplied_canonical {s : State} (p : Pass) (r : PixRes) (ws : List (Nat × Byte)) (hm : s.Canonical) :
    (s.markApplied p r ws).Canonical := by
  simp [State.markApplied, hm]

@[simp] theorem State.backEndBad_canonical {s : State} (p : Pass) (r : PixRes) (cause fault : Nat) (hm : s.Canonical) :
    (s.backEndBad p r cause fault).Canonical := by
  simp [State.backEndBad, hm]

@[simp] theorem State.applyPixel_canonical {s : State} (p : Pass) (r : PixRes) (hm : s.Canonical) :
    (s.applyPixel p r).Canonical := by
  simp only [State.applyPixel]
  repeat' split
  all_goals simp [hm]

@[simp] theorem State.applyAt_canonical {s : State} (pid x y a : Nat) (hm : s.Canonical) : (s.applyAt pid x y a).Canonical := by
  induction a generalizing s with
  | zero => exact hm
  | succ n ih =>
    unfold State.applyAt
    split
    · exact hm
    · next p _ =>
      split
      · exact hm
      · next r _ =>
        have hr := State.applyPixel_canonical p r hm
        split
        · exact hm
        · split
          · next h1 => simpa [h1] using hr
          · next h1 => exact ih (by simpa [h1] using hr)

@[simp] theorem execPixelResolution_canonical {s : State} (hm : s.Canonical) : Out.Canonical (execPixelResolution s) := by
  simp only [execPixelResolution]
  split <;> simp [hm]

@[simp] theorem execPixout_canonical (o : SOp) {a : State} (hm : a.Canonical) : Out.Canonical (execPixout o a) := by
  refine kernelOp_canonical (fun c t w s h => ?_) hm
  dsimp only
  repeat' split
  all_goals simp [h]

@[simp] theorem execDiscard_canonical (o : SOp) {a : State} (hm : a.Canonical) : Out.Canonical (execDiscard o a) :=
  kernelOp_canonical (fun _ _ _ _ h => by simp [h]) hm

theorem State.grant_canonical {s : State} (t : Team) (wi : Nat) (w : Warp) (l : Nat) (hm : s.Canonical) :
    ∀ s1, s.grant t wi w l = some s1 → s1.Canonical := by
  simp only [State.grant]
  repeat' split
  all_goals simp [hm]

@[simp] theorem execPixlock_canonical (o : SOp) {a : State} (hm : a.Canonical) : Out.Canonical (execPixlock o a) := by
  refine kernelOp_canonical (fun c t w s h => KOut.canonical_ite _ (by simp) ?_) hm
  split
  · simp
  · rw [KOut.canonical_ok]
    refine foldl_canonical (fun a l ha => ?_) _ h
    split
    · exact ha
    · split
      · next hg => exact State.grant_canonical _ _ _ _ ha _ hg
      · simp [ha]
      · exact ha

@[simp] theorem execPixlockGrant_canonical {s : State} (hm : s.Canonical) : Out.Canonical (execPixlockGrant s) := by
  unfold execPixlockGrant
  split
  · next ti wi l _ =>
    split
    · next t w _ _ =>
      split
      · split
        · simp [hm]
        · split
          · next h1 =>
            have hg := State.grant_canonical t wi w l hm _ h1
            simp [hg]
          · simp [hm]
      · simp [hm]
    · simp [hm]
  · simp [hm]

@[simp] theorem execPixunlock_canonical (o : SOp) {a : State} (hm : a.Canonical) : Out.Canonical (execPixunlock o a) := by
  refine kernelOp_canonical (fun c t w s h => KOut.canonical_ite _ (by simp) ?_) hm
  split
  · simp
  · rw [KOut.canonical_ok]
    exact foldl_canonical (fun a l ha => by simp [ha]) _ h

@[simp] theorem execPassComplete_canonical {s : State} (hm : s.Canonical) : Out.Canonical (execPassComplete s) := by
  simp only [execPassComplete]
  repeat' split
  all_goals simp [hm]

/-! ## Tasks that issue and complete (R297 to R302) -/

@[simp] theorem State.boundIssue_canonical {s : State} (n : Nat) (hm : s.Canonical) : (s.boundIssue n).Canonical := by
  simp only [State.boundIssue]
  repeat' split
  all_goals simp [hm]

@[simp] theorem State.beginTask_canonical {s : State} (e : Entry) (hm : s.Canonical) : (s.beginTask e).Canonical := by
  simp only [State.beginTask]
  split <;> simp [hm]

@[simp] theorem State.taskDesc_canonical {s : State} (k : TaskCtx) (va : Nat) (hm : s.Canonical) :
    (s.taskDesc k va).Canonical := by
  unfold State.taskDesc
  dsimp only
  repeat' split
  all_goals simp [TaskDesc.Canonical, hm]

@[simp] theorem State.badLaunch_mem {s : State} (e : Entry) : (s.badLaunch e).mem = s.mem := by rfl
@[simp] theorem State.addGrid_mem {s : State} (g : Grid) : (s.addGrid g).mem = s.mem := by rfl

@[simp] theorem State.issueKern_canonical {s : State} (e : Entry) (hm : s.Canonical) : (s.issueKern e).Canonical := by
  have hd := State.taskDesc_canonical e.ctx (fieldOf e.block 0 8) hm
  unfold State.issueKern
  split
  · next h1 => rw [h1] at hd; exact hd
  · next h1 => rw [h1] at hd; simp [TaskDesc.Canonical] at hd; simp [hd]
  · dsimp only
    split
    · simp [hm]
    · simp [hm]

@[simp] theorem State.issueDraw_canonical {s : State} (e : Entry) (hm : s.Canonical) : (s.issueDraw e).Canonical := by
  have hd := State.taskDesc_canonical e.ctx (fieldOf e.block 0 8) hm
  have hp := State.taskDesc_canonical e.ctx (fieldOf e.block 8 8) hm
  unfold State.issueDraw
  split
  · next h1 => rw [h1] at hd; exact hd
  · next h1 => rw [h1] at hd; simp [TaskDesc.Canonical] at hd; simp [hd]
  · next h1 _ _ => rw [h1] at hp; exact hp
  · next h1 _ _ => rw [h1] at hp; simp [TaskDesc.Canonical] at hp; simp [hp]
  · dsimp only
    split
    · simp [hm]
    · simp [hm]

@[simp] theorem State.issueSig_canonical {s : State} (e : Entry) (hm : s.Canonical) : (s.issueSig e).Canonical := by
  simp only [State.issueSig]
  split <;> simp [hm]

@[simp] theorem State.issueFrame_canonical {s : State} (e : Entry) (hm : s.Canonical) : (s.issueFrame e).Canonical := by
  unfold State.issueFrame
  dsimp only
  split
  · simp [hm]
  · simp only [State.Canonical, State.complete_mem]
    split
    · refine State.frameLateRow_canonical _ ?_
      simp [hm]
    · simp [hm]

@[simp] theorem State.issuePresent_canonical {s : State} (e : Entry) (hm : s.Canonical) : (s.issuePresent e).Canonical := by
  have hb := State.beginTask_canonical e hm
  unfold State.issuePresent
  dsimp only
  generalize s.beginTask e = a at hb ⊢
  have hl : (if a.frameDl (e.ctx.frame.getD 0) < a.ptime then a.frameLateRow (e.ctx.frame.getD 0) else a).Canonical := by
    split
    · simp [hb]
    · exact hb
  generalize (if a.frameDl (e.ctx.frame.getD 0) < a.ptime then a.frameLateRow (e.ctx.frame.getD 0) else a) = b at hl ⊢
  simp only [State.Canonical, State.complete_mem]
  split
  · simp [hl]
  · exact hl

@[simp] theorem State.igmp_mem {s : State} (m : OutMsg) : (s.igmp m).mem = s.mem := by simp [State.igmp]

@[simp] theorem State.removeStream_canonical {s : State} (id : Nat) (hm : s.Canonical) : (s.removeStream id).Canonical := by
  unfold State.removeStream
  split
  · exact hm
  · dsimp only [State.Canonical, -List.reduceReplicate]
    refine State.streamWr_canonical _ _ _ ?_
    split
    · rw [State.Canonical, State.igmp_mem]
      exact foldl_canonical (fun _ _ h => by simp [h]) _ hm
    · exact hm

@[simp] theorem State.joinTask_mem {s : State} (e : Entry) : (s.joinTask e).mem = s.mem := by simp [State.joinTask]

@[simp] theorem State.issueStream_canonical {s : State} (e : Entry) (hm : s.Canonical) : (s.issueStream e).Canonical := by
  unfold State.issueStream
  dsimp only
  split
  · simp [hm]
  · split
    · simp [hm]
    · split
      · simp [hm]
      · split
        · simp [hm]
        · split
          · simp only [State.Canonical, State.joinTask_mem]
            refine foldl_canonical (fun _ _ h => by simp [h]) _ ?_
            exact State.streamWr_canonical _ _ _ (by simp [hm])
          · simp only [State.Canonical, State.complete_mem]
            exact State.streamWr_canonical _ _ _ (by simp [hm])

@[simp] theorem State.issueTask_canonical {s : State} (e : Entry) (hm : s.Canonical) : (s.issueTask e).Canonical := by
  unfold State.issueTask
  split
  case h_8 => exact State.issueBvh_canonical _ (fun _ ha => by simp [ha]) hm
  all_goals simp [hm]

@[simp] theorem State.issueFirst_canonical {s : State} (a : List Entry) (hm : s.Canonical) : (s.issueFirst a).Canonical := by
  induction a generalizing s with
  | nil => exact hm
  | cons e rest ih =>
    simp only [State.issueFirst]
    split
    · exact ih (by simp [hm])
    · simp [hm]

@[simp] theorem execTaskIssue_canonical {s : State} (hm : s.Canonical) : Out.Canonical (execTaskIssue s) := by
  simp [execTaskIssue, hm]

@[simp] theorem TaskBurst.run_canonical (k : TaskCtx) (elem : State → Nat → Except EngAt (Nat × List Byte × FpFlags))
    (total m : Nat) (b : TaskBurst) (hm : b.Canonical) : (TaskBurst.run k elem total m b).Canonical := by
  induction m generalizing b with
  | zero => exact hm
  | succ m ih =>
    simp only [TaskBurst.run]
    repeat' split
    · exact hm
    · exact hm
    · exact hm
    · exact ih _ (by simp [hm])

@[simp] theorem State.logTask_canonical {s : State} (k : TaskCtx) (f : FpFlags) (hm : s.Canonical) :
    (s.logTask k f).Canonical := by
  simp [State.logTask, hm]

@[simp] theorem State.moveBurst_canonical {s : State} (e : Entry)
    (elem : State → Nat → Except EngAt (Nat × List Byte × FpFlags)) (total per : Nat) (hm : s.Canonical) :
    (s.moveBurst e elem total per).Canonical := by
  unfold State.moveBurst
  have hb := TaskBurst.run_canonical e.ctx elem total (4096 / per) { s := s, n := e.pushed, op := s.nextSer, flags := e.flags } hm
  dsimp only
  split
  · exact State.taskStop_canonical _ _ (fun _ ha => by simp [ha]) (by simpa using hb)
  · split
    · rw [State.Canonical, State.complete_mem]
      exact State.logTask_canonical _ _ (by simpa using hb)
    · simpa using hb

@[simp] theorem State.feedPush_canonical {s : State} (e : Entry) (hdr a a1 : Nat) (hm : s.Canonical) :
    (s.feedPush e hdr a a1).Canonical := by
  induction a generalizing s a1 with
  | zero => simpa [State.feedPush] using hm
  | succ m ih =>
    unfold State.feedPush
    dsimp only
    split
    · simp [hm]
    · simp [hm]
    · simp [hm]
    · split
      · exact State.taskStop_canonical _ _ (fun _ h => h) (by simp [hm])
      · exact State.taskStop_canonical _ _ (fun _ h => h) (by simp [hm])
      · exact ih _ (by simp [hm])

@[simp] theorem State.feedTask_canonical {s : State} (e : Entry) (hm : s.Canonical) : (s.feedTask e).Canonical := by
  unfold State.feedTask
  dsimp only
  split
  · simp [hm]
  · split
    · simp [hm]
    · split
      · simp [hm]
      · split
        · simp [hm]
        · split
          · simp [hm]
          · next hdr _ _ _ _ =>
            have h1 (n : Nat) := State.feedPush_canonical e (locChip hdr) n e.pushed hm
            repeat' split
            · exact h1 _
            · exact h1 _
            · simp [h1]
            · simp [h1]
            · simp [h1]
            · simp [h1]

@[simp] theorem State.workTask_mem {s : State} (e : Entry) : (s.workTask e).mem = s.mem := by
  simp only [State.workTask]
  split <;> simp

@[simp] theorem State.fenceTask_mem {s : State} (e : Entry) : (s.fenceTask e).mem = s.mem := by simp [State.fenceTask]

@[simp] theorem State.taskWork_canonical {s : State} (e : Entry) (hm : s.Canonical) : (s.taskWork e).Canonical := by
  simp only [State.taskWork]
  repeat' split
  all_goals simp [hm]

@[simp] theorem execTaskCompletion_canonical {s : State} (hm : s.Canonical) : Out.Canonical (execTaskCompletion s) := by
  simp only [execTaskCompletion]
  repeat' split
  all_goals simp [hm]

@[simp] theorem execTWaitPoll_canonical {s : State} (hm : s.Canonical) : Out.Canonical (execTWaitPoll s) := by
  simp only [execTWaitPoll]
  repeat' split
  all_goals simp [hm]

@[simp] theorem execWaitTimeout_canonical {s : State} (hm : s.Canonical) : Out.Canonical (execWaitTimeout s) := by
  simp only [execWaitTimeout]
  repeat' split
  all_goals simp [hm]

/-! ## Device launches and agents (R315, R325 to R328) -/

theorem State.kdescAt_canonical {s : State} {k : TaskCtx} {w : Warp} {lane va : Nat} {o : KOut}
    (ho : s.kdescAt k w lane va = .stop o) : o.Canonical := by
  unfold State.kdescAt at ho
  split at ho
  · cases ho
  · next hx => cases ho; exact State.recAt_canonical hx
  · cases ho

@[simp] theorem State.enterLaunch_mem {s : State} (c : Ctx) (d : BitVec 6) (lanes : List Nat) (r : LaunchRec) :
    (s.enterLaunch c d lanes r).mem = s.mem := by
  simp only [State.enterLaunch]
  split <;> simp

@[simp] theorem State.enterWoken_mem {s : State} (c : Ctx) (w : Warp) (d : BitVec 6) (lanes : List Nat) :
    (s.enterWoken c w d lanes).mem = s.mem := by
  simp [State.enterWoken]

@[simp] theorem execLaunch_canonical (o : SOp) {a : State} (hm : a.Canonical) : Out.Canonical (execLaunch o a) := by
  refine kernelOp_canonical (fun c t w s h => ?_) hm
  refine KOut.canonical_ite _ (by simp [h]) ?_
  split
  · next hx => exact State.recAt_canonical hx
  · dsimp only
    split
    · next hx => exact State.kdescAt_canonical hx
    · split <;> simp [h]

@[simp] theorem execCont_canonical (o : SOp) {a : State} (hm : a.Canonical) : Out.Canonical (execCont o a) := by
  refine kernelOp_canonical (fun c t w s h => ?_) hm
  dsimp only
  split
  · next hx => exact State.recAt_canonical hx
  · split
    · next hx => exact State.kdescAt_canonical hx
    · split
      · simp
      · simp [h]

@[simp] theorem agentHalt_canonical (detail : Nat) : (agentHalt detail).Canonical := by simp [agentHalt]

@[simp] theorem execAgClaim_canonical (o : SOp) {a : State} (hm : a.Canonical) : Out.Canonical (execAgClaim o a) :=
  kernelOp_canonical (fun _ _ _ _ h => by simp [h]) hm

@[simp] theorem execAgInst_canonical (o : SOp) {a : State} (hm : a.Canonical) : Out.Canonical (execAgInst o a) := by
  refine kernelOp_canonical (fun c t w s h => ?_) hm
  dsimp only
  repeat' split
  all_goals simp [h]

@[simp] theorem execAgEnd_canonical (o : SOp) {a : State} (hm : a.Canonical) : Out.Canonical (execAgEnd o a) := by
  refine kernelOp_canonical (fun c t w s h => ?_) hm
  split <;> simp [h]

@[simp] theorem State.saveBytes_canonical {s : State} (a a1 : Nat) (hm : s.Canonical) : (s.saveBytes a a1).Canonical := by
  induction a generalizing s a1 with
  | zero => exact hm
  | succ n ih => exact ih _ (by simp [hm])

@[simp] theorem execAgSave_canonical (o : SOp) {a : State} (hm : a.Canonical) : Out.Canonical (execAgSave o a) := by
  refine kernelOp_canonical (fun c t w s h => ?_) hm
  dsimp only
  repeat' split
  all_goals simp [h]

end Sys2Proof.Machine
end

/-! # Proofs: memory stays canonical (R191): media, placement, rays and rounds -/
section

namespace Sys2Proof.Machine

/-! ## Streams, frames, reception and the presentation clock (R253 to R271) -/

@[simp] theorem State.setSq_mem {s : State} (c : Ctx) (i : Nat) (b : Option SqBind) : (s.setSq c i b).mem = s.mem := by rfl

@[simp] theorem execSqbind_canonical (o : SOp) {a : State} (hm : a.Canonical) : Out.Canonical (execSqbind o a) := by
  refine kernelOp_canonical (fun c t w s h => ?_) hm
  dsimp only
  repeat' split
  all_goals simp [h]

@[simp] theorem execSqrel_canonical (o : SOp) {a : State} (hm : a.Canonical) : Out.Canonical (execSqrel o a) :=
  kernelOp_canonical (fun _ _ _ _ h => by simp [h]) hm

@[simp] theorem withSq_canonical {w : Warp} {i : Nat} {rx : Bool} {f : SqBind → KOut} (hf : ∀ b, (f b).Canonical) :
    (withSq w i rx f).Canonical := by
  unfold withSq
  split <;> simp [hf]

@[simp] theorem execSqrd_canonical (o : SOp) {a : State} (hm : a.Canonical) : Out.Canonical (execSqrd o a) := by
  refine kernelOp_canonical (fun c t w s h => withSq_canonical fun b => Chk.bind_canonical fun ls => ?_) hm
  rw [KOut.canonical_ok]
  refine foldl_canonical (fun a l ha => ?_) _ ?_
  · split <;> simp [ha]
  · dsimp only
    split
    · exact foldl_canonical (fun a l ha => by split <;> simp [ha]) _ h
    · rw [State.Canonical, State.commit_mem]
      exact foldl_canonical (fun a l ha => by split <;> simp [ha]) _ h

@[simp] theorem execSqwr_canonical (o : SOp) {a : State} (hm : a.Canonical) : Out.Canonical (execSqwr o a) := by
  refine kernelOp_canonical (fun c t w s h => withSq_canonical fun b => KOut.canonical_ite _ (by simp) ?_) hm
  refine Chk.bind_canonical fun ls => ?_
  rw [KOut.canonical_ok]
  refine foldl_canonical (fun a l ha => ?_) _ h
  dsimp only
  repeat' split
  all_goals simp [ha]

@[simp] theorem execFrameDeadline_canonical {s : State} (hm : s.Canonical) : Out.Canonical (execFrameDeadline s) := by
  simp only [execFrameDeadline]
  split <;> simp [hm]

@[simp] theorem State.framePresent_canonical {s : State} (f : Nat) (hm : s.Canonical) : (s.framePresent f).Canonical := by
  unfold State.framePresent
  dsimp only
  split
  · simp [hm]
  · split
    · simp [hm]
    · simp only [State.Canonical, State.updStream_mem]
      exact State.streamWr_canonical _ _ _ (by simp [hm])

@[simp] theorem execFramePtime_canonical {s : State} (hm : s.Canonical) : Out.Canonical (execFramePtime s) := by
  simp only [execFramePtime]
  repeat' split
  all_goals simp [hm]

@[simp] theorem State.sendByte_canonical {s : State} (region va : Nat) (hm : s.Canonical) :
    (s.sendByte region va).2.2.Canonical := by
  unfold State.sendByte
  split
  · split <;> simp [hm]
  · next e lvl x _ =>
    cases hd : s.demand region { va := va, entry := e, lvl := lvl, e := x, kind := 2 } with
    | none => simp [hm]
    | some s1 => simpa [hd] using State.demand_canonical hm hd
  · exact hm
  · simp [hm]

@[simp] theorem State.sendBytes_canonical {s : State} (region va n : Nat) (hm : s.Canonical) :
    (s.sendBytes region va n).2.2.Canonical := by
  induction n generalizing s va with
  | zero => exact hm
  | succ n ih => exact ih (va + 1) (by simp [hm])

@[simp] theorem State.sendRtp_mem {s : State} (i f line off : Nat) (ts : Word) (bs : List Byte) :
    (s.sendRtp i f line off ts bs).mem = s.mem := by
  simp [State.sendRtp]

@[simp] theorem execPacketEgress_canonical {s : State} (hm : s.Canonical) : Out.Canonical (execPacketEgress s) := by
  unfold execPacketEgress
  split
  · next f line off n _ =>
    split
    · simp [hm]
    · next tx _ =>
      dsimp only
      split
      · simp [hm]
      · rw [Out.canonical_next]
        cases tx.image with
        | none =>
          split
          · simp [hm]
          · exact State.tbarEgress_canonical _ _ (State.frameWr_canonical _ _ (by simp [hm]))
        | some a =>
          dsimp only
          have hb := State.sendBytes_canonical tx.region (a + line * (s.pixFmt tx.stream).pitch + off) n hm
          split
          · simp [hb]
          · exact State.tbarEgress_canonical _ _ (State.frameWr_canonical _ _ (by simp [hb]))
  · simp [hm]

@[simp] theorem execTransmissionEnd_canonical {s : State} (hm : s.Canonical) : Out.Canonical (execTransmissionEnd s) := by
  simp only [execTransmissionEnd]
  repeat' split
  all_goals simp [hm]

@[simp] theorem State.bandUpd_canonical {s : State} (m : MediaStream) (l : Nat) (u : BarUpd) (ents : List BarEntry)
    (hm : s.Canonical) : (s.bandUpd m l u ents).Canonical := by
  simp only [State.bandUpd]
  repeat' split
  all_goals simp [hm]

@[simp] theorem State.bandCount_canonical {s : State} (m : MediaStream) (r : RxBand) (n : Nat) (arrive : Bool)
    (ents : List BarEntry) (hm : s.Canonical) : (s.bandCount m r n arrive ents).Canonical := by
  simp only [State.bandCount]
  repeat' split
  all_goals simp [hm]

@[simp] theorem State.bandNext_canonical {s : State} (i b a : Nat) (hm : s.Canonical) : (s.bandNext i b a).Canonical := by
  induction a generalizing s with
  | zero => exact hm
  | succ n ih =>
    simp only [State.bandNext]
    repeat' split
    · exact hm
    · exact hm
    · exact ih (by simp [hm])
    · exact hm
    · exact ih (by simp [hm])

@[simp] theorem State.rxFirst_canonical {s : State} (i f : Nat) (hm : s.Canonical) : (s.rxFirst i f).Canonical := by
  simp only [State.rxFirst]
  repeat' split
  all_goals simp [hm]

@[simp] theorem State.rxStop_canonical {s : State} (m : MediaStream) (b : Nat) (x : EngAt) (hm : s.Canonical) :
    (s.rxStop m b x).Canonical := by
  simp only [State.rxStop]
  split <;> simp [hm]

@[simp] theorem State.rxVideo_canonical {s : State} (m : MediaStream) (p : RtpPacket) (hm : s.Canonical) :
    (s.rxVideo m p).Canonical := by
  unfold State.rxVideo
  dsimp only
  split
  · exact hm
  · split
    · exact hm
    · split
      · simp [hm]
      · refine State.bandNext_canonical _ _ _ ?_
        split
        · exact State.bandCount_canonical _ _ _ _ _ (by simp [hm])
        · simp [hm]

@[simp] theorem State.rxSlot_canonical {s : State} (m : MediaStream) (p : RtpPacket) (hm : s.Canonical) :
    (s.rxSlot m p).Canonical := by
  unfold State.rxSlot
  dsimp only
  repeat' split
  · exact hm
  · simp [hm]
  · exact State.bandCount_canonical _ _ _ _ _ (State.bandUpd_canonical _ _ _ _ (State.streamWr_canonical _ _ _ (by simp [hm])))

@[simp] theorem execRtpPacketReceive_canonical {s : State} (hm : s.Canonical) : Out.Canonical (execRtpPacketReceive s) := by
  simp only [execRtpPacketReceive]
  repeat' split
  all_goals simp [hm]

@[simp] theorem execReceiveDeadline_canonical {s : State} (hm : s.Canonical) : Out.Canonical (execReceiveDeadline s) := by
  have hb : ∀ (i b : Nat) (m : MediaStream) (r : RxBand) (n : Nat) (arrive : Bool), ((if r.counted then s else
      s.bandUpd m (s.bandObj i b) (.expect (s.bandBytes i)) []).bandCount m r n arrive []).Canonical :=
    fun i b m r n arrive => State.bandCount_canonical _ _ _ _ _ (by simp [hm])
  unfold execReceiveDeadline
  dsimp only
  split
  · split
    · simp [hm]
    · split
      · simp [hm]
      · split
        · simp [hm]
        · rw [Out.canonical_next]
          refine State.bandNext_canonical _ _ _ ?_
          simp only [State.Canonical, State.updStream_mem]
          split
          · exact State.streamWr_canonical _ _ _ (State.streamWr_canonical _ _ _ (hb _ _ _ _ _ _))
          · exact State.streamWr_canonical _ _ _ (hb _ _ _ _ _ _)
  · simp [hm]

@[simp] theorem State.servoTo_mem {s : State} (st : ServoSt) : (s.servoTo st).mem = s.mem := by simp [State.servoTo]
@[simp] theorem State.setServo_mem {s : State} (f : Servo → Servo) : (s.setServo f).mem = s.mem := by rfl
@[simp] theorem State.stepClock_mem {s : State} (off : ℤ) : (s.stepClock off).mem = s.mem := by rfl
@[simp] theorem State.correct_mem {s : State} : s.correct.mem = s.mem := by rfl

@[simp] theorem State.servoJudge_mem {s : State} (off : ℤ) : (s.servoJudge off).mem = s.mem := by
  simp only [State.servoJudge]
  split <;> simp

@[simp] theorem State.servoAct_mem {s : State} (off : ℤ) : (s.servoAct off).mem = s.mem := by simp [State.servoAct]

@[simp] theorem State.servoArrive_mem {s : State} : s.servoArrive.mem = s.mem := by
  simp only [State.servoArrive]
  split <;> simp

@[simp] theorem execSync_canonical {s : State} (hm : s.Canonical) : Out.Canonical (execSync s) := by
  simp only [execSync]
  split <;> simp [hm]

@[simp] theorem execFollowUp_canonical {s : State} (hm : s.Canonical) : Out.Canonical (execFollowUp s) := by
  simp only [execFollowUp]
  split <;> simp [hm]

@[simp] theorem execDelayReq_canonical {s : State} (hm : s.Canonical) : Out.Canonical (execDelayReq s) := by
  simp [execDelayReq, hm]

@[simp] theorem execDelayResp_canonical {s : State} (hm : s.Canonical) : Out.Canonical (execDelayResp s) := by
  simp only [execDelayResp]
  repeat' split
  all_goals simp [hm]

@[simp] theorem execAnnounce_canonical {s : State} (hm : s.Canonical) : Out.Canonical (execAnnounce s) := by
  simp only [execAnnounce]
  split <;> simp [hm]

@[simp] theorem execAnnounceTimeout_canonical {s : State} (hm : s.Canonical) : Out.Canonical (execAnnounceTimeout s) := by
  simp only [execAnnounceTimeout]
  split <;> simp [hm]

@[simp] theorem State.ptpCtl_mem {s : State} (v : Word) : (s.ptpCtl v).mem = s.mem := by simp [State.ptpCtl]

@[simp] theorem execPtpEnable_canonical {s : State} (hm : s.Canonical) : Out.Canonical (execPtpEnable s) := by
  unfold execPtpEnable
  split
  · split
    · exact State.regWr_canonical (by simp [hm]) hm
    · simp [hm]
  · simp [hm]

@[simp] theorem execPtpDisable_canonical {s : State} (hm : s.Canonical) : Out.Canonical (execPtpDisable s) := by
  unfold execPtpDisable
  split
  · split
    · simp [hm]
    · exact State.regWr_canonical (by simp [hm]) hm
  · simp [hm]

/-! ## Placement, pre-emption, swap-out and restore (R50, R51, R311) -/

theorem State.tryPlace_canonical {s : State} (g : Grid) (hm : s.Canonical) : ∀ s1, s.tryPlace g = some s1 → s1.Canonical := by
  intro s1 h1
  unfold State.tryPlace at h1
  split at h1
  · cases h1
  · split at h1
    · cases h1; simp [hm]
    · cases h1

theorem State.tryGrid_canonical {s : State} (g : Grid) (hm : s.Canonical) : ∀ s1, s.tryGrid g = some s1 → s1.Canonical := by
  intro s1 h1
  unfold State.tryGrid at h1
  split at h1
  · exact State.placePixels_canonical _ hm _ h1
  · split at h1
    · exact State.tryPlace_canonical _ hm _ h1
    · cases h1

@[simp] theorem State.placeFirst_canonical {s : State} (a : List Grid) (hm : s.Canonical) : (s.placeFirst a).Canonical := by
  induction a generalizing s with
  | nil => exact hm
  | cons g rest ih =>
    have hs : (s.shed g).Canonical := by simpa using hm
    unfold State.placeFirst
    dsimp only
    repeat' split
    · exact hs
    · exact hs
    · next h2 => exact State.tryGrid_canonical _ hs _ h2
    · exact ih hs

@[simp] theorem execWavePlacement_canonical {s : State} (hm : s.Canonical) : Out.Canonical (execWavePlacement s) := by
  simp only [execWavePlacement]
  split <;> simp [hm]

@[simp] theorem execAging_canonical {s : State} (hm : s.Canonical) : Out.Canonical (execAging s) := by
  simp only [execAging]
  repeat' split
  all_goals simp [hm]

@[simp] theorem State.preEmpt_canonical {s : State} (ids : List Nat) (hm : s.Canonical) : (s.preEmpt ids).Canonical := by
  unfold State.preEmpt
  refine foldl_canonical (fun a i ha => ?_) _ (foldl_canonical (fun _ _ h => State.pushEvent_canonical _ _ h) _ ?_)
  · split
    · exact ha
    · exact State.pushEvent_canonical _ _ (by simp [ha])
  · refine foldl_canonical (fun a t ha => ?_) _ hm
    split <;> simp [ha]

@[simp] theorem execPreEmption_canonical {s : State} (hm : s.Canonical) : Out.Canonical (execPreEmption s) := by
  simp only [execPreEmption]
  split <;> simp [hm]

@[simp] theorem execSwapOut_canonical {s : State} (hm : s.Canonical) : Out.Canonical (execSwapOut s) := by
  unfold execSwapOut
  split
  · split
    · simp [hm]
    · dsimp only
      split
      · rw [Out.canonical_next]
        exact foldl_canonical (fun _ _ h => State.pushEvent_canonical _ _ (by simp [h])) _ hm
      · simp [hm]
  · simp [hm]

@[simp] theorem execRestore_canonical {s : State} (hm : s.Canonical) : Out.Canonical (execRestore s) := by
  unfold execRestore
  split
  · split
    · simp [hm]
    · dsimp only
      split
      · simp [hm]
      · split
        · split <;> simp [hm]
        · split
          · simp [hm]
          · rw [Out.canonical_next]
            exact foldl_canonical (fun _ _ h => State.pushEvent_canonical _ _ h) _ hm
  · simp [hm]

/-! ## Ray queries (R333 to R353) -/

@[simp] theorem State.leafLook_mem {s : State} (cluster set tag region va : Nat) (gens : List (Nat × Nat)) :
    (s.leafLook cluster set tag region va gens).mem = s.mem := by
  rfl

@[simp] theorem State.leafWrite_mem {s : State} (e : LeafEntry) : (s.leafWrite e).mem = s.mem := by rfl

@[simp] theorem State.leafAct_mem {s : State} (k : TaskCtx) (core : Nat) (hdr : List Byte) (q : RayQuery) (look hit : Bool) :
    (s.leafAct k core hdr q look hit).mem = s.mem := by
  simp only [State.leafAct]
  repeat' split
  all_goals simp

@[simp] theorem State.rayErr_canonical {s : State} (c : Ctx) (t : Team) (w : Warp) (l : Nat) (hm : s.Canonical) :
    (s.rayErr c t w l).Canonical := by
  simp [State.rayErr, hm]

@[simp] theorem State.rayPut_canonical {s : State} (c : Ctx) (t : Team) (w : Warp) (k : TaskCtx) (l : Nat) (look : Bool)
    (r : RayStep) (hm : s.Canonical) : (s.rayPut c t w k l look r).Canonical := by
  simp only [State.rayPut]
  repeat' split
  all_goals simp [hm]

@[simp] theorem rayLanes_canonical (c : Ctx) (t : Team) (w : Warp) (k : TaskCtx) (look : Bool) (f : State → Nat → RayStep)
    (ls : List Nat) {s : State} (hm : s.Canonical) : (rayLanes c t w k look f ls s).1.Canonical := by
  induction ls generalizing s with
  | nil => exact hm
  | cons l rest ih => exact ih (by simp [hm])

@[simp] theorem rayFault_canonical {lanes : List Nat} {detail : Nat} {p : Nat → Bool} {go : KOut} (hgo : go.Canonical) :
    (rayFault lanes detail p go).Canonical := by
  unfold rayFault
  split <;> simp [hgo]

@[simp] theorem rayEcc_canonical {s a : State} {c : Ctx} {k : TaskCtx} {go : KOut} (hgo : go.Canonical) :
    (rayEcc s a c k go).Canonical := by
  unfold rayEcc
  split <;> simp [hgo]

@[simp] theorem execRayq_canonical (o : SOp) {a : State} (hm : a.Canonical) : Out.Canonical (execRayq o a) := by
  refine kernelOp_canonical (fun c t w s h => ?_) hm
  dsimp only
  split
  · simp
  · simp
  · next hx => exact State.recAt_canonical hx
  · exact rayFault_canonical (rayFault_canonical (rayEcc_canonical (by simp [h])))

@[simp] theorem execRaynext_canonical (o : SOp) {a : State} (hm : a.Canonical) : Out.Canonical (execRaynext o a) := by
  refine kernelOp_canonical (fun c t w s h => rayFault_canonical (rayEcc_canonical ?_)) hm
  simp [h]

@[simp] theorem rayTell_canonical (decision : Nat) (c : Ctx) (w : Warp) {s : State} (hm : s.Canonical) :
    (rayTell decision c w s).Canonical := by
  simp [rayTell, hm]

/-- What tells a ray query its decision, and what reads it. -/
@[simp] theorem rayReplies_canonical (o : SOp) {a : State} (hm : a.Canonical) :
    Out.Canonical (execRayacc o a) ∧ Out.Canonical (execRayign o a) ∧ Out.Canonical (execRayend o a) ∧
    Out.Canonical (execRayrd o a) ∧ Out.Canonical (execRtinv o a) := by
  refine ⟨?_, ?_, ?_, ?_, ?_⟩ <;>
    exact kernelOp_canonical (fun _ _ _ _ h => by simp [h]) hm

/-! ## Deterministic rounds (R180 to R187) -/

@[simp] theorem execPendingWriteback_canonical {s : State} (hm : s.Canonical) : Out.Canonical (execPendingWriteback s) := by
  simp only [execPendingWriteback]
  repeat' split
  all_goals simp [hm]

@[simp] theorem execQuantumExpiry_canonical {s : State} (hm : s.Canonical) : Out.Canonical (execQuantumExpiry s) := by
  simp only [execQuantumExpiry]
  repeat' split
  all_goals simp [hm]

@[simp] theorem State.releaseLanes_mem {s : State} (t : Team) (w : Nat) (lanes : List Nat) (cov : Cover) :
    (s.releaseLanes t w lanes cov).mem = s.mem :=
  foldl_mem (fun a l => by split <;> simp) _ _

@[simp] theorem State.roundHalt_canonical {s : State} (c : Ctx) (h : HaltInfo) (hm : s.Canonical) :
    (s.roundHalt c h).Canonical := by
  simp only [State.roundHalt]
  split <;> simp [hm]

@[simp] theorem State.roundArrive_canonical {s : State} (c : Ctx) (t : Team) (g : Grid) (l : Nat) (lanes : List Nat)
    (drop : Bool) (rel : Option Scope) (dst : Nat) (hm : s.Canonical) : (s.roundArrive c t g l lanes drop rel dst).s.Canonical
    := by
  simp only [State.roundArrive]
  repeat' split
  all_goals simp [hm]

theorem State.roundPush_canonical {s : State} {c : Ctx} {t : Team} {g : Grid} {hdr : Nat} {recs : List (Nat × List Word)}
    {dst : Nat} {a : Applied} (hm : s.Canonical) (ha : s.roundPush c t g hdr recs dst = .ok a) : a.s.Canonical := by
  unfold State.roundPush at ha
  dsimp only at ha
  split at ha
  · cases ha
  · cases ha; simp [hm]
  · cases ha; simp [hm]
  · next hq => cases ha; exact (KOut.canonical_ok _).mp (qRecLocs_canonical hq)
  · cases ha
    simp only [State.Canonical, State.updWarp_mem]
    split
    · simp [hm]
    · simp [hm]

theorem State.roundPop_canonical {s : State} {c : Ctx} {g : Grid} {t : Team} {h : Held} {hdr : Nat} {lanes : List Nat}
    {quad dst : Nat} {a : Applied} (hm : s.Canonical) (ha : s.roundPop c g t h hdr lanes quad dst = .ok a) : a.s.Canonical := by
  unfold State.roundPop at ha
  dsimp only at ha
  split at ha
  · cases ha
  · cases ha; simp [hm]
  · cases ha; simp [hm]
  · next hq => cases ha; exact (KOut.canonical_ok _).mp (qRecLocs_canonical hq)
  · cases ha; simp [hm]

@[simp] theorem State.fxLost_canonical {s : State} (g : Grid) (c : Ctx) (fx : HeldFx) (l : Nat) (hm : s.Canonical) :
    (s.fxLost g c fx l).Canonical := by
  simp only [State.fxLost]
  split <;> simp [hm]

theorem State.applyFx_canonical {s : State} {g : Grid} {t : Team} {w : Nat} {h : Held} {a : Applied} (hm : s.Canonical)
    (ha : s.applyFx g t w h = .ok a) : a.s.Canonical := by
  unfold State.applyFx at ha
  dsimp only at ha
  split at ha
  · cases ha; simp [hm]
  · split at ha
    · cases ha; simp [hm]
    · cases ha; simp [hm]
    · cases ha; exact hm
    · cases ha; simp [hm]
    · cases ha; simp [hm]
    · cases ha; simp [hm]
    · cases ha; simp [hm]
    · split at ha
      · cases ha; simp [hm]
      · cases ha
        simp only [State.Canonical]
        split
        · simp [hm]
        · simp [hm]
    · exact State.roundPush_canonical hm ha
    · exact State.roundPop_canonical hm ha
    · cases ha; simp [hm]
    · repeat' split at ha
      all_goals cases ha
      all_goals simp [hm]
    · repeat' split at ha
      all_goals cases ha
      all_goals simp [hm]

theorem State.applyWarp_canonical {s : State} {g : Grid} {t : Team} {w : Nat} {hs : List Held} {a : Applied} (hm : s.Canonical)
    (ha : s.applyWarp g t w hs = .ok a) : a.s.Canonical := by
  induction hs generalizing s a with
  | nil => cases ha; exact hm
  | cons h rest ih =>
    unfold State.applyWarp at ha
    split at ha
    · cases ha
    · next h1 =>
      split at ha
      · cases ha
      · next h2 =>
        have hb := ih (State.applyFx_canonical hm h1) h2
        cases ha
        exact hb

theorem State.applyTeam_canonical {s : State} {g : Grid} {t : Team} {ws : List Warp} {a : Applied} (hm : s.Canonical)
    (ha : s.applyTeam g t ws = .ok a) : a.s.Canonical := by
  induction ws generalizing s a with
  | nil => cases ha; exact hm
  | cons w rest ih =>
    unfold State.applyTeam at ha
    split at ha
    · cases ha
    · next a1 h1 =>
      have h1 : a1.s.Canonical := State.applyWarp_canonical (s := s.updWarp t.id w.idx _) hm h1
      split at ha
      · cases ha
      · next h2 =>
        have hb := ih (s := a1.s.updWarp t.id w.idx _) h1 h2
        cases ha
        exact hb

theorem State.applySlots_canonical {s : State} {g : Grid} {ns : List Nat} {a : Applied} (hm : s.Canonical)
    (ha : s.applySlots g ns = .ok a) : a.s.Canonical := by
  induction ns generalizing s a with
  | nil => cases ha; exact hm
  | cons n rest ih =>
    unfold State.applySlots at ha
    split at ha
    · exact ih hm ha
    · split at ha
      · cases ha
      · next h1 =>
        split at ha
        · cases ha
        · next h2 =>
          have hb := ih (State.applyTeam_canonical hm h1) h2
          cases ha
          exact hb

@[simp] theorem State.performHeld_canonical {s : State} (g : Grid) (hm : s.Canonical) : (s.performHeld g).Canonical := by
  simp only [State.performHeld, State.Canonical, State.updGrid_mem]
  refine State.flushReds_canonical _ _ ?_
  refine foldl_canonical (fun a t ha => foldl_canonical (fun b w hb => foldl_canonical (fun x h hx => ?_) _ hb) _ ha) _ hm
  split
  · next hr => exact State.applyFx_canonical hx hr
  · exact hx

theorem State.finishGrids_canonical {s : State} {fin : State → Nat → State}
    (hfin : ∀ a n, a.Canonical → (fin a n).Canonical) (gs : List Grid) (hm : s.Canonical) : (s.finishGrids fin gs).Canonical := by
  unfold State.finishGrids
  exact foldl_canonical (fun a g ha => State.performHeld_canonical g (foldl_canonical hfin _ ha)) _ hm

@[simp] theorem State.startRound_mem {s : State} (g : Grid) (seqs : List Nat) : (s.startRound g seqs).mem = s.mem := by rfl

theorem State.boundary_canonical {s s1 : State} {g : Grid} (hm : s.Canonical) (hs : s.boundary g = .ok s1) : s1.Canonical := by
  have henroll : ∀ (a : State) (n : Nat), a.Canonical → ((List.range 4).foldl (fun b _ =>
      match b.seqTeam g.id n with
      | none => b
      | some t => b.enroll t) a).Canonical :=
    fun a n h => foldl_canonical (fun b _ h => by split <;> simp [h]) _ h
  unfold State.boundary at hs
  dsimp only at hs
  split at hs
  · cases hs
  · next h1 =>
    cases hs
    have ha := State.applySlots_canonical hm h1
    simp only [State.Canonical, State.updGrid_mem, State.startRound_mem]
    exact foldl_canonical (fun a n h => henroll a n h) _ (by simp [ha])

@[simp] theorem execRoundBoundary_canonical {s : State} (hm : s.Canonical) : Out.Canonical (execRoundBoundary s) := by
  unfold execRoundBoundary
  split
  · split
    · simp [hm]
    · next g _ =>
      split
      · simp [hm]
      · split
        · next h1 => simpa using State.boundary_canonical hm h1
        · next ps _ =>
          cases hd : s.demands g.task.region ps with
          | none => simpa [hd] using hm
          | some s1 => simpa [hd] using State.demands_canonical hm hd
  · simp [hm]

end Sys2Proof.Machine
end

/-! # Proofs: memory stays canonical (R191): the stream, recovery, resets, registers and the step -/
section

namespace Sys2Proof.Machine

/-! ## The task stream and the Almanac (R273 to R275, R317 to R320) -/

@[simp] theorem State.enterSt_mem {s : State} (st : StreamSt) : (s.enterSt st).mem = s.mem := by simp [State.enterSt]

@[simp] theorem State.unbindAll_mem {s : State} : s.unbindAll.mem = s.mem := by
  simp only [State.unbindAll]
  exact foldl_mem (fun a n => by split <;> rfl) _ _

@[simp] theorem State.startStream_mem {s : State} : s.startStream.mem = s.mem := by simp [State.startStream, State.enterSt]
@[simp] theorem State.abortStream_mem {s : State} : s.abortStream.mem = s.mem := by simp [State.abortStream, State.enterSt]
@[simp] theorem State.resumeStream_mem {s : State} : s.resumeStream.mem = s.mem := by simp [State.resumeStream]

@[simp] theorem State.enableStream_mem {s : State} (on : Bool) : (s.enableStream on).mem = s.mem := by
  unfold State.enableStream
  dsimp only
  split
  · rw [State.startStream_mem]
  · rw [State.enterSt_mem]
  · rw [State.enterSt_mem]
  · rfl

@[simp] theorem State.tsCtl_mem {s : State} (v : Word) : (s.tsCtl v).mem = s.mem := by simp [State.tsCtl]

@[simp] theorem execStreamEnable_canonical {s : State} (hm : s.Canonical) : Out.Canonical (execStreamEnable s) := by
  unfold execStreamEnable
  split
  · split
    · exact State.regWr_canonical (by simp [hm]) hm
    · simp [hm]
  · simp [hm]

@[simp] theorem execStreamDisable_canonical {s : State} (hm : s.Canonical) : Out.Canonical (execStreamDisable s) := by
  unfold execStreamDisable
  split
  · split
    · exact State.regWr_canonical (by simp [hm]) hm
    · simp [hm]
  · simp [hm]

@[simp] theorem execStreamResume_canonical {s : State} (hm : s.Canonical) : Out.Canonical (execStreamResume s) := by
  unfold execStreamResume
  split
  · split
    · exact State.regWr_canonical (by simp [hm]) hm
    · simp [hm]
  · simp [hm]

@[simp] theorem execStreamAbort_canonical {s : State} (hm : s.Canonical) : Out.Canonical (execStreamAbort s) := by
  unfold execStreamAbort
  split
  · split
    · exact State.regWr_canonical (by simp [hm]) hm
    · simp [hm]
  · simp [hm]

@[simp] theorem execStreamDrained_canonical {s : State} (hm : s.Canonical) : Out.Canonical (execStreamDrained s) := by
  simp [execStreamDrained, hm]

@[simp] theorem State.doorbell_mem {s : State} (v : Word) : (s.doorbell v).mem = s.mem := by simp [State.doorbell]

@[simp] theorem execDoorbell_canonical {s : State} (hm : s.Canonical) : Out.Canonical (execDoorbell s) := by
  unfold execDoorbell
  split
  · exact State.regWr_canonical (by simp [hm]) hm
  · simp [hm]

@[simp] theorem execAlmanacCycleStart_canonical {s : State} (hm : s.Canonical) : Out.Canonical (execAlmanacCycleStart s) := by
  simp [execAlmanacCycleStart, hm]

@[simp] theorem execInstanceOpen_canonical {s : State} (hm : s.Canonical) : Out.Canonical (execInstanceOpen s) := by
  simp only [execInstanceOpen]
  repeat' split
  all_goals simp [hm]

@[simp] theorem State.cutTask_mem {s : State} (e : Entry) : (s.cutTask e).mem = s.mem := by rfl

@[simp] theorem State.dropWaves_mem {s : State} (e : Entry) : (s.dropWaves e).mem = s.mem := by
  unfold State.dropWaves
  split <;> rfl

@[simp] theorem State.ruleShed_mem {s : State} (e : Entry) : (s.ruleShed e).mem = s.mem := by simp [State.ruleShed]

@[simp] theorem State.ruleFault_canonical {s : State} (e : Entry) (slot : Nat) (hm : s.Canonical) :
    (s.ruleFault e slot).Canonical := by
  unfold State.ruleFault
  dsimp only
  rw [State.Canonical, State.complete_mem]
  refine foldl_canonical (fun _ _ h => by simp [h]) _ ?_
  split
  · exact State.stopTask_canonical _ (State.finishGrids_canonical (fun _ n h => State.matFinish_canonical n h) _ hm)
  · exact hm

@[simp] theorem State.slotAct_canonical {s : State} (rule slot : Nat) (e : Entry) (hm : s.Canonical) :
    (s.slotAct rule slot e).Canonical := by
  simp only [State.slotAct]
  repeat' split
  all_goals simp [hm]

@[simp] theorem State.slotRule_canonical {s : State} (rule slot : Nat) (e : Entry) (hm : s.Canonical) :
    (s.slotRule rule slot e).Canonical := by
  simp [State.slotRule, hm]

@[simp] theorem execInstanceEnd_canonical {s : State} (hm : s.Canonical) : Out.Canonical (execInstanceEnd s) := by
  unfold execInstanceEnd
  split
  · dsimp only
    split
    · simp [hm]
    · rw [Out.canonical_next]
      exact foldl_canonical (fun _ _ h => State.slotRule_canonical _ _ _ h) _ hm
  · simp [hm]

/-! ## Recovery and the paging service (R400 to R427) -/

@[simp] theorem State.journalMove_canonical {s : State} (hm : s.Canonical) : s.journalMove.Canonical := by
  simp only [State.journalMove]
  split <;> simp [hm]

@[simp] theorem execJournalMove_canonical {s : State} (hm : s.Canonical) : Out.Canonical (execJournalMove s) := by
  simp [execJournalMove, hm]

@[simp] theorem execHaltRecordWrite_canonical {s : State} (hm : s.Canonical) : Out.Canonical (execHaltRecordWrite s) := by
  simp [execHaltRecordWrite, hm]

@[simp] theorem execLogRecordTimeout_canonical {s : State} (hm : s.Canonical) : Out.Canonical (execLogRecordTimeout s) := by
  simp only [execLogRecordTimeout]
  repeat' split
  all_goals simp [hm]

@[simp] theorem State.killWork_canonical {s0 : State} (f : Nat) (hm : s0.Canonical) : (s0.killWork f).2.Canonical := by
  unfold State.killWork
  have hfin := fun gs => State.finishGrids_canonical (fun _ n h => State.matFinish_canonical n h) gs hm
  dsimp only
  rw [State.Canonical, foldl_mem (fun a e => by simp)]
  refine foldl_canonical (fun a n h => by simp [h]) _ ?_
  refine foldl_canonical (fun a c h => by simp [h]) _ ?_
  exact State.stopGrids_canonical _ (hfin _)

@[simp] theorem State.killStart_canonical {s : State} (f by_ : Nat) (hm : s.Canonical) : (s.killStart f by_).Canonical := by
  simp [State.killStart, hm]

@[simp] theorem State.fdKillWr_canonical {s : State} (v : Word) (hm : s.Canonical) : (s.fdKillWr v).Canonical := by
  simp [State.fdKillWr, hm]

@[simp] theorem execFdKill_canonical {s : State} (hm : s.Canonical) : Out.Canonical (execFdKill s) := by
  unfold execFdKill
  split
  · exact State.regWr_canonical (by simp [hm]) hm
  · simp [hm]

@[simp] theorem execKillComplete_canonical {s : State} (hm : s.Canonical) : Out.Canonical (execKillComplete s) := by
  simp only [execKillComplete]
  split <;> simp [hm]

@[simp] theorem State.haltCmd_mem {s : State} (v : Word) : (s.haltCmd v).mem = s.mem := by simp [State.haltCmd]

@[simp] theorem execHaltResume_canonical {s : State} (hm : s.Canonical) : Out.Canonical (execHaltResume s) := by
  unfold execHaltResume
  split
  · exact State.regWr_canonical (by simp [hm]) hm
  · simp [hm]

@[simp] theorem execHaltSkip_canonical {s : State} (hm : s.Canonical) : Out.Canonical (execHaltSkip s) := by
  unfold execHaltSkip
  split
  · exact State.regWr_canonical (by simp [hm]) hm
  · simp [hm]

@[simp] theorem execHaltKill_canonical {s : State} (hm : s.Canonical) : Out.Canonical (execHaltKill s) := by
  unfold execHaltKill
  split
  · exact State.regWr_canonical (by simp [hm]) hm
  · simp [hm]

@[simp] theorem execHaltCommandDone_canonical {s : State} (hm : s.Canonical) : Out.Canonical (execHaltCommandDone s) := by
  simp only [execHaltCommandDone]
  repeat' split
  all_goals simp [hm]

@[simp] theorem State.haltDataWr_mem {s : State} (v : Word) : (s.haltDataWr v).mem = s.mem := by
  unfold State.haltDataWr
  split <;> rfl

@[simp] theorem execHaltDataWrite_canonical {s : State} (hm : s.Canonical) : Out.Canonical (execHaltDataWrite s) := by
  unfold execHaltDataWrite
  split
  · exact State.regWr_canonical (by simp [hm]) hm
  · simp [hm]

@[simp] theorem State.objBreak_canonical {s : State} (v : Word) (hm : s.Canonical) : (s.objBreak v).Canonical := by
  simp [State.objBreak, hm]

@[simp] theorem execObjBreak_canonical {s : State} (hm : s.Canonical) : Out.Canonical (execObjBreak s) := by
  unfold execObjBreak
  split
  · exact State.regWr_canonical (by simp [hm]) hm
  · simp [hm]

@[simp] theorem execHouseDiverged_canonical {s : State} (hm : s.Canonical) : Out.Canonical (execHouseDiverged s) := by
  simp [execHouseDiverged, hm]

@[simp] theorem State.retire_canonical {s : State} (a b : Retired) (hm : s.Canonical) : Out.Canonical (s.retire a b) := by
  simp only [State.retire]
  split <;> simp [hm]

@[simp] theorem execPagingServiceStart_canonical {s : State} (hm : s.Canonical) : Out.Canonical (execPagingServiceStart s) := by
  simp [execPagingServiceStart, hm]

@[simp] theorem State.finishPage_canonical {s : State} (n entry status : Nat) (hm : s.Canonical) :
    (s.finishPage n entry status).Canonical := by
  simp [State.finishPage, hm]

@[simp] theorem State.pageLost_mem {s : State} (l : Nat) : (s.pageLost l).mem = s.mem := by simp [State.pageLost]

@[simp] theorem State.servePage_canonical {s : State} (n entry region fdom : Nat) (e : DWord) (hm : s.Canonical) :
    (s.servePage n entry region fdom e).Canonical := by
  unfold State.servePage
  dsimp only
  repeat' split
  · simp [hm]
  · simp [hm]
  · refine State.finishPage_canonical _ _ _ ?_
    simp [hm]
  · refine State.finishPage_canonical _ _ _ ?_
    simp [hm]

@[simp] theorem execPageFaultService_canonical {s : State} (hm : s.Canonical) : Out.Canonical (execPageFaultService s) := by
  simp only [execPageFaultService]
  repeat' split
  all_goals simp [hm]

@[simp] theorem execPageTimeout_canonical {s : State} (hm : s.Canonical) : Out.Canonical (execPageTimeout s) := by
  simp only [execPageTimeout]
  repeat' split
  all_goals simp [hm]

@[simp] theorem State.setBank_mem {s : State} (core : Nat) (b : BankSt) : (s.setBank core b).mem = s.mem := by rfl
@[simp] theorem State.correction_mem {s : State} (unit : Nat) : (s.correction unit).mem = s.mem := by simp [State.correction]
@[simp] theorem State.corrected_mem {s : State} (core : Nat) : (s.corrected core).mem = s.mem := by simp [State.corrected]

@[simp] theorem State.bankFail_canonical {s : State} (core bank : Nat) (hm : s.Canonical) :
    (s.bankFail core bank).Canonical := by
  unfold State.bankFail
  dsimp only
  split
  · simp [hm]
  · exact foldl_canonical (fun _ _ h => State.killStart_canonical _ _ h) _ (by simp [hm])

@[simp] theorem execScrub_canonical {s : State} (hm : s.Canonical) : Out.Canonical (execScrub s) := by
  simp only [execScrub]
  repeat' split
  all_goals simp [hm]

@[simp] theorem execSpStatusRead_canonical {s : State} (hm : s.Canonical) : Out.Canonical (execSpStatusRead s) := by
  simp only [execSpStatusRead]
  split <;> simp [hm]

@[simp] theorem State.loseLine_canonical {s : State} (pa : Nat) (hm : s.Canonical) : (s.loseLine pa).Canonical :=
  memPuts_wf _ hm

@[simp] theorem execLostWrite_canonical {s : State} (hm : s.Canonical) : Out.Canonical (execLostWrite s) := by
  simp only [execLostWrite]
  split <;> simp [hm]

/-! ## Resets, trust and attestation (R401 to R404, R428, R429) -/

@[simp] theorem State.bootStatus_mem {s : State} (st reason : Nat) : (s.bootStatus st reason).mem = s.mem := by
  simp [State.bootStatus]

@[simp] theorem State.resetRecords_mem {s : State} : s.resetRecords.mem = s.mem := by simp [State.resetRecords]

@[simp] theorem State.endMedia_canonical {s : State} (hm : s.Canonical) : s.endMedia.Canonical := by
  unfold State.endMedia
  refine foldl_canonical (fun _ _ h => State.frameGo_canonical _ _ _ _ _ h) _ ?_
  exact foldl_canonical (fun _ _ h => State.removeStream_canonical _ h) _ hm

@[simp] theorem State.computeCore_canonical {s : State} (hm : s.Canonical) : s.computeCore.Canonical :=
  Memory.wf_filter (State.endMedia_canonical hm) _

@[simp] theorem State.computeReset_canonical {s : State} (hm : s.Canonical) : s.computeReset.Canonical := by
  simp [State.computeReset, hm]

@[simp] theorem State.resetting_mem {s : State} (level : Nat) : (s.resetting level).mem = s.mem := by rfl
@[simp] theorem State.level1_canonical {s : State} (hm : s.Canonical) : s.level1.Canonical := by simp [State.level1, hm]
@[simp] theorem State.level2_canonical {s : State} (hm : s.Canonical) : s.level2.Canonical := by simp [State.level2, hm]
@[simp] theorem State.level3_canonical {s : State} (hm : s.Canonical) : s.level3.Canonical := Memory.wf_filter hm _

@[simp] theorem State.deviceReset_canonical {s : State} (hm : s.Canonical) : s.deviceReset.Canonical := by
  simp [State.deviceReset, hm]

@[simp] theorem State.resetCtl_canonical {s : State} (v : Word) (hm : s.Canonical) : (s.resetCtl v).Canonical := by
  simp only [State.resetCtl]
  repeat' split
  all_goals simp [hm]

@[simp] theorem execComputeReset_canonical {s : State} (hm : s.Canonical) : Out.Canonical (execComputeReset s) :=
  State.regWr_canonical (by simp [hm]) hm

@[simp] theorem execHouseReset_canonical {s : State} (hm : s.Canonical) : Out.Canonical (execHouseReset s) :=
  State.regWr_canonical (by simp [hm]) hm

@[simp] theorem execDeviceReset_canonical {s : State} (hm : s.Canonical) : Out.Canonical (execDeviceReset s) :=
  State.regWr_canonical (by simp [hm]) hm

@[simp] theorem execFunctionLevelReset_canonical {s : State} (hm : s.Canonical) : Out.Canonical (execFunctionLevelReset s) := by
  simp [execFunctionLevelReset, hm]

@[simp] theorem execConventionalReset_canonical {s : State} (hm : s.Canonical) : Out.Canonical (execConventionalReset s) := by
  simp [execConventionalReset, hm]

@[simp] theorem State.enterRecovery_canonical {s : State} (reason : Nat) (hm : s.Canonical) :
    (s.enterRecovery reason).Canonical := by
  simp [State.enterRecovery, hm]

@[simp] theorem State.firmware_canonical {s : State} (region frame stream fq : DWord) (hm : s.Canonical) :
    (s.firmware region frame stream fq).Canonical := by
  have htables : ∀ x : State, x.Canonical → State.Canonical { x with tables := true } := fun _ h => h
  refine htables _ (State.wrRec_canonical _ _ (foldl_canonical (fun _ _ h => State.wrRec_canonical _ _ h) _ ?_))
  exact State.wrRec_canonical _ _ hm

@[simp] theorem State.boot_canonical {s : State} (flashOk : Bool) (region frame stream fq : DWord) (hm : s.Canonical) :
    (s.boot flashOk region frame stream fq).Canonical := by
  simp only [State.boot]
  repeat' split
  all_goals simp [hm]

@[simp] theorem State.measure_mem {s : State} (i : Nat) (d : BitVec 384) : (s.measure i d).mem = s.mem := by
  simp [State.measure]

@[simp] theorem State.recGo_mem {s : State} : s.recGo.mem = s.mem := by simp [State.recGo]

@[simp] theorem execRecoveryGo_canonical {s : State} (hm : s.Canonical) : Out.Canonical (execRecoveryGo s) := by
  simp [execRecoveryGo, hm]

@[simp] theorem execRecoveryVerifyDone_canonical {s : State} (hm : s.Canonical) : Out.Canonical (execRecoveryVerifyDone s) := by
  simp only [execRecoveryVerifyDone]
  repeat' split
  all_goals simp [hm]

@[simp] theorem State.answer_mem {s : State} (name : String) (msg : List Byte) : (s.answer name msg).mem = s.mem := by rfl

theorem State.spdm_canonical {s : State} {f : State → State} (hf : (f s).Canonical) (hm : s.Canonical) :
    Out.Canonical (s.spdm f) := by
  simp [State.spdm, hf, hm]

theorem State.spdmAt_canonical {s : State} (p : Nat) {f : State → State} (hf : (f s).Canonical) (hm : s.Canonical) :
    Out.Canonical (s.spdmAt p f) := by
  refine State.spdm_canonical ?_ hm
  split <;> simp [hm, hf]

@[simp] theorem execGetVersion_canonical {s : State} (hm : s.Canonical) : Out.Canonical (execGetVersion s) :=
  State.spdm_canonical (by simp [hm]) hm

@[simp] theorem State.negotiate_canonical {s : State} (p : Nat) (name : String) (req rsp : List Byte) (hm : s.Canonical) :
    Out.Canonical (s.negotiate p name req rsp) := by
  refine State.spdm_canonical ?_ hm
  split <;> simp [hm]

@[simp] theorem execGetCapabilities_canonical {s : State} (hm : s.Canonical) : Out.Canonical (execGetCapabilities s) := by
  simp [execGetCapabilities, hm]

@[simp] theorem execNegotiateAlgorithms_canonical {s : State} (hm : s.Canonical) :
    Out.Canonical (execNegotiateAlgorithms s) := by
  simp [execNegotiateAlgorithms, hm]

@[simp] theorem execGetDigests_canonical {s : State} (hm : s.Canonical) : Out.Canonical (execGetDigests s) :=
  State.spdmAt_canonical 3 (by simp [hm]) hm

@[simp] theorem execGetCertificate_canonical {s : State} (hm : s.Canonical) : Out.Canonical (execGetCertificate s) := by
  unfold execGetCertificate
  split
  · refine State.spdmAt_canonical 3 ?_ hm
    dsimp only
    split <;> simp [hm]
  · simp [hm]

@[simp] theorem State.signed_mem {s : State} : s.signed.mem = s.mem := by rfl

@[simp] theorem execChallenge_canonical {s : State} (hm : s.Canonical) : Out.Canonical (execChallenge s) := by
  unfold execChallenge
  split
  · refine State.spdmAt_canonical 3 ?_ hm
    split <;> simp [hm]
  · simp [hm]

@[simp] theorem execGetMeasurements_canonical {s : State} (hm : s.Canonical) : Out.Canonical (execGetMeasurements s) := by
  unfold execGetMeasurements
  split
  · refine State.spdmAt_canonical 3 ?_ hm
    dsimp only
    repeat' split
    all_goals simp [hm]
  · simp [hm]

@[simp] theorem execPldmRequest_canonical {s : State} (hm : s.Canonical) : Out.Canonical (execPldmRequest s) := by
  simp only [execPldmRequest]
  repeat' split
  all_goals simp [hm]

@[simp] theorem execBypass_canonical {s : State} (hm : s.Canonical) : Out.Canonical (execBypass s) := by simp [execBypass, hm]
@[simp] theorem execIdcode_canonical {s : State} (hm : s.Canonical) : Out.Canonical (execIdcode s) := by simp [execIdcode, hm]

@[simp] theorem execSamplePreload_canonical {s : State} (hm : s.Canonical) : Out.Canonical (execSamplePreload s) := by
  simp [execSamplePreload, hm]

@[simp] theorem execExtest_canonical {s : State} (hm : s.Canonical) : Out.Canonical (execExtest s) := by simp [execExtest, hm]

@[simp] theorem execTestLogicReset_canonical {s : State} (hm : s.Canonical) : Out.Canonical (execTestLogicReset s) := by
  simp [execTestLogicReset, hm]

/-! ## The register window and host accesses (R430 to R438) -/

@[simp] theorem State.regionSyncWr_mem {s : State} (v : Word) : (s.regionSyncWr v).mem = s.mem := by simp [State.regionSyncWr]

@[simp] theorem execRegionSync_canonical {s : State} (hm : s.Canonical) : Out.Canonical (execRegionSync s) := by
  unfold execRegionSync
  split
  · exact State.regWr_canonical (by simp [hm]) hm
  · simp [hm]

@[simp] theorem execRegionSyncComplete_canonical {s : State} (hm : s.Canonical) : Out.Canonical (execRegionSyncComplete s) := by
  simp only [execRegionSyncComplete]
  repeat' split
  all_goals simp [hm]

@[simp] theorem execAlmStatusRead_canonical {s : State} (hm : s.Canonical) : Out.Canonical (execAlmStatusRead s) := by
  simp [execAlmStatusRead, hm]

@[simp] theorem State.wr64_mem {s : State} (o : Nat) (v : DWord) : (s.wr64 o v).mem = s.mem := by
  simp only [State.wr64]
  split <;> simp

@[simp] theorem State.xownWr_mem {s : State} (g : Nat) (v : Half) : (s.xownWr g v).mem = s.mem := by simp [State.xownWr]
@[simp] theorem State.quietCtl_mem {s : State} (v : Word) : (s.quietCtl v).mem = s.mem := by rfl

@[simp] theorem execQuietCtlWrite_canonical {s : State} (hm : s.Canonical) : Out.Canonical (execQuietCtlWrite s) := by
  unfold execQuietCtlWrite
  split
  · exact State.regWr_canonical (by simp [hm]) hm
  · simp [hm]

@[simp] theorem State.wr32_canonical {s : State} (o : Nat) (v : Word) (hm : s.Canonical) : (s.wr32 o v).Canonical := by
  simp only [State.wr32]
  split <;> simp [hm]

@[simp] theorem State.wrWord_canonical {s : State} (o : Nat) (v : Word) (hm : s.Canonical) : (s.wrWord o v).Canonical := by
  simp only [State.wrWord]
  split <;> simp [hm]

@[simp] theorem State.regWrite_canonical {s : State} (o n : Nat) (v : DWord) (hm : s.Canonical) :
    (s.regWrite o n v).Canonical := by
  simp only [State.regWrite]
  repeat' split
  all_goals simp [hm]

@[simp] theorem execRegisterWrite_canonical {s : State} (hm : s.Canonical) : Out.Canonical (execRegisterWrite s) := by
  simp only [execRegisterWrite]
  split <;> simp [hm]

@[simp] theorem State.hostRead_mem {s : State} (off n : Nat) : (s.hostRead off n).mem = s.mem := by
  simp only [State.hostRead]
  repeat' split
  all_goals simp

@[simp] theorem State.hostStore_canonical {s : State} (off : Nat) (bs : List Byte) (hm : s.Canonical) :
    (s.hostStore off bs).Canonical := by
  simp only [State.hostStore]
  split <;> simp [hm]

@[simp] theorem execApertureRead_canonical {s : State} (hm : s.Canonical) : Out.Canonical (execApertureRead s) := by
  simp only [execApertureRead]
  split <;> simp [hm]

@[simp] theorem execApertureWrite_canonical {s : State} (hm : s.Canonical) : Out.Canonical (execApertureWrite s) := by
  simp only [execApertureWrite]
  split <;> simp [hm]

@[simp] theorem execCxlMemAccess_canonical {s : State} (hm : s.Canonical) : Out.Canonical (execCxlMemAccess s) := by
  simp only [execCxlMemAccess]
  split <;> simp [hm]

@[simp] theorem State.hostWrite_canonical {s : State} (a : Nat) (bs : List Byte) (hm : s.Canonical) :
    (s.hostWrite a bs).Canonical := by
  simp [State.hostWrite, hm]

/-! ## The 16-bit format (R55, R56) -/

@[simp] theorem alu16_canonical (i : Instr) (o : R16) (f : Word → Word → Word) {a : State} (hm : a.Canonical) :
    Out.Canonical (alu16 i o f a) := by
  simp [alu16, hm]

@[simp] theorem alu16F_canonical (i : Instr) (o : R16) (f : FpCtl → Word → Word → Word × FpFlags) {a : State}
    (hm : a.Canonical) : Out.Canonical (alu16F i o f a) := by
  simp [alu16F, hm]

/-- The 16-bit forms. -/
@[simp] theorem shortOps_canonical (o : R16) {a : State} (hm : a.Canonical) :
    Out.Canonical (execMov16 o a) ∧ Out.Canonical (execIadd16 o a) ∧ Out.Canonical (execIsub16 o a) ∧
    Out.Canonical (execAnd16 o a) ∧ Out.Canonical (execOr16 o a) ∧ Out.Canonical (execXor16 o a) ∧
    Out.Canonical (execShl16 o a) ∧ Out.Canonical (execShr16 o a) ∧ Out.Canonical (execImin16 o a) ∧
    Out.Canonical (execImax16 o a) ∧ Out.Canonical (execFadd16 o a) ∧ Out.Canonical (execFsub16 o a) ∧
    Out.Canonical (execFmul16 o a) ∧ Out.Canonical (execFmax16 o a) ∧ Out.Canonical (execFmin16 o a) := by
  simp [execMov16, execIadd16, execIsub16, execAnd16, execOr16, execXor16, execShl16, execShr16, execImin16, execImax16,
    execFadd16, execFsub16, execFmul16, execFmax16, execFmin16, hm]

@[simp] theorem execMovi16_canonical (o : Movi16) {a : State} (hm : a.Canonical) : Out.Canonical (execMovi16 o a) := by
  refine kernelOp_canonical (fun c t w s h => ?_) hm
  simp [h]

/-! ## The dispatch and the step -/

/-- Every instruction, each by its lemma of the simp set. -/
theorem exec_canonical (i : Instr) {s : State} (hm : s.Canonical) : Out.Canonical (exec i s) := by
  unfold exec
  split <;> simp [hm]

theorem State.runGroup_canonical {s : State} (c : Ctx) (hm : s.Canonical) : Out.Canonical (s.runGroup c) := by
  have hf := s.fetch_canonical c hm
  unfold State.runGroup
  split
  · next i s1 h =>
    rw [h, Fetched.canonical_run] at hf
    exact exec_canonical i hf
  · next s1 h =>
    rw [h, Fetched.canonical_stop] at hf
    simpa using hf

theorem State.runTask_canonical {s : State} (hm : s.Canonical) : Out.Canonical s.runTask := by
  unfold State.runTask
  split
  · exact exec_canonical _ hm
  · simp [hm]

theorem State.runWhat_canonical {s : State} (w : What) (hm : s.Canonical) : Out.Canonical (s.runWhat w) := by
  unfold State.runWhat
  split
  case h_1 => exact Out.canonical_ite _ (exec_canonical _ hm) (by simp [hm])
  case h_3 =>
    split
    · exact State.runGroup_canonical _ hm
    · simp [hm]
  case h_4 => exact State.runTask_canonical hm
  all_goals simp [hm]

theorem State.runSelf_canonical {s : State} (hm : s.Canonical) : Out.Canonical s.runSelf := by
  unfold State.runSelf
  split
  · exact State.runGroup_canonical _ hm
  · split
    · exact exec_canonical _ hm
    · exact Out.canonical_ite _ (State.runTask_canonical hm) (by simp [hm])

theorem State.move_canonical {s : State} (hm : s.Canonical) : Out.Canonical s.move := by
  unfold State.move
  split
  · exact Out.canonical_ite _ (by simp [hm]) (State.runWhat_canonical _ (by simp [hm]))
  · exact State.runSelf_canonical hm

/-- Settles O6: whatever a step runs, each function of it keeps memory's form, since every write goes through `memPut`. -/
theorem stepKeepsMemoryCanonical : Obligations.StepKeepsMemoryCanonical := by
  intro s s' hm hstep
  have h : Out.Canonical (step s) := State.move_canonical (by simpa using hm)
  rw [hstep] at h
  exact (Out.canonical_next s').mp h

end Sys2Proof.Machine
end

/-! # Proofs: stream registers (R268 to R271, R296)

What sqrd finds for a lane, and what the instruction makes of what its lanes find; then sqwr, whose lanes write in order what the
checks have placed; then the statement. -/
section

namespace Sys2Proof.Machine

open Spec

/-! ## What sqrd finds for a lane (R269) -/

section See

variable {s : State} {f : PixFmt} {b : SqBind} {th : Thread} {xy : Word}

theorem State.sqSee_of_outside (h : f.w ≤ xy.toNat % 65536 ∨ f.h ≤ xy.toNat / 65536) : s.sqSee f b th xy = .outside := by
  rw [State.sqSee, if_pos h]

/-- The object of the band of a pixel's line. -/
def State.sqObj (s : State) (b : SqBind) (xy : Word) : Nat :=
  s.bandObj b.stream (xy.toNat / 65536 / s.streamField b.stream 0x15 1)

/-- How many phases of the object have completed since the one of the frame bound. -/
def State.sqPast (s : State) (b : SqBind) (xy : Word) : Nat :=
  ((s.barRead (s.sqObj b xy)).phase + 2147483648 - b.key) % 2147483648

/-- Where a pixel's pgroup lies in the frame's slot. -/
def State.sqAddr (s : State) (f : PixFmt) (b : SqBind) (xy : Word) : Nat :=
  (s.streamField b.stream 8 8 + b.key % max (s.streamField b.stream 0x14 1) 1 * f.h * f.pitch +
    f.offset (xy.toNat % 65536) (xy.toNat / 65536)) % 18446744073709551616

section Inside

variable (hin : xy.toNat % 65536 < f.w ∧ xy.toNat / 65536 < f.h) (hwait : th.wait = none)
include hin hwait

/-- A lane that did not wait finds its band broken, landed or not landed. -/
theorem State.sqSee_of_inside : s.sqSee f b th xy =
    if (s.barRead (s.sqObj b xy)).broken = true then .broken
    else if 1 ≤ s.sqPast b xy ∧ s.sqPast b xy < 1073741824 then .read (s.sqObj b xy) (s.sqAddr f b xy) (s.sqPast b xy)
    else .wait (s.sqObj b xy) (s.barRead (s.sqObj b xy)).phase := by
  have hnot : ¬ (f.w ≤ xy.toNat % 65536 ∨ f.h ≤ xy.toNat / 65536) := by omega
  have hwoken : th.barWoken = none := by rw [Thread.barWoken, hwait]
  simp only [State.sqSee, if_neg hnot, hwoken, State.sqObj, State.sqPast, State.sqAddr, Option.none_beq_some, Bool.false_and,
    Bool.not_false, Bool.and_true, Bool.or_false, Bool.and_eq_true, decide_eq_true_eq]
  rfl

theorem State.sqSee_of_broken (h : (s.barRead (s.sqObj b xy)).broken = true) : s.sqSee f b th xy = .broken := by
  rw [State.sqSee_of_inside hin hwait, if_pos h]

theorem State.sqSee_of_landed (h : (s.barRead (s.sqObj b xy)).broken = false)
    (hlanded : 1 ≤ s.sqPast b xy ∧ s.sqPast b xy < 1073741824) :
    s.sqSee f b th xy = .read (s.sqObj b xy) (s.sqAddr f b xy) (s.sqPast b xy) := by
  rw [State.sqSee_of_inside hin hwait, if_neg (Bool.eq_false_iff.mp h), if_pos hlanded]

theorem State.sqSee_of_not_landed (h : (s.barRead (s.sqObj b xy)).broken = false)
    (hlanded : ¬ (1 ≤ s.sqPast b xy ∧ s.sqPast b xy < 1073741824)) :
    s.sqSee f b th xy = .wait (s.sqObj b xy) (s.barRead (s.sqObj b xy)).phase := by
  rw [State.sqSee_of_inside hin hwait, if_neg (Bool.eq_false_iff.mp h), if_neg hlanded]

end Inside

end See

/-! ## What sqrd makes of what its lanes find -/

/-- The addresses that a lane reads. -/
def SqSee.addrs (size l : Nat) : SqSee → List (Nat × Nat)
  | .read _ va _ => (List.range size).map (fun i => (l, (va + i) % 18446744073709551616))
  | _ => []

/-- Whether a lane's read completes. -/
def SqSee.done : SqSee → Bool
  | .wait _ _ => false
  | _ => true

/-- A lane that reads takes in what the phase of its band carries (R207). -/
def SqSee.take (c : Ctx) (t : Team) (w : Warp) (key : Nat) (a : State) (l : Nat) : SqSee → State
  | .read q _ _ => a.updThr c.team c.warp l
      (barAcquire (.core t.core) .chip (((w.thr l).barDone q key).getD (a.phaseCarries q key)))
  | _ => a

/-- The quad and the status that a lane takes. -/
def SqSee.writes (d : BitVec 6) (quad : List Word) (slots : Nat) : SqSee → List (Reg × Word)
  | .outside => quadWrites d [0, 0, 0] 3
  | .read _ _ dd => quadWrites d quad (if dd < slots then 0 else 1)
  | _ => quadWrites d [0, 0, 0] 2

/-- A lane whose band has not landed waits on its object. -/
def SqSee.park (c : Ctx) (a : State) (l : Nat) : SqSee → State
  | .wait q p => a.park c [l] (.bar q p)
  | _ => a

section Sqrd

variable {s : State} {c : Ctx} {t : Team} {w : Warp} {o : SOp} {q : SqBind}

theorem exec_sqrd_of_unbound (h : s.issue (.sqrd o) = .go c t w) (hq : w.sqAt o.a.toNat = none) :
    exec (.sqrd o) s = .next (s.haltWarp c { cause := 10, detail := 1 } false) := by
  refine exec_of_body_halt h (rfl : exec _ s = execSqrd o s) ?_
  simp only [withSq, hq]

theorem exec_sqrd_of_transmit (h : s.issue (.sqrd o) = .go c t w) (hq : w.sqAt o.a.toNat = some q) (hge : 64 ≤ q.stream) :
    exec (.sqrd o) s = .next (s.haltWarp c { cause := 10, detail := 2 } false) := by
  refine exec_of_body_halt h (rfl : exec _ s = execSqrd o s) ?_
  simp only [withSq, hq, decide_eq_false (not_lt.mpr hge), Bool.false_bne, if_true]

/-- What each lane of a sqrd finds. -/
def State.sqrdSee (s : State) (w : Warp) (o : SOp) (q : SqBind) (l : Nat) : SqSee :=
  s.sqSee (s.pixFmt q.stream) q (w.thr l) ((w.thr l).rv o.b.toNat)

/-- sqrd after its checks, from what its lanes find. -/
def State.sqrdEnd (s : State) (c : Ctx) (t : Team) (w : Warp) (o : SOp) (q : SqBind) (see : Nat → SqSee)
    (ls : List (Nat × Nat)) : State :=
  let f := s.pixFmt q.stream
  let done := c.lanes.filter (fun l => (see l).done)
  let s1 := done.foldl (fun a l => (see l).take c t w q.key a l) s
  let quad (l : Nat) : List Word :=
    if 3 ≤ f.sampling then (List.range 3).map (fun j => Config.freeValue 32 (s.freeCtr + 3 * l + j))
    else f.quad (((w.thr l).rv o.b.toNat).toNat % 65536)
      ((ls.filter (fun p => p.1 == l)).map (fun p => s1.rdThr w ((s1.thr? c.team c.warp l).getD {}) p.2))
  let s2 := if done.isEmpty then s1
    else ({ s1 with freeCtr := s1.freeCtr + 192 } : State).commit { c with lanes := done } o.la.toNat (vGrp o.d 4)
      (done.map (fun l => (l, (see l).writes o.d (quad l) (s.streamField q.stream 0x14 1))))
  c.lanes.foldl (fun a l => (see l).park c a l) s2

/-- sqrd through a receive stream's register, where its checks pass. -/
theorem exec_sqrd_of_check (h : s.issue (.sqrd o) = .go c t w) (hq : w.sqAt o.a.toNat = some q) (hlt : q.stream < 64)
    {ls : List (Nat × Nat)} (hls : (s.advance c w).check t (s.ctxOf t) .g .read 1
      (c.lanes.flatMap (fun l => ((s.advance c w).sqrdSee w o q l).addrs (s.pixFmt q.stream).size l)) = .ok ls) :
    exec (.sqrd o) s = .next ((s.advance c w).sqrdEnd c t w o q ((s.advance c w).sqrdSee w o q) ls) := by
  refine exec_of_body_ok h (rfl : exec _ s = execSqrd o s) ?_
  simp only [withSq, hq, decide_eq_true hlt, bne_self_eq_false, Bool.false_eq_true, if_false]
  have hbind : ∀ {x : Chk} {g : List (Nat × Nat) → KOut} {r : KOut}, x = .ok ls → g ls = r → x.bind g = r := by
    rintro x g r rfl hg
    exact hg
  refine hbind hls ?_
  rfl

theorem State.sqrdEnd_congr {see see' : Nat → SqSee} (hsee : ∀ l ∈ c.lanes, see l = see' l) (ls : List (Nat × Nat)) :
    s.sqrdEnd c t w o q see ls = s.sqrdEnd c t w o q see' ls := by
  have hdone : c.lanes.filter (fun l => (see l).done) = c.lanes.filter (fun l => (see' l).done) :=
    List.filter_congr fun l hl => by rw [hsee l hl]
  have hmem : ∀ l ∈ c.lanes.filter (fun l => (see' l).done), see l = see' l := fun l hl => hsee l (List.mem_of_mem_filter hl)
  have htake : (c.lanes.filter (fun l => (see' l).done)).foldl (fun a l => (see l).take c t w q.key a l) s =
      (c.lanes.filter (fun l => (see' l).done)).foldl (fun a l => (see' l).take c t w q.key a l) s :=
    List.foldl_ext _ _ _ fun a l hl => by rw [hmem l hl]
  simp only [State.sqrdEnd, hdone, htake]
  rw [List.map_congr_left (g := fun l => (l, (see' l).writes o.d _ _)) fun l hl => by rw [hmem l hl]]
  exact List.foldl_ext _ _ _ fun a l hl => by rw [hsee l hl]

/-- The status of a lane that reads nothing. -/
def SqSee.status : SqSee → Word
  | .outside => 3
  | _ => 2

/-- A sqrd of which no lane reads or waits gives zeros and the status, and acquires nothing. -/
theorem State.sqrdEnd_of_status (hne : c.lanes ≠ []) {x : SqSee} (hx : x = .outside ∨ x = .broken) (ls : List (Nat × Nat)) :
    s.sqrdEnd c t w o q (fun _ => x) ls = ({ s with freeCtr := s.freeCtr + 192 } : State).commit c o.la.toNat (vGrp o.d 4)
      (c.lanes.map (fun l => (l, ([0, 0, 0] ++ [x.status]).mapIdx (fun j v => (Reg.v (o.d.toNat + j), v))))) := by
  have hempty : c.lanes.isEmpty = false := by simpa using hne
  rcases hx with rfl | rfl <;>
  · simp only [State.sqrdEnd, SqSee.done, SqSee.take, SqSee.park, SqSee.writes, List.filter_true, List.foldl_fixed, hempty,
      Bool.false_eq_true, if_false]
    rfl

/-! ## The lanes that wait -/

theorem mapIx_length {α : Type} (f : Nat → α → α) (k : Nat) (xs : List α) : (mapIx f k xs).length = xs.length := by
  induction xs generalizing k with
  | nil => rfl
  | cons x xs ih => simp [mapIx, ih]

theorem State.park_quiet (a : State) (c : Ctx) (lanes : List Nat) (on : WaitOn) : Quiet a (a.park c lanes on) := by
  refine ⟨rfl, State.updWarp_sameRegs (bareWarp_mapThr fun l th => ?_) a c.team c.warp⟩
  split <;> rfl

/-- A parked lane stands at its bundle and waits; every other one is as it was. -/
theorem State.park_warp? {a : State} {v : Warp} (hv : a.warp? c.team c.warp = some v) {l : Nat} (hl : l < v.threads.length)
    (on : WaitOn) :
    ∃ v', (a.park c [l] on).warp? c.team c.warp = some v' ∧ v'.threads.length = v.threads.length ∧
      (v'.thr l).pc = c.pc ∧ (v'.thr l).wait = some { on := on, since := a.now } ∧ ∀ j, j ≠ l → v'.thr j = v.thr j := by
  let f (j : Nat) (th : Thread) : Thread :=
    if [l].contains j then { th with pc := c.pc, wait := some { on := on, since := a.now } } else th
  have hthr : (v.mapThr f).thr l = { v.thr l with pc := c.pc, wait := some { on := on, since := a.now } } :=
    (Warp.thr_mapThr v f l hl).trans (if_pos (by simp))
  refine ⟨v.mapThr f, ?_, mapIx_length _ _ _, ?_, ?_, fun j hj => Warp.thr_mapThr_id v f j (if_neg (by simpa using hj))⟩
  · rw [State.park, State.mapThr, State.warp?_updWarp, hv]
    rfl
  · rw [hthr]
  · rw [hthr]

/-- Lanes parked one after another each wait on what is theirs. -/
theorem State.foldl_park (on : Nat → WaitOn) {lanes : List Nat} {a : State} {v : Warp}
    (hv : a.warp? c.team c.warp = some v) (hlt : ∀ l ∈ lanes, l < v.threads.length) :
    Quiet a (lanes.foldl (fun a l => a.park c [l] (on l)) a) ∧
    ∃ v', (lanes.foldl (fun a l => a.park c [l] (on l)) a).warp? c.team c.warp = some v' ∧
      (∀ l ∈ lanes, (v'.thr l).pc = c.pc ∧ (v'.thr l).wait = some { on := on l, since := a.now }) ∧
      ∀ j, j ∉ lanes → v'.thr j = v.thr j := by
  induction lanes generalizing a v with
  | nil => exact ⟨⟨rfl, SameRegs.of_teams rfl⟩, v, hv, by simp, fun _ _ => rfl⟩
  | cons l lanes ih =>
    obtain ⟨v1, hv1, hlen, hpc, hwait, hother⟩ := State.park_warp? hv (hlt l (by simp)) (on l)
    obtain ⟨hquiet, v2, hv2, hparked, hrest⟩ := ih hv1 (fun j hj => hlen ▸ hlt j (by simp [hj]))
    refine ⟨(a.park_quiet c [l] (on l)).trans hquiet, v2, hv2, fun j hj => ?_, fun j hj => ?_⟩
    · by_cases hmem : j ∈ lanes
      · exact hparked j hmem
      · obtain rfl := (List.mem_cons.mp hj).resolve_right hmem
        rw [hrest j hmem]
        exact ⟨hpc, hwait⟩
    · rw [List.mem_cons, not_or] at hj
      rw [hrest j hj.2, hother j hj.1]

/-- A sqrd whose lanes all wait (R269). -/
theorem State.sqrdEnd_of_wait (obj ph : Nat → Nat) (ls : List (Nat × Nat)) :
    s.sqrdEnd c t w o q (fun l => .wait (obj l) (ph l)) ls = c.lanes.foldl (fun a l => a.park c [l] (.bar (obj l) (ph l))) s := by
  simp only [State.sqrdEnd, SqSee.done, SqSee.park, List.filter_false, List.foldl_nil, List.isEmpty_nil, if_true]

/-! ## The lanes that read -/

/-- A lane takes in what the phase of an object carries, from engines and at chip scope (R207). -/
def State.sqTake (a : State) (c : Ctx) (P : Party) (key obj l : Nat) : State :=
  a.updThr c.team c.warp l (barAcquire P .chip (a.phaseCarries obj key))

/-- What an engine has landed in the phase stands in the view after it. -/
theorem le_barAcquire_view {es : List BarEntry} {e : BarEntry} (he : e ∈ es) (heng : e.engine = true) (P : Party) (th : Thread) :
    e.p.ser ≤ KV.get 0 e.p.loc (barAcquire P .chip es th).view := by
  refine le_moveView_of_mem (List.mem_map.mpr ⟨e, List.mem_filter.mpr ⟨he, ?_⟩, rfl⟩) _
  simp [heng]

/-- Lanes that take in phases one after another: the views move forward, over what the phases carry. -/
theorem State.foldl_sqTake (P : Party) (key : Nat) (obj : Nat → Nat) {lanes : List Nat} {a : State} {v : Warp}
    (hv : a.warp? c.team c.warp = some v) (hlt : ∀ l ∈ lanes, l < v.threads.length) :
    Quiet a (lanes.foldl (fun a l => a.sqTake c P key (obj l) l) a) ∧
    ∃ v', (lanes.foldl (fun a l => a.sqTake c P key (obj l) l) a).warp? c.team c.warp = some v' ∧
      (∀ j n, KV.get 0 n (v.thr j).view ≤ KV.get 0 n (v'.thr j).view) ∧
      ∀ l ∈ lanes, ∀ e ∈ a.phaseCarries (obj l) key, e.engine = true → e.p.ser ≤ KV.get 0 e.p.loc (v'.thr l).view := by
  induction lanes generalizing a v with
  | nil => exact ⟨⟨rfl, SameRegs.of_teams rfl⟩, v, hv, fun _ _ => le_rfl, by simp⟩
  | cons l lanes ih =>
    have hl : l < v.threads.length := hlt l (by simp)
    let f : Thread → Thread := barAcquire P .chip (a.phaseCarries (obj l) key)
    have hv1 : (a.sqTake c P key (obj l) l).warp? c.team c.warp = some (v.updThr l f) := by
      rw [State.sqTake, State.updThr, State.warp?_updWarp, hv]
      rfl
    have hstep (j n : Nat) : KV.get 0 n (v.thr j).view ≤ KV.get 0 n ((v.updThr l f).thr j).view := by
      rw [Warp.thr_updThr v l j f hl]
      split
      · exact moveView_le _ _ n
      · exact le_rfl
    obtain ⟨hquiet, v2, hv2, hforward, htaken⟩ :=
      ih hv1 (fun j hj => (updAt_length f l v.threads).symm ▸ hlt j (by simp [hj]))
    refine ⟨Quiet.trans (State.updThr_quiet (fun _ => by rfl) a c.team c.warp l) hquiet, v2, hv2,
      fun j n => (hstep j n).trans (hforward j n), fun j hj e he heng => ?_⟩
    obtain rfl | hmem := List.mem_cons.mp hj
    · refine le_trans ?_ (hforward j _)
      rw [Warp.thr_updThr v j j f hl, if_pos rfl]
      exact le_barAcquire_view he heng P _
    · exact htaken j hmem e he heng

/-- A sqrd whose lanes all read (R269). -/
theorem State.sqrdEnd_of_read (hne : c.lanes ≠ []) (hwait : ∀ l ∈ c.lanes, (w.thr l).wait = none)
    (hfmt : (s.pixFmt q.stream).sampling < 3) (obj va dd : Nat → Nat) (ls : List (Nat × Nat)) {s1 : State} {w1 : Warp}
    (hs1 : c.lanes.foldl (fun a l => a.sqTake c (.core t.core) q.key (obj l) l) s = s1)
    (hw1 : s1.warp? c.team c.warp = some w1) :
    s.sqrdEnd c t w o q (fun l => .read (obj l) (va l) (dd l)) ls =
      ({ s1 with freeCtr := s1.freeCtr + 192 } : State).commit c o.la.toNat (vGrp o.d 4) (c.lanes.map (fun l =>
        (l, ((s.pixFmt q.stream).quad (((w.thr l).rv o.b.toNat).toNat % 65536)
          ((ls.filter (fun p : Nat × Nat => p.1 == l)).map (fun p : Nat × Nat => s1.rdThr w (w1.thr l) p.2)) ++
            [if dd l < s.streamField q.stream 0x14 1 then 0 else 1]).mapIdx (fun j v => (Reg.v (o.d.toNat + j), v))))) := by
  have hempty : c.lanes.isEmpty = false := by simpa using hne
  have htake : c.lanes.foldl (fun a l => SqSee.take c t w q.key a l (.read (obj l) (va l) (dd l))) s = s1 := by
    rw [← hs1]
    refine List.foldl_ext _ _ _ fun a l hl => ?_
    rw [SqSee.take, Thread.barDone, hwait l hl]
    rfl
  have hthr (l : Nat) : (s1.thr? c.team c.warp l).getD {} = w1.thr l := by
    rw [State.thr?, hw1, Option.bind_some, Warp.thr, List.getD_eq_getElem?_getD]
  simp only [State.sqrdEnd, SqSee.done, SqSee.park, SqSee.writes, List.filter_true, List.foldl_fixed, hempty, htake, hthr,
    if_neg (not_le.mpr hfmt), Bool.false_eq_true, if_false, quadWrites, apply_ite (BitVec.ofNat 32)]
  rfl

/-! ## sqrd by what its lanes find (R269) -/

theorem exec_sqrd_of_sees (h : s.issue (.sqrd o) = .go c t w) (hq : w.sqAt o.a.toNat = some q) (hlt : q.stream < 64)
    {see : Nat → SqSee} (hsee : ∀ l ∈ c.lanes, s.sqrdSee w o q l = see l) {ls : List (Nat × Nat)}
    (hls : (s.advance c w).check t (s.ctxOf t) .g .read 1
      (c.lanes.flatMap (fun l => (see l).addrs (s.pixFmt q.stream).size l)) = .ok ls) :
    exec (.sqrd o) s = .next ((s.advance c w).sqrdEnd c t w o q see ls) := by
  have hsee' : ∀ l ∈ c.lanes, (s.advance c w).sqrdSee w o q l = see l := hsee
  rw [← State.sqrdEnd_congr hsee']
  refine exec_sqrd_of_check h hq hlt ?_
  rw [← hls]
  exact congrArg _ (List.flatMap_congr fun l hl => by rw [hsee' l hl])

/-- No lane reads: the status with zeros. -/
theorem sqrd_of_status (h : s.issue (.sqrd o) = .go c t w) (hq : w.sqAt o.a.toNat = some q) (hlt : q.stream < 64) {x : SqSee}
    (hx : x = .outside ∨ x = .broken) (hsee : ∀ l ∈ c.lanes, s.sqrdSee w o q l = x) :
    ∃ s1 : State, Quiet s s1 ∧ exec (.sqrd o) s = .next (s1.commit c o.la.toNat (vGrp o.d 4)
      (c.lanes.map (fun l => (l, ([0, 0, 0] ++ [x.status]).mapIdx (fun j v => (Reg.v (o.d.toNat + j), v)))))) := by
  have haddrs : c.lanes.flatMap (fun l => x.addrs (s.pixFmt q.stream).size l) = [] := by
    rcases hx with rfl | rfl <;> exact List.flatMap_eq_nil_iff.mpr fun _ _ => rfl
  have hx' := exec_sqrd_of_sees h hq hlt (see := fun _ => x) hsee (ls := []) (by rw [haddrs]; rfl)
  rw [State.sqrdEnd_of_status (State.issue_go h).lanes hx] at hx'
  refine ⟨_, ?_, hx'⟩
  exact (s.advance_quiet c w).trans ⟨rfl, SameRegs.of_teams rfl⟩

/-- Every lane waits: each on the object of its band. -/
theorem sqrd_of_wait (h : s.issue (.sqrd o) = .go c t w) (hq : w.sqAt o.a.toNat = some q) (hlt : q.stream < 64) {obj ph : Nat → Nat}
    (hsee : ∀ l ∈ c.lanes, s.sqrdSee w o q l = .wait (obj l) (ph l)) :
    ∃ s' w', exec (.sqrd o) s = .next s' ∧ Quiet s s' ∧ s'.warp? c.team c.warp = some w' ∧
      ∀ l ∈ c.lanes, (w'.thr l).pc = c.pc ∧ ∃ r, (w'.thr l).wait = some r ∧ r.on = .bar (obj l) (ph l) ∧ r.woken = none := by
  have hi := State.issue_go h
  have haddrs : c.lanes.flatMap (fun l => (SqSee.wait (obj l) (ph l)).addrs (s.pixFmt q.stream).size l) = [] :=
    List.flatMap_eq_nil_iff.mpr fun _ _ => rfl
  have hx := exec_sqrd_of_sees h hq hlt hsee (ls := []) (by rw [haddrs]; rfl)
  rw [State.sqrdEnd_of_wait] at hx
  obtain ⟨hquiet, w', hw', hparked, -⟩ := State.foldl_park (fun l => .bar (obj l) (ph l)) (lanes := c.lanes)
    (State.warp?_advance hi) (fun l hl => (w.issued_length c s.tick).symm ▸ Warp.lt_of_live (hi.live l hl).1)
  exact ⟨_, w', hx, (s.advance_quiet c w).trans hquiet, hw', fun l hl => ⟨(hparked l hl).1, _, (hparked l hl).2, rfl, rfl⟩⟩

/-- Every lane reads: the samples through its view, which has taken in what its band's phase carries. -/
theorem sqrd_of_read (h : s.issue (.sqrd o) = .go c t w) (hq : w.sqAt o.a.toNat = some q) (hlt : q.stream < 64)
    {obj va dd : Nat → Nat} (hsee : ∀ l ∈ c.lanes, s.sqrdSee w o q l = .read (obj l) (va l) (dd l))
    (hwait : ∀ l ∈ c.lanes, (w.thr l).wait = none) (hfmt : (s.pixFmt q.stream).sampling < 3) {ls : List (Nat × Nat)}
    (hls : (s.advance c w).check t (s.ctxOf t) .g .read 1 (c.lanes.flatMap (fun l =>
      (List.range (s.pixFmt q.stream).size).map (fun i => (l, (va l + i) % 18446744073709551616)))) = .ok ls) :
    ∃ (s1 : State) (w1 : Warp), Quiet s s1 ∧ s1.warp? c.team c.warp = some w1 ∧
      (∀ l ∈ c.lanes, ∀ e ∈ s.phaseCarries (obj l) q.key, e.engine = true → e.p.ser ≤ KV.get 0 e.p.loc (w1.thr l).view) ∧
      exec (.sqrd o) s = .next (s1.commit c o.la.toNat (vGrp o.d 4) (c.lanes.map (fun l =>
        (l, ((s.pixFmt q.stream).quad (((w.thr l).rv o.b.toNat).toNat % 65536)
          ((ls.filter (fun p : Nat × Nat => p.1 == l)).map (fun p : Nat × Nat => s1.rdThr w (w1.thr l) p.2)) ++
            [if dd l < s.streamField q.stream 0x14 1 then 0 else 1]).mapIdx (fun j v => (Reg.v (o.d.toNat + j), v)))))) := by
  have hi := State.issue_go h
  obtain ⟨hquiet, w1, hw1, -, htaken⟩ := State.foldl_sqTake (.core t.core) q.key obj (lanes := c.lanes)
    (State.warp?_advance hi) (fun l hl => (w.issued_length c s.tick).symm ▸ Warp.lt_of_live (hi.live l hl).1)
  have hx := exec_sqrd_of_sees h hq hlt hsee hls
  rw [State.sqrdEnd_of_read (s := s.advance c w) hi.lanes hwait hfmt obj va dd ls rfl hw1] at hx
  refine ⟨_, w1, ?_, ?_, htaken, hx⟩
  · exact (s.advance_quiet c w).trans (hquiet.trans ⟨rfl, SameRegs.of_teams rfl⟩)
  · exact hw1

end Sqrd

/-! ## Checks of global addresses (R215) -/

/-- The location at which the checks place a global address. -/
def State.placed (s : State) (k : TaskCtx) (acc : Acc) (va : Nat) : Nat :=
  match s.tr k va acc with
  | .ok pa => locPhys pa
  | _ => 0

theorem Chk.join_eq_ok {x y : Chk} {ls : List (Nat × Nat)} (h : x.join y = .ok ls) :
    ∃ a b, x = .ok a ∧ y = .ok b ∧ ls = a ++ b := by
  cases x <;> cases y <;> cases h
  exact ⟨_, _, rfl, rfl, rfl⟩

theorem transLane_eq_ok {s : State} {k : TaskCtx} {acc : Acc} {p : Nat × Nat} {ls : List (Nat × Nat)}
    (h : transLane s k acc p.1 p.2 = .ok ls) : ls = [(p.1, s.placed k acc p.2)] := by
  unfold transLane at h
  unfold State.placed
  split at h <;> cases h
  next heq => rw [heq]

/-- Checks that pass place each address on its own, in order. -/
theorem foldl_join_transLane_eq_ok {s : State} {k : TaskCtx} {acc : Acc} {las ls : List (Nat × Nat)} {x : Chk}
    (h : (las.map (fun p => transLane s k acc p.1 p.2)).foldl Chk.join x = .ok ls) :
    ∃ a, x = .ok a ∧ ls = a ++ las.map (fun p => (p.1, s.placed k acc p.2)) := by
  induction las generalizing x with
  | nil => exact ⟨ls, h, (List.append_nil ls).symm⟩
  | cons p las ih =>
    obtain ⟨a, hjoin, rfl⟩ := ih h
    obtain ⟨b, d, rfl, hd, rfl⟩ := Chk.join_eq_ok hjoin
    rw [transLane_eq_ok hd]
    exact ⟨b, rfl, by simp⟩

theorem State.check_global_eq_ok {s : State} {t : Team} {k : TaskCtx} {acc : Acc} {n : Nat} {las ls : List (Nat × Nat)}
    (h : s.check t k .g acc n las = .ok ls) : ls = las.map (fun p => (p.1, s.placed k acc p.2)) := by
  unfold State.check at h
  split at h
  · cases h
  · unfold State.eccCheck at h
    dsimp only at h
    split at h
    next ls' hjoin =>
      split at h <;> cases h
      obtain ⟨a, ha, hls⟩ := foldl_join_transLane_eq_ok hjoin
      cases ha
      exact hls
    next hno => exact absurd h (by simpa using hno ls)

/-! ## sqwr (R270) -/

/-- The bits that a lane of sqwr replaces in a byte: location, mask and value. -/
abbrev BitWrite := Nat × Byte × Byte

/-- A byte with the bits of a mask replaced. -/
def BitWrite.put (v : Byte) (p : BitWrite) : Byte := (v &&& ~~~ p.2.1) ||| (p.2.2 &&& p.2.1)

/-- One lane's write of bits, published at chip scope. -/
def State.sqPut (a : State) (core grid : Nat) (mine : List BitWrite) : State :=
  a.wrPub .chip (.core core) (some grid) (mine.map (fun p => (p.1, BitWrite.put (a.rdNew p.1) p)))

theorem State.rdNew_wrPub (s : State) (S : Scope) (P : Party) (g : Option Nat) (ws : List (Nat × Byte)) (a : Nat) :
    (s.wrPub S P g ws).rdNew a = lastByte a ws (s.rdNew a) := State.rdNew_wrAll _ ws s a

theorem State.wrPub_teams (s : State) (S : Scope) (P : Party) (g : Option Nat) (ws : List (Nat × Byte)) :
    (s.wrPub S P g ws).teams = s.teams := State.wrAll_teams _ ws s

/-- The last byte written at a location, by the writes of that location. -/
theorem lastByte_eq_filter (a : Nat) (ws : List (Nat × Byte)) (d : Byte) :
    lastByte a ws d = (((ws.filter (fun q => q.1 == a)).getLast?).map (fun q => q.2)).getD d := by
  rw [lastByte, ← List.head?_filter, List.filter_reverse, List.head?_reverse]

/-- Of writes to different locations at most one names a location. -/
theorem filter_eq_nil_or_singleton {ws : List BitWrite} (h : (ws.map (fun p => p.1)).Nodup) (b : Nat) :
    ws.filter (fun p => p.1 == b) = [] ∨ ∃ p : BitWrite, p.1 = b ∧ ws.filter (fun p => p.1 == b) = [p] := by
  have hmem : ∀ p ∈ ws.filter (fun p => p.1 == b), p.1 = b := fun p hp => by simpa using (List.mem_filter.mp hp).2
  have hnodup := h.sublist (List.filter_sublist.map (fun p : BitWrite => p.1) : ((ws.filter (fun p => p.1 == b)).map _).Sublist _)
  match hws : ws.filter (fun p => p.1 == b) with
  | [] => exact .inl hws
  | [p] => exact .inr ⟨p, hmem p (by simp [hws]), hws⟩
  | p :: r :: rest =>
    rw [hws] at hnodup hmem
    have hp := hmem p (by simp)
    have hr := hmem r (by simp)
    simp [hp, hr] at hnodup

/-- A lane's write replaces the bits that it names, and no other bit. -/
theorem State.rdNew_sqPut {mine : List BitWrite} (h : (mine.map (fun p => p.1)).Nodup) (a : State) (core grid b : Nat) :
    (a.sqPut core grid mine).rdNew b = (mine.filter (fun p => p.1 == b)).foldl BitWrite.put (a.rdNew b) := by
  have hfilter : (mine.map (fun p => (p.1, BitWrite.put (a.rdNew p.1) p))).filter (fun q => q.1 == b) =
      (mine.filter (fun p => p.1 == b)).map (fun p => (p.1, BitWrite.put (a.rdNew p.1) p)) := by
    rw [List.filter_map]
    rfl
  rw [State.sqPut, State.rdNew_wrPub, lastByte_eq_filter, hfilter]
  rcases filter_eq_nil_or_singleton h b with hnone | ⟨p, hp, hone⟩
  · rw [hnone]
    rfl
  · rw [hone, ← hp]
    rfl

/-- What a lane of sqwr does with its bits: they are held to the boundary in deterministic mode (R183). -/
def State.sqwrLane (a : State) (c : Ctx) (t : Team) (det : Bool) (l : Nat) (mine : List BitWrite) : State :=
  if mine.isEmpty then a else if det then a.hold c (.sqwr l mine) else a.sqPut t.core t.grid mine

section Lane

variable (a : State) (c : Ctx) (t : Team) (l : Nat)

theorem State.sqwrLane_sameRegs (det : Bool) (mine : List BitWrite) : SameRegs a (a.sqwrLane c t det l mine) := by
  unfold State.sqwrLane
  split
  · exact SameRegs.of_teams rfl
  · split
    · exact a.hold_sameRegs c _
    · exact SameRegs.of_teams (a.wrPub_teams _ _ _ _)

theorem State.sqwrLane_mem_det (mine : List BitWrite) : (a.sqwrLane c t true l mine).mem = a.mem := by
  unfold State.sqwrLane
  split <;> rfl

theorem State.rdNew_sqwrLane {mine : List BitWrite} (h : (mine.map (fun p => p.1)).Nodup) (b : Nat) :
    (a.sqwrLane c t false l mine).rdNew b = (mine.filter (fun p => p.1 == b)).foldl BitWrite.put (a.rdNew b) := by
  unfold State.sqwrLane
  split
  next hnil => rw [List.isEmpty_iff.mp hnil]; rfl
  next => exact a.rdNew_sqPut h t.core t.grid b

end Lane

theorem foldl_sameRegs {α : Type} {f : State → α → State} (hf : ∀ s a, SameRegs s (f s a)) (xs : List α) (s : State) :
    SameRegs s (xs.foldl f s) := by
  induction xs generalizing s with
  | nil => exact SameRegs.of_teams rfl
  | cons x xs ih => exact (hf s x).trans (ih _)

/-- The lanes' bits, one lane after another. -/
theorem State.rdNew_foldl_sqwrLane (c : Ctx) (t : Team) {blk : Nat → List (Nat × BitWrite)} {lanes : List Nat}
    (h : ∀ l ∈ lanes, ((blk l).map (fun p => p.2.1)).Nodup) (a : State) (b : Nat) :
    (lanes.foldl (fun a l => a.sqwrLane c t false l ((blk l).map (fun p => p.2))) a).rdNew b =
      ((lanes.flatMap blk).filter (fun p => p.2.1 == b)).foldl (fun v p => BitWrite.put v p.2) (a.rdNew b) := by
  induction lanes generalizing a with
  | nil => rfl
  | cons l lanes ih =>
    have hl : (((blk l).map (fun p => p.2)).map (fun p => p.1)).Nodup := by
      rw [List.map_map]
      exact h l (by simp)
    rw [List.foldl_cons, ih (fun j hj => h j (by simp [hj])), State.rdNew_sqwrLane _ _ _ _ hl, List.filter_map, List.foldl_map,
      List.flatMap_cons, List.filter_append, List.foldl_append]
    rfl

/-- What is the lane's own among the bits of all lanes: a lane that stood twice among them would write a location twice. -/
theorem filter_lane_flatMap {blk : Nat → List (Nat × BitWrite)} (hblk : ∀ l, ∀ p ∈ blk l, p.1 = l) {lanes : List Nat} {l : Nat}
    (hl : l ∈ lanes) (h : (((lanes.flatMap blk).filter (fun p => p.1 == l)).map (fun p => p.2.1)).Nodup) :
    (lanes.flatMap blk).filter (fun p => p.1 == l) = blk l := by
  induction lanes with
  | nil => cases hl
  | cons j lanes ih =>
    rw [List.flatMap_cons, List.filter_append] at h ⊢
    rw [List.map_append] at h
    by_cases hj : j = l
    · subst hj
      have hall : (blk j).filter (fun p => p.1 == j) = blk j := List.filter_eq_self.mpr fun p hp => by simp [hblk j p hp]
      rw [hall] at h ⊢
      by_cases hmem : j ∈ lanes
      · have hrest := ih hmem h.of_append_right
        rw [hrest] at h ⊢
        have hdisj := List.disjoint_of_nodup_append h
        have hnil : blk j = [] := List.eq_nil_iff_forall_not_mem.mpr fun p hp =>
          hdisj (List.mem_map_of_mem hp) (List.mem_map_of_mem hp)
        rw [hnil]
        rfl
      · have hnone : (lanes.flatMap blk).filter (fun p => p.1 == j) = [] := by
          refine List.filter_eq_nil_iff.mpr fun p hp hpj => ?_
          obtain ⟨i, hi, hpi⟩ := List.mem_flatMap.mp hp
          exact hmem (by rwa [← beq_iff_eq.mp hpj, hblk i p hpi])
        rw [hnone, List.append_nil]
    · have hnone : (blk j).filter (fun p => p.1 == l) = [] := by
        refine List.filter_eq_nil_iff.mpr fun p hp hpl => hj ?_
        rw [← hblk j p hp, beq_iff_eq.mp hpl]
      rw [hnone, List.nil_append]
      exact ih ((List.mem_cons.mp hl).resolve_left (Ne.symm hj)) h.of_append_right

/-- The bits of a lane among those that the checks have placed. -/
def laneBits (ls : List (Nat × Nat)) (as : List (Nat × BitWrite)) (l : Nat) : List BitWrite :=
  (((ls.zip as).map (fun p => (p.1.1, p.1.2, p.2.2.2))).filter (fun p => p.1 == l)).map (fun p => p.2)

/-- A lane's bits at the location where the checks place their address. -/
def placeBits (g : Nat → Nat) (p : Nat × BitWrite) : Nat × BitWrite := (p.1, g p.2.1, p.2.2)

section Placed

variable {lanes : List Nat} {acts : Nat → List (Nat × BitWrite)} {g : Nat → Nat} {ls : List (Nat × Nat)}
  (hls : ls = (lanes.flatMap acts).map (fun p => (p.1, g p.2.1)))
include hls

theorem zip_placed : ls.zip (lanes.flatMap acts) = (lanes.flatMap acts).map (fun p => ((p.1, g p.2.1), p)) := by
  rw [hls, ← List.map_prod_right_eq_zip]

/-- The placed bits of all lanes, lane by lane. -/
theorem zip_placed_eq_flatMap :
    (ls.zip (lanes.flatMap acts)).map (fun p => (p.1.1, p.1.2, p.2.2.2)) = lanes.flatMap (fun l => (acts l).map (placeBits g)) := by
  rw [zip_placed hls, List.map_map, List.map_flatMap]
  rfl

/-- Where no lane's bits meet, a lane's own among all of them are those that it has. -/
theorem placed_of_lane (hlane : ∀ l, ∀ p ∈ acts l, p.1 = l)
    (hnodup : ∀ l ∈ lanes, ((ls.filter (fun p => p.1 == l)).map (fun p => p.2)).Nodup) {l : Nat} (hl : l ∈ lanes) :
    (lanes.flatMap (fun l => (acts l).map (placeBits g))).filter (fun p => p.1 == l) = (acts l).map (placeBits g) ∧
      (((acts l).map (placeBits g)).map (fun p => p.2.1)).Nodup := by
  have hls' : ls = (lanes.flatMap (fun l => (acts l).map (placeBits g))).map (fun p => (p.1, p.2.1)) := by
    rw [hls, ← List.map_flatMap, List.map_map]
    rfl
  have hnd : (((lanes.flatMap (fun l => (acts l).map (placeBits g))).filter (fun p => p.1 == l)).map (fun p => p.2.1)).Nodup := by
    have hlocs := hnodup l hl
    rwa [hls', List.filter_map, List.map_map] at hlocs
  have hown := filter_lane_flatMap (blk := fun l => (acts l).map (placeBits g)) (fun j p hp => by
    obtain ⟨r, hr, rfl⟩ := List.mem_map.mp hp
    exact hlane j r hr) hl hnd
  exact ⟨hown, hown ▸ hnd⟩

end Placed

section Sqwr

variable {s : State} {c : Ctx} {t : Team} {w : Warp} {o : SOp} {q : SqBind}

theorem exec_sqwr_of_unbound (h : s.issue (.sqwr o) = .go c t w) (hq : w.sqAt o.d.toNat = none) :
    exec (.sqwr o) s = .next (s.haltWarp c { cause := 10, detail := 1 } false) := by
  refine exec_of_body_halt h (rfl : exec _ s = execSqwr o s) ?_
  simp only [withSq, hq]

theorem exec_sqwr_of_receive (h : s.issue (.sqwr o) = .go c t w) (hq : w.sqAt o.d.toNat = some q) (hlt : q.stream < 64) :
    exec (.sqwr o) s = .next (s.haltWarp c { cause := 10, detail := 2 } false) := by
  refine exec_of_body_halt h (rfl : exec _ s = execSqwr o s) ?_
  simp only [withSq, hq, decide_eq_true hlt, Bool.true_bne, Bool.not_false, if_true]

/-- The bits that a lane of sqwr replaces: lane, address, mask and value. -/
def State.sqwrActs (s : State) (w : Warp) (o : SOp) (q : SqBind) (l : Nat) : List (Nat × BitWrite) :=
  let f := s.pixFmt q.stream
  let xy := ((w.thr l).rv o.b.toNat).toNat
  (f.bits (f.writes (xy % 65536) ((List.range 3).map (fun j => (w.thr l).rv (o.a.toNat + j))))).map (fun p =>
    (l, (s.frameField q.key 0x20 8 + f.offset (xy % 65536) (xy / 65536) + p.1) % 18446744073709551616, p.2))

section Transmit

variable (h : s.issue (.sqwr o) = .go c t w) (hq : w.sqAt o.d.toNat = some q) (hge : 64 ≤ q.stream)
include h hq hge

/-- A pure task's sqwr halts (R296). -/
theorem exec_sqwr_of_pure (hpure : (s.ctxOf t).pure = true) :
    ∃ x : HaltInfo, x.cause = 4 ∧ x.detail = 8 ∧ exec (.sqwr o) s = .next (s.haltWarp c x false) := by
  have hx : exec (.sqwr o) s = execSqwr o s := rfl
  rw [execSqwr, kernelOp_go h] at hx
  simp only [withSq, hq, decide_eq_false (not_lt.mpr hge), bne_self_eq_false, Bool.false_eq_true, if_false, State.ctxOf_advance,
    hpure, if_true] at hx
  exact ⟨_, rfl, rfl, hx⟩

/-- sqwr, where what its lanes write passes the checks. -/
theorem exec_sqwr_of_check (hpure : (s.ctxOf t).pure = false) {acts : Nat → List (Nat × BitWrite)}
    (hacts : ∀ l ∈ c.lanes, (if (s.pixFmt q.stream).w ≤ ((w.thr l).rv o.b.toNat).toNat % 65536 ∨
      (s.pixFmt q.stream).h ≤ ((w.thr l).rv o.b.toNat).toNat / 65536 ∨ 3 ≤ (s.pixFmt q.stream).sampling then []
        else s.sqwrActs w o q l) = acts l) {ls : List (Nat × Nat)}
    (hls : (s.advance c w).check t (s.ctxOf t) .g .write 1 ((c.lanes.flatMap acts).map (fun p => (p.1, p.2.1))) = .ok ls) :
    exec (.sqwr o) s = .next (c.lanes.foldl (fun a l =>
      a.sqwrLane c t (s.ctxOf t).det l (laneBits ls (c.lanes.flatMap acts) l)) (s.advance c w)) := by
  have hbody (as : List (Nat × BitWrite)) (has : as = c.lanes.flatMap acts) :
      ((s.advance c w).check t (s.ctxOf t) .g .write 1 (as.map (fun p => (p.1, p.2.1)))).bind (fun ls =>
        .ok (c.lanes.foldl (fun a l => a.sqwrLane c t (s.ctxOf t).det l (laneBits ls as l)) (s.advance c w))) =
      .ok (c.lanes.foldl (fun a l => a.sqwrLane c t (s.ctxOf t).det l (laneBits ls (c.lanes.flatMap acts) l)) (s.advance c w)) := by
    rw [has, hls]
    rfl
  refine exec_of_body_ok h (rfl : exec _ s = execSqwr o s) ?_
  simp only [withSq, hq, decide_eq_false (not_lt.mpr hge), bne_self_eq_false, Bool.false_eq_true, if_false, State.ctxOf_advance,
    hpure]
  exact hbody _ (List.flatMap_congr hacts)

/-- Outside the picture nothing is written. -/
theorem exec_sqwr_of_outside (hpure : (s.ctxOf t).pure = false)
    (hout : ∀ l ∈ c.lanes, (s.pixFmt q.stream).w ≤ ((w.thr l).rv o.b.toNat).toNat % 65536 ∨
      (s.pixFmt q.stream).h ≤ ((w.thr l).rv o.b.toNat).toNat / 65536) :
    exec (.sqwr o) s = .next (s.advance c w) := by
  have hnil : c.lanes.flatMap (fun _ => ([] : List (Nat × BitWrite))) = [] := List.flatMap_eq_nil_iff.mpr fun _ _ => rfl
  rw [exec_sqwr_of_check h hq hge hpure (acts := fun _ => []) (ls := []) (fun l hl => if_pos ((hout l hl).imp_right .inl))
    (by rw [hnil]; rfl)]
  exact congrArg _ (List.foldl_fixed c.lanes)

/-- Each lane's bits stand where the checks have placed them, in the order of the lanes. -/
theorem sqwr_of_inside (hpure : (s.ctxOf t).pure = false) (hfmt : (s.pixFmt q.stream).sampling < 3)
    (hin : ∀ l ∈ c.lanes, ((w.thr l).rv o.b.toNat).toNat % 65536 < (s.pixFmt q.stream).w ∧
      ((w.thr l).rv o.b.toNat).toNat / 65536 < (s.pixFmt q.stream).h) {ls : List (Nat × Nat)}
    (hls : (s.advance c w).check t (s.ctxOf t) .g .write 1
      ((c.lanes.flatMap (s.sqwrActs w o q)).map (fun p => (p.1, p.2.1))) = .ok ls)
    (hnodup : ∀ l ∈ c.lanes, ((ls.filter (fun p => p.1 == l)).map (fun p => p.2)).Nodup) :
    ∃ s', exec (.sqwr o) s = .next s' ∧ SameRegs s s' ∧ ((s.ctxOf t).det = true → s'.mem = s.mem) ∧
      ((s.ctxOf t).det = false → ∀ b, s'.rdNew b =
        ((ls.zip (c.lanes.flatMap (s.sqwrActs w o q))).filter (fun p => p.1.2 == b)).foldl
          (fun v p => BitWrite.put v p.2.2) (s.rdNew b)) := by
  have hx := exec_sqwr_of_check h hq hge hpure (acts := s.sqwrActs w o q)
    (fun l hl => if_neg (by have := hin l hl; omega)) hls
  refine ⟨_, hx, (s.advance_sameRegs c w).trans (foldl_sameRegs (fun a l => a.sqwrLane_sameRegs c t l _ _) _ _),
    fun hdet => ?_, fun hdet b => ?_⟩
  · rw [hdet]
    exact foldl_mem (fun a l => a.sqwrLane_mem_det c t l _) _ _
  · have hplaced := State.check_global_eq_ok hls
    rw [List.map_map] at hplaced
    have hlane : ∀ l, ∀ p ∈ s.sqwrActs w o q l, p.1 = l := by
      intro l p hp
      obtain ⟨r, -, rfl⟩ := List.mem_map.mp hp
      rfl
    have hown (l : Nat) (hl : l ∈ c.lanes) := placed_of_lane hplaced hlane hnodup hl
    rw [hdet, List.foldl_ext _ _ _ fun a l hl => by rw [laneBits, zip_placed_eq_flatMap hplaced, (hown l hl).1],
      State.rdNew_foldl_sqwrLane c t (fun l hl => (hown l hl).2), ← zip_placed_eq_flatMap hplaced, List.filter_map, List.foldl_map]
    rfl

end Transmit
end Sqwr

/-! ## Binding (R268) -/

section Bind

variable {s : State} {c : Ctx} {t : Team} {w : Warp} {o : SOp} (h : s.issue (.sqbind o) = .go c t w)
include h

theorem exec_sqbind_of_receive (hlt : (w.rk o.a.toNat).toNat < 64) (hon : (s.stream? (w.rk o.a.toNat).toNat).isSome = true) :
    exec (.sqbind o) s = .next ((s.advance c w).setSq c o.d.toNat
      (some { stream := (w.rk o.a.toNat).toNat, key := (w.rk o.b.toNat).toNat % 2147483648 })) := by
  refine exec_of_body_ok h (rfl : exec _ s = execSqbind o s) ?_
  have hid : (w.rk o.a.toNat).toNat % 256 = (w.rk o.a.toNat).toNat := Nat.mod_eq_of_lt (by omega)
  have hok : ¬ (256 ≤ (w.rk o.a.toNat).toNat ∨ ((s.advance c w).stream? (w.rk o.a.toNat).toNat).isNone = true) :=
    not_or.mpr ⟨by omega, by simpa [State.stream?] using hon⟩
  simp only [hid, if_neg hok, if_pos hlt]

theorem exec_sqbind_of_transmit (hge : 64 ≤ (w.rk o.a.toNat).toNat) (hlt : (w.rk o.a.toNat).toNat < 256)
    (hon : (s.stream? (w.rk o.a.toNat).toNat).isSome = true) (hb : (w.rk o.b.toNat).toNat < 1024)
    (hframe : s.frameBindable (w.rk o.b.toNat).toNat (w.rk o.a.toNat).toNat = true) :
    exec (.sqbind o) s = .next ((s.advance c w).setSq c o.d.toNat
      (some { stream := (w.rk o.a.toNat).toNat, key := (w.rk o.b.toNat).toNat })) := by
  refine exec_of_body_ok h (rfl : exec _ s = execSqbind o s) ?_
  have hid : (w.rk o.a.toNat).toNat % 256 = (w.rk o.a.toNat).toNat := Nat.mod_eq_of_lt hlt
  have hok : ¬ (256 ≤ (w.rk o.a.toNat).toNat ∨ ((s.advance c w).stream? (w.rk o.a.toNat).toNat).isNone = true) :=
    not_or.mpr ⟨by omega, by simpa [State.stream?] using hon⟩
  have hframe' : (s.advance c w).frameBindable (w.rk o.b.toNat).toNat (w.rk o.a.toNat).toNat = true := hframe
  have hopen : ¬ (1024 ≤ (w.rk o.b.toNat).toNat ∨
      (!(s.advance c w).frameBindable (w.rk o.b.toNat).toNat (w.rk o.a.toNat).toNat) = true) :=
    not_or.mpr ⟨by omega, by simp [hframe']⟩
  simp only [hid, if_neg hok, if_neg (not_lt.mpr hge), if_neg hopen]

theorem exec_sqbind_of_absent (habsent : 256 ≤ (w.rk o.a.toNat).toNat ∨ s.stream? (w.rk o.a.toNat).toNat = none) :
    exec (.sqbind o) s = .next (s.haltWarp c { cause := 10, detail := 3 } false) := by
  refine exec_of_body_halt h (rfl : exec _ s = execSqbind o s) ?_
  have hno : 256 ≤ (w.rk o.a.toNat).toNat ∨ ((s.advance c w).stream? ((w.rk o.a.toNat).toNat % 256)).isNone = true := by
    by_cases hge : 256 ≤ (w.rk o.a.toNat).toNat
    · exact .inl hge
    · refine .inr ?_
      rw [Nat.mod_eq_of_lt (by omega)]
      exact Option.isNone_iff_eq_none.mpr (habsent.resolve_left hge)
  exact if_pos hno

end Bind

/-! ## The statement -/

/-- Settles O23: binding by its checks, sqrd by what its lanes find, and sqwr lane after lane. -/
theorem streamRegisters : Obligations.StreamRegisters := by
  intro s c t w o
  refine ⟨fun h _ hon hlt => exec_sqbind_of_receive h hlt hon, fun h hlt hon hge hb hf => exec_sqbind_of_transmit h hge hlt hon hb hf,
    fun h habsent => exec_sqbind_of_absent h habsent, fun h => exec_of_body_ok h (rfl : exec _ s = execSqrel o s) rfl,
    fun h hq => exec_sqrd_of_unbound h hq, fun h hq => exec_sqwr_of_unbound h hq, fun q h hq hge => exec_sqrd_of_transmit h hq hge,
    fun q h hq hlt => exec_sqwr_of_receive h hq hlt, fun q h hq hlt => ?_, fun q h hq hge => ?_⟩
  · refine ⟨fun hout => ?_, fun hin => ?_⟩
    · exact sqrd_of_status h hq hlt (x := .outside) (.inl rfl) fun l hl => State.sqSee_of_outside (hout l hl)
    · have hpix (l : Nat) (hl : l ∈ c.lanes) := And.intro (hin l hl).1 (hin l hl).2.1
      have hfirst (l : Nat) (hl : l ∈ c.lanes) : (w.thr l).wait = none := (hin l hl).2.2
      refine ⟨fun hbroken => ?_, fun hwait => ?_, fun ls hlanded hfmt hls => ?_⟩
      · exact sqrd_of_status h hq hlt (x := .broken) (.inr rfl) fun l hl =>
          State.sqSee_of_broken (hpix l hl) (hfirst l hl) (hbroken l hl)
      · exact sqrd_of_wait h hq hlt (obj := fun l => s.sqObj q ((w.thr l).rv o.b.toNat))
          (ph := fun l => (s.barRead (s.sqObj q ((w.thr l).rv o.b.toNat))).phase) fun l hl =>
          State.sqSee_of_not_landed (hpix l hl) (hfirst l hl) (hwait l hl).1 (hwait l hl).2
      · exact sqrd_of_read h hq hlt (obj := fun l => s.sqObj q ((w.thr l).rv o.b.toNat))
          (va := fun l => s.sqAddr (s.pixFmt q.stream) q ((w.thr l).rv o.b.toNat))
          (dd := fun l => s.sqPast q ((w.thr l).rv o.b.toNat)) (fun l hl =>
          State.sqSee_of_landed (hpix l hl) (hfirst l hl) (hlanded l hl).1 (hlanded l hl).2) hfirst hfmt hls
  · refine ⟨fun hpure => exec_sqwr_of_pure h hq hge hpure, fun hpure hout => exec_sqwr_of_outside h hq hge hpure hout,
      fun ls hpure hfmt hin hls hnodup => sqwr_of_inside h hq hge hpure hfmt hin hls hnodup⟩

end Sys2Proof.Machine
end

/-! # Proofs: the precision time protocol (R253 to R255)

What the servo's own functions change, each once: the state, which offset is judged how, and the clock; then the messages. -/
section

namespace Sys2Proof.Machine

open Spec

/-! ## What the servo's functions change (R253, R254) -/

/-- Of the state only the servo and the interrupts raised have changed. -/
def OnlyServo (s t : State) : Prop := t = { s with servo := t.servo, irqs := t.irqs }

theorem OnlyServo.trans {s s1 s2 : State} (h : OnlyServo s s1) (h' : OnlyServo s1 s2) : OnlyServo s s2 := by
  unfold OnlyServo at *
  rw [h', h]

theorem OnlyServo.ptime {s t : State} (h : OnlyServo s t) : t.ptime = s.ptime := (congrArg State.ptime h :)

theorem OnlyServo.ptpQuiet {s t : State} (h : OnlyServo s t) : PtpQuiet s t :=
  ⟨(congrArg State.mem h :), (congrArg State.teams h :), (congrArg State.win h :), (congrArg State.regions h :)⟩

theorem PtpQuiet.trans {s s1 s2 : State} (h : PtpQuiet s s1) (h' : PtpQuiet s1 s2) : PtpQuiet s s2 := by
  obtain ⟨hmem, hteams, hwin, hregions⟩ := h
  obtain ⟨hmem', hteams', hwin', hregions'⟩ := h'
  exact ⟨hmem'.trans hmem, hteams'.trans hteams, hwin'.trans hwin, hregions'.trans hregions⟩

theorem State.setServo_onlyServo (s : State) (f : Servo → Servo) : OnlyServo s (s.setServo f) := rfl

theorem State.servoTo_onlyServo (s : State) (st : ServoSt) : OnlyServo s (s.servoTo st) := by
  unfold State.servoTo
  split <;> exact rfl

/-- A change of state forgets the offsets in a row; one to the state that stands changes nothing. -/
theorem State.servoTo_servo (s : State) (st : ServoSt) :
    (s.servoTo st).servo = { s.servo with st := st, inRange := if s.servo.st = st then s.servo.inRange else 0 } := by
  unfold State.servoTo
  split
  next h => simp [← h]
  next => simp [State.irq]

theorem State.servoJudge_onlyServo (s : State) (off : Int) : OnlyServo s (s.servoJudge off) := by
  unfold State.servoJudge
  split
  · split
    · exact s.servoTo_onlyServo _
    · exact rfl
  · split
    · split
      · exact s.servoTo_onlyServo _
      · exact rfl
    · exact rfl
  · exact rfl

/-- A judged offset writes the state and the offsets in a row, and no other field of the servo. -/
theorem State.servoJudge_servo (s : State) (off : Int) :
    (s.servoJudge off).servo = { s.servo with st := (s.servoJudge off).servo.st, inRange := (s.servoJudge off).servo.inRange } := by
  unfold State.servoJudge
  split
  · split
    · rw [State.servoTo_servo]
    · rfl
  · split
    · split
      · rw [State.servoTo_servo]
      · rfl
    · rfl
  · rfl

/-- The state after a judged offset is the one of R254. -/
theorem State.servoJudge_judged (s : State) (off : Int) :
    Judged s.servo.st s.servo.inRange off (s.servoJudge off).servo.st := by
  refine ⟨fun hst => ?_, fun hst hrun => ?_⟩
  · simp only [State.servoJudge, hst]
    by_cases hoff : 1000 < off.natAbs
    · rw [if_pos hoff, if_neg (not_le.mpr hoff), State.servoTo_servo]
    · rw [if_neg hoff, if_pos (not_lt.mp hoff), hst]
  · simp only [State.servoJudge, hst]
    by_cases hoff : off.natAbs ≤ 200
    · by_cases h15 : s.servo.inRange = 15
      · rw [if_pos hoff, if_pos (by omega), if_pos ⟨hoff, h15⟩, State.servoTo_servo]
      · rw [if_pos hoff, if_neg (by omega), if_neg (fun h => h15 h.2)]
        exact hst
    · rw [if_neg hoff, if_neg (fun h => hoff h.1)]
      exact hst

/-- A frequency correction is within 200 ppm (R254). -/
theorem State.correct_freq (s : State) : s.correct.servo.freq.natAbs ≤ 200000 := by
  have hlt := Nat.mod_lt (s.free 32).1.toNat (by decide : 0 < 400001)
  change ((((s.free 32).1.toNat % 400001 : Nat) : Int) - 200000).natAbs ≤ 200000
  omega

theorem State.servoAct_quiet (s : State) (off : Int) : PtpQuiet s (s.servoAct off) := by
  unfold State.servoAct
  split <;> exact ⟨rfl, rfl, rfl, rfl⟩

/-- What the servo does to the clock leaves the servo, but for the frequency. -/
theorem State.servoAct_servo (s : State) (off : Int) :
    (s.servoAct off).servo = { s.servo with freq := (s.servoAct off).servo.freq } := by
  unfold State.servoAct
  split <;> rfl

theorem State.servoAct_st (s : State) (off : Int) : (s.servoAct off).servo.st = s.servo.st :=
  (congrArg Servo.st (s.servoAct_servo off) :)

/-- What the servo does to the clock is what R254 allows. -/
theorem State.servoAct_corrected {s0 s : State} (h : s.ptime = s0.ptime) (off : Int) :
    Corrected s0 (s.servoAct off) s.servo.st off := by
  unfold State.servoAct Corrected
  split
  · rw [State.stepClock, h]
  · exact ⟨h, s.correct_freq⟩

/-! ## A Sync's arrival (R254) -/

/-- The servo's state once a Sync has arrived, before any offset is judged. -/
def ServoSt.begun (st : ServoSt) : ServoSt := if st = .freerun ∨ st = .holdover then .acquiring else st

/-- A Sync begins ACQUIRING. -/
def State.servoBegin (s : State) : State :=
  if s.servo.st = .freerun ∨ s.servo.st = .holdover then s.servoTo .acquiring else s

theorem State.servoBegin_onlyServo (s : State) : OnlyServo s s.servoBegin := by
  unfold State.servoBegin
  split
  · exact s.servoTo_onlyServo _
  · exact rfl

theorem State.servoBegin_servo (s : State) : s.servoBegin.servo =
    { s.servo with st := s.servo.st.begun, inRange := if s.servo.st = s.servo.st.begun then s.servo.inRange else 0 } := by
  unfold State.servoBegin ServoSt.begun
  split
  · exact s.servoTo_servo _
  · simp

theorem State.servoArrive_of_pending_none {s : State} (h : s.servo.pending = none) : s.servoArrive = s.servoBegin := by
  have hp : s.servoBegin.servo.pending = none := by rw [State.servoBegin_servo, h]
  unfold State.servoArrive
  dsimp only
  rw [← State.servoBegin, hp]

theorem State.servoArrive_of_pending_some {s : State} {x : Int} (h : s.servo.pending = some x) :
    s.servoArrive = (s.servoBegin.servoJudge x).setServo (fun v => { v with pending := none }) := by
  have hp : s.servoBegin.servo.pending = some x := by rw [State.servoBegin_servo, h]
  unfold State.servoArrive
  dsimp only
  rw [← State.servoBegin, hp]

theorem State.servoArrive_onlyServo (s : State) : OnlyServo s s.servoArrive := by
  cases h : s.servo.pending with
  | none =>
    rw [State.servoArrive_of_pending_none h]
    exact s.servoBegin_onlyServo
  | some x =>
    rw [State.servoArrive_of_pending_some h]
    exact (s.servoBegin_onlyServo.trans (State.servoJudge_onlyServo _ x)).trans (State.setServo_onlyServo _ _)

/-- An arrival leaves no offset to be judged. -/
theorem State.servoArrive_pending (s : State) : s.servoArrive.servo.pending = none := by
  cases h : s.servo.pending with
  | none => rw [State.servoArrive_of_pending_none h, State.servoBegin_servo, h]
  | some x =>
    rw [State.servoArrive_of_pending_some h]
    rfl

/-- An offset judged after the arrival that begins the servo: with the offsets in a row, where the arrival left the state, else
with none. -/
theorem Judged.of_begun {st st' : ServoSt} {n : Nat} {off : Int}
    (h : Judged st.begun (if st = st.begun then n else 0) off st') :
    (st = st.begun → Judged st.begun n off st') ∧ (st ≠ st.begun → Judged st.begun 0 off st') := by
  refine ⟨fun heq => ?_, fun hne => ?_⟩
  · rwa [if_pos heq] at h
  · rwa [if_neg hne] at h

/-! ## The messages (R253) -/

/-- A message for another domain than the servo's is not taken. -/
theorem State.ptpOn_of_domain_ne {s : State} {domain : Nat} (h : domain ≠ s.servo.domain) (port : BitVec 2) :
    s.ptpOn port domain = false := by
  simp [State.ptpOn, h]

section Measured

variable {s : State} {port : BitVec 2} {domain : Nat} (on : s.ptpOn port domain = true)
include on

/-- A one-step Sync is measured at its arrival. -/
theorem sync_oneStep_measured {t1 : PtpTime} (harg : s.arg = .sync port domain false t1) (hp : s.servo.pending = none) :
    ∃ t, exec .sync s = .next t ∧ PtpQuiet s t ∧ t.servo.offset = s.syncOffset (ptpNs t1) s.stampIn ∧
      Judged s.servo.st.begun (if s.servo.st = s.servo.st.begun then s.servo.inRange else 0)
        (s.syncOffset (ptpNs t1) s.stampIn) t.servo.st ∧
      Corrected s t t.servo.st (s.syncOffset (ptpNs t1) s.stampIn) := by
  generalize hoff : s.syncOffset (ptpNs t1) s.stampIn = off
  generalize hs1 : s.servoBegin.setServo (fun v => { v with t1 := some (ptpNs t1), t2 := s.stampIn, offset := off }) = s1
  have hx : exec .sync s = .next ((s1.servoJudge off).servoAct off) := by
    change execSync s = _
    simp only [execSync, harg, on, hoff, ← hs1, State.servoArrive_of_pending_none hp, Bool.not_true, Bool.false_eq_true, if_false]
  have hjudged : OnlyServo s (s1.servoJudge off) := by
    rw [← hs1]
    exact (s.servoBegin_onlyServo.trans (State.setServo_onlyServo _ _)).trans (State.servoJudge_onlyServo _ off)
  have hst : s1.servo.st = s.servo.st.begun := by
    rw [← hs1, State.setServo, State.servoBegin_servo]
  have hrun : s1.servo.inRange = if s.servo.st = s.servo.st.begun then s.servo.inRange else 0 := by
    rw [← hs1, State.setServo, State.servoBegin_servo]
  refine ⟨_, hx, PtpQuiet.trans hjudged.ptpQuiet (State.servoAct_quiet _ off), ?_, ?_, ?_⟩
  · rw [State.servoAct_servo, State.servoJudge_servo, ← hs1]
    rfl
  · rw [State.servoAct_st, ← hrun, ← hst]
    exact s1.servoJudge_judged off
  · rw [State.servoAct_st]
    exact State.servoAct_corrected hjudged.ptime off

/-- A two-step Sync leaves its time open, and the offset that the one before it gave makes its change. -/
theorem sync_twoStep_opens {t1 : PtpTime} (harg : s.arg = .sync port domain true t1) :
    ∃ t, exec .sync s = .next t ∧ PtpQuiet s t ∧ t.servo.t1 = none ∧
      t.servo.t2 = s.stampIn ∧ t.servo.pending = none ∧ t.ptime = s.ptime ∧
      (s.servo.pending = none → t.servo.st = s.servo.st.begun) ∧
      (∀ x, s.servo.pending = some x → s.servo.st = s.servo.st.begun →
        Judged s.servo.st.begun s.servo.inRange x t.servo.st) := by
  have hx : exec .sync s = .next (s.servoArrive.setServo (fun v => { v with t1 := none, t2 := s.stampIn })) := by
    change execSync s = _
    simp only [execSync, harg, on, Bool.not_true, Bool.false_eq_true, if_false, if_true]
  have hfrom := s.servoArrive_onlyServo
  refine ⟨_, hx, hfrom.ptpQuiet, rfl, rfl, s.servoArrive_pending, hfrom.ptime, fun hp => ?_, fun x hp hst => ?_⟩
  · rw [State.servoArrive_of_pending_none hp, State.setServo, State.servoBegin_servo]
  · have hj := s.servoBegin.servoJudge_judged x
    rw [State.servoBegin_servo] at hj
    rw [State.servoArrive_of_pending_some hp]
    exact (Judged.of_begun hj).1 hst

theorem exec_followUp_of_t1_none {x : PtpTime} (harg : s.arg = .portTime port domain x) (h : s.servo.t1 = none) {off : Int}
    (hoff : s.syncOffset (ptpNs x) s.servo.t2 = off) :
    exec .followUp s =
      .next ((s.setServo (fun v => { v with t1 := some (ptpNs x), offset := off, pending := some off })).servoAct off) := by
  change execFollowUp s = _
  simp only [execFollowUp, harg, on, h, hoff, Bool.not_true, Option.isSome_none, Bool.or_self, Bool.false_eq_true, if_false]

/-- A Follow_Up measures the offset of its Sync, and leaves the state. -/
theorem followUp_measured {x : PtpTime} (harg : s.arg = .portTime port domain x) (h : s.servo.t1 = none) {off : Int}
    (hoff : s.syncOffset (ptpNs x) s.servo.t2 = off) :
    ∃ t, exec .followUp s = .next t ∧ PtpQuiet s t ∧ t.servo.offset = off ∧ t.servo.pending = some off ∧
      t.servo.st = s.servo.st ∧ Corrected s t s.servo.st off := by
  refine ⟨_, exec_followUp_of_t1_none on harg h hoff, State.servoAct_quiet _ _, ?_, ?_, State.servoAct_st _ _,
    State.servoAct_corrected (by rfl) _⟩
  · rw [State.servoAct_servo]
    rfl
  · rw [State.servoAct_servo]
    rfl

/-- A Delay_Resp gives the delay as half of both ways' times. -/
theorem exec_delayResp_of_times {t4 : PtpTime} (harg : s.arg = .portTime port domain t4) {t1 t3 : Nat}
    (h1 : s.servo.t1 = some t1) (h3 : s.servo.t3 = some t3) :
    exec .delayResp s = .next (s.setServo (fun v =>
      { v with t4 := some (ptpNs t4), t3 := none, delay := (timeDiff v.t2 t1 + timeDiff (ptpNs t4) t3) / 2 })) := by
  change execDelayResp s = _
  simp only [execDelayResp, harg, h1, h3, on, Bool.not_true, Bool.false_eq_true, if_false]

end Measured

/-- Whether the best master clock algorithm takes an announced grandmaster (R253). -/
def takesMaster (v : Servo) (gm : GmData) : Prop :=
  v.gm = none ∨ ∃ g, v.gm = some g ∧ (g.identity = gm.identity ∨ lexLt (gmKey gm) (gmKey g) = true)

section Up

variable {s : State} (hup : s.houseUp = true) (hen : s.servo.enable = true)
include hup hen

theorem exec_delayReq_of_gm (hgm : s.servo.gm.isSome = true) :
    exec .delayReq s = .next ((s.setServo (fun v => { v with t3 := some s.stampOut })).send
      (.delayReq s.servo.actPort s.servo.domain s.stampOut)) := by
  change execDelayReq s = _
  simp only [execDelayReq, hup, hen, hgm, Bool.and_self, if_true]

section Announce

variable {port : BitVec 2} {domain : Nat} {gm : GmData} (harg : s.arg = .announce port domain gm)
  (hport : port.toNat = s.servo.actPort) (hdom : domain = s.servo.domain)
include harg hport hdom

/-- A first, a known or a better grandmaster is chosen (R253). -/
theorem exec_announce_of_takes (h : takesMaster s.servo gm) :
    exec .announce s = .next (s.setServo (fun v => { v with gm := some gm, gmid := gm.identity })) := by
  change execAnnounce s = _
  simp only [execAnnounce, harg, hup, hen, hport, hdom, Bool.not_true, bne_self_eq_false, Bool.or_self, Bool.false_eq_true, if_false]
  rcases h with hg | ⟨g, hg, hbetter⟩
  · simp only [hg, if_true]
  · simp only [hg, Bool.or_eq_true, beq_iff_eq, if_pos hbetter]

/-- Any other is not (R253). -/
theorem exec_announce_of_not_takes (h : ¬ takesMaster s.servo gm) : exec .announce s = .next s := by
  change execAnnounce s = _
  simp only [execAnnounce, harg, hup, hen, hport, hdom, Bool.not_true, bne_self_eq_false, Bool.or_self, Bool.false_eq_true, if_false]
  cases hg : s.servo.gm with
  | none => exact absurd (.inl hg) h
  | some g =>
    have hworse : ¬ (g.identity = gm.identity ∨ lexLt (gmKey gm) (gmKey g) = true) := fun hb => h (.inr ⟨g, hg, hb⟩)
    simp only [Bool.or_eq_true, beq_iff_eq, if_neg hworse]

end Announce

/-- The loss of the grandmaster: the partner port where it may be taken, else HOLDOVER for a locked servo (R253, R254). -/
theorem announceTimeout_moves (hgm : s.servo.gm.isSome = true) {partner : Bool} (harg : s.arg = .flag partner) :
    ∃ t, exec .announceTimeout s = .next t ∧ t.servo.gm = none ∧ t.ptime = s.ptime ∧
      (s.servo.failover = true → partner = true → t.servo.actPort = s.servo.actPort ^^^ 1 ∧ t.servo.st = s.servo.st) ∧
      (s.servo.failover = false ∨ partner = false → t.servo.actPort = s.servo.actPort ∧
        t.servo.st = if s.servo.st = .locked then .holdover else s.servo.st) := by
  have hx : exec .announceTimeout s = execAnnounceTimeout s := rfl
  have hsome : s.servo.gm.isNone = false := by simpa using hgm
  simp only [execAnnounceTimeout, harg, hup, hen, hsome, Bool.not_true, Bool.or_self, Bool.false_eq_true, if_false,
    Bool.and_eq_true] at hx
  by_cases hmove : s.servo.failover = true ∧ partner = true
  · rw [if_pos hmove] at hx
    refine ⟨_, hx, rfl, rfl, fun _ _ => ⟨rfl, rfl⟩, fun h => ?_⟩
    simp [hmove] at h
  · rw [if_neg hmove] at hx
    by_cases hl : s.servo.st = .locked
    · rw [if_pos hl] at hx
      refine ⟨_, hx, ?_, (State.servoTo_onlyServo _ _).ptime, fun hf hp => absurd ⟨hf, hp⟩ hmove, fun _ => ?_⟩
      · rw [State.servoTo_servo]
        rfl
      · rw [State.servoTo_servo, if_pos hl]
        exact ⟨rfl, rfl⟩
    · rw [if_neg hl] at hx
      exact ⟨_, hx, rfl, rfl, fun hf hp => absurd ⟨hf, hp⟩ hmove, fun _ => ⟨rfl, (if_neg hl).symm⟩⟩

end Up

/-- Messages of another domain change nothing (R253). -/
theorem otherDomain_ignored {s : State} {domain : Nat} (h : domain ≠ s.servo.domain) (port : BitVec 2) :
    (∀ two x, s.arg = .sync port domain two x → exec .sync s = .next s) ∧
    (∀ x, s.arg = .portTime port domain x → exec .followUp s = .next s ∧ exec .delayResp s = .next s) ∧
    (∀ gm, s.arg = .announce port domain gm → exec .announce s = .next s) := by
  have hoff := State.ptpOn_of_domain_ne h port
  refine ⟨fun two x harg => ?_, fun x harg => ⟨?_, ?_⟩, fun gm harg => ?_⟩
  · change execSync s = _
    simp only [execSync, harg, hoff, Bool.not_false, if_true]
  · change execFollowUp s = _
    simp only [execFollowUp, harg, hoff, Bool.not_false, Bool.true_or, if_true]
  · change execDelayResp s = _
    simp only [execDelayResp, harg, hoff, Bool.not_false, if_true]
    split <;> rfl
  · have hne : (domain != s.servo.domain) = true := bne_iff_ne.mpr h
    change execAnnounce s = _
    simp only [execAnnounce, harg, hne, Bool.or_true, if_true]

/-! ## PTP_CTL (R255) -/

theorem exec_ptpEnable_of_bit {s : State} {v : Word} (harg : s.arg = .word v) (hrec : s.recovering = false)
    (hen : v.getLsbD 0 = true) : exec .ptpEnable s = .next (s.ptpCtl v) := by
  change execPtpEnable s = _
  simp only [execPtpEnable, harg, hen, State.regWr, hrec, if_true, Bool.false_eq_true, if_false]

theorem exec_ptpDisable_of_bit {s : State} {v : Word} (harg : s.arg = .word v) (hrec : s.recovering = false)
    (hen : v.getLsbD 0 = false) : exec .ptpDisable s = .next (s.ptpCtl v) := by
  change execPtpDisable s = _
  simp only [execPtpDisable, harg, hen, State.regWr, hrec, Bool.false_eq_true, if_false]

/-- A write of PTP_CTL that enables takes its fields; the state and the clock stay. -/
theorem State.ptpCtl_enable (s : State) {v : Word} (hen : v.getLsbD 0 = true) :
    (s.ptpCtl v).servo.enable = true ∧ (s.ptpCtl v).servo.failover = v.getLsbD 3 ∧ (s.ptpCtl v).servo.port = v.toNat / 2 % 4 ∧
      (s.ptpCtl v).servo.domain = (if v.toNat / 256 % 256 < 128 then v.toNat / 256 % 256 else s.servo.domain) ∧
      (s.ptpCtl v).servo.st = s.servo.st ∧ (s.ptpCtl v).ptime = s.ptime := by
  simp only [State.ptpCtl, hen, if_true, State.setServo, and_self]

/-- One that disables returns the servo to FREERUN, and leaves the clock counting. -/
theorem State.ptpCtl_disable (s : State) {v : Word} (hen : v.getLsbD 0 = false) :
    (s.ptpCtl v).servo.enable = false ∧ (s.ptpCtl v).servo.st = .freerun ∧ (s.ptpCtl v).servo.gmid = 0 ∧
      (s.ptpCtl v).servo.gm = none ∧ (s.ptpCtl v).ptime = s.ptime := by
  simp only [State.ptpCtl, hen, Bool.false_eq_true, if_false, State.servoTo_servo, State.setServo,
    (State.servoTo_onlyServo _ _).ptime, and_self]

/-! ## The statement -/

/-- Settles O34: each message by what the servo's functions change, the offset by its times. -/
theorem ptpMoves : Obligations.PtpMoves := by
  refine ⟨fun s port t1 on => ⟨fun hp => ?_, ?_⟩, fun s port x on h => ?_, fun s hup hen hgm => exec_delayReq_of_gm hup hen hgm,
    fun s port t4 t1 t3 on h1 h3 => ?_, fun s port gm hup hen hport => ⟨fun h => ?_, fun h => ?_⟩,
    fun s port domain two x gm h => ?_, fun s partner hup hen hgm => ?_, fun s v hrec => ⟨fun hen => ?_, fun hen => ?_⟩⟩
  · obtain ⟨t, hx, hquiet, hoff, hjudged, hcorr⟩ :=
      sync_oneStep_measured (s := At s (.sync port s.servo.domain false t1)) on rfl hp
    obtain ⟨hsame, hnew⟩ := Judged.of_begun hjudged
    exact ⟨t, hx, hquiet, hoff, hsame, hnew, hcorr⟩
  · exact sync_twoStep_opens (s := At s (.sync port s.servo.domain true t1)) on rfl
  · exact followUp_measured (s := At s (.portTime port s.servo.domain x)) on rfl h rfl
  · exact exec_delayResp_of_times (s := At s (.portTime port s.servo.domain t4)) on rfl h1 h3
  · exact exec_announce_of_takes (s := At s (.announce port s.servo.domain gm)) hup hen rfl hport rfl h
  · exact exec_announce_of_not_takes (s := At s (.announce port s.servo.domain gm)) hup hen rfl hport rfl h
  · have hother (a : Arg) := otherDomain_ignored (s := At s a) h port
    exact ⟨(hother _).1 two x rfl, ((hother _).2.1 x rfl).1, ((hother _).2.1 x rfl).2, (hother _).2.2 gm rfl⟩
  · exact announceTimeout_moves (s := At s (.flag partner)) hup hen hgm rfl
  · exact ⟨_, exec_ptpEnable_of_bit (s := At s (.word v)) rfl hrec hen, State.ptpCtl_enable _ hen⟩
  · exact ⟨_, exec_ptpDisable_of_bit (s := At s (.word v)) rfl hrec hen, State.ptpCtl_disable _ hen⟩

end Sys2Proof.Machine
end

/-! # Proofs: frames sent (R260, R399)

A transmission's next packet reads its header's fields from the stream's record after the bytes of its image, and an image whose
page is not resident adds an entry to the fault queue: a queue that lies over the record changes the header. -/
section

namespace Sys2Proof.Machine

open Spec

/-- The address to which the first message that a move has sent goes, where it is a packet. -/
def firstDst : Out → Option Nat
  | .next s =>
    match s.out with
    | .rtp p :: _ => some p.dstIp
    | _ => none
  | _ => none

/-- A state in which frame 0 of stream 0 is sent from an image at 0x1000. The stream's record lies at 0 and says one pixel of
4:2:2; the page table at 0x20000 names a table at 0x30000, whose first entry demands its page; and the fault queue's next entry
is the one at 0x40, over the record's DST_IP. -/
def queueOverStream : State :=
  { State.reset with
    mem := [(0, 1), (2, 1), (0x20000, 0x01), (0x20002, 0x03), (0x30007, 0x80)]
    regions := [{ Region.boot with root := 0x20000 }]
    fq := { head := 2, tail := 2 }
    frameBase := 0x100000
    txs := [{ frame := 0, stream := 0, image := some 0x1000, stop := 0, sent := true }] }

/-- The packet goes to 0x1000, the address that the demand entry holds. -/
theorem firstDst_packetEgress_queueOverStream :
    firstDst (exec .packetEgress (At queueOverStream (.egress 0 0 0 1))) = some 0x1000 := by decide +kernel

theorem streamField_dstIp_queueOverStream : queueOverStream.streamField 0 0x40 4 = 0 := by decide +kernel

/-- Refutes O57: the statement takes a packet's destination from the stream's record as it stands before the packet. In
`queueOverStream` the record's DST_IP is 0; the image's page is not resident, so its demand entry (R399) is written over it, and
the packet leaves to 0x1000. -/
theorem not_frameAndReceiveMoves : ¬ Obligations.FrameAndReceiveMoves := by
  intro h
  obtain ⟨⟨-, -, hegress, -⟩, -⟩ := h
  obtain ⟨t, bs, tx', hx, -, hout, -⟩ := (hegress queueOverStream 0 0 0 1
    { frame := 0, stream := 0, image := some 0x1000, stop := 0, sent := true } (by decide +kernel)).2
      rfl rfl (by decide) (by decide +kernel) (by decide +kernel) rfl (by decide +kernel)
  have hsent : firstDst (.next t) = some (queueOverStream.streamField 0 0x40 4) := by
    rw [firstDst, hout]
    rfl
  rw [← hx, firstDst_packetEgress_queueOverStream, streamField_dstIp_queueOverStream] at hsent
  exact absurd hsent (by decide)

end Sys2Proof.Machine
end
